-- ==== Sys2Proof/Word.lean ====
section
/-! DEFINITION. The word types of the package, and the sorted table that the state's sparse collections are. -/
namespace Sys2Proof

/-- One byte. -/
abbrev Byte := BitVec 8

/-- A 32-bit register word (spec 00, "Registers and field maps"). -/
abbrev Word := BitVec 32

/-- A 64-bit packet argument (R257). -/
abbrev DWord := BitVec 64

/-- A run of bytes, lowest address first. -/
abbrev Bytes := List Byte

/-- A sparse table: keys strictly rising, an absent key is an absent entry. -/
abbrev Tab (α : Type) := List (Nat × α)

end Sys2Proof
end

