-- ==== Sys2Proof/Syntax.lean ====
section
/-! DEFINITION. The commands: the operand types and the one inductive `Instr`, a constructor per row of
spec/opcode_table.json, in the table's order. -/
namespace Sys2Proof

/-- A Stauc request as it was reassembled, less its opcode, which the row names (R257). `flitCh` is the channel
of the flit that carried it (R261); PAYLOAD_LEN is the payload's own length, which framing established (R260). -/
structure Req where
  flitCh  : Nat
  version : BitVec 8
  kind    : BitVec 2
  quiet   : Bool
  ordered : Bool
  more    : Bool
  flagRsv : BitVec 3
  tag     : BitVec 16
  ctx     : BitVec 16
  channel : BitVec 8
  rsv     : BitVec 24
  arg0    : DWord
  arg1    : DWord
  payload : Bytes
  deriving DecidableEq, Repr

/-- What a storage cell shows its next reader (R218): an error the code corrects, or one it only detects. -/
inductive Flaw where
  | ce
  | uc
  deriving DecidableEq, Repr

/-- Where an upset strikes and what the codes make of it (R218, R226, R230): a DRAM half-line, a 64-bit scratchpad word, a
half-line held in the line cache, one or both tag copies of a line-cache line, or a control structure of the hub, whose error no
mast has (R413). -/
inductive UpsetKind where
  | dramCe
  | dramUc
  | spadCe
  | spadUc
  | lcDataCe
  | lcDataUc
  | lcTag
  | lcTags
  | hub
  deriving DecidableEq, Repr

/-- A storage upset: its mast, its kind, and the number of the half-line, word or 128-byte line it strikes. -/
structure Upset where
  mast : Nat
  kind : UpsetKind
  at_  : Nat
  deriving DecidableEq, Repr

/-- A failure inside a matrix engine while a call runs (R71). -/
inductive EngineError where
  | parity (engine : Nat)          -- parity error, the repeated attempt passed
  | parityAgain (engine : Nat)     -- parity error again on the repeated attempt
  | accSingle (engine : Nat)
  | accDouble (engine : Nat)
  | logic (engine : Nat)           -- failure of the engine's own logic
  deriving DecidableEq, Repr

/-- The reporting points of R403. -/
inductive WireSource where
  | mastUnit (mast unit : Nat)
  | port (p : Nat)
  | module (m : Nat)
  | hub (unit : Nat)
  deriving DecidableEq, Repr

/-- Measurements the power controller takes every 10 µs (R387, R458): watts, 10 mV units, 1/16 °C, GB/s. -/
structure PowerSample where
  inputW  : Nat
  vin     : Nat
  mastW   : List Nat
  hubW    : Nat
  tjMast  : List Nat
  tjHub   : Nat
  tjDram  : Nat
  dramGbs : List Nat
  deriving DecidableEq, Repr

/-- What calibration finds on one mast: the step code it failed among 1 to 4 and 7 (0 when none, R465), and its BIST failures, which
say whether it fails step 6 (R72, R73). -/
structure MastCal where
  mast     : Nat
  failStep : Nat
  bistFail : BitVec 17
  deriving DecidableEq, Repr

/-- What calibration finds and measures (R465, R379, R387). -/
structure CalResult where
  masts    : List MastCal
  hubFail  : Nat
  dyn      : List Nat
  staticW  : Nat
  calMs    : Nat
  unmapped : List (Nat × Nat)   -- rows (mast, row) on the repair list that found no spare
  deriving DecidableEq, Repr

/-- The collective header of R361 that follows the transport header. -/
structure ColHdr where
  kind    : Nat
  method  : Nat
  srcRank : Nat
  srcMast : Nat
  reefReq : Nat
  op      : Nat
  dtype   : Nat
  listCrc : Nat
  chunkHi : Nat
  info    : Nat
  rsv     : Nat          -- SRC_MAST [7:6] in bits 1 to 0, byte 7 in bits 9 to 2
  deriving DecidableEq, Repr

/-- A Nalec transport packet (R335): header fields, the collective header when OP is 0x8 to 0xF, and its data. -/
structure TPkt where
  port      : Nat
  op        : Nat
  status    : Nat
  targetCtx : Nat
  resend    : Bool
  partId    : Nat
  srcPkg    : Nat
  epoch     : Nat
  boot      : Nat
  addr      : Nat
  reqId     : Nat
  rsv       : Nat
  col       : Option ColHdr
  data      : Bytes
  deriving DecidableEq, Repr

/-- The export header of R196; the rule names its fields and gives no layout. -/
structure ExportHeader where
  srcPkg       : Nat
  exportId     : Nat
  targetCtx    : Nat
  targetSlot   : Nat
  length       : Nat
  lastToken    : Nat
  maxLength    : Nat
  seed         : Nat
  counter      : Nat
  temperature  : Word
  topP         : Word
  topK         : Nat
  stopMask     : Nat
  priority     : Nat
  deadlineLeft : Nat
  pages        : Nat
  layers       : Nat
  heads        : Nat
  dh32         : Nat
  kvFmt        : Nat
  masts        : Nat     -- bit n: source mast n holds a key-value record
  deriving DecidableEq, Repr

/-- One mast's copy of an exported page (R197): its format code of R164, valid count and bytes. -/
structure ExportPage where
  srcPkg   : Nat
  exportId : Nat
  mast     : Nat
  page     : Nat
  fmt      : Nat
  valid    : Nat
  bytes    : Bytes
  deriving DecidableEq, Repr

/-- The number formats of R52. -/
inductive NumFmt where
  | fp32
  | bf16
  | mxint8
  | e4m3
  | mxfp4
  deriving DecidableEq, Repr

/-- The vector-unit operations the spec names (R52, stage 2, 4 and 12 of the decode step). `other` stands for an operation
whose arithmetic no rule gives (normalisation, an activation function): it writes `n` elements in a format. -/
inductive VuOp where
  | convert (src dst : Nat) (from_ to_ : NumFmt) (rows cols : Nat)
  | embed (table dst rowBytes : Nat) (rows : List (Nat × Nat))   -- (request slot, position) per row
  | other (dst : Nat) (to_ : NumFmt) (n : Nat)
  deriving DecidableEq, Repr

/-- The commands, one per row of spec/opcode_table.json. -/
inductive Instr where
  | hello (r : Req)
  | devConfig (r : Req)
  | mark (r : Req)
  | echo (r : Req)
  | regRead (r : Req)
  | regWrite (r : Req)
  | registerWrite (off : Nat) (val : Word)
  | ctxCreate (r : Req)
  | ctxUnfurl (r : Req)
  | unfurlComplete (ctx : Nat)
  | ctxFurl (r : Req)
  | furlWithdrawLimit (ctx : Nat)
  | furlComplete (ctx : Nat)
  | ctxDestroy (r : Req)
  | ctxQuery (r : Req)
  | ctxPriority (r : Req)
  | memGrant (r : Req)
  | memRelease (r : Req)
  | memReleaseZeroed (ctx mast base : Nat)
  | memWrite (r : Req)
  | memRead (r : Req)
  | shardLoad (r : Req)
  | shardDrop (r : Req)
  | shardQuery (r : Req)
  | progLoad (r : Req)
  | progCheckComplete (ctx : Nat)
  | progQuery (r : Req)
  | reqSubmit (r : Req)
  | reqCancel (r : Req)
  | reqPark (r : Req)
  | reqResume (r : Req)
  | reqRelease (r : Req)
  | sessionOpen (r : Req)
  | sessionClose (r : Req)
  | sessionShare (r : Req)
  | sessionTruncate (r : Req)
  | sessionGlobals (r : Req)
  | sessionQuery (r : Req)
  | kvExport (r : Req)
  | mirrorSet (r : Req)
  | mirrorPromote (r : Req)
  | serveConfig (r : Req)
  | linkTrain (r : Req)
  | linkStop (r : Req)
  | planLoad (r : Req)
  | partitionSet (r : Req)
  | windowMap (r : Req)
  | groupLoad (r : Req)
  | groupUnload (r : Req)
  | capSet (r : Req)
  | powerHint (r : Req)
  | reefLimit (r : Req)
  | coolResume (r : Req)
  | ctrRead (r : Req)
  | ctrProgram (r : Req)
  | ctrGrant (r : Req)
  | telemetry (r : Req)
  | attest (r : Req)
  | attestReportComplete
  | certRead (r : Req)
  | linkKey (r : Req)
  | svnCommit (r : Req)
  | fuseProgrammed
  | scrubChunk (r : Req)
  | digestRecheck (r : Req)
  | retrain (r : Req)
  | refreshMode (r : Req)
  | logCompact (r : Req)
  | maintQuery (r : Req)
  | logRead (r : Req)
  | scrubSchedule
  | scrubChunkComplete (found : List Upset)
  | recheckSchedule
  | recheckComplete
  | refreshModeComplete
  | logCompactAuto
  | logCompactComplete
  | logRecordWritten
  | eventNoticeSend
  | answerSend (ch : Nat)
  | heartbeat
  | telemetryGet
  | capSetMgmt (watts : Nat)
  | identGet
  | attestGet (nonce : Bytes) (part : Nat)
  | certGet (index part : Nat)
  | heartbeatLost
  | pwrCapWrite (val : Word)
  | mcBandWrite (mast band : Nat) (val : Word)
  | bandChangeComplete (mast band : Nat)
  | nlcDeadClear (k : Nat) (val : Word)
  | hifFlush
  | hifRetry (mask : Nat)
  | ttClear (mast ctx layer : Nat)
  | ttPin (mast ctx layer : Nat)
  | pmcCompatWrite (val : Word)
  | cnTimeLoRead
  | sbMemRead (off : Nat)
  | sbMemWrite (off : Nat) (val : Word)
  | fwChunk (off : Nat) (data : Bytes)
  | fwDone (len : Nat)
  | fwVerify
  | aliasRsaReady
  | flitReceive (m : Nat) (flit : Bytes)
  | flitAckTimeout (m : Nat)
  | moduleRetrainComplete (m : Nat) (ok : Bool) (lanes repaired : Nat)
  | resumeFlitReceive (m : Nat) (flit : Bytes)
  | channelRebindHome (ch : Nat)
  | stepBoundary (ctx : Nat)
  | deadlineDue (ctx : Nat)
  | sampling (ctx : Nat) (logits : List (Nat × Nat × List Word))   -- (slot, mast whose units sample it, its row)
  | mirrorAckReceive (ctx step ringPos : Nat) (lost : List Nat)
  | mirrorTimeout (ctx : Nat)
  | bundleTransmit (ctx : Nat)
  | exportHeaderReceive (h : ExportHeader)
  | exportPageReceive (p : ExportPage)
  | exportPageAckReceive (exportId page : Nat) (refused : Bool)
  | exportPageTimeout (exportId page : Nat)
  | groupedCall (ctx mast desc : Nat) (errs : List EngineError) (upsets : List Upset)
  | groupedCallComplete (ctx mast : Nat)
  | ttCompare (mast : Nat)
  | routingCall (ctx mast desc : Nat)
  | intakeCall (ctx mast desc : Nat)
  | combineCall (ctx mast desc : Nat)
  | attentionCall (ctx mast ae desc : Nat) (upsets : List Upset)
  | sealImageBuild (mast : Nat)
  | sealImageComplete (mast : Nat)
  | fabricCopyCall (ctx mast desc : Nat)
  | counterReadCall (ctx mast desc : Nat)
  | collectiveCall (ctx mast desc : Nat)
  | colDataReceive (p : TPkt)
  | colAckReceive (p : TPkt)
  | colAckSend (group mast srcRank : Nat)
  | colEndReceive (p : TPkt)
  | colAbortReceive (p : TPkt)
  | colWithdrawReceive (p : TPkt)
  | colSwRefuseReceive (p : TPkt)
  | colSwEvictReceive (p : TPkt)
  | colChunkTimeout (group mast dstRank chunk : Nat)
  | colRetryResend (group mast dstRank chunk : Nat)
  | colTimeout (group mast : Nat)
  | cleatReached (ctx mast cleat : Nat)
  | spillComplete (mast : Nat)
  | restoreComplete (mast : Nat)
  | shardChunkHashed (shard : Nat)
  | residualScanComplete (shard : Nat)
  | shardLoadTimeout (shard : Nat)
  | portTrained (p : Nat) (allLanes : Bool)
  | identReceive (p : Nat) (body : Bytes)
  | linkFrameReceive (p : Nat) (frame : Bytes)
  | linkAckTimeout (p : Nat)
  | portRetrainComplete (p : Nat) (ok : Bool)
  | keysyncReceive (p : Nat)
  | nlcKeyExhausted (p : Nat)
  | nlcReadReceive (p : TPkt)
  | nlcWriteReceive (p : TPkt)
  | nlcReadDataReceive (p : TPkt)
  | nlcWriteAckReceive (p : TPkt)
  | fabricRequestTimeout (reqKey : Nat)
  | fabricRetryResend (reqKey : Nat)
  | inputValid
  | brownout
  | brownoutEnd
  | inputShutdown
  | overVoltage
  | pllUnlock
  | watchdog
  | wireBroken (src : WireSource)
  | governorPeriod
  | powerSample (p : PowerSample)
  | fastLimiter (edges : Nat)
  | powerHintPosition
  | reefSwitch
  | droopTrip (mast : Nat)
  | droopClear (mast edges : Nat)
  | tjHot (tj die : Nat)
  | thermLevelRise (tj : Nat)
  | tjCool (tj : Nat)
  | thermLevelFall (tj : Nat)
  | thermOverRange (tj : Nat)
  | thermTrip (tj die : Nat)
  | dramTempHigh (mast : Nat)
  | dramTempNormal (mast : Nat)
  | coolflowLost
  | coolflowPresent
  | coolflowWire
  | spadPatrol (mast : Nat) (found : List Upset)
  | contentionWindow (mast : Nat) (counts : List (Nat × Nat × Nat))   -- (context, contended, outstanding)
  | powerupCrowsNest
  | powerupHubRails
  | powerupBootRom
  | powerupMastRails
  | calibration (c : CalResult)
  | powerupReady
  | powerupHoldExpire
  | hdPwrokFall
  | hdPwrokRise
  | hostResetRelease
  | vectorUnitOperation (ctx mast vu layer : Nat) (op : VuOp)
  | ucieModuleTrained (m rate lanes repaired : Nat)
  | linkTrainComplete
  | fastLimiterRelease
  | powerHintEnd
  | switchWindowEnd
  | crowsNestUnpowered
  | contextZeroingEnd (ctx : Nat)
  deriving DecidableEq, Repr

end Sys2Proof
end

