-- ==== Sys2Proof/Decode.lean ====
section
/-! DEFINITION. The reading of a word by the command table's bits. No row of spec/opcode_table.json gives its command
any bits (the host's packets, messages and events carry the operands), so no word spells a command. -/
namespace Sys2Proof

/-- The command that a word spells by the table's bits: none, because no row has bits. -/
def decodeTableWord (_nbits _w : Nat) : Option Instr := none

end Sys2Proof
end

