-- ==== Sys2Proof/Machine/Bits.lean ====
section
/-! DEFINITION. Bit fields and little-endian byte runs (spec 00 R9): how packed words and memory layouts are read. -/
namespace Sys2Proof.Machine

/-- 1 for true, 0 for false. -/
def b2n (b : Bool) : Nat := if b then 1 else 0

/-- The `w` bits of `x` from bit `lo` up. -/
def bits (x lo w : Nat) : Nat := x / 2 ^ lo % 2 ^ w

/-- Bit `i` of `x`. -/
def bit (x i : Nat) : Bool := x / 2 ^ i % 2 == 1

/-- `x` with bit `i` set or cleared. -/
def setBit (x i : Nat) (b : Bool) : Nat :=
  if bit x i == b then x else if b then x + 2 ^ i else x - 2 ^ i

/-- A word put together from fields (low bit, width, value); a value keeps its low `width` bits. -/
def packFields (fs : List (Nat × Nat × Nat)) : Nat :=
  fs.foldl (fun acc f => acc + (f.2.2 % 2 ^ f.2.1) * 2 ^ f.1) 0

/-- A mask with a 1 at each number listed. -/
def maskOf (ns : List Nat) : Nat := ns.foldl (fun m n => if bit m n then m else m + 2 ^ n) 0

/-- The numbers below `n` at which `m` has a 1, ascending. -/
def bitsSet (m n : Nat) : List Nat := (List.range n).filter fun i => bit m i

/-- How many bits of `m` below `n` are 1. -/
def popCount (m n : Nat) : Nat := (bitsSet m n).length

/-- The least value of a bit length: `log2Up n` is the least `k` with `n ≤ 2^k`, up to 64. -/
def log2Up (n : Nat) : Nat := ((List.range 64).find? fun k => n ≤ 2 ^ k).getD 64

/-- `n` rounded up to a multiple of `a`. -/
def roundUp (n a : Nat) : Nat := (n + a - 1) / a * a

/-- `a ÷ b` rounded up. -/
def ceilDiv (a b : Nat) : Nat := (a + b - 1) / b

/-- The number a run of bytes spells, least significant first (R9). -/
def leNat : Bytes → Nat
  | [] => 0
  | b :: bs => b.toNat + 256 * leNat bs

/-- The `n` bytes of `x`, least significant first (R9). -/
def natLe : Nat → Nat → Bytes
  | 0, _ => []
  | n + 1, x => BitVec.ofNat 8 x :: natLe n (x / 256)

/-- The `n` bytes of `x`, most significant first. -/
def natBe (n x : Nat) : Bytes := (natLe n x).reverse

/-- The number a run of bytes spells, most significant first. -/
def beNat (b : Bytes) : Nat := leNat b.reverse

/-- `len` bytes of `b` from `off`. -/
def sub (b : Bytes) (off len : Nat) : Bytes := (b.drop off).take len

/-- `b` filled with zero bytes up to `n`, or cut there. -/
def fitTo (b : Bytes) (n : Nat) : Bytes := b.take n ++ List.replicate (n - b.length) 0

/-- `n` zero bytes. -/
def zeros (n : Nat) : Bytes := List.replicate n 0

/-- `b` with the bytes `p` laid over it from `off`. -/
def overlay (b : Bytes) (off : Nat) (p : Bytes) : Bytes := fitTo b off ++ p ++ b.drop (off + p.length)

def u8 (b : Bytes) (off : Nat) : Nat := leNat (sub b off 1)
def u16 (b : Bytes) (off : Nat) : Nat := leNat (sub b off 2)
def u32 (b : Bytes) (off : Nat) : Nat := leNat (sub b off 4)
def u64 (b : Bytes) (off : Nat) : Nat := leNat (sub b off 8)

/-- Whether every byte is zero. -/
def allZero (b : Bytes) : Bool := b.all (· == 0)

/-- `b` cut into runs of `n` bytes, the last one filled with zeros; `fuel` runs at most. -/
def chunksOf (n : Nat) : Nat → Bytes → List Bytes
  | 0, _ => []
  | fuel + 1, b => if b.isEmpty then [] else fitTo b n :: chunksOf n fuel (b.drop n)

/-- `a` without entries that occur earlier in it. -/
def dedup (l : List Nat) : List Nat := l.foldl (fun acc x => if acc.contains x then acc else acc ++ [x]) []

/-- Insertion into an ascending list without repeats. -/
def insAsc (x : Nat) : List Nat → List Nat
  | [] => [x]
  | y :: ys => if x < y then x :: y :: ys else if x = y then y :: ys else y :: insAsc x ys

/-- The least number of a list, or `d` when it is empty. -/
def minD (l : List Nat) (d : Nat) : Nat := match l with | [] => d | x :: xs => xs.foldl min x

/-- The greatest number of a list, or `d` when it is empty. -/
def maxD (l : List Nat) (d : Nat) : Nat := match l with | [] => d | x :: xs => xs.foldl max x

/-- A list sorted by a key, equal keys in their order in the list. -/
def insBy {α : Type} (le : α → α → Bool) (x : α) : List α → List α
  | [] => [x]
  | y :: ys => if le y x then y :: insBy le x ys else x :: y :: ys

def sortBy {α : Type} (le : α → α → Bool) (l : List α) : List α := l.foldl (fun acc x => insBy le x acc) []

/-- The first element with its position. -/
def enum {α : Type} (l : List α) : List (Nat × α) := (List.range l.length).zip l

end Sys2Proof.Machine
end

