-- ==== Sys2Proof/Machine/Float.lean ====
section
/-! DEFINITION. Exact numbers and their rounding to nearest, ties to even (R33), with the FP32 operations built on it:
each computes exactly and rounds once. -/
namespace Sys2Proof.Machine

/-- A number: not a number, an infinity, or sign, magnitude and exponent (± m × 2^e). -/
inductive Num where
  | nan
  | inf (neg : Bool)
  | fin (neg : Bool) (m : Nat) (e : Int)
  deriving DecidableEq, Repr

/-- Number of bits of `n`. -/
def bitLen (n : Nat) : Nat := if n = 0 then 0 else Nat.log2 n + 1

/-- `m × 2^k` for a whole shift either way, rounded down. -/
def shiftBy (m : Nat) (k : Int) : Nat := if 0 ≤ k then m * 2 ^ k.toNat else m / 2 ^ (-k).toNat

/-- `m × 2^(-k)` to the nearest integer, ties to even; `sticky` says that the exact value lies a little above `m`. -/
def roundShift (m k : Nat) (sticky : Bool) : Nat :=
  if k = 0 then m
  else
    let q := m / 2 ^ k
    let r := m % 2 ^ k
    let h := 2 ^ (k - 1)
    if r > h || (r = h && (sticky || q % 2 = 1)) then q + 1 else q

/-- The code, without sign, of ± m × 2^e in a format with `p` bits of precision whose least exponent is `qmin`
(R33): the code counts up through subnormals, binades and beyond the largest finite value alike. -/
def roundCode (p : Nat) (qmin : Int) (m : Nat) (e : Int) (sticky : Bool) : Nat :=
  if m = 0 then 0
  else
    let q := max qmin (e + bitLen m - p)
    let mant := if q ≤ e then m * 2 ^ (e - q).toNat else roundShift m (q - e).toNat sticky
    (q - qmin).toNat * 2 ^ (p - 1) + mant

/-! ## FP32 and BF16 (R33) -/

/-- The NaN that a vector unit produces in FP32 (R33). -/
def fpNan : Word := 0x7FC00000#32
def fpPosInf : Word := 0x7F800000#32
def fpNegInf : Word := 0xFF800000#32
def fpZero : Word := 0#32
def fpOne : Word := 0x3F800000#32

/-- The number an FP32 word holds. -/
def ofFp (w : Word) : Num :=
  let x := w.toNat
  let neg := bit x 31
  let ex := bits x 23 8
  let fr := bits x 0 23
  if ex = 255 then (if fr = 0 then .inf neg else .nan)
  else if ex = 0 then .fin neg fr (-149) else .fin neg (fr + 2 ^ 23) ((ex : Int) - 150)

/-- A number rounded to FP32; overflow gives an infinity. `sticky`: the exact magnitude lies a little above. -/
def toFpS (n : Num) (sticky : Bool) : Word :=
  match n with
  | .nan => fpNan
  | .inf neg => if neg then fpNegInf else fpPosInf
  | .fin neg m e =>
    BitVec.ofNat 32 (min (roundCode 24 (-149) m e sticky) 0x7F800000 + b2n neg * 2 ^ 31)

def toFp (n : Num) : Word := toFpS n false

/-- The number a BF16 half-word holds. -/
def ofBf (x : Nat) : Num := ofFp (BitVec.ofNat 32 (x % 65536 * 65536))

/-- A number rounded to BF16 (R33). -/
def toBf (n : Num) : Nat :=
  match n with
  | .nan => 0x7FC0
  | .inf neg => if neg then 0xFF80 else 0x7F80
  | .fin neg m e => min (roundCode 8 (-133) m e false) 0x7F80 + b2n neg * 2 ^ 15

def Num.isNan : Num → Bool | .nan => true | _ => false
def Num.isFinite : Num → Bool | .fin _ _ _ => true | _ => false
def Num.isZero : Num → Bool | .fin _ 0 _ => true | _ => false
def Num.neg? : Num → Bool | .nan => false | .inf n => n | .fin n _ _ => n

/-- The signed magnitude at exponent `q`, not above the number's own exponent. -/
def signedAt (n : Bool) (m : Nat) (e q : Int) : Int :=
  let v : Int := (m * 2 ^ (e - q).toNat : Nat)
  if n then -v else v

/-- A signed integer times 2^e; a zero takes the sign `z`. -/
def ofInt (v : Int) (e : Int) (z : Bool) : Num := if v = 0 then .fin z 0 e else .fin (decide (v < 0)) v.natAbs e

/-- The exact sum. A sum of opposite values is +0, of two zeros -0 only when both are -0 (R64). -/
def Num.add : Num → Num → Num
  | .nan, _ => .nan
  | _, .nan => .nan
  | .inf a, .inf b => if a == b then .inf a else .nan
  | .inf a, _ => .inf a
  | _, .inf b => .inf b
  | .fin n m e, .fin n' m' e' =>
    let q := min e e'
    ofInt (signedAt n m e q + signedAt n' m' e' q) q (n && n' && m == 0 && m' == 0)

def Num.negate : Num → Num
  | .nan => .nan
  | .inf a => .inf !a
  | .fin n m e => .fin (!n) m e

/-- The exact product. -/
def Num.mul : Num → Num → Num
  | .nan, _ => .nan
  | _, .nan => .nan
  | .inf a, .inf b => .inf (a != b)
  | .inf a, .fin n m _ => if m = 0 then .nan else .inf (a != n)
  | .fin n m _, .inf b => if m = 0 then .nan else .inf (b != n)
  | .fin n m e, .fin n' m' e' => .fin (n != n') (m * m') (e + e')

/-- FP32 addition, subtraction and multiplication. -/
def fpAdd (a b : Word) : Word := toFp ((ofFp a).add (ofFp b))
def fpSub (a b : Word) : Word := toFp ((ofFp a).add (ofFp b).negate)
def fpMul (a b : Word) : Word := toFp ((ofFp a).mul (ofFp b))

/-- FP32 division. -/
def fpDiv (a b : Word) : Word :=
  match ofFp a, ofFp b with
  | .nan, _ => fpNan
  | _, .nan => fpNan
  | .inf _, .inf _ => fpNan
  | .inf x, .fin n _ _ => toFp (.inf (x != n))
  | .fin n _ _, .inf x => toFp (.fin (n != x) 0 0)
  | .fin n m e, .fin n' m' e' =>
    if m' = 0 then (if m = 0 then fpNan else toFp (.inf (n != n')))
    else
      let k := 64 + bitLen m'
      toFpS (.fin (n != n') (m * 2 ^ k / m') (e - e' - k)) (m * 2 ^ k % m' != 0)

/-- A key whose order is the order of the values; +0 and -0 share one, a NaN has none. -/
def fpKey (w : Word) : Int :=
  let x : Int := (w.toNat % 2 ^ 31 : Nat)
  if bit w.toNat 31 then -x else x

def fpIsNan (w : Word) : Bool := (ofFp w).isNan
def fpIsFinite (w : Word) : Bool := (ofFp w).isFinite

/-- `a < b`, `a ≤ b` on values; false with a NaN. -/
def fpLt (a b : Word) : Bool := !fpIsNan a && !fpIsNan b && decide (fpKey a < fpKey b)
def fpLe (a b : Word) : Bool := !fpIsNan a && !fpIsNan b && decide (fpKey a ≤ fpKey b)

/-- The larger of two values, +0 above -0. -/
def fpMax (a b : Word) : Word :=
  if fpKey a < fpKey b then b
  else if fpKey b < fpKey a then a
  else if bit a.toNat 31 then b else a

/-! ## Exponential and logarithm, correctly rounded (R153, R189)

Fixed point with 240 fraction bits; the series run far past what FP32 can tell apart (log entry 13). -/

def fxBits : Nat := 240

/-- Σ over k < n of z^(2k+1) ÷ (2k+1), in fixed point. -/
def atanhSum (z2 : Int) : Nat → Int → Nat → Int
  | 0, _, _ => 0
  | n + 1, t, k => t / (2 * k + 1 : Nat) + atanhSum z2 n (t * z2 / 2 ^ fxBits) (k + 1)

/-- ln 2 in fixed point: 2 atanh(1/3). -/
def fxLn2 : Int :=
  let third : Int := 2 ^ fxBits / 3
  2 * atanhSum (third * third / 2 ^ fxBits) 80 third 0

/-- Σ over k ≥ 0 of r^k ÷ k!, in fixed point. -/
def expSum (r : Int) : Nat → Int → Nat → Int
  | 0, t, _ => t
  | n + 1, t, k => t + expSum r n (t * r / 2 ^ fxBits / (k : Nat)) (k + 1)

/-- exp of an FP32 value, correctly rounded. -/
def fpExp (w : Word) : Word :=
  match ofFp w with
  | .nan => fpNan
  | .inf neg => if neg then fpZero else fpPosInf
  | .fin neg m e =>
    if m = 0 then fpOne
    else if 7 < e + bitLen m then (if neg then fpZero else fpPosInf)
    else
      let x : Int := (m * 2 ^ (e + fxBits).toNat : Nat)
      let x := if neg then -x else x
      let k := x / fxLn2
      let r := x - k * fxLn2
      let y := expSum r 60 (2 ^ fxBits) 1
      toFpS (.fin false y.toNat (k - fxBits)) true

/-- log of an FP32 value, correctly rounded. -/
def fpLog (w : Word) : Word :=
  match ofFp w with
  | .nan => fpNan
  | .inf neg => if neg then fpNan else fpPosInf
  | .fin neg m e =>
    if m = 0 then fpNegInf
    else if neg then fpNan
    else
      let b : Int := e + bitLen m            -- the value lies in [2^(b-1), 2^b)
      let f : Int := (m * 2 ^ (fxBits - bitLen m) : Nat)   -- in [1/2, 1)
      let up := decide (f * 4 < 3 * 2 ^ fxBits)            -- below 3/4: use 2 f
      let f := if up then f * 2 else f
      let b := if up then b - 1 else b
      let one : Int := 2 ^ fxBits
      if f = one && b = 0 then fpZero
      else
        let z := (f - one) * one / (f + one)
        let y := b * fxLn2 + 2 * atanhSum (z * z / one) 80 z 0
        toFpS (.fin (decide (y < 0)) y.natAbs (-fxBits)) true

end Sys2Proof.Machine
end

