-- ==== Sys2Proof/Machine/Crc.lean ====
section
/-! DEFINITION. The cyclic redundancy checks of R242 (CRC-32, IEEE 802.3) and of R44 (CRC-16/IBM-3740). -/
namespace Sys2Proof.Machine

/-- One bit of the reflected CRC-32. -/
def crc32Bit (r : Nat) : Nat := if r % 2 = 1 then (r / 2) ^^^ 0xEDB88320 else r / 2

def crc32Byte (r : Nat) (b : Byte) : Nat :=
  crc32Bit (crc32Bit (crc32Bit (crc32Bit (crc32Bit (crc32Bit (crc32Bit (crc32Bit (r ^^^ b.toNat))))))))

/-- CRC-32 of R242: polynomial 0x04C11DB7, initial value all ones, reflected, final XOR all ones. -/
def crc32 (b : Bytes) : Nat := b.foldl crc32Byte 0xFFFFFFFF ^^^ 0xFFFFFFFF

/-- One bit of the CRC-16, most significant bit first. -/
def crc16Bit (r : Nat) : Nat := if r / 0x8000 % 2 = 1 then (r * 2 % 0x10000) ^^^ 0x1021 else r * 2 % 0x10000

def crc16Byte (r : Nat) (b : Byte) : Nat :=
  crc16Bit (crc16Bit (crc16Bit (crc16Bit (crc16Bit (crc16Bit (crc16Bit (crc16Bit (r ^^^ (b.toNat * 256)))))))))

/-- CRC-16 of R44: polynomial 0x1021, initial value 0xFFFF, no reflection, no final XOR. -/
def crc16 (b : Bytes) : Nat := b.foldl crc16Byte 0xFFFF

end Sys2Proof.Machine
end

