-- ==== Sys2Proof/Machine/Memory.lean ====
section
/-! DEFINITION. Byte memory as a list of (address, byte) pairs in one canonical form: addresses strictly rising, and no
zero byte listed, because an unlisted address reads 0 (R223, R463: memory is zeroed at power-up). -/
namespace Sys2Proof.Machine

/-- Byte memory. -/
abbrev Mem := List Host.Cell

/-- The byte at `a`. -/
def memByte : Mem → Nat → Byte
  | [], _ => 0
  | (j, b) :: m, a => if a = j then b else memByte m a

/-- `m` with `b` at `a`: writing 0 removes the entry. -/
def memSet : Mem → Nat → Byte → Mem
  | [], a, b => if b = 0 then [] else [(a, b)]
  | (j, c) :: m, a, b =>
    if a < j then (if b = 0 then (j, c) :: m else (a, b) :: (j, c) :: m)
    else if a = j then (if b = 0 then m else (a, b) :: m)
    else (j, c) :: memSet m a b

/-- `m` with the bytes `bs` from `a` up. -/
def memWrite : Mem → Nat → Bytes → Mem
  | m, _, [] => m
  | m, a, b :: bs => memWrite (memSet m a b) (a + 1) bs

/-- The `n` bytes from `a` up. -/
def memRead (m : Mem) (a : Nat) : Nat → Bytes
  | 0 => []
  | n + 1 => memByte m a :: memRead m (a + 1) n

/-- `m` with the `n` bytes from `a` up zeroed. -/
def memZero (m : Mem) (a n : Nat) : Mem := m.filter fun c => !(a ≤ c.1 && c.1 < a + n)

/-- Addresses strictly rising above `lo`, and no zero byte listed. -/
def memWfFrom : Nat → Mem → Bool
  | _, [] => true
  | lo, (a, b) :: m => decide (lo ≤ a) && !(b == 0) && memWfFrom (a + 1) m

/-- The canonical form. -/
def Memory.wf (m : Mem) : Bool := memWfFrom 0 m

end Sys2Proof.Machine
end

