-- ==== Sys2Proof/Config.lean ====
section
/-! DEFINITION. What the spec leaves open: free values and functions without a body, so that a claim holds whatever they
are. A free value is drawn with the state's own counter `free` (log entry 2). -/
namespace Sys2Proof.Config

/-- The free values of width 8, 32 and any width, by their number (log entry 2). -/
opaque freeByte : Nat → BitVec 8
opaque freeWord : Nat → BitVec 32
opaque freeNat : Nat → Nat

/-- The DRAM row of a half-line: the controller's own placement (R215; log entry 11). -/
opaque dramRow : Nat → Nat

/-- The calls on which the call named `call` on mast `m` of a context depends within a step, each as mast and name: the stages of a
step as the context's program lays them out (R25; log entry 70). A call's name is its descriptor's pointer, that of a vector
operation its destination. -/
opaque needs (ctx m call : Nat) : List (Nat × Nat)

/-- What an engine does while a call runs, and the entry it has reached, by the draw of its call and the package time: timing
that the model leaves out (R86; log entry 71). -/
opaque engineState (draw time : Nat) : Nat
opaque engineEntry (draw time : Nat) : Nat

/-- Where a partner context holds its mirror ring, by package and context: its local address and its lines. No rule says
how a source learns them (R180, R200; log entry 15). -/
opaque partnerRing : Nat → Nat → Nat
opaque partnerRingLines : Nat → Nat → Nat

/-! ## Cryptography (log entry 6)

The algorithms the spec names without defining them, and the package's secrets. -/

/-- RSASSA-PSS with SHA-384 under RSA-3072: whether a signature over a message verifies under a modulus and a public exponent
(R309, R428, R429). -/
opaque rsaVerify (modulus exponent msg sig : List (BitVec 8)) : Bool

/-- SLH-DSA-SHA2-192s: whether a signature over a message verifies under a public key (R309, R428, R429). -/
opaque slhVerify (key msg sig : List (BitVec 8)) : Bool

/-- The digests of the four firmware key slots, fused at manufacture (R429). -/
opaque slotDigest : Nat → List (BitVec 8)

/-- A signature under a private key; the last number is the free draw of one that is not deterministic. -/
opaque rsaSign (priv msg : List (BitVec 8)) (draw : Nat) : List (BitVec 8)
opaque slhSign (priv msg : List (BitVec 8)) (draw : Nat) : List (BitVec 8)

/-- A key pair. -/
structure KeyPair where
  priv : List (BitVec 8)
  pub  : List (BitVec 8)
  deriving DecidableEq, Repr, Inhabited

/-- The RSA-3072 key pair that FIPS 186-5 generates with probable primes from an HMAC_DRBG in the state K, V (R435). -/
opaque rsaGenerate (k v : List (BitVec 8)) : KeyPair

/-- PK.root of an SLH-DSA-SHA2-192s key with these seeds (R435). -/
opaque slhRoot (skSeed pkSeed : List (BitVec 8)) : List (BitVec 8)

/-- The package's fused secrets: UDS, 384 bits (R435), the key that wraps the identity keys (R434), and LWK, 256 bits (R439). -/
opaque uds : List (BitVec 8)
opaque identityWrapKey : List (BitVec 8)
opaque linkWrapKey : List (BitVec 8)

/-- A private key wrapped with AES-256-GCM as the NOR holds it. -/
structure Wrapped where
  iv   : List (BitVec 8)
  aad  : List (BitVec 8)
  body : List (BitVec 8)
  tag  : List (BitVec 8)
  deriving DecidableEq, Repr, Inhabited

/-- The wrapped private identity keys in the NOR: RSA, and SLH-DSA (R427, R434). -/
opaque identityRsa : Wrapped
opaque identitySlh : Wrapped

/-- The DER bytes of certificates 0 to 3, which the NOR holds whatever image runs (R427, R436). -/
opaque norCertificate : Nat → List (BitVec 8)

/-- What an alias certificate certifies (R436): its issuer's certificate, the alias public key, and what its non-critical Derzimin
extension carries; `slh` says that key and signature are of SLH-DSA-SHA2-192s. -/
structure AliasBody where
  slh     : Bool
  issuer  : List (BitVec 8)
  subject : List (BitVec 8)
  measure : List (BitVec 8)
  svn     : Nat
  fwKey   : Nat
  deriving DecidableEq, Repr, Inhabited

/-- The DER bytes of the signed part of an alias certificate. -/
opaque aliasTbs : AliasBody → List (BitVec 8)

/-- The DER algorithm identifiers of a certificate's signature: the registered one of SLH-DSA-SHA2-192s, or that of the RSA
signature (R436). -/
opaque signatureAlgorithm (slh : Bool) : List (BitVec 8)

/-- AES-256-GCM sealing: key, IV, additional authenticated data, payload; ciphertext and tag (R343). -/
opaque gcmSeal (key iv aad pt : List (BitVec 8)) : List (BitVec 8) × List (BitVec 8)

/-- AES-256-GCM opening: key, IV, additional authenticated data, ciphertext, tag; the payload, or none where
the tag fails (R343, R434, R439). -/
opaque gcmOpen (key iv aad ct tag : List (BitVec 8)) : Option (List (BitVec 8))

/-- The hint that a program call carries: watts, lead and duration in µs. The call is named by its context and its descriptor's
pointer; the spec gives the hint no place in a descriptor (R389; log entry 67). -/
opaque callHint (ctx call : Nat) : Option (Nat × Nat × Nat)

/-! ## Program images (R276; log entry 23)

The spec says what a program image holds and how it is checked, and gives it no layout. -/

/-- A call that an image holds: image offset, unit (0 matrix, 1 routing, 2 intake, 3 combine, 4 attention, 5 another), mast,
the units of each kind it names as masks, and its LAYER, none for a call without one. -/
structure ImageCall where
  off   : Nat
  unit  : Nat
  mast  : Nat
  me    : Nat
  ae    : Nat
  vu    : Nat
  units : Nat
  layer : Option Nat
  deriving DecidableEq, Repr, Inhabited

/-- A list of live regions (R298): image offset, cleat, mast, the region entries, and whether its cleat is a step
boundary. -/
structure ImageLive where
  off      : Nat
  cleat    : Nat
  mast     : Nat
  entries  : List (List (BitVec 8))
  boundary : Bool
  deriving DecidableEq, Repr, Inhabited

/-- What an image holds, each item with its image offset: layer safeguard entries (R97), layer attention entries (R145),
declared formats and whether R27 supports them, calls, live lists, and shard ids (R316). -/
structure ImageParts where
  guards  : List (Nat × List (BitVec 8))
  attn    : List (Nat × List (BitVec 8))
  formats : List (Nat × Bool)
  calls   : List ImageCall
  live    : List ImageLive
  shards  : List Nat
  deriving DecidableEq, Repr, Inhabited

/-- The parts of a well-formed image, or the offset of the first item at which its structure is malformed. -/
opaque parseImage : List (BitVec 8) → Except Nat ImageParts

end Sys2Proof.Config
end

