-- ==== Sys2Proof/Machine/State.lean ====
section
/-! DEFINITION. The state of one Lemarnorn L3 package as plain data: every register, table, queue and pin the spec gives
it, the queue of commands that wait, and the state in which the device becomes operational (`State.reset`). -/
namespace Sys2Proof.Machine

/-- Why a step can stop with a fault. -/
inductive Fault where
  /-- Raised by an event command that names a mast, module, channel or port the package does not have (R3, R240,
  R257, R324). Safe: the hardware has no such unit, so no such event exists. -/
  | noSuchUnit
  deriving DecidableEq, Repr

/-- Why a step can be refused. -/
inductive Refusal where
  /-- Raised by exec's arm of a command that has no meaning yet. Safe: nothing follows from it. -/
  | notModelled (mnemonic : String)
  deriving DecidableEq, Repr

/-! ## Packets and other messages -/

/-- A Stauc packet of the device (R257): KIND 1 a response, 2 a notice; `silent`, `keepTag` and `cont` are the model's
own marks and are not sent. -/
structure Pkt where
  kind    : Nat
  silent  : Bool      -- a DONE that QUIET suppresses: only its tag is released (R258, R262)
  keepTag : Bool      -- the refusal of a request whose tag is in use by an earlier one (R262)
  cont    : Bool := false   -- a later part of an answer in parts (R258)
  opcode  : Nat
  tag     : Nat
  ctx     : Nat
  channel : Nat
  more    : Bool
  arg0    : Nat
  arg1    : Nat
  payload : Bytes
  deriving DecidableEq, Repr

/-- What leaves the package. -/
inductive Out where
  | packet (p : Pkt)
  | flit (m : Nat) (bytes : Bytes)          -- a flit as it leaves on a module (R242)
  | sbData (off : Nat) (val : Word)         -- answer of a sideband read (R251)
  | sbReady (boot : Word)                   -- READY message (R251)
  | mgmt (cmd status : Nat) (body : Bytes)  -- response of the management endpoint (R459)
  | fault (t c : Bool)                      -- FAULT_T, FAULT_C (R414)
  | faultOff                                -- FAULT_T and FAULT_C are high-impedance (R477)
  | hostReset (asserted : Bool)             -- host die reset (R478)
  | ident (p : Nat) (body : Bytes)          -- IDENT frame (R328)
  | linkAck (p : Nat) (nak : Bool) (seq credit : Nat)   -- link acknowledgement, with credits returned (R326, R327)
  | frames (p first count : Nat)            -- link frames resent, from SEQ `first` (R327)
  | frame (p : Nat) (bytes : Bytes)         -- a link frame as it goes onto the cable (R326)
  | keysync (p slot : Nat)
  | fabric (p : TPkt)                       -- transport packet, with the port it leaves on
  | exportHeader (pkg : Nat) (h : ExportHeader)
  | exportPage (pkg : Nat) (p : ExportPage)
  | pageAck (pkg exportId page : Nat) (refused : Bool)
  | mirrorAck (pkg ctx step ringPos : Nat) (lost : List Nat)
  deriving DecidableEq, Repr

/-- Error record (R406). `logIndex` none: not logged. -/
structure Record where
  cause    : Nat
  cls      : Nat
  mast     : Nat
  unit     : Nat
  ctx      : Nat
  layer    : Nat
  time     : Nat
  step     : Nat
  addr     : Nat
  info0    : Nat
  info1    : Nat
  seq      : Nat
  logIndex : Option Nat
  repeats  : Nat
  deriving DecidableEq, Repr

/-! ## Storage -/

/-- A mast's DRAM (R212, R219, R220): contents, poisoned half-lines (ascending), latent flaws, corrected errors per row.
Keys of `flaws` are half-line numbers, of `rowErrs` row numbers. -/
structure Dram where
  cells   : List Host.Cell
  poison  : List Nat
  flaws   : Tab Flaw
  rowErrs : Tab Nat
  deriving DecidableEq, Repr

/-- A mast's scratchpad (R224, R226): contents and latent flaws by 64-bit word. -/
structure Spad where
  cells : List Host.Cell
  flaws : Tab Flaw
  deriving DecidableEq, Repr

/-- What DRAM holds of a 128-byte line: its bytes, and which of its half-lines are poisoned or flawed. -/
structure DLine where
  bytes  : List (BitVec 8)
  poison : List Nat
  flaws  : Tab Flaw
  deriving DecidableEq, Repr

/-- A line of the line cache (R227, R229). Its data and its poisoned half-lines are those of the mast's DRAM block, because the cache
is always coherent (R228); `under` is what DRAM itself holds where that differs: under a line that was written, or below which scrub
or an upset has changed it. -/
structure CLine where
  line  : Nat
  way   : Nat
  ctx   : Nat
  dirty : Bool
  used  : Nat
  under : Option DLine
  deriving DecidableEq, Repr

structure LineCache where
  lines : List CLine
  clock : Nat
  deriving DecidableEq, Repr

/-! ## One mast -/

/-- ME_STATUS_n and ME_GRP_POS_n (R86). `draw`: the draw of the free values that its STATE and ENTRY follow while the call
runs. -/
structure EngineState where
  ctx   : Nat
  layer : Nat
  wide  : Bool
  draw  : Nat
  count : Nat
  deriving DecidableEq, Repr

/-- ME block (R72, R82 to R86). -/
structure MeBlk where
  spareUsed   : Bool
  bistFenced  : Bool
  fencedPhys  : Nat
  spareFor    : Nat
  bistFail    : BitVec 17
  err         : Word
  engines     : Tab EngineState
  holders     : Tab Nat      -- engine index → context that holds it (R295)
  deriving DecidableEq, Repr

/-- AE_STATUS_n (R172). -/
structure AeState where
  ctx      : Nat
  layer    : Nat
  sealBusy : Bool
  state    : Nat
  deriving DecidableEq, Repr

/-- A page whose sealed image waits for or is in building (R169). -/
structure SealJob where
  ctx   : Nat
  frame : Nat
  stage : Nat
  deriving DecidableEq, Repr

/-- Attention block (R171 to R174). `sealJobs` is the order of building; `building` holds of its head. -/
structure AeBlk where
  ctxSel   : Nat
  err      : Word
  engines  : Tab AeState
  sealJobs : List SealJob
  building : Bool
  deriving DecidableEq, Repr

/-- The report of a context's last routing call (R143). -/
structure RtuLast where
  layer    : Nat
  shed     : Nat
  fallback : Nat
  allShed  : Nat
  deriving DecidableEq, Repr

/-- The keys of the token list that a routing call of a context has placed, by the record it has written (R117, R128). -/
structure RouteKeys where
  ctx    : Nat
  assign : Nat
  keys   : List Nat
  deriving DecidableEq, Repr

/-- Routing block (R141 to R144): running call's context, layer and state code. -/
structure RtuBlk where
  ctxSel : Nat
  err    : Word
  ctx    : Nat
  layer  : Nat
  state  : Nat
  last   : Tab RtuLast
  lists  : List RouteKeys
  deriving DecidableEq, Repr

/-- A layer record (R103, R105, R112). `mark`: 0 none, 1 to narrow, 2 to widened. -/
structure LayerRec where
  state      : Nat
  relaxLeft  : Nat
  hist       : BitVec 64
  histLen    : Nat
  widenCount : Nat
  cmd        : Nat
  deriving DecidableEq, Repr

/-- A sampled tile (R99 to R102): the produced values, the reference values and the threshold exponent. `multi`: its stream has
more than one reduction tile; `live`: its call still runs. -/
structure TtSample where
  ctx    : Nat
  layer  : Nat
  tile   : Nat
  thr    : Nat
  prod   : List Word
  ref    : List Word
  engine : Nat
  stream : Nat
  multi  : Bool
  live   : Bool
  deriving DecidableEq, Repr

/-- TT_CTRL and TT_SEED as they govern one context (R111). -/
structure TtLatch where
  sampleEn : Bool
  autoEn   : Bool
  seed     : Nat
  deriving DecidableEq, Repr

/-- Telltale block (R99 to R114). Layer records are keyed by context × 4096 + layer, tile counts alike;
`results` are the compared samples of the running step: (context, layer, tile, exceedance). -/
structure TtBlk where
  sampleEn  : Bool
  autoEn    : Bool
  seed      : Nat
  latch     : Tab TtLatch
  selCtx    : Nat
  selLayer  : Nat
  cmdStatus : Nat
  err       : Word
  recs      : Tab LayerRec
  tiles     : Tab Nat
  samples   : List TtSample
  results   : List (Nat × Nat × Nat × Bool)
  deriving DecidableEq, Repr

/-- A context's figures in the DRAM controller (R229, R231, R237). -/
structure McCtx where
  ways    : Nat
  ratio   : Nat
  highRun : Nat
  raised  : Bool
  xevict  : Nat      -- of the last window
  xnow    : Nat      -- of the running window
  deriving DecidableEq, Repr

/-- DRAM controller block (R216, R221, R222, R234 to R239). -/
structure McBlk where
  setLog2     : Tab Nat       -- band → SET_LOG2; absent: 3, wide
  bandPending : Tab Nat       -- band → the SET_LOG2 that its change applies
  scrubPeriod : Nat
  passes      : Nat
  chunk       : Nat
  ctxSel      : Nat
  ctxs        : Tab McCtx
  thr         : Nat
  windows     : Nat
  errValid    : Bool
  errCtx      : Nat
  errAddr     : Nat
  err         : Word
  refreshReq  : Nat
  auto2x      : Bool
  selfRefresh : Bool
  deriving DecidableEq, Repr

/-- A programmable counter: its 32-byte selector (R448), its value, and whether the context it names has been destroyed
since (R460). -/
structure ProgCtr where
  sel  : Bytes
  val  : Nat
  dead : Bool
  deriving DecidableEq, Repr

/-- Counter block of a mast or of the hub (R445, R448, R461). `shadows`: context × 16 + k. -/
structure PmcBlk where
  ovf      : BitVec 64
  ctxSel   : Nat
  progs    : Tab ProgCtr
  fixed    : Tab Nat
  served   : Nat              -- COMPAT context that counters 0 to 15 serve, 0 none (R455)
  shadows  : Tab Nat
  deriving DecidableEq, Repr

/-- A spill or a restore on the bulk copy path (R299, R300). -/
structure BulkJob where
  ctx      : Nat
  restore  : Bool
  regions  : List (Nat × Nat)
  frozen   : Bool
  deriving DecidableEq, Repr

/-- The kinds of running calls that hold units over more than one command. -/
inductive CallKind where
  | grouped
  | fabricCopy
  | collective
  deriving DecidableEq, Repr

/-- A running call. `desc`: the pointer of its descriptor. -/
structure RunCall where
  ctx   : Nat
  kind  : CallKind
  layer : Nat
  mask  : Nat
  left  : Nat        -- fabric copy: operations not yet done
  desc  : Nat
  deriving DecidableEq, Repr

/-- A fault-record limit met by a context in the running step (R49, R67, R121). -/
inductive StepLimit where
  | nonfiniteAct
  | accNonfinite
  | routeNonfinite
  deriving DecidableEq, Repr

structure Mast where
  fenced  : Bool
  cause   : Nat
  dram    : Dram
  spad    : Spad
  lc      : LineCache
  me      : MeBlk
  ae      : AeBlk
  rtu     : RtuBlk
  tt      : TtBlk
  mc      : McBlk
  pmc     : PmcBlk
  bulk    : List BulkJob
  calls   : List RunCall
  limits  : List (Nat × StepLimit)
  droop   : Bool
  tj      : Nat
  railW   : Nat
  dramGbs : Nat
  deriving DecidableEq, Repr

/-! ## Contexts -/

inductive CtxState where
  | furled
  | unfurling
  | unfurled
  | displaced
  | furling
  | coolstop
  | torn
  deriving DecidableEq, Repr

/-- A placement record (R285). -/
structure Placement where
  me    : Nat
  ae    : Nat
  vu    : Nat
  units : Nat
  deriving DecidableEq, Repr

/-- A key-value record (R155); pointers are byte offsets in the mast's DRAM. -/
structure KvRec where
  pool      : Nat
  units     : Nat
  frame4k   : Nat
  fmt       : Nat
  sealWin   : Nat
  sealLag   : Nat
  sealSlots : Nat
  ft        : Nat
  desc      : Nat
  descCap   : Nat
  layers    : Nat
  heads     : Nat
  dh32      : Nat
  deriving DecidableEq, Repr

/-- A grant (R275); `releasing` while its zeroing runs (R223). -/
structure Grant where
  mast      : Nat
  base      : Nat
  size      : Nat
  releasing : Bool
  deriving DecidableEq, Repr

/-- A layer safeguard entry (R97, R98), after DEFAULTS has been resolved. -/
structure Safeguard where
  outGap     : Nat
  ttK        : Nat
  outBudget  : Nat
  ttThr      : Nat
  ttM        : Nat
  ttN        : Nat
  ttEnable   : Bool
  autoWiden  : Bool
  wideRows   : Bool
  relaxSteps : Nat
  deriving DecidableEq, Repr

/-- A layer attention entry (R145). -/
structure LayerAttn where
  attn      : Bool
  window    : Nat
  sink      : Nat
  pageLayer : Nat
  globalEn  : Bool
  exclSelf  : Bool
  hg        : Nat
  scale     : Word
  deriving DecidableEq, Repr

/-- Live regions of one cleat on one mast (R298). -/
structure LiveEntry where
  cleat   : Nat
  mast    : Nat
  regions : List (Nat × Nat)
  deriving DecidableEq, Repr

/-- A loaded program, as the device uses it (R97, R145, R298, R316). -/
structure Prog where
  guards : List Safeguard
  attn   : List LayerAttn
  live   : List LiveEntry
  shards : List Nat
  /-- The attention layers that have calls on a mast: mast, layer id (R145, R151). -/
  attnOn : List (Nat × Nat)
  deriving DecidableEq, Repr

/-- A serving configuration (R180). -/
structure ServeConfig where
  maxRows    : Nat
  chunk      : Nat
  vocab      : Nat
  tokenMast  : Nat
  noticeCh   : Nat
  mirrorEn   : Bool
  policy     : Bool      -- true: DEGRADE
  holder     : Bool
  alwaysStep : Bool
  partnerCtx : Nat
  partnerPkg : Nat
  tokenArea  : Nat       -- pointer of R75
  ringPtr    : Nat
  ringLines  : Nat
  mirrorTo   : Nat       -- µs, resolved
  exportTo   : Nat       -- µs, resolved
  stopIds    : List (Option Nat)
  deriving DecidableEq, Repr

/-- A request entry (R176). The four `w` fields are what the window shows (R24, R208). -/
structure Request where
  state       : Nat
  partner     : Nat
  priority    : Nat
  imp         : Bool
  exp         : Bool
  releaseSess : Bool
  ctx         : Nat
  stop        : Nat
  session     : Nat
  cause       : Nat
  length      : Nat
  maxLength   : Nat
  promptStart : Nat
  promptEnd   : Nat
  deadline    : Nat
  seed        : Nat
  counter     : Nat
  promptIdx   : Nat
  temperature : Word
  topP        : Word
  topK        : Nat
  stopMask    : Nat
  lastToken   : Nat
  wLength     : Nat
  wStop       : Nat
  wCounter    : Nat
  wLastToken  : Nat
  lastOut     : Bool        -- the bundle with its LAST entry has been released (R183)
  resume      : Bool        -- a REQ_RESUME waits for an export to end (R183)
  imported    : Bool        -- an import header has been written into it (R196)
  delivered   : List Nat    -- pages delivered since HANDOVER was set (R195)
  serial      : Nat         -- arrival number of the packet that made it, which tells the requests of one slot apart
  deriving DecidableEq, Repr

/-- What SESSION_QUERY reports of a session: its values after the last boundary of its context (R181). -/
structure SessView where
  length  : Nat
  pages   : Nat
  globals : Nat
  bound   : Bool
  deriving DecidableEq, Repr

/-- A session: directory entry of R158 on every mast of its context, page lists and mirror status (R179). -/
structure Session where
  ctx     : Nat
  listPtr : Tab Nat
  listCap : Nat
  globals : List Nat
  length  : Nat
  mirror  : Nat
  pages   : Tab (Tab Nat)    -- mast → page index → frame number
  shown   : SessView         -- as it stood after the last boundary (R181)
  deriving DecidableEq, Repr

/-- A recorded serving command (R182). -/
inductive ServeCmd where
  | submit (slot : Nat) (e : Request)
  | cancel (slot : Nat)
  | park (slot : Nat)
  | resume (slot : Nat)
  | release (slot : Nat)
  | open_ (session listCap : Nat) (ptrs : Tab Nat)
  | close (session : Nat)
  | share (src dst pages : Nat)
  | truncate (session length : Nat)
  | globals (session : Nat) (ps : List Nat)
  | exportStart (exportId : Nat)
  | mirrorSet (pkg ctx : Nat) (policy : Bool)
  | config (c : ServeConfig)
  deriving DecidableEq, Repr

/-- A request's part in a step (R185, R186). `sampled`: token and log-probability once drawn; `fault`: a cause of R178. -/
structure StepRow where
  slot    : Nat
  start   : Nat
  count   : Nat
  prefill : Bool
  samples : Bool
  sampled : Option (Nat × Word)
  fault   : Nat
  deriving DecidableEq, Repr

/-- A bundle entry (R192). -/
structure Entry where
  slot     : Nat
  status   : Nat
  stop     : Nat
  token    : Nat
  position : Nat
  logprob  : Word
  serial   : Nat          -- of the request it names
  deriving DecidableEq, Repr

/-- What the request table window shows of a request once a bundle is released (R208). -/
structure Shown where
  slot    : Nat
  serial  : Nat
  length  : Nat
  stop    : Nat
  counter : Nat
  token   : Nat
  deriving DecidableEq, Repr

/-- A step bundle that is withheld or waits in the transmit queue (R191, R194). -/
structure Bundle where
  step     : Nat
  entries  : List Entry
  degraded : Bool
  orphan   : Bool         -- its step was never acknowledged and its partner was named anew (R204)
  show_    : List Shown
  time     : Nat
  sent     : Nat          -- parts already sent (R269)
  ch       : Nat          -- the channel of its first part, once that is sent (R191, R269)
  /-- Released as soon as the queue has room, and whether degraded: what a new partner no longer holds back (R203, R204). -/
  due      : Option Bool
  deriving DecidableEq, Repr

/-- A step in progress (R184). `early`: entries settled when it started (held, skipped, stopped, faulted). -/
structure StepRun where
  num     : Nat
  rows    : List StepRow
  early   : List Entry
  sampled : Bool
  /-- The requests that attention calls of the step have named: mast, page layer, head, slot (R151). -/
  named   : List (Nat × Nat × Nat × Nat)
  /-- The calls of the step that have ended: mast, name (R25). -/
  ended   : List (Nat × Nat)
  /-- Its partner was named anew while it ran, and how its bundle is released if that is settled (R203, R204). -/
  orphan  : Bool
  due     : Option Bool
  deriving DecidableEq, Repr

/-- What a mirroring source keeps (R199 to R204). -/
structure Mirror where
  en       : Bool
  policy   : Bool
  pkg      : Nat
  ctx      : Nat
  lost     : Bool
  acked    : Nat
  unacked  : List Nat     -- steps committed and not acknowledged, ascending
  head     : Nat          -- next ring line, counted without wrapping
  applied  : Nat          -- ring lines the holder has applied
  lines    : Nat          -- lines written for the running step
  backlog  : List Bytes   -- log lines that wait for ring space (R201)
  sessCmds : List ServeCmd
  resync   : List Nat     -- sessions whose copy is not yet complete
  late     : List Nat     -- steps unacknowledged at a MIRROR_LOST: their acknowledgements are ignored (R203)
  copyNo   : Nat          -- copies begun to a newly named partner (R204)
  logged   : Tab Request  -- request slot → the entry that the log holds (R200)
  deriving DecidableEq, Repr

/-- What a HOLDER context keeps (R199, R201, R205). Ring positions are counted without wrapping. -/
structure Holder where
  promoted : Bool
  applied  : Nat                    -- position up to which records are applied
  got      : List Nat               -- ring lines written and not applied, ascending
  acked    : List Nat               -- COMMIT positions of steps acknowledged and not applied, ascending
  lost     : List Nat               -- source sessions it could not take, not yet reported
  sessions : Tab Nat                -- source session → own session
  entries  : Tab Bytes              -- source session → entry image of its last acknowledged step
  copyNo   : Nat                    -- the copy of the source that it takes part in (R204)
  deriving DecidableEq, Repr

/-- What a holder keeps before its source has written anything. -/
def Holder.reset : Holder :=
  { promoted := false, applied := 0, got := [], acked := [], lost := [], sessions := [], entries := [], copyNo := 0 }

/-- A frame table entry (R161, R166). -/
structure Frame where
  st       : Nat
  upper    : Option Nat
  refs     : Nat
  pend     : Bool
  fmt      : Nat
  shipFrom : Nat
  ships    : Nat
  sealDue  : Nat
  stage    : Option Nat
  image    : Bool       -- its sealed image is complete in the staging unit (R169)
  deriving DecidableEq, Repr

/-- A page descriptor (R164). -/
structure Desc where
  session : Nat
  page    : Nat
  frame   : Nat
  upper   : Option Nat
  valid   : Nat
  glob    : Bool
  fmt     : Nat
  last    : Bool
  deriving DecidableEq, Repr

/-- A context's key-value pool on one mast (R155 to R168, R173). -/
structure Pool where
  frames  : Tab Frame
  descs   : List Desc
  emitted : Nat           -- descriptors emitted at the last walk (R173)
  held    : Nat
  stalls  : Nat
  commits : Nat
  waiting : List Nat      -- sealing pages that wait for a staging unit, in trigger order
  ended   : List Nat      -- pages whose export ended with SEAL_PENDING, in order (R168)
  deriving DecidableEq, Repr

/-- One context (R285 to R292). -/
structure Ctx where
  state       : CtxState
  before      : CtxState          -- state held before coolstop (R289)
  preemptible : Bool
  priority    : Nat
  mastMask    : Nat
  confined    : Bool
  base        : Nat
  setLog2     : Nat
  places      : Tab Placement
  kv          : Tab KvRec
  saves       : Tab (Nat × Nat)   -- mast → base and size of its save area (R287)
  grants      : List Grant
  prog        : Option Prog
  nextProg    : Option Prog
  config      : Option ServeConfig
  recorded    : List (Nat × ServeCmd)   -- each with its arrival number, ascending (R182, R263)
  stepNext    : Nat
  step        : Option StepRun
  held        : List Bundle       -- ended steps whose bundles are not released, ascending STEP
  owed        : List Entry        -- entries that wait for the next step to start (R193)
  heldLast    : Nat               -- requests held at the last walk (R210)
  atEnd       : Bool              -- its boundary waits for a seal image (R169)
  met         : List (Nat × Nat × Nat)   -- memory faults of the Masthead's own accesses, to be raised: mast, cause, offset (R219)
  txq         : List Bundle
  mirror      : Mirror
  holder      : Holder
  pools       : Tab Pool
  late        : List (Nat × Nat × Bytes)  -- table writes that wait for the end of a coolant stop: mast, offset, bytes (R222)
  wait        : Tab Nat           -- mast → time since which it waits for engines (R296)
  cleat       : Tab Nat           -- mast → last cleat passed (R298)
  live        : Tab (List (Nat × Nat)) -- mast → live regions saved in its save area (R300)
  stopAt      : List Nat          -- masts on which it issues no call beyond its next cleat (R291, R299)
  stopped     : List Nat          -- masts on which it has stopped at its cleat
  spilled     : List Nat          -- masts on which its spill ended in a coolant stop and it keeps its engines (R303, R395)
  deferred    : Bool              -- an unfurl waits for the furl (R274)
  owesZero    : Bool              -- zeroing that waits for the end of a coolant stop (R491)
  zeroList    : List (Nat × Nat × Nat) -- its DRAM regions: mast, offset, length
  reefValid   : Bool
  reefGroup   : Nat
  reefTarget  : Nat
  reefSeq     : Nat
  counterRead : Bool
  compat      : Bool
  shsel       : Tab Nat
  deriving DecidableEq, Repr

/-- An export (R195 to R197). Page status: 0 delivered, 1 refused, 2 timed out, 3 sent, 4 not yet shipping, 5 shipping and not yet
sent. -/
structure Export where
  ctx       : Nat
  slot      : Nat
  session   : Nat
  first     : Nat
  last      : Nat
  pkg       : Nat
  tctx      : Nat
  tslot     : Nat
  started   : Bool
  source    : Option Request   -- of a KV_EXPORT: its request as it stood when the export started (R196)
  headed    : Bool         -- its header has been sent (R196), which waits for the tokens it carries (R24)
  resync    : Bool         -- the copy of a session in RESYNC (R204), not a KV_EXPORT
  hand      : Bool         -- started since HANDOVER was set (R195)
  torn      : Bool
  pages     : Tab Nat
  frames    : List (Nat × Nat × Nat)   -- what is shipping: page, mast, unit (R167)
  deriving DecidableEq, Repr

/-- An import (R196 to R198), keyed by source package × 2^32 + export id. -/
structure Import where
  ctx     : Nat
  slot    : Nat
  session : Nat
  copy    : Bool                 -- of a mirrored session; `slot` is then the source's session (R204)
  refused : Bool
  got     : List (Nat × Nat)     -- (page, mast) written
  done    : List Nat             -- pages acknowledged or refused
  deriving DecidableEq, Repr

/-! ## Host side -/

/-- A flit in a replay buffer (R242, R245). -/
structure Flit where
  seq     : Nat
  typ     : Nat
  ch      : Nat
  first   : Nat
  fill    : Nat
  payload : Bytes
  resends : Nat            -- resends without acknowledgement (R246)
  born    : Nat            -- orders the flits that are not acknowledged by when they first went out (R248)
  deriving DecidableEq, Repr

/-- One UCIe module (R240 to R250, R255). STATE 0 down, 1 training, 2 up, 3 retraining. -/
structure Module where
  state    : Nat
  rate     : Nat
  lanes    : Nat
  repaired : Nat
  replays  : Nat
  retrains : Nat
  txSeq    : Nat
  rxLast   : Nat
  replay   : List Flit
  failRun  : Nat
  times    : List Nat      -- package times of its recent retrains
  broken   : Bool          -- its fault wires are broken (R403)
  owes     : Bool          -- the RESUME that reports its last SEQ waits for room on another module (R245, R248)
  rest     : List Flit     -- flits that RESUME said were not accepted, which go out on another module (R248)
  fresh    : Bool          -- its first training since READY has not ended (R250)
  awaits   : Bool          -- it went down, and the peer's RESUME for it has not come (R248, R249)
  deriving DecidableEq, Repr

/-- One command channel (R243, R260 to R269). -/
structure Chan where
  module   : Nat
  buf      : Bytes                -- reassembly bytes
  skipping : Bool                 -- discarding after a framing error
  lost     : Nat                  -- bytes discarded since that error
  waiting  : List (Nat × Req × Nat) -- requests received and not examined: opcode, request, arrival number
  tags     : List Nat
  answers  : List Pkt             -- responses and completions that wait for host credits
  host     : Nat                  -- units the host has granted
  reqs     : Nat                  -- request units the host holds or is owed
  owed     : Nat                  -- those that no CREDIT field has returned yet (R244, R268)
  deriving DecidableEq, Repr

/-- What a started command still owes (R261). -/
inductive Owed where
  | unfurl
  | furl
  | release (mast base : Nat)
  | shard (id : Nat)
  | prog (ptr len : Nat)
  | exported (exportId : Nat)
  | promote
  | linkTrain (mask : Nat)
  | attest
  | svn
  | maint (activity : Nat)
  deriving DecidableEq, Repr

structure Outstanding where
  ch     : Nat
  tag    : Nat
  opcode : Nat
  ctx    : Nat
  what   : Owed
  deriving DecidableEq, Repr

/-- A notice in the device queue (R283). -/
inductive Notice where
  | event (r : Record)
  | ctxTorn (ctx cause step : Nat)
  | portEvent (port ev : Nat)
  deriving DecidableEq, Repr

structure Stauc where
  negotiated  : Bool
  eventCh     : Nat
  eventMin    : Nat
  chans       : Tab Chan
  outstanding : List Outstanding
  notices     : List Notice
  dropped     : Nat          -- notices dropped since the previous EVENT
  arrivals    : Nat          -- requests reassembled so far (R263)
  current     : Nat          -- the arrival number of the request under examination
  deriving DecidableEq, Repr

/-- Host interface and firmware delivery (R249 to R256). -/
structure HostIf where
  mods       : Tab Module
  ready      : Bool
  fwDone     : Bool
  verifying  : Bool
  rejected   : Bool
  oper       : Bool
  chunks     : Tab Bytes      -- image offset ÷ 8 → 8 bytes
  imageLen   : Nat
  resumeFrom : Option Nat     -- while the link is down: the last module to go down (R249)
  err        : Word
  deriving DecidableEq, Repr

/-! ## Power, faults, trust, power-up -/

structure Hint where
  watts : Nat
  start : Nat
  stop  : Nat
  on    : Bool
  deriving DecidableEq, Repr

/-- Power and clocks (R375 to R402). `delivered`: sixteenths of AK edges the governor delivers. -/
structure Power where
  cap        : Nat
  capLow     : Bool
  capMgmt    : Nat
  mgmtLow    : Bool
  capSafe    : Nat
  hbEn       : Bool
  capEff     : Nat
  reefLimit  : Nat
  hbCount    : Nat
  hbAge      : Nat          -- µs
  hbLost     : Bool
  peakW      : Nat
  avgW       : Nat
  samples    : List PowerSample   -- of the governor period (R387, R458)
  staticW    : Nat
  dyn        : List Nat
  akMhz      : List Nat
  thermal    : Nat
  governor   : Nat
  delivered  : Nat
  fastRun    : Nat
  applied    : Nat
  target     : Option Nat   -- a pending reef change
  window     : Bool
  droopEnd   : Nat
  hints      : List Hint
  limiter    : Bool
  excursion  : Bool
  overRange  : Bool
  tj         : Nat
  hotDie     : Nat
  tjDram     : Nat
  tjHub      : Nat
  hubW       : Nat
  vin        : Nat
  pair       : Nat
  stops      : Nat
  coolstop   : Bool
  brownout   : Bool
  floorCap   : Bool
  floorMgmt  : Bool
  ctxSel     : Nat
  err        : Word
  deriving DecidableEq, Repr

/-- A maintenance activity that holds its class (R282, R418). -/
structure Maint where
  activity : Nat
  arg      : Nat
  tag      : Nat
  ch       : Nat
  device   : Bool
  deriving DecidableEq, Repr

/-- Fault collector (R403 to R426). `sectors`: LOG_INDEX values per used sector, oldest sector first;
a place whose write was interrupted holds 2^32 (R416, R417). -/
structure Faults where
  mergeMs    : Nat
  logCe      : Bool
  seq        : Nat
  ring       : Tab Record
  wires      : Nat
  wireMast   : Nat
  wireUnit   : Nat
  err        : Word
  fatal      : Bool
  fatalCause : Nat
  faultOut   : Bool
  log        : Tab Record
  sectors    : List (List Nat)
  logNext    : Nat
  logTorn    : Nat
  logWrites  : List Record   -- records that have found an erased place, the first of them being written (R416)
  logQueue   : List Record   -- records that wait for an erased place (R417)
  logSel     : Nat
  holders    : Tab Maint
  queues     : Tab (List Maint)
  repair     : List (Nat × Nat)
  deriving DecidableEq, Repr

/-- An attestation report in production (R437): captured content, and whom it answers. -/
structure Report where
  content  : Bytes
  nonce    : Bytes
  endpoint : Bool
  deriving DecidableEq, Repr

/-- Beyrustan Trust Block (R427 to R444). -/
structure Trust where
  stage        : Nat
  aliasSlh     : Bool
  aliasRsa     : Bool
  fwKey        : Nat
  fwSvn        : Nat
  annexCount   : Nat
  rejectReason : Nat
  rejectCount  : Nat
  fusedSvn     : Nat
  commitBusy   : Bool
  commitTarget : Nat
  fuseOn       : Bool         -- a fuse is being programmed (R421, R440)
  certDraw     : Nat          -- the draw of the alias certificates' signatures (R436; log entry 6)
  measure      : Bytes
  annexDigest  : Bytes
  annex        : Bytes
  keySeq       : Tab Nat      -- port → least KEY_SEQ it still accepts
  reports      : List Report
  held         : Option (Bytes × Bytes)   -- the endpoint's report: nonce and bytes
  err          : Word
  deriving DecidableEq, Repr

/-- Identification (R472) and the calibration results shown there. -/
structure Ident where
  part         : Nat
  disabledMast : Nat
  hostDie      : Nat
  variant      : Nat
  unitId       : Nat
  present      : Nat
  fencedCal    : Nat
  failStep     : Nat
  failMasts    : Nat
  calMs        : Nat
  deriving DecidableEq, Repr

/-- Crow's Nest, power-up sequence and host die reset (R463 to R470, R478, R484). -/
structure CrowsNest where
  powered    : Bool
  cold       : Bool         -- it has been powered anew since the last start: the next one is a cold one (R466)
  running    : Bool         -- step 2 has completed since it was powered: its comparators are active (R463, R476)
  paused     : Bool         -- the next step of the sequence waits for the end of brownout (R468)
  stage      : Nat          -- 0x1 to 0x7 of R470; 0 while step 2 has not completed
  inputValid : Bool
  flowWait   : Bool
  coolFirst  : Bool         -- lost flow switched the mast rails off: dies must be below 85 °C (R468)
  held       : Bool         -- a start waits for 10 ms after the shutdown
  holdOver   : Bool         -- those 10 ms have passed
  rail       : Bool         -- the last start was a rail restart
  restarts   : Nat
  readyTime  : Nat
  operTime   : Nat
  timeHi     : Option Word  -- CN_TIME_HI as a sideband read of CN_TIME_LO latched it (R469)
  err        : Word
  hubRails   : Bool
  mastRails  : Bool
  pwrok      : Bool
  resetOut   : Bool         -- the host die reset is asserted
  startCount : Nat
  deriving DecidableEq, Repr

/-! ## Halyard -/

/-- A shard (R306 to R322). States: 1 loading, 2 loaded, 3 rechecking, 4 quarantined. -/
structure Shard where
  ctx       : Nat
  state     : Nat
  reason    : Nat
  faultLine : Nat
  len       : Nat
  fabric    : Bool
  srcAddr   : Nat
  timeout   : Nat
  pieces    : List (Nat × Nat × Nat)     -- mast, offset, length
  svn       : Nat
  keyIndex  : Nat
  root      : Bytes
  modelId   : Bytes
  dirOff    : Nat
  dirCount  : Nat
  lines     : List Nat                   -- 128-byte lines in DRAM, ascending
  ready     : List Nat                   -- complete chunks not yet hashed, in order of completion
  leaves    : Tab Bytes
  rechecks  : Nat
  scanning  : Bool                       -- the root matched and the residual scan runs
  deriving DecidableEq, Repr

structure Halyard where
  period   : Nat
  sel      : Nat
  shards   : Tab Shard
  err      : Word
  nextScan : Nat          -- least shard id that the round of rechecks has not reached (R317)
  deriving DecidableEq, Repr

/-! ## Nalec -/

/-- A key slot of a port (R343, R344). -/
structure KeySlot where
  key     : Bytes
  salt    : Bytes
  txCtr   : Nat
  rxCtr   : Nat
  retired : Bool
  rxDone  : Bool             -- the receiver has acknowledged a KEYSYNC away from it (R344)
  deriving DecidableEq, Repr

/-- A port's IDENT observation (R328). -/
structure Peer where
  kind   : Nat
  unitId : Nat
  port   : Nat
  part   : Nat
  index  : Nat
  enc    : Bool
  deriving DecidableEq, Repr

/-- A link frame of this end in a replay buffer (R326, R327, R343): its payload and tag as they were first sent, and how often
it has been sent again without acknowledgement. -/
structure LFrame where
  typ     : Nat
  seq     : Nat
  enc     : Bool
  slot    : Nat
  body    : Bytes
  tag     : Bytes
  resends : Nat
  deriving DecidableEq, Repr

/-- One Nalec port (R324 to R330, R343, R348). -/
structure Port where
  state     : Nat
  cause     : Nat
  broken    : Bool
  peer      : Option Peer
  slots     : Tab KeySlot
  txSlot    : Nat
  rxSlot    : Nat
  syncOwed  : Bool             -- a KEYSYNC of this port is unacknowledged
  txSeq     : Nat
  rxLast    : Nat
  replay    : List LFrame          -- oldest first
  waits     : List (Nat × Nat × Bytes)   -- IDENT and KEYSYNC frames that wait for room: TYPE, slot, payload
  queue     : List TPkt            -- packets that wait for the replay buffer or for credits
  credits   : Nat                  -- receive-buffer credits the peer has granted (R326)
  failRun   : Nat
  replays   : Nat
  retrains  : Nat
  gcmFail   : Nat
  partDrop  : Bool             -- a drop has been reported since the last PLAN_LOAD (R332)
  deriving DecidableEq, Repr

structure PlanPort where
  peerId   : Nat
  peerPort : Nat
  used     : Bool
  encReq   : Bool
  deriving DecidableEq, Repr

/-- The cabling plan (R329). -/
structure Plan where
  id       : Nat
  traySlot : Nat
  slotPkg  : List Nat
  mailbox  : Nat
  fmCtx    : Nat
  fmSlots  : Nat
  ports    : List PlanPort
  deriving DecidableEq, Repr

/-- A window (R334). -/
structure Window where
  read  : Bool
  write : Bool
  owner : Nat
  pkg   : Nat
  ctx   : Nat
  base  : Nat
  size  : Nat
  deriving DecidableEq, Repr

/-- Who issued a fabric operation (R341). -/
inductive Issuer where
  | copy (ctx mast : Nat)
  | halyard (shard line : Nat)
  | mirror (ctx : Nat)
  | mailbox
  deriving DecidableEq, Repr

/-- An outstanding fabric operation (R337 to R341). -/
structure FabReq where
  issuer  : Issuer
  write   : Bool
  pkg     : Nat
  ctx     : Nat
  addr    : Nat
  lspace  : Nat           -- where a read's line goes: space, mast and offset
  lmast   : Nat
  loff    : Nat
  reqId   : Nat
  epoch   : Nat
  attempt : Nat
  tries   : Nat           -- ATTEMPTS and FAB_TIMEOUT as they stood when it was issued (R347)
  timeout : Nat
  sent    : Bool          -- false while another operation to its line is outstanding (R337)
  port    : Nat
  data    : Bytes
  deriving DecidableEq, Repr

/-- What a target keeps of a source (R336, R337). -/
structure FabSrc where
  boot  : Nat
  epoch : Nat
  low   : Nat
  bits  : List Nat
  deriving DecidableEq, Repr

structure Nalec where
  partId    : Nat
  ownIndex  : Nat
  plan      : Option Plan
  ports     : Tab Port
  windows   : Tab Window
  dead      : List Nat
  epochs    : Tab Nat
  nextWrite : Tab Nat
  nextRead  : Nat
  sources   : Tab FabSrc
  reqs      : Tab FabReq
  nextKey   : Nat
  timeout   : Nat
  attempts  : Nat
  partDrop  : Nat
  staleDrop : Nat
  mailSeq   : Nat
  err       : Word
  deriving DecidableEq, Repr

/-! ## Collectives -/

structure Member where
  ctx  : Nat
  mast : Nat
  pkg  : Nat
  deriving DecidableEq, Repr

/-- A collective group (R350 to R352, R373). -/
structure Group where
  ctx     : Nat
  members : List Member
  crc     : Nat
  next    : Tab Nat      -- member mast of this package → the SEQ its next call takes
  method  : Nat
  outcome : Nat
  deriving DecidableEq, Repr

/-- A chunk that its receiver has not acknowledged (R361, R365, R366). `port` 254: not sent yet, 255: sent on no port. `src`:
where it stands in the member's source region; `data` alone is what a chunk of none, a ring partial among them, is. -/
structure ColChunk where
  dest    : Nat
  id      : Nat
  info    : Nat
  data    : Bytes
  src     : Option Nat
  attempt : Nat
  port    : Nat
  deriving DecidableEq, Repr

/-- A collective call in flight on a member (R355 to R369). `got`: chunks by sender rank; `ends`: rows counted by END
markers; `prod`: this member's source bytes, as they stood when the call started. -/
structure ColCall where
  group    : Nat
  seq      : Nat
  ctx      : Nat
  mast     : Nat
  rank     : Nat
  op       : Nat
  dtype    : Nat
  alg      : Nat
  inSwitch : Bool
  chain    : Bool
  root     : Nat
  src      : Nat
  dst      : Nat
  count    : Nat
  aux0     : Nat
  aux1     : Nat
  cap      : Nat
  method   : Nat
  fallback : Bool
  latched  : Nat
  reefMax  : Nat
  agrees   : Bool                            -- its group was the context's reef group when it started (R401)
  planesMin : Nat                            -- COL_CTRL and ATTEMPTS as they stood when it started (R347, R372)
  smallLog : Nat
  tries    : Nat
  got      : List (Nat × Nat × Bytes)        -- sender rank, chunk id, 128 bytes
  tagsGot  : List (Nat × Nat × Nat)          -- sender rank, row ordinal, tag
  sent     : List ColChunk
  acked    : Tab Nat                         -- the low mark each receiver has acknowledged (R365)
  endsOwed : Tab Nat                         -- END markers that follow the last row to a member (R357)
  held     : List (Nat × Bytes)              -- tags and rows of this package that wait for its other members (R358)
  prod     : Bytes
  ends     : Tab Nat
  owedAcks : List Nat                        -- sender ranks owed an ACK
  ackPorts : List Nat                        -- ports whose switch is owed an ACK (R363, R365)
  rows     : Nat                             -- all-to-all rows placed
  dropped  : Nat
  keyLo    : Nat                             -- A2A_RETURN: the range of keys it registered (R358)
  keyHi    : Nat
  planeLoss : Bool
  deriving DecidableEq, Repr

structure Collectives where
  timeoutMs : Nat
  minPlanes : Nat
  smallLog2 : Nat
  sel       : Nat
  groups    : Tab Group
  calls     : List ColCall
  early     : List TPkt
  hubNet    : List TPkt                      -- packets between members of this package, oldest first (R359)
  reefs     : Tab Nat                        -- by call (`reefKey`), the largest REEF_REQ of a call not in flight (R382)
  err       : Word
  deriving DecidableEq, Repr

/-! ## The whole package -/

structure State where
  time    : Nat
  cn      : CrowsNest
  id      : Ident
  pwr     : Power
  flt     : Faults
  btb     : Trust
  hif     : HostIf
  st      : Stauc
  masts   : Tab Mast
  ctxs    : Tab Ctx
  zeroing : Tab (List (Nat × Nat × Nat)) -- destroyed context → regions being zeroed: mast, offset, length (R293)
  reqs    : Tab Request
  sess    : Tab Session
  srvSel  : Nat
  srvErr  : Word
  exports : Tab Export
  nextExp : Nat
  imports : Tab Import
  hal     : Halyard
  nlc     : Nalec
  col     : Collectives
  pmc     : PmcBlk
  out     : List Out
  free    : Nat
  pending : List Instr
  deriving DecidableEq, Repr

/-! ## Reset

`State.reset` is the machine at the instant it becomes operational after a cold start (R11; log entry 5). A value that
is marked DESIGN CHOICE below is one the spec leaves open (log entry 3). -/

/-- A table with the same entry at every key below `n`. -/
def fillTab {α : Type} (n : Nat) (a : α) : Tab α := (List.range n).map fun k => (k, a)

/-- R212, R223, R463 step 7: DRAM is zeroed when the package becomes ready. -/
def Dram.reset : Dram := { cells := [], poison := [], flaws := [], rowErrs := [] }

/-- R82 to R86. DESIGN CHOICE (log entry 3): no engine failed its self-test. -/
def MeBlk.reset : MeBlk :=
  { spareUsed := false, bistFenced := false, fencedPhys := 0x1F, spareFor := 0x1F, bistFail := 0, err := 0,
    engines := [], holders := [] }

def AeBlk.reset : AeBlk := { ctxSel := 0, err := 0, engines := [], sealJobs := [], building := false }

def RtuBlk.reset : RtuBlk := { ctxSel := 0, err := 0, ctx := 0, layer := 0, state := 0, last := [], lists := [] }

/-- R111: SAMPLE_EN and AUTO_WIDEN_EN are 1 at reset. -/
def TtBlk.reset : TtBlk :=
  { sampleEn := true, autoEn := true, seed := 0, latch := [], selCtx := 0, selLayer := 0, cmdStatus := 0, err := 0,
    recs := [], tiles := [], samples := [], results := [] }

/-- R236, R238: a scrub period of 24 h, a threshold of 0x2000 and 4 windows. -/
def McBlk.reset : McBlk :=
  { setLog2 := [], bandPending := [], scrubPeriod := 0x18, passes := 0, chunk := 0, ctxSel := 0, ctxs := [],
    thr := 0x2000, windows := 4, errValid := false, errCtx := 0, errAddr := 0, err := 0, refreshReq := 0,
    auto2x := false, selfRefresh := false }

def PmcBlk.reset : PmcBlk := { ovf := 0, ctxSel := 0, progs := [], fixed := [], served := 0, shadows := [] }

/-- One mast when the package becomes operational. DESIGN CHOICE (log entry 3): its measured temperature, power and
traffic read 0 before the first sample. -/
def Mast.reset : Mast :=
  { fenced := false, cause := 0, dram := Dram.reset, spad := { cells := [], flaws := [] },
    lc := { lines := [], clock := 0 }, me := MeBlk.reset, ae := AeBlk.reset, rtu := RtuBlk.reset, tt := TtBlk.reset,
    mc := McBlk.reset, pmc := PmcBlk.reset, bulk := [], calls := [], limits := [], droop := false, tj := 0,
    railW := 0, dramGbs := 0 }

/-- R268: the device grants 64 request units on a channel; the host has granted none. -/
def Chan.reset (c : Nat) : Chan :=
  { module := c % 4, buf := [], skipping := false, lost := 0, waiting := [], tags := [], answers := [],
    host := 0, reqs := 64, owed := 64 }

def Stauc.reset : Stauc :=
  { negotiated := false, eventCh := 0, eventMin := 0, chans := (List.range 8).map fun c => (c, Chan.reset c),
    outstanding := [], notices := [], dropped := 0, arrivals := 0, current := 0 }

/-- R255: a module before its first training. -/
def Module.reset : Module :=
  { state := 0, rate := 0, lanes := 0, repaired := 0, replays := 0, retrains := 0, txSeq := 0, rxLast := 4095,
    replay := [], failRun := 0, times := [], broken := false, owes := false, rest := [], fresh := true,
    awaits := false }

/-- R252, R254, R255: READY, FW_DONE_SEEN and OPERATIONAL are 1 once the device is operational; no module has trained. -/
def HostIf.reset : HostIf :=
  { mods := fillTab 4 Module.reset, ready := true, fwDone := true, verifying := false, rejected := false, oper := true,
    chunks := [], imageLen := 0, resumeFrom := none, err := 0 }

/-- R398 to R402. DESIGN CHOICE (log entry 3): the calibrated level figures are the typical ones of R379, and no
measurement has been taken. -/
def Power.reset : Power :=
  { cap := 2000, capLow := false, capMgmt := 2000, mgmtLow := false, capSafe := 1200, hbEn := true, capEff := 2000,
    reefLimit := 0, hbCount := 0, hbAge := 0, hbLost := false, peakW := 0, avgW := 0, samples := [], staticW := 0,
    dyn := [512, 424, 368, 281, 184], akMhz := [600, 533, 480, 400, 300], thermal := 0, governor := 0, delivered := 16,
    fastRun := 0, applied := 0, target := none, window := false, droopEnd := 0, hints := [], limiter := false,
    excursion := false, overRange := false, tj := 0, hotDie := 0, tjDram := 0, tjHub := 0, hubW := 0, vin := 0,
    pair := 0, stops := 0, coolstop := false, brownout := false, floorCap := false, floorMgmt := false, ctxSel := 0,
    err := 0 }

/-- R424 to R426. DESIGN CHOICE (log entry 3): the event log in the NOR is empty. -/
def Faults.reset : Faults :=
  { mergeMs := 10, logCe := false, seq := 0, ring := [], wires := 0, wireMast := 0, wireUnit := 0, err := 0,
    fatal := false, fatalCause := 0, faultOut := false, log := [], sectors := [], logNext := 0, logTorn := 0,
    logWrites := [], logQueue := [], logSel := 0, holders := [], queues := [], repair := [] }

/-- R442 to R444. DESIGN CHOICE (log entry 3): the measures and fuses of the running image are zero. -/
def Trust.reset : Trust :=
  { stage := 4, aliasSlh := true, aliasRsa := false, fwKey := 0, fwSvn := 0, annexCount := 0, rejectReason := 0,
    rejectCount := 0, fusedSvn := 0, commitBusy := false, commitTarget := 0, fuseOn := false, certDraw := 0,
    measure := List.replicate 48 0,
    annexDigest := List.replicate 48 0, annex := [], keySeq := [], reports := [], held := none, err := 0 }

/-- R472. DESIGN CHOICE (log entry 3): a DZ3080-A with host die H01 and unit 0. -/
def Ident.reset : Ident :=
  { part := 0x3080, disabledMast := 0xF, hostDie := 1, variant := 0, unitId := 0, present := 0xFF, fencedCal := 0,
    failStep := 0, failMasts := 0, calMs := 0 }

/-- R463, R470. DESIGN CHOICE (log entries 3 and 4): a cold start, and the times are the bounds of R463. -/
def CrowsNest.reset : CrowsNest :=
  { powered := true, cold := false, running := true, paused := false, stage := 7, inputValid := true, flowWait := false,
    coolFirst := false, held := false, holdOver := false, rail := false, restarts := 0, readyTime := 1100000, operTime := 1300000,
    timeHi := none, err := 0, hubRails := true, mastRails := true, pwrok := true, resetOut := false, startCount := 0 }

def Halyard.reset : Halyard := { period := 0x18, sel := 0, shards := [], err := 0, nextScan := 0 }

/-- R348: a port that has not been trained. -/
def Port.reset : Port :=
  { state := 0, cause := 0, broken := false, peer := none, slots := [], txSlot := 0, rxSlot := 0, syncOwed := false,
    txSeq := 0, rxLast := 4095, replay := [], waits := [], queue := [], credits := 64, failRun := 0, replays := 0, retrains := 0, gcmFail := 0,
    partDrop := false }

/-- R347: FAB_TIMEOUT 500 and 3 attempts. -/
def Nalec.reset : Nalec :=
  { partId := 0, ownIndex := 0, plan := none, ports := fillTab 42 Port.reset, windows := [], dead := [], epochs := [],
    nextWrite := [], nextRead := 0, sources := [], reqs := [], nextKey := 0, timeout := 0x1F4, attempts := 3,
    partDrop := 0, staleDrop := 0, mailSeq := 0, err := 0 }

/-- R372: COL_TIMEOUT 50 ms, 18 planes, SMALL_LOG2 14. -/
def Collectives.reset : Collectives :=
  { timeoutMs := 50, minPlanes := 0x12, smallLog2 := 14, sel := 0, groups := [], calls := [], early := [], hubNet := [],
    reefs := [], err := 0 }

/-- The machine at the instant it becomes operational after a cold start (R11; log entries 3, 4 and 5). -/
def State.reset : State :=
  { time := 1300000, cn := CrowsNest.reset, id := Ident.reset, pwr := Power.reset, flt := Faults.reset,
    btb := Trust.reset, hif := HostIf.reset, st := Stauc.reset, masts := fillTab 8 Mast.reset, ctxs := [], zeroing := [], reqs := [],
    sess := [], srvSel := 0, srvErr := 0, exports := [], nextExp := 0, imports := [], hal := Halyard.reset,
    nlc := Nalec.reset, col := Collectives.reset, pmc := PmcBlk.reset, out := [], free := 0, pending := [] }

end Sys2Proof.Machine
end

