-- ==== Sys2Proof/Machine/Table.lean ====
section
/-! DEFINITION. Sparse tables: keys strictly rising, an absent key is an absent entry. -/
namespace Sys2Proof.Machine

/-- The entry at `k`. -/
def tget {α : Type} : Tab α → Nat → Option α
  | [], _ => none
  | (j, a) :: t, k => if k = j then some a else tget t k

/-- The entry at `k`, or `d`. -/
def tgetD {α : Type} (t : Tab α) (k : Nat) (d : α) : α := (tget t k).getD d

/-- `t` with `a` at `k`. -/
def tset {α : Type} : Tab α → Nat → α → Tab α
  | [], k, a => [(k, a)]
  | (j, b) :: t, k, a =>
    if k < j then (k, a) :: (j, b) :: t else if k = j then (k, a) :: t else (j, b) :: tset t k a

/-- `t` without the entry at `k`. -/
def tdel {α : Type} (t : Tab α) (k : Nat) : Tab α := t.filter fun e => !(e.1 == k)

/-- `t` with its entry at `k`, where it has one, changed by `f`. -/
def tmod {α : Type} (t : Tab α) (k : Nat) (f : α → α) : Tab α :=
  t.map fun e => if e.1 == k then (e.1, f e.2) else e

/-- Every entry changed by `f`. -/
def tmap {α : Type} (t : Tab α) (f : Nat → α → α) : Tab α := t.map fun e => (e.1, f e.1 e.2)

/-- Whether `k` has an entry. -/
def thas {α : Type} (t : Tab α) (k : Nat) : Bool := t.any fun e => e.1 == k

/-- The keys, ascending. -/
def tkeys {α : Type} (t : Tab α) : List Nat := t.map (·.1)

/-- The entries that satisfy `p`. -/
def tfilter {α : Type} (t : Tab α) (p : Nat → α → Bool) : Tab α := t.filter fun e => p e.1 e.2

/-- The table of a list of keys with one value each. -/
def tof {α : Type} (l : List (Nat × α)) : Tab α := l.foldl (fun t e => tset t e.1 e.2) []

end Sys2Proof.Machine
end

