-- ==== Sys2Proof/Machine/Count.lean ====
section
/-! DEFINITION. Event counters: occurrences of events, and how fixed and programmable counters count them
(R445 to R451). -/
namespace Sys2Proof.Machine

/-- `n` occurrences of an event (R449): privilege bit 0 FIRMWARE, 1 JOB, 2 HOST; `cls` the bit of TCLASS; `off` the DRAM
offset of events 0x050 to 0x063 of a mast. -/
structure Occ where
  ev     : Nat
  n      : Nat
  priv   : Nat
  ctx    : Nat
  master : Nat
  off    : Option Nat
  cls    : Nat

/-- An occurrence without offset. -/
def occ (ev n priv ctx master : Nat) : Occ := { ev, n, priv, ctx, master, off := none, cls := 0 }

/-- How many of `n` occurrences lie in the selector's range: the first at offset `a`, each other one at the start of the 128-byte
line that follows (R448, R449). -/
def inRange (sel : Bytes) (a n : Nat) : Nat :=
  let lo := u64 sel 8
  let hi := u64 sel 16
  b2n (decide (n ≠ 0 ∧ lo ≤ a ∧ a < hi))
    + (min (a / 128 + n) (ceilDiv hi 128) - max (a / 128 + 1) (ceilDiv lo 128))

/-- Whether a selector's filters other than the address range let in an occurrence (R448, R449). -/
def selAdmits (sel : Bytes) (o : Occ) : Bool :=
  bit (u8 sel 6) 0 && (u16 sel 0 % 1024 == o.ev) && bit (u8 sel 2) o.priv
  && (u8 sel 3 % 128 == 0 || u8 sel 3 % 128 == o.ctx)
  && (u8 sel 4 % 32 == 0x1F || u8 sel 4 % 32 == o.master)
  && (match o.off with
      | none => !bit (u8 sel 6) 2 && u8 sel 5 % 32 == 0x1F
      | some _ => bit (u8 sel 5) o.cls)

/-- How often a selector counts an occurrence: `n` occurrences with an offset are `n` successive 128-byte lines. -/
def selCount (sel : Bytes) (o : Occ) : Nat :=
  if selAdmits sel o then
    match o.off with
    | none => o.n
    | some a => if bit (u8 sel 6) 2 then inRange sel a o.n else o.n
  else 0

/-- Whether an odd counter is chained to its even partner (R451). -/
def chained (n : Nat) (sel : Bytes) : Bool := n % 2 == 1 && bit (u8 sel 6) 1

/-- Counter `n` counts `k` more: it wraps at 2^32 and sets its bit of PMC_OVF; the number of wraps is the second result
(R451). -/
def addProg (b : PmcBlk) (n k : Nat) : PmcBlk × Nat :=
  match tget b.progs n with
  | none => (b, 0)
  | some p =>
    let v := p.val + k
    let w := v / 2 ^ 32
    ({ b with progs := tset b.progs n { p with val := v % 2 ^ 32 },
              ovf := if w = 0 then b.ovf else b.ovf ||| BitVec.ofNat 64 (2 ^ n) }, w)

/-- Counter `n` counts `k` more, and a chained partner counts its wraps (R451). -/
def addProgChain (b : PmcBlk) (n k : Nat) : PmcBlk :=
  let r := addProg b n k
  match tget r.1.progs (n + 1) with
  | none => r.1
  | some q => if chained (n + 1) q.sel && bit (u8 q.sel 6) 0 && !q.dead then (addProg r.1 (n + 1) r.2).1 else r.1

/-- Every programmable counter that an occurrence matches counts it. -/
def countProgs (b : PmcBlk) (o : Occ) : PmcBlk :=
  (b.progs.filter fun e => !chained e.1 e.2.sel).foldl
    (fun b e => if e.2.dead || selCount e.2.sel o = 0 then b else addProgChain b e.1 (selCount e.2.sel o)) b

/-- The fixed counter and the programmable counters count an occurrence (R445, R449). -/
def PmcBlk.count (b : PmcBlk) (o : Occ) : PmcBlk :=
  if o.n = 0 then b
  else countProgs { b with fixed := tset b.fixed o.ev ((tgetD b.fixed o.ev 0 + o.n) % 2 ^ 64) } o

end Sys2Proof.Machine
end

