-- ==== Sys2Proof/Machine/Ops.lean ====
section
/-! DEFINITION. The named operations every command shares: reaching a mast or a context, drawing a free value, counting,
raising an error record and queueing an answer or a notice. -/
namespace Sys2Proof.Machine

/-! ## Ends of a meaning -/

/-- A meaning ends in the state `t`, with the queue of waiting commands as the command found it in `s`. -/
def settle (s t : State) : Host.Outcome State Fault Refusal := .next { t with pending := s.pending }

/-- A meaning that names a mast. -/
def onMast (n : Nat) (s t : State) : Host.Outcome State Fault Refusal :=
  if n < 8 then settle s t else .fault .noSuchUnit

/-- A meaning that names a Nalec port. -/
def onPort (p : Nat) (s t : State) : Host.Outcome State Fault Refusal :=
  if p < 42 then settle s t else .fault .noSuchUnit

/-- A meaning that names a UCIe module. -/
def onModule (m : Nat) (s t : State) : Host.Outcome State Fault Refusal :=
  if m < 4 then settle s t else .fault .noSuchUnit

/-- A meaning that names a command channel. -/
def onChannel (c : Nat) (s t : State) : Host.Outcome State Fault Refusal :=
  if c < 8 then settle s t else .fault .noSuchUnit

/-- The boot ROM runs: step 4 of R463 has completed. -/
def State.bootRom (s : State) : Bool := s.cn.hubRails && decide (3 ≤ s.cn.stage) && !s.flt.fatal

/-- The device acts: it is operational and not in the fatal state (R250, R414). -/
def State.alive (s : State) : Bool := s.hif.oper && !s.flt.fatal

/-- What a command does to a device that acts; otherwise nothing (log entry 8). -/
def State.whenAlive (s : State) (t : State) : State := if s.alive then t else s
/-- What a fabric packet does to a package that has a partition id; an unassigned one accepts none (R331). -/
def State.whenAssigned (s : State) (t : State) : State := if s.nlc.partId = 0 then s else t

/-! ## Reaching the parts -/

def State.mast (s : State) (n : Nat) : Mast := tgetD s.masts n Mast.reset
def State.modMast (s : State) (n : Nat) (f : Mast → Mast) : State := { s with masts := tmod s.masts n f }
/-- Every mast is changed. -/
def State.mapMasts (s : State) (f : Nat → Mast → Mast) : State := { s with masts := tmap s.masts f }
def State.ctx? (s : State) (c : Nat) : Option Ctx := tget s.ctxs c
def State.modCtx (s : State) (c : Nat) (f : Ctx → Ctx) : State := { s with ctxs := tmod s.ctxs c f }
def State.present (s : State) (n : Nat) : Bool := n < 8 && bit s.id.present n
def State.fencedMast (s : State) (n : Nat) : Bool := (s.mast n).fenced

/-- A mast that can act: present, not fenced. -/
def State.mastUp (s : State) (n : Nat) : Bool := s.present n && !s.fencedMast n

/-- The masts of a context, ascending. -/
def Ctx.masts (c : Ctx) : List Nat := bitsSet c.mastMask 8

def State.emit (s : State) (o : Out) : State := { s with out := s.out ++ [o] }

/-- A coolant stop has frozen the calls of a context: of the package, or its own until its COOL_RESUME (R394, R395). -/
def State.frozen (s : State) (ctx : Nat) : Bool := s.pwr.coolstop || (s.ctx? ctx).map (·.state) == some .coolstop

/-! ## Free values (log entry 2) -/

def State.freeWord (s : State) : Word := Config.freeWord s.free
def State.freeNat (s : State) : Nat := Config.freeNat s.free

/-- The next free value is another one. -/
def State.drawn (s : State) : State := { s with free := s.free + 1 }

/-- `n` free bytes. -/
def State.freeBytes (s : State) (n : Nat) : Bytes := (List.range n).map fun i => Config.freeByte (s.free + i)
def State.drawnN (s : State) (n : Nat) : State := { s with free := s.free + n }

/-! ## Counting (R445 to R449) -/

/-- An occurrence on mast `m`; the counters of a fenced mast are frozen (R460). -/
def State.countM (s : State) (m : Nat) (o : Occ) : State :=
  s.modMast m fun x => if x.fenced then x else { x with pmc := x.pmc.count o }

/-- An occurrence on the hub. -/
def State.countH (s : State) (o : Occ) : State := { s with pmc := s.pmc.count o }

/-! ## Error records (R404 to R410) -/

/-- Classes of R404. -/
def clsCE : Nat := 0
def clsUC : Nat := 1
def clsFT : Nat := 2
def clsNOTE : Nat := 3

/-- MAST of a record of the hub, and UNIT when none applies (R406). -/
def hubMast : Nat := 0xF
def noUnit : Nat := 0xFF

/-- A record with its cause, class, mast, unit and context; its other fields 0. -/
def mkRec (cause cls mast unit ctx : Nat) : Record :=
  { cause, cls, mast, unit, ctx, layer := 0, time := 0, step := 0, addr := 0, info0 := 0, info1 := 0, seq := 0,
    logIndex := none, repeats := 0 }

/-- The 64-byte image of a record (R406). -/
def Record.image (r : Record) : Bytes :=
  let b := natLe 2 r.cause
    ++ natLe 1 (packFields [(0, 2, r.cls), (2, 1, b2n r.logIndex.isSome), (3, 1, b2n (decide (0 < r.repeats)))])
    ++ natLe 1 r.mast ++ natLe 1 r.unit ++ natLe 1 r.ctx ++ natLe 2 r.layer ++ natLe 8 r.time ++ natLe 8 r.step
    ++ natLe 8 r.addr ++ natLe 8 r.info0 ++ natLe 8 r.info1 ++ natLe 4 r.seq
    ++ natLe 4 (r.logIndex.getD 0xFFFFFFFF) ++ natLe 4 r.repeats
  b ++ natLe 4 (crc32 b)

/-- The step number a record of a context carries: that of its running step, else the last it started
(DEDUCED, log entry 10). -/
def Ctx.stepNo (c : Ctx) : Nat := match c.step with | some r => r.num | none => c.stepNext - 1

/-- CE causes that are always logged (R409). -/
def alwaysLogged (cause : Nat) : Bool := [0x0201, 0x1501, 0x1308, 0x0601, 0x0401, 0x1403, 0x0208].contains cause

/-- Whether a record is written to the event log (R409). -/
def Faults.logs (f : Faults) (r : Record) : Bool := r.cls != clsCE || alwaysLogged r.cause || f.logCe

/-- The merge window in microseconds (R424: 0 selects 10 ms). -/
def Faults.mergeUs (f : Faults) : Nat := (if f.mergeMs = 0 then 10 else f.mergeMs) * 1000

/-- The ring slot of the CE record into which an occurrence at `now` merges, if there is one (R410). -/
def Faults.mergeSlot (f : Faults) (now : Nat) (r : Record) : Option Nat :=
  if r.cls != clsCE then none
  else (f.ring.find? fun e => e.2.cls == clsCE && e.2.cause == r.cause && e.2.mast == r.mast && e.2.unit == r.unit
          && e.2.ctx == r.ctx && decide (now ≤ e.2.time + f.mergeUs)).map (·.1)

/-- Record places of the event log are kept for FT and BROWNOUT records (R417). -/
def urgent (r : Record) : Bool := r.cls == clsFT || r.cause == 0x0201

/-- Erased record places of a log's sectors (R416). -/
def erasedPlaces (ss : List (List Nat)) : Nat :=
  (64 - ss.length) * 1024 + (match ss.getLast? with | some l => 1024 - l.length | none => 0)

/-- A record finds an erased place that no record before it has: sixteen are kept for FT and BROWNOUT records (R417). -/
def Faults.finds (f : Faults) (r : Record) : Bool :=
  decide (f.logWrites.length + (if urgent r then 0 else 16) < erasedPlaces f.sectors)

/-- A record that is to be logged is written into an erased place, or waits in the queue of 64, or is not logged (R417): the record
with its LOG_INDEX, or unlogged. -/
def Faults.logOffer (f : Faults) (r : Record) : Faults × Record :=
  let r' := { r with logIndex := some f.logNext }
  if !f.logs r then (f, r)
  else if f.finds r then ({ f with logNext := (f.logNext + 1) % 2 ^ 32, logWrites := f.logWrites ++ [r'] }, r')
  else if f.logQueue.length < 64 then ({ f with logNext := (f.logNext + 1) % 2 ^ 32, logQueue := f.logQueue ++ [r'] }, r')
  else ({ f with err := f.err ||| 0x20 }, r)

/-- A notice joins the device queue of 256 (R283). -/
def State.notify (s : State) (n : Notice) : State :=
  if s.st.notices.length < 256 then { s with st := { s.st with notices := s.st.notices ++ [n] } }
  else
    { s with st := { s.st with dropped := min (s.st.dropped + 1) 0xFFFF },
             flt := { s.flt with err := s.flt.err ||| 0x100 } }.countH (occ 0x020 1 0 0 0x03)

/-- The FLT_ERR flags a new record sets (R426). -/
def recFlags (r : Record) : Word :=
  (if r.cls = clsCE then 1 else 0) ||| (if r.cls = clsUC then 2 else 0) ||| (if r.cause = 0x0201 then 4 else 0)
  ||| (if r.cause = 0x0102 then 8 else 0) ||| (if r.cause = 0x0101 then 0x10 else 0)

/-- A record is raised: merged, or given its time, step number and SEQ, put in the ring, offered to the log and offered
as an EVENT notice (R408 to R410). It has no other effect than these; teardown, fencing and the fatal state are the
work of the operations that call this one. -/
def State.raise (s : State) (r : Record) : State :=
  match s.flt.mergeSlot s.time r with
  | some k =>
    { s with flt := { s.flt with ring := tmod s.flt.ring k fun e => { e with repeats := min (e.repeats + 1) 0xFFFFFFFF } } }
  | none =>
    let r := { r with time := s.time, seq := s.flt.seq,
                      step := match s.ctx? r.ctx with | some c => c.stepNo | none => 0 }
    let lo := s.flt.logOffer r
    let s := { s with flt := { lo.1 with ring := tset lo.1.ring (r.seq % 1024) lo.2, seq := (r.seq + 1) % 2 ^ 32,
                                         err := lo.1.err ||| recFlags r } }
    if r.cls ≤ clsFT && s.st.eventMin ≤ r.cls then s.notify (.event lo.2) else s

/-! ## Packets to the host (R257 to R269) -/

/-- Credit units of a packet with a payload of `len` bytes (R267). -/
def units (len : Nat) : Nat := max 1 (ceilDiv len 64)

/-- Payload slots of a packet (R260). -/
def slots (len : Nat) : Nat := ceilDiv (32 + len) 16

/-- The bytes of a device packet (R257). -/
def Pkt.image (p : Pkt) : Bytes :=
  [0x30#8] ++ natLe 1 (packFields [(0, 2, p.kind), (4, 1, b2n p.more)]) ++ natLe 2 p.opcode ++ natLe 2 p.tag
  ++ natLe 2 p.ctx ++ natLe 4 p.payload.length ++ natLe 1 p.channel ++ zeros 3 ++ natLe 8 p.arg0 ++ natLe 8 p.arg1
  ++ p.payload

/-- Flits of a device packet on its channel, padded with zeros to a multiple of 16 bytes (R242, R243): FIRST is 0 in the
first, 15 in the others. -/
def flitsOf (ch seq born : Nat) (img : Bytes) : List Flit :=
  let n := ceilDiv img.length 16
  (enum (chunksOf 240 300 (img ++ zeros (16 * n - img.length)))).map fun e =>
    { seq := (seq + e.1) % 4096, typ := 1, ch, first := if e.1 = 0 then 0 else 15, fill := min 15 (n - 15 * e.1),
      payload := e.2, resends := 0, born := born + e.1 }

/-- The bytes of a flit with its ACK and CREDIT words (R242). -/
def Flit.image (f : Flit) (ack credit : Nat) : Bytes :=
  let body := natLe 4 (packFields [(28, 4, f.typ), (25, 3, f.ch), (20, 4, f.first), (16, 4, f.fill), (0, 12, f.seq)])
    ++ natLe 4 ack ++ natLe 4 credit ++ f.payload ++ zeros (240 - f.payload.length)
  body ++ natLe 4 (crc32 body)

/-- An IDLE flit, which carries acknowledgements and credits and has no number of its own (R243, R244). -/
def idleFlit : Flit := { seq := 0, typ := 0, ch := 0, first := 15, fill := 0, payload := [], resends := 0, born := 0 }

def State.chan (s : State) (c : Nat) : Chan := tgetD s.st.chans c (Chan.reset c)
def State.modChan (s : State) (c : Nat) (f : Chan → Chan) : State :=
  { s with st := { s.st with chans := tmod s.st.chans c f } }
def State.hmod (s : State) (m : Nat) : Module := tgetD s.hif.mods m Module.reset
def State.modHmod (s : State) (m : Nat) (f : Module → Module) : State :=
  { s with hif := { s.hif with mods := tmod s.hif.mods m f } }

/-- A number above those of all flits that are not acknowledged (R248). -/
def State.nextFlit (s : State) : Nat := maxD (s.hif.mods.flatMap fun e => (e.2.replay ++ e.2.rest).map fun f => f.born + 1) 0

/-- Flits leave on module `m`. DESIGN CHOICE (log entry 73): acknowledgements and credits go in IDLE flits of their own. -/
def State.putFlits (s : State) (m : Nat) (fs : List Flit) : State :=
  { s with out := s.out ++ fs.map fun f => .flit m (f.image 0 0) }

/-- Module `m` takes new flits into its replay buffer and sends them (R245). -/
def State.sendFlits (s : State) (m : Nat) (fs : List Flit) : State :=
  (s.modHmod m fun x => { x with txSeq := (x.txSeq + fs.length) % 4096, replay := x.replay ++ fs }).putFlits m fs

/-- The last accepted flit of a module is acknowledged, or the one after it asked for again (R244, R245). -/
def State.ackFlit (s : State) (m : Nat) (nak : Bool) (seq : Nat) : State :=
  s.emit (.flit m (idleFlit.image (packFields [(31, 1, 1), (30, 1, b2n nak), (0, 12, seq)]) 0))

/-- The modules that are up, ascending. -/
def State.modsUp (s : State) : List Nat := (List.range 4).filter fun m => (s.hmod m).state == 2

/-- Units owed on channel `c` return, 64 at most in one CREDIT field, on the lowest-numbered module that is up; none before
the device is operational (R242, R244, R250, R268; log entry 73). -/
def State.sendCredit (s : State) (c : Nat) : State :=
  let n := min 64 (s.chan c).owed
  match s.modsUp with
  | m :: _ =>
    if n = 0 || !s.hif.oper then s
    else (s.modChan c fun x => { x with owed := x.owed - n }).emit
      (.flit m (idleFlit.image 0 (packFields [(31, 1, 1), (28, 3, c), (0, 7, n)])))
  | [] => s

/-- `n` units return to the host on channel `c` of a device that is operational (R250, R268). -/
def State.giveCredit (s : State) (c n : Nat) : State :=
  if s.hif.oper then (s.modChan c fun x => { x with owed := x.owed + n }).sendCredit c else s

/-- A bundle is part-way out on channel `c`, so nothing else may be sent there (R269). -/
def State.bundleBusy (s : State) (c : Nat) : Bool :=
  s.ctxs.any fun e => match e.2.txq with
    | b :: _ => decide (0 < b.sent) && b.ch == c
    | [] => false

/-- Flits of channel `c` are unacknowledged on another module than `m`, or left from one that went down: new flits of it wait (R247,
R248). -/
def State.heldElsewhere (s : State) (c m : Nat) : Bool :=
  s.hif.mods.any fun e => (e.1 != m && e.2.replay.any fun f => f.typ == 1 && f.ch == c) || e.2.rest.any fun f => f.ch == c

/-- The parts of an answer are part-way out on channel `c`: no other packet comes between them (R258). -/
def State.answerBusy (s : State) (c : Nat) : Bool :=
  match (s.chan c).answers with | p :: _ => p.cont | [] => false

/-- The home module of a channel is up again and the channel is not on it: its flits wait until it returns (R247). -/
def State.homeOwed (s : State) (c : Nat) : Bool := (s.chan c).module != c % 4 && (s.hmod (c % 4)).state == 2

/-- Whether the device holds what it needs to send a packet with `len` payload bytes on channel `c`: the units (R267),
a module that is up with room in its replay buffer (R241, R245), and no flit of the channel left on another
module; a channel that owes its return home sends nothing, and neither does one whose module came up again before the
peer's RESUME, ahead of which no new flit goes (R248). -/
def State.canSend (s : State) (c len : Nat) : Bool :=
  let m := (s.chan c).module
  decide (units len ≤ (s.chan c).host) && (s.hmod m).state == 2 && !s.heldElsewhere c m && !s.homeOwed c
  && !(s.hmod m).awaits && decide ((s.hmod m).replay.length + ceilDiv (32 + len) 240 ≤ 256)

/-- A packet answers a request: a response, or a completion notice, which keeps the command's opcode (R261). -/
def Pkt.answers (p : Pkt) : Bool := p.kind == 1 || decide (p.opcode % 256 < 0x80)

/-- A packet goes out on its channel: it consumes its units, and a final answer releases its tag (R262). -/
def State.transmit (s : State) (p : Pkt) : State :=
  let final := !p.more && p.answers && !p.keepTag && !(p.arg0 % 65536 == 1 || p.arg0 % 65536 == 2)
  let s := if final then s.modChan p.channel fun c => { c with tags := c.tags.erase p.tag } else s
  if p.silent then s
  else
    let m := (s.chan p.channel).module
    let s := s.modChan p.channel fun c => { c with host := c.host - units p.payload.length }
    (s.sendFlits m (flitsOf p.channel (s.hmod m).txSeq s.nextFlit p.image)).emit (.packet p)

/-- Before a negotiation only answers to HELLO and refusals with VERSION go out; all else waits for the next HELLO
(R265, R270, R284). -/
def sendableNow (negotiated : Bool) (p : Pkt) : Bool :=
  negotiated || p.arg0 % 65536 == 0x0103 || (p.kind == 1 && p.opcode == 0x0101)

/-- The next answer of channel `c` that may go out. -/
def State.nextAnswer (s : State) (c : Nat) : Option Pkt :=
  if s.bundleBusy c then none
  else match (s.chan c).answers.find? (sendableNow s.st.negotiated) with
    | some p => if p.silent || s.canSend c p.payload.length then some p else none
    | none => none

/-- Sends the answers of channel `c` that credits allow, in their order (R263, R268); `fuel` at most. -/
def State.pump (s : State) (c : Nat) : Nat → State
  | 0 => s
  | fuel + 1 =>
    match s.nextAnswer c with
    | none => s
    | some p => ((s.modChan c fun x => { x with answers := x.answers.erase p }).transmit p).pump c fuel

/-- Answers join their channel's queue and go out as far as credits allow. -/
def State.queueAnswers (s : State) (c : Nat) (ps : List Pkt) : State :=
  let s := s.modChan c fun x => { x with answers := x.answers ++ ps }
  s.pump c ((s.chan c).answers.length)

/-! ## Answers and completions (R261, R266) -/

/-- What a command answers: STATUS, ARG0 [63:16], ARG1 and its payload, in parts when it does not fit one packet; `rise`
is what ARG1 rises by from part to part. -/
structure Ans where
  status : Nat
  hi     : Nat
  arg1   : Nat
  parts  : List Bytes
  rise   : Nat := 0
  deriving DecidableEq, Repr

/-- A status alone. -/
def ans (status : Nat) : Ans := { status, hi := 0, arg1 := 0, parts := [] }
/-- DONE with a result in ARG1. -/
def done1 (arg1 : Nat) : Ans := { status := 0, hi := 0, arg1, parts := [] }
/-- A refusal with the offset of the offending field in ARG1. -/
def refuse (status off : Nat) : Ans := { status, hi := 0, arg1 := off, parts := [] }

def stDone : Nat := 0x0000
def stAccepted : Nat := 0x0001
def stDeferred : Nat := 0x0002
def stMalformed : Nat := 0x0101
def stReserved : Nat := 0x0102
def stVersion : Nat := 0x0103
def stUnknownOpcode : Nat := 0x0104
def stBadArgument : Nat := 0x0105
def stChannelMismatch : Nat := 0x0106
def stTagInUse : Nat := 0x0107
def stProgramInvalid : Nat := 0x0108
def stRegAbsent : Nat := 0x0109
def stRegAlign : Nat := 0x010A
def stNoMemory : Nat := 0x0201
def stTableFull : Nat := 0x0202
def stBusyMaint : Nat := 0x0203
def stAlreadyPending : Nat := 0x0204
def stUnreachable : Nat := 0x0205
def stNotPermitted : Nat := 0x0301
def stSignature : Nat := 0x0302
def stRollback : Nat := 0x0303
def stKeyInvalid : Nat := 0x0304
def stState : Nat := 0x0401
def stNoContext : Nat := 0x0402
def stContextFurled : Nat := 0x0403
def stConfinement : Nat := 0x0404
def stCoolstop : Nat := 0x0405
def stContextTorn : Nat := 0x0406
def stQuarantined : Nat := 0x0407
def stPoison : Nat := 0x0408
def stGroupCut : Nat := 0x0409
def stFenced : Nat := 0x040A
/-- INTERNAL and INTERNAL_TIMEOUT: no rule names an occasion on which one is sent (log entry 88). -/
def stInternal : Nat := 0x0F01
def stInternalTimeout : Nat := 0x0F02

/-- The packets of an answer: one, or a run with MORE on every part but the last (R258). -/
def pktsOf (kind opcode tag ctx channel : Nat) (silent keepTag : Bool) (a : Ans) : List Pkt :=
  let ps := if a.parts.isEmpty then [[]] else a.parts
  (enum ps).map fun e =>
    { kind, silent, keepTag, opcode, tag, ctx, channel, more := decide (e.1 + 1 < ps.length),
      arg0 := a.status + a.hi % 2 ^ 48 * 65536, arg1 := a.arg1 + e.1 * a.rise, payload := e.2,
      cont := decide (0 < e.1) }

/-- The response to a request (R261); QUIET suppresses a DONE (R258). -/
def respond (opcode : Nat) (r : Req) (keepTag : Bool) (a : Ans) : List Pkt :=
  pktsOf 1 opcode r.tag.toNat r.ctx.toNat r.flitCh (r.quiet && a.status == 0) keepTag a

/-- The commands whose completion is owed for `w` complete with `a` (R261). -/
def State.complete (s : State) (w : Owed) (a : Ans) : State :=
  (s.st.outstanding.filter fun o => o.what == w).foldl
    (fun s o => s.queueAnswers o.ch (pktsOf 2 o.opcode o.tag o.ctx o.ch false false a))
    { s with st := { s.st with outstanding := s.st.outstanding.filter fun o => !(o.what == w) } }

/-- The command of context `c` whose completion is owed for `w` completes with `a` (R261). -/
def State.completeOf (s : State) (c : Nat) (w : Owed) (a : Ans) : State :=
  (s.st.outstanding.filter fun o => o.ctx == c && o.what == w).foldl
    (fun s o => s.queueAnswers o.ch (pktsOf 2 o.opcode o.tag o.ctx o.ch false false a))
    { s with st := { s.st with outstanding := s.st.outstanding.filter fun o => !(o.ctx == c && o.what == w) } }

/-- Every outstanding command of context `c` for which `p` holds completes with `status` (R284). -/
def State.completeAll (s : State) (c status : Nat) (p : Owed → Bool) : State :=
  (s.st.outstanding.filter fun o => o.ctx == c && p o.what).foldl
    (fun s o => s.queueAnswers o.ch (pktsOf 2 o.opcode o.tag o.ctx o.ch false false (ans status)))
    { s with st := { s.st with outstanding := s.st.outstanding.filter fun o => !(o.ctx == c && p o.what) } }

/-- A request that was accepted or deferred owes a completion. -/
def State.owe (s : State) (opcode : Nat) (r : Req) (w : Owed) : State :=
  { s with st := { s.st with outstanding := s.st.outstanding ++
      [{ ch := r.flitCh, tag := r.tag.toNat, opcode, ctx := r.ctx.toNat, what := w }] } }

/-- Whether a completion is owed for `w`. -/
def State.owes (s : State) (w : Owed) : Bool := s.st.outstanding.any fun o => o.what == w

end Sys2Proof.Machine
end

