-- ==== Sys2Proof/Machine/MemOps.lean ====
section
/-! DEFINITION. The storage of a mast: DRAM with poison and latent flaws, the scratchpad and the line cache, and who may
reach which region (R212 to R230, R271, R275). -/
namespace Sys2Proof.Machine

/-- 48 GiB of DRAM and 128 MiB of scratchpad per mast (R213, R224). -/
def dramSize : Nat := 0xC00000000
def spadSize : Nat := 0x8000000
def sliceSize : Nat := 0x800000

/-! ## Address mapping (R214, R215) -/

/-- Channel and channel-local offset of an offset in a wide band (R214). -/
def wideMap (a : Nat) : Nat × Nat :=
  (bits a 8 8 ^^^ bits a 16 8 ^^^ bits a 24 8 ^^^ bits a 32 8, a / 65536 * 256 + a % 256)

/-- The fold of R215: the xor of the `c`-bit fields of `v`. -/
def foldXor (c : Nat) : Nat → Nat → Nat → Nat
  | 0, _, h => h
  | fuel + 1, v, h => if v = 0 then h else foldXor c fuel (v / 2 ^ c) (h ^^^ (v % 2 ^ c))

/-- Channel and channel-local offset of an offset in a band grouped with set size `2^j` (R215). -/
def groupedMap (j a : Nat) : Nat × Nat :=
  let b := a / 2 ^ 32
  let i := a % 2 ^ 32 / 2 ^ (29 + j)
  let r := a - b * 2 ^ 32 - i * 2 ^ (29 + j)
  let c := 5 + j
  (i * 2 ^ c + foldXor c 8 (r / 256) 0, b * 2 ^ 24 + r / 2 ^ (8 + c) * 256 + r % 256)

/-- SET_LOG2 of a band; 3 is wide (R213, R236). -/
def McBlk.band (m : McBlk) (b : Nat) : Nat := tgetD m.setLog2 b 3

/-- Channel and channel-local offset of an offset of a mast (R213 to R215). -/
def Mast.channelOf (m : Mast) (a : Nat) : Nat × Nat :=
  let j := m.mc.band (a / 2 ^ 32)
  if j = 3 then wideMap a else groupedMap j a

/-! ## Readers -/

/-- Who accesses storage: context, privilege, master and traffic class (R449, R450), and whether a line-cache miss
allocates (R227). -/
structure Reader where
  ctx    : Nat
  priv   : Nat
  master : Nat
  cls    : Nat
  alloc  : Bool

/-- A stream of a unit acting for a context (R227). -/
def stream (ctx master : Nat) : Reader := { ctx, priv := 1, master, cls := 0, alloc := false }
/-- The Masthead or a table read of a unit for a context (R227). -/
def control (ctx master : Nat) : Reader := { ctx, priv := 1, master, cls := 1, alloc := true }
/-- A Stauc command (R449). -/
def hostReader (ctx : Nat) : Reader := { ctx, priv := 2, master := 0x1B, cls := 1, alloc := true }
/-- A fabric access on behalf of the context that owns the memory (R449). -/
def fabricReader (ctx : Nat) : Reader := { ctx, priv := 1, master := 0x1A, cls := 2, alloc := true }
/-- The bulk copy path and Halyard ingest (R449, R450). -/
def bulkReader (ctx : Nat) : Reader := { ctx, priv := 0, master := 0x19, cls := 3, alloc := false }
/-- Scrub and digest rechecks (R449). -/
def maintReader : Reader := { ctx := 0, priv := 0, master := 0x1C, cls := 4, alloc := false }

/-- The same reader in another traffic class. -/
def Reader.cls' (r : Reader) (c : Nat) : Reader := { r with cls := c }

/-- An occurrence of a memory event by a reader. -/
def Reader.occ (r : Reader) (ev n off : Nat) : Occ :=
  { ev, n, priv := r.priv, ctx := r.ctx, master := r.master, off := some off, cls := r.cls }

/-- One occurrence of an event at each line of a list (R449). -/
def PmcBlk.countLines (b : PmcBlk) (r : Reader) (ev : Nat) (ls : List Nat) : PmcBlk :=
  ls.foldl (fun b l => b.count (r.occ ev 1 (l * 128))) b

/-! ## Line cache (R227 to R229) -/

/-- How many 128-byte lines an access touches. -/
def linesIn (off len : Nat) : Nat := if len = 0 then 0 else (off + len - 1) / 128 - off / 128 + 1

/-- The resident lines of a range. -/
def LineCache.resident (c : LineCache) (off len : Nat) : List CLine :=
  c.lines.filter fun l => decide (len ≠ 0 ∧ off / 128 ≤ l.line ∧ l.line ≤ (off + len - 1) / 128)

/-- The way an allocation takes in the set of `line` (R229): a free way its mask selects, else its least recently used
line there. -/
def LineCache.victimWay (c : LineCache) (mask line : Nat) : Option Nat :=
  let set := c.lines.filter fun l => l.line % 16384 == line % 16384
  let ways := bitsSet mask 16
  match ways.find? fun w => !(set.any fun l => l.way == w) with
  | some w => some w
  | none => match sortBy (fun (a b : CLine) => decide (a.used ≤ b.used)) (set.filter fun l => ways.contains l.way) with
    | l :: _ => some l.way
    | [] => none

/-- The way mask of a context on a mast; device traffic uses every way (R229, R237). -/
def McBlk.waysOf (m : McBlk) (ctx : Nat) : Nat :=
  if ctx = 0 then 0xFFFF else match tget m.ctxs ctx with | some x => x.ways | none => 0xFFFF

/-- A context's figures on a mast before anything has been written there (R229, R237). -/
def McCtx.new : McCtx := { ways := 0xFFFF, ratio := 0, highRun := 0, raised := false, xevict := 0, xnow := 0 }

/-- A line of context `c` was replaced by another context's allocation (R231). -/
def McCtx.rob (t : Tab McCtx) (c : Nat) : Tab McCtx :=
  let x := tgetD t c McCtx.new
  tset t c { x with xnow := x.xnow + 1 }

/-- What DRAM holds of a line. -/
def Dram.line (d : Dram) (l : Nat) : DLine :=
  { bytes := memRead d.cells (128 * l) 128, poison := d.poison.filter fun h => h / 2 == l,
    flaws := d.flaws.filter fun e => e.1 / 2 == l }

/-- The half-lines of a line are poisoned and flawed as they were kept. -/
def Dram.remark (d : Dram) (l : Nat) (x : DLine) : Dram :=
  { d with poison := x.poison.foldl (fun p h => insAsc h p) (d.poison.filter fun h => h / 2 != l),
           flaws := x.flaws.foldl (fun t e => tset t e.1 e.2) (d.flaws.filter fun e => e.1 / 2 != l) }

/-- A line of DRAM is as it was kept. -/
def Dram.unline (d : Dram) (l : Nat) (x : DLine) : Dram :=
  { d.remark l x with cells := memWrite d.cells (128 * l) x.bytes }

/-- A line of the cache no longer covers DRAM, which shows what it holds itself. -/
def Dram.uncover (d : Dram) (l : CLine) : Dram := match l.under with | some x => d.unline l.line x | none => d

/-- A line is replaced or invalidated: a dirty one is written back, which writes its half-lines whole and with them the check symbols
of DRAM; the bytes of a clean one are those of DRAM (R219, R228). -/
def Dram.evict (d : Dram) (l : CLine) : Dram :=
  if l.dirty then { d with flaws := d.flaws.filter fun e => e.1 / 2 != l.line }
  else match l.under with | some x => d.remark l.line x | none => d

/-- What DRAM itself holds of a line, also under a line of the cache (R228). -/
def Mast.beneath (m : Mast) (l : Nat) : DLine :=
  match (m.lc.lines.find? fun x => x.line == l).bind (·.under) with
  | some x => x
  | none => m.dram.line l

/-- DRAM itself holds something else of a line; a line of the cache over it stays as it is (R228). -/
def Mast.setBeneath (m : Mast) (l : Nat) (x : DLine) : Mast :=
  if m.lc.lines.any fun y => y.line == l then
    { m with lc := { m.lc with lines := m.lc.lines.map fun y => if y.line = l then { y with under := some x } else y },
             dram := { m.dram with flaws := m.dram.flaws.filter fun e => e.1 / 2 != l } }
  else { m with dram := m.dram.remark l x }

/-- The lines that a context allocated are invalidated; what dirty ones hold is not written back (R229). -/
def Mast.dropLines (m : Mast) (c : Nat) : Mast :=
  let gone := m.lc.lines.filter fun l => l.ctx == c
  { m with lc := { m.lc with lines := m.lc.lines.filter fun l => l.ctx != c }, dram := gone.foldl Dram.uncover m.dram }

/-- A missing line is allocated: it may replace another context's line, which that context counts (R229, R231), and a
replaced dirty line is written back. -/
def Mast.allocate (m : Mast) (r : Reader) (line : Nat) (dirty : Bool) : Mast :=
  match m.lc.victimWay (m.mc.waysOf r.ctx) line with
  | none => m
  | some w =>
    let old := m.lc.lines.filter fun l => l.line % 16384 == line % 16384 && l.way == w
    let keep := m.lc.lines.filter fun l => !(l.line % 16384 == line % 16384 && l.way == w)
    let robbed := (old.filter fun l => l.ctx != 0 && l.ctx != r.ctx && r.ctx != 0).map (·.ctx)
    let written := (old.filter (·.dirty)).map (·.line)
    let new : CLine :=
      { line, way := w, ctx := r.ctx, dirty, used := m.lc.clock, under := if dirty then some (m.dram.line line) else none }
    { m with
      lc := { lines := keep ++ [new], clock := m.lc.clock + 1 },
      mc := { m.mc with ctxs := robbed.foldl McCtx.rob m.mc.ctxs },
      dram := old.foldl Dram.evict m.dram,
      pmc := m.pmc.countLines (maintReader.cls' 1) 0x061 written }

/-- Lines of a range that are not resident, ascending. -/
def LineCache.missing (c : LineCache) (off len : Nat) : List Nat :=
  ((List.range (linesIn off len)).map (· + off / 128)).filter fun l => !(c.lines.any fun x => x.line == l)

/-- An event at each of the lines of a range that are not resident (R449). -/
def Mast.countMisses (m : Mast) (r : Reader) (ev off len : Nat) : Mast :=
  { m with pmc := if (m.lc.resident off len).isEmpty then m.pmc.count (r.occ ev (linesIn off len) (off / 128 * 128))
                  else m.pmc.countLines r ev (m.lc.missing off len) }

/-- The lines that an access allocates (R227, R229). -/
def Mast.fills (m : Mast) (r : Reader) (off len : Nat) : List Nat :=
  if r.alloc && m.mc.waysOf r.ctx != 0 then m.lc.missing off len else []

/-- The lines of a range are looked up: hits and misses are counted at each line, hits become the most recently used, and
misses allocate where the reader allocates (R227, R229, R449). A line that a write allocates is read from DRAM where the write covers
it only in part. A write marks resident lines dirty; it is looked up before its bytes change. -/
def Mast.lookup (m : Mast) (r : Reader) (off len : Nat) (write : Bool) : Mast :=
  let hits := (m.lc.resident off len).map (·.line)
  let lost := m.fills r off len
  let filled := lost.filter fun l => decide (l * 128 < off ∨ off + len < l * 128 + 128)
  let m := { m with pmc := m.pmc.countLines r 0x062 hits }.countMisses r 0x063 off len
  let m := if !write then m.countMisses r 0x060 off len
    else if lost.isEmpty then m.countMisses r 0x061 off len
    else { m with pmc := m.pmc.countLines r 0x060 filled }
  let m := { m with lc := { lines := m.lc.lines.map fun l => if hits.contains l.line
                                       then { l with used := m.lc.clock, dirty := l.dirty || write,
                                                     under := if write && l.under.isNone then some (m.dram.line l.line) else l.under }
                                       else l,
                            clock := m.lc.clock + 1 } }
  lost.foldl (fun m l => m.allocate r l write) m

/-! ## DRAM (R218 to R220, R223) -/

/-- Half-lines of a range: the first, and the number one beyond the last. -/
def halfLo (off : Nat) : Nat := off / 64
def halfHi (off len : Nat) : Nat := if len = 0 then off / 64 else (off + len - 1) / 64 + 1

/-- What a read of half-lines met: corrected ones, ones it was the first to find uncorrectable, and poisoned ones. -/
structure Met where
  ce     : List Nat
  uc     : List Nat
  poison : List Nat

/-- The half-lines from `lo` to `hi - 1`, but those of resident lines, are read from DRAM: flaws show, uncorrectable
half-lines become poisoned, and corrected errors count per row (R218 to R220). -/
def Dram.touch (d : Dram) (resident : Nat → Bool) (lo hi : Nat) : Dram × Met :=
  let inside := fun h => decide (lo ≤ h ∧ h < hi)
  let shown := d.flaws.filter fun e => inside e.1 && !resident (e.1 / 2)
  let ce := (shown.filter fun e => e.2 == .ce).map (·.1)
  let uc := (shown.filter fun e => e.2 == .uc).map (·.1)
  let pz := d.poison.filter inside
  ({ d with
     flaws := d.flaws.filter fun e => !(inside e.1 && !resident (e.1 / 2)),
     poison := uc.foldl (fun p h => insAsc h p) d.poison,
     rowErrs := ce.foldl (fun t h => tset t (Config.dramRow h) (tgetD t (Config.dramRow h) 0 + 1)) d.rowErrs },
   { ce, uc, poison := pz })

/-- A read of one half-line of DRAM itself: what DRAM then holds of its line, and what the read met (R218, R219). -/
def DLine.read (x : DLine) (h : Nat) : DLine × Met :=
  let is := fun f => if tget x.flaws h = some f then [h] else []
  ({ x with flaws := tdel x.flaws h, poison := (is .uc).foldl (fun p h => insAsc h p) x.poison },
   { ce := is .ce, uc := is .uc, poison := x.poison.filter fun p => p == h })

/-- Corrected errors count per row (R220). -/
def Dram.countRows (d : Dram) (ce : List Nat) : Dram :=
  { d with rowErrs := ce.foldl (fun t h => tset t (Config.dramRow h) (tgetD t (Config.dramRow h) 0 + 1)) d.rowErrs }

/-- The rows that a read sends to the repair list: those with an uncorrectable half-line and those that reach 16
corrected errors (R220). -/
def repairRows (d : Dram) (m : Met) : List (Nat × Nat) :=
  (m.uc.map fun h => (Config.dramRow h, h))
  ++ (m.ce.filter fun h => decide (16 ≤ tgetD d.rowErrs (Config.dramRow h) 0)).map fun h => (Config.dramRow h, h)

/-- A row joins the repair list and the event log, once (R220). -/
def State.repairRow (s : State) (m : Nat) (row half : Nat) : State :=
  if s.flt.repair.contains (m, row) then s
  else
    let s := { s with flt := { s.flt with repair := s.flt.repair ++ [(m, row)] } }
    let s := s.modMast m fun x => { x with mc := { x.mc with err := x.mc.err ||| 0x20 } }
    let e := mkRec 0x1308 clsCE m noUnit 0
    s.raise { e with addr := half * 64, info0 := row }

/-- The flags, counts and address record of a read's findings (R218, R219, R238). -/
def Mast.noteMet (m : Mast) (r : Reader) (x : Met) : Mast :=
  let pmc := x.ce.foldl (fun b h => b.count (r.occ 0x050 1 (h * 64))) m.pmc
  let pmc := x.uc.foldl (fun b h => b.count (r.occ 0x051 1 (h * 64))) pmc
  let pmc := x.poison.foldl (fun b h => b.count (r.occ 0x052 1 (h * 64))) pmc
  let mc := { m.mc with err := m.mc.err ||| (if x.ce.isEmpty then 0 else 1) ||| (if x.uc.isEmpty then 0 else 2) }
  let mc := match x.uc with
    | h :: _ => if mc.errValid then mc else { mc with errValid := true, errCtx := r.ctx, errAddr := h * 64 }
    | [] => mc
  { m with pmc, mc }

/-- What a read of half-lines by a mast's controller leaves in DRAM, and what it met. -/
def Mast.touch (m : Mast) (lo hi : Nat) : Dram × Met :=
  m.dram.touch (fun l => m.lc.lines.any fun x => x.line == l) lo hi

/-- A range of half-lines of a mast's DRAM is read by `r`: what it met, with every consequence that does not depend on
who the reader is (R218 to R220). -/
def State.touchDram (s : State) (mast : Nat) (r : Reader) (lo hi : Nat) : State × Met :=
  let t := (s.mast mast).touch lo hi
  let s := s.modMast mast fun x => Mast.noteMet { x with dram := (x.touch lo hi).1 } r t.2
  ((repairRows t.1 t.2).foldl (fun s p => s.repairRow mast p.1 p.2) s, t.2)

/-- The half-lines of allocated lines that lie outside the access itself: the fill of a line reads them too. What is found there
does not stop the access; a later read meets it (DESIGN CHOICE, log entry 98). -/
def State.fillRest (s : State) (mast : Nat) (r : Reader) (off len : Nat) : State :=
  let hs := ((s.mast mast).fills r off len).flatMap fun l => [2 * l, 2 * l + 1]
  (hs.filter fun h => !decide (halfLo off ≤ h ∧ h < halfHi off len)).foldl (fun (s : State) h =>
    (s.touchDram mast r h (h + 1)).1) s

/-- The first half-line that a read could not deliver, with its cause: DRAM_UC on first detection, DRAM_POISON
afterwards (R219). -/
def Met.bad (m : Met) : Option (Nat × Nat) :=
  match minD m.uc 0xFFFFFFFFFF, minD m.poison 0xFFFFFFFFFF with
  | u, p => if m.uc.isEmpty && m.poison.isEmpty then none
            else if u < p then some (u, 0x1301) else some (p, 0x1302)

/-- The bytes of a DRAM range, bytes of poisoned half-lines as zero (R275). -/
def Dram.bytes (d : Dram) (off len : Nat) : Bytes :=
  if d.poison.isEmpty then memRead d.cells off len
  else (enum (memRead d.cells off len)).map fun e => if d.poison.contains ((off + e.1) / 64) then 0 else e.2

/-- A read of DRAM: the state, the bytes, and the first undeliverable half-line with its cause. -/
def State.readDram (s : State) (mast : Nat) (r : Reader) (off len : Nat) : State × Bytes × Option (Nat × Nat) :=
  let t := s.touchDram mast r (halfLo off) (halfHi off len)
  let s := (t.1.fillRest mast r off len).modMast mast fun m => m.lookup r off len false
  (s, (s.mast mast).dram.bytes off len, t.2.bad)

/-- The half-lines that a write covers only in part (R218). -/
def partialHalves (off len : Nat) : List Nat :=
  if len = 0 then []
  else dedup ((if off % 64 = 0 && 64 ≤ len then [] else [off / 64])
    ++ (if (off + len) % 64 = 0 then [] else if (off + len) / 64 * 64 ≤ off then [off / 64] else [(off + len) / 64]))

/-- DRAM after a write of `data` at `off`: half-lines written in full lose their poison, and bytes of the half-lines
`lost` keep their old contents (R218, R219). -/
def Dram.put (d : Dram) (lost : List Nat) (off : Nat) (data : Bytes) : Dram :=
  let ps := partialHalves off data.length
  let full := fun h => decide (halfLo off ≤ h ∧ h < halfHi off data.length) && !ps.contains h
  { d with
    poison := d.poison.filter fun h => !full h,
    flaws := d.flaws.filter fun e => !full e.1,
    cells := if lost.isEmpty then memWrite d.cells off data
             else (enum data).foldl (fun c e =>
               if lost.contains ((off + e.1) / 64) then c else memSet c (off + e.1) e.2) d.cells }

/-- A write to DRAM: partial half-lines are merged and lose their bytes where they are poisoned; full half-lines lose
their poison (R218, R219). The result names the first half-line whose bytes were lost, with its cause. -/
def State.writeDram (s : State) (mast : Nat) (r : Reader) (off : Nat) (data : Bytes) : State × Option (Nat × Nat) :=
  let t := (partialHalves off data.length).foldl (fun (acc : State × List (Nat × Nat)) h =>
    let q := acc.1.touchDram mast r h (h + 1)
    (q.1, match q.2.bad with | some b => acc.2 ++ [b] | none => acc.2)) (s, [])
  ((t.1.fillRest mast r off data.length).modMast mast fun m =>
      { m.lookup r off data.length true with dram := m.dram.put (t.2.map (·.1)) off data },
    t.2.head?)

/-- Zeroing a DRAM region clears its poison and flaws and invalidates its lines (R223, R228). -/
def Mast.zeroDram (m : Mast) (off len : Nat) : Mast :=
  let inHalf := fun h => decide (off ≤ h * 64 ∧ h * 64 < off + len)
  { m with
    dram := { m.dram with cells := memZero m.dram.cells off len,
                          poison := m.dram.poison.filter fun h => !inHalf h,
                          flaws := m.dram.flaws.filter fun e => !inHalf e.1 },
    lc := { m.lc with lines := m.lc.lines.filter fun l => !decide (off ≤ l.line * 128 + 127 ∧ l.line * 128 < off + len) },
    pmc := m.pmc.count ((maintReader.cls' 3).occ 0x061 (linesIn off len) off) }

/-! ## Scratchpad (R224, R226) -/

/-- The 64-bit words of a range. -/
def wordsIn (off len h : Nat) : Bool := decide (len ≠ 0 ∧ off / 8 ≤ h ∧ h ≤ (off + len - 1) / 8)

/-- A scratchpad read: single-bit errors are corrected and counted; the first double-bit word is reported (R226). -/
def Mast.readSpad (m : Mast) (r : Reader) (off len : Nat) : Mast × Bytes × Option Nat :=
  let hit := m.spad.flaws.filter fun e => wordsIn off len e.1
  let ce := (hit.filter fun e => e.2 == .ce).length
  let uc := (hit.filter fun e => e.2 == .uc).map (·.1)
  ({ m with
     spad := { m.spad with flaws := m.spad.flaws.filter fun e => !(wordsIn off len e.1 && e.2 == .ce) },
     pmc := (m.pmc.count (r.occ 0x053 ce off)).count (r.occ 0x054 uc.length off),
     mc := { m.mc with err := m.mc.err ||| (if ce = 0 then 0 else 8) ||| (if uc.isEmpty then 0 else 0x10) } },
   memRead m.spad.cells off len, uc.head?)

/-- A scratchpad write; a word it covers whole loses its flaw. -/
def Mast.writeSpad (m : Mast) (off : Nat) (data : Bytes) : Mast :=
  { m with spad :=
      { cells := memWrite m.spad.cells off data,
        flaws := m.spad.flaws.filter fun e => !decide (off ≤ e.1 * 8 ∧ e.1 * 8 + 8 ≤ off + data.length) } }

/-- Zeroing a scratchpad range. -/
def Mast.zeroSpad (m : Mast) (off len : Nat) : Mast :=
  { m with spad := { cells := memZero m.spad.cells off len,
                     flaws := m.spad.flaws.filter fun e => !decide (off ≤ e.1 * 8 ∧ e.1 * 8 < off + len) } }

/-- The slices of an engine mask are zeroed (R291, R299). -/
def Mast.zeroSlices (m : Mast) (mask : Nat) : Mast :=
  (bitsSet mask 16).foldl (fun m n => m.zeroSpad (n * sliceSize) sliceSize) m

/-! ## Pointers and regions -/

/-- A device pointer of an argument (R271). -/
structure Dptr where
  rsv   : Nat
  mast  : Nat
  space : Nat
  off   : Nat

def dptr (x : Nat) : Dptr := { rsv := bits x 59 5, mast := bits x 56 3, space := bits x 48 8, off := bits x 0 48 }

/-- Whether the regions cover `[off, off + len)`; `fuel` regions at most. -/
def coveredBy (rs : List (Nat × Nat)) : Nat → Nat → Nat → Bool
  | 0, _, len => len == 0
  | fuel + 1, off, len =>
    if len = 0 then true
    else match rs.find? fun r => decide (r.1 ≤ off ∧ off < r.1 + r.2) with
      | none => false
      | some r => let n := min len (r.1 + r.2 - off); coveredBy rs fuel (off + n) (len - n)

/-- The regions granted to a context on a mast (R275). -/
def Ctx.regions (c : Ctx) (mast : Nat) : List (Nat × Nat) :=
  (c.grants.filter fun g => g.mast == mast && !g.releasing).map fun g => (g.base, g.size)

/-- Whether a DRAM region of a mast is granted to a context (R271). -/
def Ctx.granted (c : Ctx) (mast off len : Nat) : Bool :=
  coveredBy (c.regions mast) ((c.regions mast).length + 1) off len

/-- Whether two regions overlap. -/
def overlap (a la b lb : Nat) : Bool := decide (a < b + lb ∧ b < a + la ∧ la ≠ 0 ∧ lb ≠ 0)

/-- The engines of a context's placement on a mast, as a mask; with them go the scratchpad slices (R224). -/
def Ctx.mePlace (c : Ctx) (mast : Nat) : Nat := match tget c.places mast with | some p => p.me | none => 0

/-- Whether a scratchpad range lies in slices of a context's placement (R224). -/
def Ctx.sliceOk (c : Ctx) (mast off len : Nat) : Bool :=
  decide (off + len ≤ spadSize) &&
  (len == 0 || ((List.range (ceilDiv (off % sliceSize + len) sliceSize)).all fun i =>
    bit (c.mePlace mast) (off / sliceSize + i)))

/-- Whether a DRAM region lies in the sub-ranges that a channel-group set serves, in bands grouped to its size
(R215, R217). -/
def confinedOk (mc : McBlk) (base j off len : Nat) : Bool :=
  len == 0 || (List.range ((off + len - 1) / 2 ^ 32 - off / 2 ^ 32 + 1)).all fun k =>
    let b := off / 2 ^ 32 + k
    let lo := max off (b * 2 ^ 32) - b * 2 ^ 32
    let hi := min (off + len) ((b + 1) * 2 ^ 32) - b * 2 ^ 32
    mc.band b == j && decide (base / 2 ^ j * 2 ^ (29 + j) ≤ lo ∧ hi ≤ (base / 2 ^ j + 1) * 2 ^ (29 + j))

/-- Whether a region of a mast suits a context's confinement (R217). -/
def State.confineOk (s : State) (c : Ctx) (mast off len : Nat) : Bool :=
  !c.confined || confinedOk (s.mast mast).mc c.base c.setLog2 off len

/-- Every region of a mast that is granted or reserved to some context: grants, releasing ones too, save areas, and what
is still being zeroed for a context that was destroyed (R275, R287, R293). -/
def State.takenRegions (s : State) (mast : Nat) : List (Nat × Nat) :=
  (s.ctxs.flatMap fun e =>
    ((e.2.grants.filter fun g => g.mast == mast).map fun g => (g.base, g.size))
    ++ (match tget e.2.saves mast with | some a => [a] | none => []))
  ++ s.zeroing.flatMap fun e => (e.2.filter fun r => r.1 == mast).map fun r => (r.2.1, r.2.2)

/-- Whether a region meets one that is taken. -/
def State.taken (s : State) (mast off len : Nat) : Bool :=
  (s.takenRegions mast).any fun r => overlap off len r.1 r.2

/-- Whether a region meets a band whose change is in progress (R216). -/
def McBlk.bandBusy (m : McBlk) (off len : Nat) : Bool :=
  m.bandPending.any fun e => overlap off len (e.1 * 2 ^ 32) (2 ^ 32)

end Sys2Proof.Machine
end

