-- ==== Sys2Proof/Machine/NalecOps.lean ====
section
/-! DEFINITION. Fabric operations every family shares: transport packets, the choice of a port, outstanding requests and
mailbox records (R326, R332 to R342). -/
namespace Sys2Proof.Machine

def State.port (s : State) (p : Nat) : Port := tgetD s.nlc.ports p Port.reset
def State.modNlc (s : State) (f : Nalec → Nalec) : State := { s with nlc := f s.nlc }
def State.modPort (s : State) (p : Nat) (f : Port → Port) : State :=
  s.modNlc fun n => { n with ports := tmod n.ports p f }

/-- Port states of R348. -/
def pOff : Nat := 0
def pTraining : Nat := 1
def pIdent : Nat := 2
def pUp : Nat := 3
def pHeld : Nat := 4
def pCut : Nat := 5
def pRetraining : Nat := 6
def pDown : Nat := 7

def State.portUp (s : State) (p : Nat) : Bool := (s.port p).state == pUp

/-- The stay ports in `up`, ascending (R338). -/
def State.stayUp (s : State) : List Nat := (List.range 36).filter s.portUp

/-- BOOT of R335. -/
def State.bootNo (s : State) : Nat := s.cn.startCount % 65535 + 1

/-! ## Packets (R335, R361) -/

/-- The 16-byte collective header (R361). -/
def colImage (h : ColHdr) : Bytes :=
  natLe 1 (h.kind % 16 + h.method % 16 * 16) ++ natLe 1 h.srcRank ++ natLe 1 (h.srcMast % 8 + h.reefReq % 8 * 8 + h.rsv % 4 * 64)
  ++ natLe 1 (h.op % 16 + h.dtype % 16 * 16) ++ natLe 2 h.listCrc ++ natLe 1 h.chunkHi ++ natLe 1 (h.rsv / 4)
  ++ natLe 8 h.info

/-- The bytes of a transport packet (R335). -/
def pktImage (p : TPkt) : Bytes :=
  natLe 1 (p.status % 16 + p.op % 16 * 16) ++ natLe 1 (p.targetCtx % 128 + b2n p.resend * 128) ++ natLe 2 p.partId
  ++ natLe 1 p.srcPkg ++ natLe 1 p.epoch ++ natLe 2 p.boot ++ natLe 8 p.addr ++ natLe 4 p.reqId ++ natLe 12 p.rsv
  ++ (match p.col with | some h => colImage h | none => []) ++ p.data

/-- The 16-byte collective header that bytes spell (R361). -/
def parseCol (b : Bytes) : ColHdr :=
  { kind := u8 b 0 % 16, method := u8 b 0 / 16, srcRank := u8 b 1, srcMast := u8 b 2 % 8, reefReq := u8 b 2 / 8 % 8,
    op := u8 b 3 % 16, dtype := u8 b 3 / 16, listCrc := u16 b 4, chunkHi := u8 b 6, info := u64 b 8,
    rsv := u8 b 2 / 64 + u8 b 7 * 4 }

/-- The packet that bytes spell (R335, R361), as received on port `port`. -/
def parsePkt (port : Nat) (b : Bytes) : TPkt :=
  let op := u8 b 0 / 16
  let isCol := decide (8 ≤ op)
  { port, op, status := u8 b 0 % 16, targetCtx := u8 b 1 % 128, resend := bit (u8 b 1) 7, partId := u16 b 2,
    srcPkg := u8 b 4, epoch := u8 b 5, boot := u16 b 6, addr := u64 b 8, reqId := u32 b 16, rsv := leNat (sub b 20 12),
    col := if isCol then some (parseCol (b.drop 32)) else none,
    data := b.drop (if isCol then 48 else 32) }

/-! ## Ports (R338) -/

/-- The tray slot of a package, when the plan names it (R329). -/
def Plan.slotOf (p : Plan) (pkg : Nat) : Option Nat :=
  ((List.range 4).find? fun i => p.slotPkg.getD i 256 == pkg)

/-- The shroud ports to the tray peer in slot `t`: the ports pair up with the other slots in ascending order (DEDUCED
from the example of R330, log entry 12). -/
def Plan.shroudTo (p : Plan) (t : Nat) : List Nat :=
  if t = p.traySlot then []
  else let k := ((List.range 4).filter fun i => i != p.traySlot && decide (i < t)).length
       [36 + 2 * k, 37 + 2 * k]

/-- The plane that R338 gives for local offset `a`, package `d` and attempt `n`. -/
def State.plane (s : State) (a d n : Nat) : Option Nat :=
  let h := d ^^^ bits a 7 8 ^^^ bits a 15 8 ^^^ bits a 23 8 ^^^ bits a 31 8
  let up := s.stayUp
  if up.isEmpty then none else up[(h + n) % up.length]?

/-- The port a packet for package `d` takes: a shroud port of a tray peer chosen by a[7], else a plane (R338). -/
def State.route (s : State) (a d n : Nat) : Option Nat :=
  let near := match s.nlc.plan with
    | some p => (match p.slotOf d with | some t => p.shroudTo t | none => [])
    | none => []
  let want := near.filter fun p => p % 2 == bits a 7 1
  match (want.filter s.portUp) ++ (near.filter s.portUp) with
  | p :: _ => some p
  | [] => s.plane a d n

/-! ## Link frames (R326, R327, R343) -/

/-- Whether a port encrypts its DATA frames (R343). -/
def State.encOn (s : State) (p : Nat) : Bool :=
  let x := s.port p
  (match s.nlc.plan with | some pl => (match pl.ports[p]? with | some e => e.encReq | none => false) | none => false)
  && (match x.peer with | some q => q.enc | none => false)
  && (match tget x.slots x.txSlot with | some k => !k.retired | none => false)

/-- The link header of a frame (R326); ACK_SEQ, ACK_VALID, NAK and CREDIT are those of the moment it leaves. -/
def linkHeader (typ seq : Nat) (enc : Bool) (slot len ack : Nat) (valid nak : Bool) (credit : Nat) : Bytes :=
  natLe 8 (packFields [(60, 4, typ), (48, 12, seq), (36, 12, ack), (35, 1, b2n valid), (34, 1, b2n nak), (33, 1, b2n enc),
    (32, 1, slot), (24, 8, credit), (19, 5, len / 16 - 1)])

/-- A frame as it goes onto the cable: header, payload, tag, CRC (R326). -/
def LFrame.image (f : LFrame) (ack : Nat) (nak : Bool) (credit : Nat) : Bytes :=
  let b := linkHeader f.typ f.seq f.enc f.slot f.body.length ack true nak credit ++ f.body ++ f.tag
  b ++ natLe 4 (crc32 b)

/-- Bytes of a frame. -/
def LFrame.bytes (f : LFrame) : Nat := 8 + f.body.length + f.tag.length + 4

/-- Bytes held in a replay buffer. -/
def Port.replayBytes (x : Port) : Nat := (x.replay.map LFrame.bytes).foldl (· + ·) 0

/-- A frame leaves, with the acknowledgement of the last frame accepted; while the port retrains it waits in the replay buffer
(R345). -/
def State.sendFrame (s : State) (p : Nat) (f : LFrame) : State :=
  if (s.port p).state == pRetraining then s else s.emit (.frame p (f.image (s.port p).rxLast false 0))

/-- Every frame of the replay buffer is sent again (R327). -/
def State.resendFrames (s : State) (p : Nat) : State := (s.port p).replay.foldl (fun (s : State) f => s.sendFrame p f) s

/-- An acknowledgement leaves alone: an IDLE frame with SEQ 0 and 16 payload bytes of zero (R326, R327; log entry 75). -/
def State.sendAckFrame (s : State) (p : Nat) (nak : Bool) (seq credit : Nat) : State :=
  let f : LFrame := { typ := 0, seq := 0, enc := false, slot := 0, body := zeros 16, tag := [], resends := 0 }
  (s.emit (.linkAck p nak seq credit)).emit (.frame p (f.image seq nak credit))

/-- The frame that carries a payload next on a port: encrypted with the current slot where the port encrypts, under the IV
of R343. -/
def State.dataFrame (s : State) (p : Nat) (img : Bytes) : LFrame :=
  let x := s.port p
  match s.encOn p, tget x.slots x.txSlot with
  | true, some k =>
    let h := linkHeader 1 x.txSeq true x.txSlot img.length 0 false false 0
    let q := Config.gcmSeal k.key (k.salt ++ natLe 8 k.txCtr) h img
    { typ := 1, seq := x.txSeq, enc := true, slot := x.txSlot, body := sub q.1 0 img.length, tag := sub q.2 0 16, resends := 0 }
  | _, _ => { typ := 1, seq := x.txSeq, enc := false, slot := 0, body := img, tag := [], resends := 0 }

/-- One transport packet goes out as a DATA frame: it takes the partition id of the package (R332), the next SEQ, credits, a
place in the replay buffer, and a step of the frame counter when the port encrypts (R326, R327, R343). -/
def State.frameOut (s : State) (p : Nat) (k : TPkt) : State :=
  let k := { k with partId := s.nlc.partId }
  let img := pktImage k
  let f := s.dataFrame p img
  ((s.modPort p fun x =>
    { x with txSeq := (x.txSeq + 1) % 4096, replay := x.replay ++ [f],
             credits := x.credits - ceilDiv img.length 512,
             slots := if f.enc then tmod x.slots x.txSlot fun q => { q with txCtr := q.txCtr + 1 } else x.slots }).emit
    (.fabric k)).sendFrame p f

/-- Whether a port can take a packet now. -/
def State.portRoom (s : State) (p : Nat) (k : TPkt) : Bool :=
  let x := s.port p
  decide (x.replayBytes + (s.dataFrame p (pktImage k)).bytes ≤ 65536) && decide (ceilDiv (pktImage k).length 512 ≤ x.credits)

/-- A transport packet leaves on port `p`, or waits there for room (R326, R327). -/
def State.sendOn (s : State) (p : Nat) (k : TPkt) : State :=
  let k := { k with port := p }
  if (s.port p).queue.isEmpty && (s.port p).waits.isEmpty && s.portRoom p k then s.frameOut p k
  else s.modPort p fun x => { x with queue := x.queue ++ [k] }

/-- An IDENT or KEYSYNC frame goes out: it takes the next SEQ and a place in the replay buffer, and the port encrypts with the
slot that a KEYSYNC names from then on (R326, R327, R328, R344). -/
def State.linkOut (s : State) (p typ slot : Nat) (body : Bytes) : State :=
  let f : LFrame := { typ, seq := (s.port p).txSeq, enc := false, slot := 0, body, tag := [], resends := 0 }
  (s.modPort p fun x => { x with txSeq := (x.txSeq + 1) % 4096, replay := x.replay ++ [f],
                                 txSlot := if typ = 3 then slot else x.txSlot }).sendFrame p f

/-- Whether the replay buffer has room for an IDENT or KEYSYNC frame. -/
def State.linkRoom (s : State) (p : Nat) (body : Bytes) : Bool := decide ((s.port p).replayBytes + body.length + 12 ≤ 65536)

/-- An IDENT or KEYSYNC frame leaves, or waits for room. -/
def State.linkFrame (s : State) (p typ slot : Nat) (body : Bytes) : State :=
  if (s.port p).waits.isEmpty && s.linkRoom p body then s.linkOut p typ slot body
  else s.modPort p fun x => { x with waits := x.waits ++ [(typ, slot, body)] }

/-- Frames and packets that wait on a port. -/
def Port.waiting (x : Port) : Nat := x.waits.length + x.queue.length

/-- What waited on port `p` leaves as far as there is room: frames of the link itself, then packets. An unassigned package
sends no packet (R331). -/
def State.drainPort (s : State) (p : Nat) : Nat → State
  | 0 => s
  | fuel + 1 =>
    match (s.port p).waits, (s.port p).queue with
    | w :: ws, _ =>
      if s.linkRoom p w.2.2 then
        ((s.modPort p fun x => { x with waits := ws }).linkOut p w.1 w.2.1 w.2.2).drainPort p fuel
      else s
    | [], k :: ks =>
      if s.portUp p && s.nlc.partId != 0 && s.portRoom p k then
        ((s.modPort p fun x => { x with queue := ks }).frameOut p k).drainPort p fuel
      else s
    | [], [] => s

/-- A transport packet is stamped with this package's partition, index and start number (R332, R335). -/
def State.stamp (s : State) (k : TPkt) : TPkt :=
  { k with partId := s.nlc.partId, srcPkg := s.nlc.ownIndex, boot := s.bootNo }

/-- A packet goes out on a port, when there is one; an unassigned package sends none (R331). The result is the port. -/
def State.sendVia (s : State) (via : Option Nat) (k : TPkt) : State × Option Nat :=
  if s.nlc.partId = 0 then (s, none)
  else match via with
    | some p => (s.sendOn p (s.stamp k), some p)
    | none => (s, none)

/-- A packet for package `d` goes out by R338. -/
def State.sendTo (s : State) (d n : Nat) (k : TPkt) : State × Option Nat := s.sendVia (s.route (k.addr % 2 ^ 52) d n) k

/-! ## Requests (R337, R339) -/

def State.isDead (s : State) (pkg : Nat) : Bool := s.nlc.dead.contains pkg

/-- The epoch toward a package. -/
def State.epochTo (s : State) (pkg : Nat) : Nat := tgetD s.nlc.epochs pkg 0

/-- FAB_TIMEOUT in µs and ATTEMPTS (R347). -/
def Nalec.fabTimeout (n : Nalec) : Nat := if n.timeout < 50 then 500 else n.timeout
def Nalec.maxAttempts (n : Nalec) : Nat := if n.attempts = 0 || 9 ≤ n.attempts then 3 else n.attempts

/-- The packet of a request. -/
def FabReq.pkt (r : FabReq) : TPkt :=
  { port := r.port, op := if r.write then 3 else 1, status := 0, targetCtx := r.ctx, resend := decide (0 < r.attempt),
    partId := 0, srcPkg := 0, epoch := r.epoch, boot := 0, addr := 2 ^ 60 + r.pkg * 2 ^ 52 + r.addr, reqId := r.reqId,
    rsv := 0, col := none, data := if r.write then r.data else [] }

/-- Whether a request keeps to the stay planes: Halyard's reads do (R311). -/
def Issuer.stays : Issuer → Bool
  | .halyard _ _ => true
  | _ => false

/-- An attempt of request `key` goes out; `again`: it has gone out before. -/
def State.launchAs (s : State) (key : Nat) (again : Bool) : State :=
  match tget s.nlc.reqs key with
  | none => s
  | some r =>
    let k := { r.pkt with resend := again }
    let via := if r.issuer.stays then s.plane (k.addr % 2 ^ 52) r.pkg r.attempt else s.route (k.addr % 2 ^ 52) r.pkg r.attempt
    let x := s.sendVia via k
    x.1.modNlc fun n => { n with reqs := tmod n.reqs key fun r => { r with sent := true, port := x.2.getD 255 } }

/-- The next attempt of request `key` goes out: the first, or a resend with RESEND = 1 (R337, R339). -/
def State.launch (s : State) (key : Nat) : State :=
  match tget s.nlc.reqs key with
  | none => s
  | some r => s.launchAs key (decide (0 < r.attempt))

/-- Whether another operation to the same line, or 65,536 writes to the same package, are outstanding (R337). -/
def State.mustWait (s : State) (r : FabReq) : Bool :=
  (s.nlc.reqs.any fun e => e.2.sent && e.2.pkg == r.pkg && e.2.addr / 128 == r.addr / 128)
  || (r.write && decide (65536 ≤ (s.nlc.reqs.filter fun e => e.2.sent && e.2.write && e.2.pkg == r.pkg).length))

/-- A fabric operation is issued: it takes its id and leaves, or waits for an earlier one to its line (R337). A dead
target fails it at once (R339): the result says whether it was issued. -/
def State.issue (s : State) (issuer : Issuer) (write : Bool) (pkg ctx addr lspace lmast loff : Nat) (data : Bytes) :
    State × Bool :=
  if s.isDead pkg then (s, false)
  else
    let id := if write then tgetD s.nlc.nextWrite pkg 0 else s.nlc.nextRead
    let r : FabReq := { issuer, write, pkg, ctx, addr, lspace, lmast, loff, reqId := id % 2 ^ 32, epoch := s.epochTo pkg,
                        attempt := 0, tries := s.nlc.maxAttempts, timeout := s.nlc.fabTimeout, sent := false, port := 255, data }
    let key := s.nlc.nextKey
    let wait := s.mustWait r
    let s := s.modNlc fun n =>
      { n with reqs := tset n.reqs key r, nextKey := key + 1,
               nextWrite := if write then tset n.nextWrite pkg (id + 1) else n.nextWrite,
               nextRead := if write then n.nextRead else n.nextRead + 1 }
    (if wait then s else s.launch key, true)

/-- Requests that waited leave once nothing stands before them. -/
def State.launchWaiting (s : State) : State :=
  (s.nlc.reqs.filter fun e => !e.2.sent).foldl (fun s e => if s.mustWait e.2 then s else s.launch e.1) s

/-- A request ends, and what waited for it may leave. -/
def State.endReq (s : State) (key : Nat) : State :=
  (s.modNlc fun n => { n with reqs := tdel n.reqs key }).launchWaiting

/-! ## Mailbox records (R342) -/

/-- A 128-byte mailbox record. -/
def mailRecord (typ own port peer ctx time step q unitId : Nat) : Bytes :=
  natLe 1 typ ++ natLe 1 own ++ natLe 1 port ++ natLe 1 peer ++ natLe 1 ctx ++ zeros 3 ++ natLe 8 time ++ natLe 8 step
  ++ natLe 8 q ++ natLe 8 unitId ++ zeros 88

/-- A record is written into the fabric manager's mailbox; a dead or missing target drops it (R341, R342). -/
def State.mail (s : State) (typ port peer ctx unitId : Nat) : State :=
  match s.nlc.plan with
  | none => s
  | some p =>
    let q := s.nlc.mailSeq
    let addr := p.mailbox % 2 ^ 52 + (s.nlc.ownIndex * p.fmSlots + q % (max 1 p.fmSlots)) * 128
    let step := match s.ctx? ctx with | some c => c.stepNo | none => 0
    let s := s.modNlc fun n => { n with mailSeq := q + 1 }
    let x := s.issue .mailbox true (bits p.mailbox 52 8) p.fmCtx addr 0 0 0
      (mailRecord typ s.nlc.ownIndex port peer ctx s.time step q unitId)
    if x.2 then x.1 else x.1.modNlc fun n => { n with err := n.err ||| 0x40 }

/-! ## Windows (R334) -/

/-- Where a window address leads: package, target context, local offset; none where R334 refuses the access. The reserved bits of a
board-window address are ignored (R8). -/
def State.window (s : State) (ctx : Nat) (write : Bool) (wa len : Nat) : Option (Nat × Nat × Nat) :=
  let idx := bits wa 56 8
  let off := bits wa 0 56
  if idx = 0 then
    match s.nlc.plan with
    | none => none
    | some p => some (p.slotPkg.getD (bits wa 39 2) 0, ctx, bits wa 0 39)
  else match tget s.nlc.windows idx with
    | none => none
    | some w =>
      if w.owner != ctx || (write && !w.write) || (!write && !w.read) || decide (w.size < off + len) then none
      else some (w.pkg, w.ctx, w.base + off)

end Sys2Proof.Machine
end

