-- ==== Sys2Proof/Machine/ColSend.lean ====
section
/-! DEFINITION. What a member of a collective sends: chunks, acknowledgements, markers and notices (R359 to R368). -/
namespace Sys2Proof.Machine

def kData : Nat := 1
def kAck : Nat := 2
def kAbort : Nat := 3
def kWithdraw : Nat := 4
def kSwRefuse : Nat := 5
def kSwEvict : Nat := 6
def kEnd : Nat := 7

/-- Methods of R361. -/
def mTree : Nat := 0
def mRing : Nat := 1
def mSwitch : Nat := 2

/-- The rank that stands for the switch among receivers and senders. -/
def switchRank : Nat := 0xFFFF

/-- Ports of a chunk that has not been sent, of one that found no port, and of one that a RETRY holds back (R362). -/
def notSent : Nat := 254
def noPort : Nat := 255
def retried : Nat := 253

def State.group? (s : State) (g : Nat) : Option Group := tget s.col.groups g
def State.modCol (s : State) (f : Collectives → Collectives) : State := { s with col := f s.col }
def State.modGroup (s : State) (g : Nat) (f : Group → Group) : State :=
  s.modCol fun c => { c with groups := tmod c.groups g f }

/-- A call of a group on a mast of this package. -/
def State.colCall? (s : State) (g m : Nat) : Option ColCall := s.col.calls.find? fun c => c.group == g && c.mast == m
def State.modCall (s : State) (g m : Nat) (f : ColCall → ColCall) : State :=
  s.modCol fun x => { x with calls := x.calls.map fun c => if c.group == g && c.mast == m then f c else c }

def Group.member (g : Group) (r : Nat) : Member := g.members.getD r { ctx := 0, mast := 0, pkg := 0 }

/-- ADDR of a collective packet to a member (R361). -/
def colAddr (m : Member) (group chunk : Nat) : Nat :=
  2 ^ 60 + m.pkg % 256 * 2 ^ 52 + m.mast % 8 * 2 ^ 36 + group % 4096 * 2 ^ 24 + chunk % 2 ^ 24

/-- A collective packet of a call to a member (R361), with the largest REEF_REQ seen (R382). -/
def colPkt (c : ColCall) (g : Group) (to_ : Member) (kind status method chunk info : Nat) (data : Bytes) : TPkt :=
  { port := 0, op := 8, status, targetCtx := to_.ctx, resend := false, partId := 0, srcPkg := 0, epoch := 0, boot := 0,
    addr := colAddr to_ c.group chunk, reqId := c.seq % 2 ^ 32, rsv := 0,
    col := some { kind, method, srcRank := c.rank, srcMast := c.mast, reefReq := c.reefMax, op := c.op, dtype := c.dtype,
                  listCrc := g.crc, chunkHi := chunk / 2 ^ 24, info, rsv := 0 },
    data }

/-- A collective packet goes to a member: over the hub network on this package, else by R338. The result is the port. -/
def State.sendCol (s : State) (to_ : Member) (attempt : Nat) (k : TPkt) : State × Nat :=
  if to_.pkg = s.nlc.ownIndex then
    (s.modCol fun c => { c with hubNet := c.hubNet ++ [{ s.stamp k with port := noPort }] }, noPort)
  else
    let x := s.sendTo to_.pkg attempt k
    (x.1, x.2.getD noPort)

/-- A contribution to a switch takes the plane of R363: the package of rank 0 for d and chunk × 128 for a. -/
def State.sendSwitch (s : State) (g : Group) (chunk attempt : Nat) (k : TPkt) : State × Nat :=
  match s.plane (chunk * 128) (g.member 0).pkg attempt with
  | some p => if s.nlc.partId = 0 then (s, noPort) else (s.sendOn p (s.stamp k), p)
  | none => (s, noPort)

/-- One chunk leaves. -/
def State.sendChunk (s : State) (c : ColCall) (g : Group) (x : ColChunk) : State × Nat :=
  if x.dest = switchRank then
    let k := colPkt c g (g.member 0) kData 0 mSwitch x.id x.info x.data
    s.sendSwitch g x.id x.attempt { k with resend := decide (0 < x.attempt) }
  else
    let k := colPkt c g (g.member x.dest) kData 0 c.method x.id x.info x.data
    s.sendCol (g.member x.dest) x.attempt { k with resend := decide (0 < x.attempt) }

/-- How many chunks of a list are on their way to a receiver. -/
def inFlight (l : List ColChunk) (to_ : Nat) : Nat := (l.filter fun x => x.dest == to_ && x.port != notSent).length

/-- Chunks that wait leave while fewer than 65,536 are unacknowledged at their receiver, and while they lie within the bitmap that
it keeps above its low mark (R365). -/
def launchList (c : ColCall) (g : Group) : List ColChunk → List ColChunk → State → List ColChunk × State
  | [], done, s => (done, s)
  | x :: xs, done, s =>
    if x.port = notSent && inFlight done x.dest + inFlight xs x.dest < 65536 && decide (x.id < tgetD c.acked x.dest 0 + 65536) then
      let r := s.sendChunk c g x
      launchList c g xs (done ++ [{ x with port := r.2 }]) r.1
    else launchList c g xs (done ++ [x]) s

/-- A notice of a call goes to one rank. -/
def State.colNotice (s : State) (c : ColCall) (g : Group) (to_ kind info : Nat) : State :=
  (s.sendCol (g.member to_) 0 (colPkt c g (g.member to_) kind 0 c.method 0 info [])).1

/-- END goes to each member whose last row has left (R357). -/
def State.sendEnds (s : State) (grp m : Nat) : State :=
  match s.colCall? grp m, s.group? grp with
  | some c, some g =>
    let due := c.endsOwed.filter fun e => !(c.sent.any fun x => x.dest == e.1 && x.port == notSent)
    let s := s.modCall grp m fun c => { c with endsOwed := c.endsOwed.filter fun e => !due.contains e }
    due.foldl (fun (s : State) e => s.colNotice c g e.1 kEnd e.2) s
  | _, _ => s

/-- Chunks of a call that wait leave as far as they may, and the END markers behind them; a frozen call sends nothing
(R396). -/
def State.launchChunks (s : State) (grp m : Nat) : State :=
  match s.colCall? grp m, s.group? grp with
  | some c, some g =>
    if s.frozen c.ctx then s
    else
      let r := launchList c g c.sent [] s
      (r.2.modCall grp m fun c => { c with sent := r.1 }).sendEnds grp m
  | _, _ => s

/-- A chunk that has not left yet. -/
def newChunk (dest id info : Nat) (data : Bytes) (src : Option Nat) : ColChunk :=
  { dest, id, info, data, src, attempt := 0, port := notSent }

/-- A call takes new chunks to send. -/
def State.addChunks (s : State) (grp m : Nat) (xs : List ColChunk) : State :=
  (s.modCall grp m fun c => { c with sent := c.sent ++ xs }).launchChunks grp m

/-- A notice goes to every other member (R368). -/
def State.colTellAll (s : State) (c : ColCall) (kind info : Nat) : State :=
  match s.group? c.group with
  | none => s
  | some g => (enum g.members).foldl (fun (s : State) (e : Nat × Member) =>
      if e.1 = c.rank then s else s.colNotice c g e.1 kind info) s

/-- The ids a member holds from a sender. -/
def ColCall.idsFrom (c : ColCall) (r : Nat) : List Nat := (c.got.filter fun x => x.1 == r).map (·.2.1)

/-- The low mark of a sender's chunks: the least id not yet received (R365). -/
def lowMark (ids : List Nat) : Nat :=
  ((List.range (ids.length + 1)).find? fun i => !ids.contains i).getD ids.length

/-- The bitmap of the 1,024 chunks above the low mark (R361). -/
def ackBitmap (ids : List Nat) (m : Nat) : Bytes :=
  (List.range 128).map fun i => BitVec.ofNat 8 (packFields ((List.range 8).map fun j =>
    (j, 1, b2n (ids.contains (m + 1 + 8 * i + j)))))

/-- A packet to a switch leaves on the port of its plane, while that port is up (R363). -/
def State.sendPlane (s : State) (k : TPkt) (port : Nat) : State :=
  if s.nlc.partId = 0 || !s.portUp port then s else s.sendOn port (s.stamp k)

/-- A receiver acknowledges a sender's chunks: to a switch on each port whose chunks it has taken since (R365; log entry 16). -/
def State.sendAck (s : State) (grp m r : Nat) : State :=
  match s.colCall? grp m, s.group? grp with
  | some c, some g =>
    if c.owedAcks.contains r then
      let ids := c.idsFrom r
      let lm := lowMark ids
      let to_ := if r = switchRank then g.member 0 else g.member r
      let k := colPkt c g to_ kAck 0 c.method 0 lm (ackBitmap ids lm)
      let s := s.modCall grp m fun c => { c with owedAcks := c.owedAcks.filter (· != r) }
      if r = switchRank then
        c.ackPorts.foldl (fun (s : State) p => s.sendPlane k p) (s.modCall grp m fun c => { c with ackPorts := [] })
      else (s.sendCol to_ 0 k).1
    else s
  | _, _ => s

/-- The key of a call in `Collectives.reefs`: its SEQ, group and mast. -/
def reefKey (grp m seq : Nat) : Nat := (seq * 4096 + grp) * 8 + m

/-- The largest REEF_REQ that a call which is not in flight carries: of packets received before it started, or all of it once
it has ended (R382). -/
def Collectives.reefOf (c : Collectives) (grp m seq : Nat) : Nat := tgetD c.reefs (reefKey grp m seq) 0

/-- A call that is not in flight has that REEF_REQ; 0 needs no entry. -/
def Collectives.reefTo (c : Collectives) (grp m seq q : Nat) : Collectives :=
  if c.reefOf grp m seq < q then { c with reefs := tset c.reefs (reefKey grp m seq) q } else c

/-- REEF_REQ of the calls of some groups is gone, because their SEQ starts anew (R352). -/
def Collectives.reefDrop (c : Collectives) (gone : Nat → Bool) : Collectives :=
  { c with reefs := c.reefs.filter fun e => !gone (e.1 / 8 % 4096) }

/-- A loaded group is a context's. -/
def State.ownsGroup (s : State) (c g : Nat) : Bool := (s.group? g).any fun x => x.ctx == c

/-- A call leaves the engine: its phase on the mast ends unless it is chained (R360). Packets of it that are still to be answered
carry its REEF_REQ (R382). -/
def State.dropCall (s : State) (grp m ctx : Nat) (keepPhase : Bool) : State :=
  let s := match s.colCall? grp m with
    | some c => s.modCol fun x => x.reefTo grp m c.seq c.reefMax
    | none => s
  let s := s.modCol fun x => { x with calls := x.calls.filter fun c => !(c.group == grp && c.mast == m) }
  if keepPhase then s
  else s.modMast m fun z => { z with calls := z.calls.filter fun r => !(r.ctx == ctx && r.kind == .collective) }

/-- The package withdraws from every collective of a context, and packets for it that wait on the package are dropped (R291, R304,
R368). -/
def State.withdrawCtx (s : State) (ctx : Nat) : State :=
  (s.col.calls.filter fun c => c.ctx == ctx).foldl (fun (s : State) c =>
    let s := s.colTellAll c kWithdraw 0
    (s.modGroup c.group fun g => { g with outcome := 3 }).dropCall c.group c.mast ctx false) s
  |> fun s => s.modCol fun k => { k with
    early := k.early.filter fun p => p.targetCtx != ctx, hubNet := k.hubNet.filter fun p => p.targetCtx != ctx }

end Sys2Proof.Machine
end

