-- ==== Sys2Proof/Machine/MaintOps.lean ====
section
/-! DEFINITION. Maintenance arbitration: holders and queues of the four classes (R282, R418 to R420). -/
namespace Sys2Proof.Machine

def actScrub : Nat := 1
def actRecheck : Nat := 2
def actRetrain : Nat := 3
def actRefresh : Nat := 4
def actCompact : Nat := 5

/-- The class of an activity (R282). -/
def maintClass (a : Nat) : Nat := if a = 1 || a = 2 then 0 else if a = 3 then 1 else if a = 4 then 2 else 3

/-- An activity that the device starts itself. -/
def Maint.dev (activity arg : Nat) : Maint := { activity, arg, tag := 0, ch := 0, device := true }

def State.holder? (s : State) (cls : Nat) : Option Maint := tget s.flt.holders cls

/-- ARG1 of BUSY_MAINT (R282). -/
def Maint.busyArg (m : Maint) : Nat := m.activity + m.tag * 256 + m.ch * 2 ^ 24 + b2n m.device * 2 ^ 27

def State.modShard (s : State) (i : Nat) (f : Shard → Shard) : State :=
  { s with hal := { s.hal with shards := tmod s.hal.shards i f } }

/-- An activity takes its class; a recheck shows in its shard (R317). -/
def State.holdClass (s : State) (m : Maint) : State :=
  let s := { s with flt := { s.flt with holders := tset s.flt.holders (maintClass m.activity) m } }
  if m.activity = actRecheck then s.modShard m.arg fun h => { h with state := 3, leaves := [] } else s

/-- A queued device activity can start: a recheck needs a loaded shard, a scrub chunk memory out of self-refresh (R222,
R317), and none starts during brownout (R420). -/
def State.canMaint (s : State) (m : Maint) : Bool :=
  !s.pwr.brownout && (m.activity != actScrub || !s.pwr.coolstop)
  && (m.activity != actRecheck || (match tget s.hal.shards m.arg with | some h => h.state == 2 | none => false))

/-- Masts whose patrol scrub is enabled (R236). -/
def State.scrubMasts (s : State) : List Nat := (List.range 8).filter fun m => s.mastUp m && (s.mast m).mc.scrubPeriod != 0

/-- A queued recheck whose shard is gone or quarantined never runs, nor does a patrol chunk once every PERIOD_H is 0 (R236). -/
def State.staleMaint (s : State) (m : Maint) : Bool :=
  (m.activity == actRecheck && (match tget s.hal.shards m.arg with | some h => h.state != 2 | none => true))
  || (m.activity == actScrub && s.scrubMasts.isEmpty)

/-- An activity as it starts: a chunk of the device's own patrol takes the masts whose PERIOD_H enables it now (R236). -/
def State.latched (s : State) (m : Maint) : Maint :=
  if m.device && m.activity == actScrub then { m with arg := maskOf s.scrubMasts } else m

/-- The class is free: the first queued device activity that can start does (R419). -/
def State.startQueued (s : State) (cls : Nat) : State :=
  if (s.holder? cls).isSome then s
  else
    let q := (tgetD s.flt.queues cls []).filter fun m => !s.staleMaint m
    let put := fun l => { s with flt := { s.flt with queues := tset s.flt.queues cls l } }
    match q with
    | m :: ms => if s.canMaint m then (put ms).holdClass (s.latched m) else put q
    | [] => put []

/-- A class is released (R418, R419). -/
def State.releaseClass (s : State) (cls : Nat) : State :=
  State.startQueued { s with flt := { s.flt with holders := tdel s.flt.holders cls } } cls

/-- The device starts an activity itself, or queues it behind its class's holder (R419). -/
def State.deviceMaint (s : State) (m : Maint) : State :=
  let cls := maintClass m.activity
  State.startQueued { s with flt := { s.flt with queues := tset s.flt.queues cls (tgetD s.flt.queues cls [] ++ [m]) } } cls

/-- The holder of a class ends: a host activity completes with `a`, and the class is released (R418). -/
def State.endMaint (s : State) (activity : Nat) (a : Ans) : State :=
  match s.holder? (maintClass activity) with
  | none => s
  | some m =>
    if m.activity != activity then s
    else (if m.device then s else s.complete (.maint activity) a).releaseClass (maintClass activity)

/-- A RETRAIN of port `p` ends: DONE when the port is up, STATE otherwise (R420). -/
def State.retrainEnds (s : State) (p : Nat) (up : Bool) : State :=
  match s.holder? 1 with
  | some m => if m.arg = p then s.endMaint actRetrain (ans (if up then stDone else stState)) else s
  | none => s

end Sys2Proof.Machine
end

