-- ==== Sys2Proof/Machine/PowerOps.lean ====
section
/-! DEFINITION. Reef levels and group agreement, as every family uses them (R378 to R383). -/
namespace Sys2Proof.Machine

/-- The local requirement Q (R380). -/
def Power.localReq (p : Power) : Nat := max p.thermal p.governor

/-- The request q (R380). -/
def Power.request (p : Power) : Nat := max p.localReq p.reefLimit

/-- Sixteenths of AK edges delivered: what the governor set, held at 8 at thermal level 4 from 103 °C on (R387, R392). -/
def Power.edges (p : Power) : Nat := if p.thermal = 4 && 1648 ≤ p.tj then min p.delivered 8 else p.delivered

/-- A context's target counts toward A from its unfurl until it is furled (R380, R396). -/
def countsReef (st : CtxState) : Bool := match st with | .furled => false | .unfurling => false | _ => true

/-- The level the package should run at, A (R380). -/
def State.levelWanted (s : State) : Nat :=
  s.ctxs.foldl (fun a e => if e.2.reefValid && countsReef e.2.state then max a e.2.reefTarget else a) s.pwr.request

/-- A change of A becomes the pending target, replacing one that is pending (R378). -/
def State.retarget (s : State) : State :=
  let a := s.levelWanted
  { s with pwr := { s.pwr with target := if a = s.pwr.applied then none else some a } }

/-- The effective cap C (R384). -/
def Power.effCap (p : Power) : Nat :=
  let c := min p.cap p.capMgmt
  if p.hbLost && p.hbEn then min c p.capSafe else c

/-- A cap is held within 450 W to 2,000 W (R384). -/
def clampCap (w : Nat) : Nat := max 450 (min 2000 w)

/-! ## Hints (R389) -/

/-- Whether the converter is positioned for a hint at a moment: 20 µs before its start, until its end. -/
def Hint.due (h : Hint) (now : Nat) : Bool := decide (h.start ≤ now + 20 ∧ now < h.stop)

/-- What an older hint keeps when a newer one replaces it for their overlap (R389; DEDUCED, log entry 67). -/
def Hint.cut (h n : Hint) (now : Nat) : List Hint :=
  if h.stop ≤ n.start || n.stop ≤ h.start then [h]
  else
    (if h.start < n.start then [{ h with stop := n.start }] else [])
    ++ (if n.stop < h.stop then
          let rest : Hint := { h with start := n.stop }
          [{ rest with on := rest.due now }]
        else [])

/-- A hint joins the eight that the controller holds, oldest first; those beyond eight drop the oldest. -/
def addHint (now : Nat) (hs : List Hint) (n : Hint) : List Hint :=
  let l := (hs.flatMap fun h => h.cut n now) ++ [n]
  l.drop (l.length - 8)

/-- An update of the power registers. -/
def State.modPwr (s : State) (f : Power → Power) : State := { s with pwr := f s.pwr }

/-- The hints once one more arrives at the time `now`; with a lead shorter than 20 µs the converter is positioned at once, for
the power clamped to C. -/
def Power.hinted (p : Power) (now watts lead duration : Nat) : List Hint :=
  let h : Hint := { watts, start := now + lead, stop := now + lead + duration, on := decide (lead ≤ 20) }
  addHint now p.hints (if h.on then { h with watts := min watts p.effCap } else h)

/-- A hint arrives (R389). -/
def State.hint (s : State) (watts lead duration : Nat) : State :=
  s.modPwr fun p => { p with hints := p.hinted s.time watts lead duration }

/-- The hint that a program call carries, when it carries one; its lead counts from the start of the call (R389; log entry
67). -/
def State.callHint (s : State) (c call : Nat) : State :=
  s.modPwr fun p => { p with hints := match Config.callHint c call with
    | some h => p.hinted s.time h.1 h.2.1 h.2.2
    | none => p.hints }

end Sys2Proof.Machine
end

