-- ==== Sys2Proof/Machine/PmcOps.lean ====
section
/-! DEFINITION. Shadow counters of COMPAT contexts (R454, R455). -/
namespace Sys2Proof.Machine

/-- The selector of shadow `k` of a context (R454). -/
def shadowSel (ctx w : Nat) : Bytes :=
  natLe 2 (w % 1024) ++ natLe 1 2 ++ natLe 1 ctx ++ natLe 1 0x1F ++ natLe 1 0x1F ++ natLe 1 (b2n (bit w 15)) ++ zeros 25

/-- Some context of a mast has COMPAT = 1 (R454). -/
def State.compatOn (s : State) (m : Nat) : Bool := s.ctxs.any fun e => e.2.compat && bit e.2.mastMask m

/-- The values of counters 0 to 15 go into the shadows of the context they serve. -/
def PmcBlk.save (b : PmcBlk) : PmcBlk :=
  if b.served = 0 then b
  else { b with shadows := (List.range 16).foldl (fun t k =>
           tset t (b.served * 16 + k) (match tget b.progs k with | some p => p.val | none => 0)) b.shadows }

/-- Counters 0 to 15 serve a context: its events and the values it left (R454, R455). -/
def PmcBlk.serve (b : PmcBlk) (ctx : Nat) (shsel : Tab Nat) : PmcBlk :=
  let b := b.save
  { b with served := ctx, progs := (List.range 16).foldl (fun t k =>
      tset t k { sel := shadowSel ctx (tgetD shsel k 0), val := tgetD b.shadows (ctx * 16 + k) 0, dead := false }) b.progs }

/-- Counters 0 to 15 stop serving a context (R455: its shadows are saved and kept). -/
def PmcBlk.unserve (b : PmcBlk) (ctx : Nat) : PmcBlk :=
  if b.served = ctx then
    let b := b.save
    { b with served := 0, progs := b.progs.filter fun e => decide (16 ≤ e.1) }
  else b

/-- Selectors that name a destroyed context count nothing until they are programmed again (R460). -/
def PmcBlk.orphan (b : PmcBlk) (ctx : Nat) : PmcBlk :=
  { b with progs := tmap b.progs fun _ p => { p with dead := p.dead || u8 p.sel 3 % 128 == ctx } }

/-- A COMPAT context takes its engines on a mast (R455). -/
def State.servePmc (s : State) (c m : Nat) : State :=
  match s.ctx? c with
  | none => s
  | some x => if x.compat then s.modMast m fun z => { z with pmc := z.pmc.serve c x.shsel } else s

end Sys2Proof.Machine
end

