-- ==== Sys2Proof/Machine/Formats.lean ====
section
/-! DEFINITION. The narrow number formats: MX elements and blocks (R28 to R33), conversion into MX (R48, R49), pages
(R50, R51) and the conversions of the vector units (R52). -/
namespace Sys2Proof.Machine

/-! ## Elements -/

/-- An 8-bit two's complement code. -/
def signed8 (c : Nat) : Int := if 128 ≤ c then (c : Int) - 256 else c
def signed4 (c : Nat) : Int := if 8 ≤ c then (c : Int) - 16 else c

/-- An MXINT8 element times its scale 2^(sc - 127) (R29); `narrow`: 0x80 is read as -127 (R30). -/
def int8Val (narrow : Bool) (c sc : Nat) : Num :=
  let v := signed8 c
  let v := if narrow && v == -128 then -127 else v
  ofInt v ((sc : Int) - 127 - 6) false

/-- Half units of an E2M1 code (R31). -/
def e2m1Half (c : Nat) : Int :=
  let h : Int := match c % 8 with | 0 => 0 | 1 => 1 | 2 => 2 | 3 => 3 | 4 => 4 | 5 => 6 | 6 => 8 | _ => 12
  if 8 ≤ c % 16 then -h else h

/-- An E2M1 element times its scale. -/
def e2m1Val (c sc : Nat) : Num := ofInt (e2m1Half c) ((sc : Int) - 128) (decide (8 ≤ c % 16))

/-- An E4M3 element times its scale (R32). -/
def e4m3Val (c sc : Nat) : Num :=
  if c % 128 = 0x7F then .nan
  else
    let ex := bits c 3 4
    let m := bits c 0 3
    if ex = 0 then .fin (bit c 7) m ((sc : Int) - 127 - 9)
    else .fin (bit c 7) (m + 8) ((sc : Int) - 127 + ex - 10)

/-! ## Blocks into MX (R48, R49) -/

/-- emax of R48: 0 MXINT8, 8 E4M3, 2 E2M1. -/
def emaxOf (f : NumFmt) : Int := match f with | .e4m3 => 8 | .mxfp4 => 2 | _ => 0

/-- The largest element code of a sign. -/
def maxCode (f : NumFmt) (neg : Bool) : Nat :=
  match f with
  | .mxint8 => if neg then 0x81 else 0x7F
  | .e4m3 => if neg then 0xFE else 0x7E
  | _ => if neg then 0xF else 0x7

/-- One element quantised at shared exponent `s` (R48 step 3); a rounded zero is the positive zero. -/
def quantise (f : NumFmt) (s : Int) (neg : Bool) (m : Nat) (e : Int) : Nat :=
  match f with
  | .mxint8 =>
    let k := e - s + 6
    let q := min 127 (if 0 ≤ k then m * 2 ^ k.toNat else roundShift m (-k).toNat false)
    if neg && q != 0 then 256 - q else q
  | .e4m3 =>
    let c := min 0x7E (roundCode 4 (-9) m (e - s) false)
    if neg && c != 0 then c + 0x80 else c
  | _ =>
    let c := min 7 (roundCode 2 (-1) m (e - s) false)
    if neg && c != 0 then c + 8 else c

/-- A converted block: scale code, element codes, and whether a non-finite input was substituted. -/
structure MxBlock where
  scale : Nat
  codes : List Nat
  subst : Bool
  deriving DecidableEq, Repr

/-- The conversion of a block into an MX type (R48, R49). -/
def mxEncode (f : NumFmt) (xs : List Num) : MxBlock :=
  let subst := xs.any fun x => !x.isFinite
  let tops := xs.filterMap fun x => match x with
    | .fin _ m e => if m = 0 then none else some (e + bitLen m - 1)
    | _ => none
  match tops with
  | [] =>
    { scale := 0, subst, codes := xs.map fun x => match x with | .inf n => maxCode f n | _ => 0 }
  | t :: ts =>
    let s := max (-127) (min 127 (ts.foldl max t - emaxOf f))
    { scale := (s + 127).toNat, subst,
      codes := xs.map fun x => match x with
        | .nan => 0
        | .inf n => maxCode f n
        | .fin n m e => quantise f s n m e }

/-! ## Pages (R50, R51) -/

/-- The shape of a page: layers, heads and head dimension. -/
structure PageGeom where
  layers : Nat
  heads  : Nat
  dh     : Nat

/-- E of R50. -/
def PageGeom.elems (g : PageGeom) : Nat := g.layers * 256 * g.heads * 2 * g.dh

/-- The index of an element (R50). -/
def PageGeom.index (g : PageGeom) (l t h v d : Nat) : Nat := (((l * 256 + t) * g.heads + h) * 2 + v) * g.dh + d

/-- Bytes of a page in format 0 MXINT8, 1 E4M3, 2 MXFP4 (R50). -/
def PageGeom.bytes (g : PageGeom) (fmt : Nat) : Nat :=
  if fmt = 2 then g.elems / 2 + g.elems / 32 else g.elems + g.elems / 32

/-- Offset of the scale bytes. -/
def PageGeom.scaleOff (g : PageGeom) (fmt : Nat) : Nat := if fmt = 2 then g.elems / 2 else g.elems

/-- One element of a page image with its scale code, as an attention engine decodes it (R30, R153): `none` for a scale
of 0xFF. An E4M3 NaN is read as zero. -/
def pageElem (g : PageGeom) (fmt : Nat) (img : Bytes) (e : Nat) : Option Num :=
  let sc := u8 img (g.scaleOff fmt + e / 32)
  if sc = 0xFF then none
  else if fmt = 0 then some (int8Val true (u8 img e) sc)
  else if fmt = 1 then some (match e4m3Val (u8 img e) sc with | .nan => .fin false 0 0 | x => x)
  else some (e2m1Val (u8 img (e / 2) / (if e % 2 = 0 then 1 else 16) % 16) sc)

/-- The 32 elements of a block. -/
def blockElems (g : PageGeom) (fmt : Nat) (img : Bytes) (b : Nat) : Option (List Num) :=
  (List.range 32).mapM fun i => pageElem g fmt img (b * 32 + i)

/-- The element bytes of a block in a format. -/
def packBlock (fmt : Nat) (codes : List Nat) : Bytes :=
  if fmt = 2 then (List.range 16).map fun i => BitVec.ofNat 8 (codes.getD (2 * i) 0 + 16 * codes.getD (2 * i + 1) 0)
  else codes.map fun c => BitVec.ofNat 8 c

/-- The NumFmt of a page format code. -/
def fmtOf (fmt : Nat) : NumFmt := if fmt = 0 then .mxint8 else if fmt = 1 then .e4m3 else .mxfp4

/-- A page image converted block by block into another format; the error is the first block whose scale is 0xFF. -/
def convertPage (g : PageGeom) (from_ to_ : Nat) (img : Bytes) : Except Nat Bytes :=
  let n := g.elems / 32
  let blocks := (List.range n).map fun b => (blockElems g from_ img b).map fun xs => mxEncode (fmtOf to_) xs
  match (enum blocks).find? fun e => e.2.isNone with
  | some e => .error e.1
  | none => .ok ((blocks.flatMap fun b => match b with | some x => packBlock to_ x.codes | none => [])
                 ++ blocks.map fun b => match b with | some x => BitVec.ofNat 8 x.scale | none => 0)

/-- A page image converted block by block, a block whose scale is 0xFF read as NaN throughout (R28, R49); with it the number of
blocks in which a NaN became zero. -/
def convertLoose (g : PageGeom) (from_ to_ : Nat) (img : Bytes) : Bytes × Nat :=
  let blocks := (List.range (g.elems / 32)).map fun b =>
    mxEncode (fmtOf to_) ((blockElems g from_ img b).getD (List.replicate 32 .nan))
  ((blocks.flatMap fun x => packBlock to_ x.codes) ++ blocks.map fun x => BitVec.ofNat 8 x.scale,
   (blocks.filter (·.subst)).length)

/-- The blocks of an open image that count as clamped (R30) or as substituted (R51, R153): codes 0x80 of MXINT8, blocks
with an E4M3 NaN. -/
def negClamps (g : PageGeom) (img : Bytes) : Nat := ((img.take g.elems).filter (· == 0x80#8)).length
def nanBlocks (g : PageGeom) (img : Bytes) : Nat :=
  ((List.range (g.elems / 32)).filter fun b => (sub img (b * 32) 32).any fun c => c.toNat % 128 == 0x7F).length

/-! ## Vector-unit conversions (R47, R52) -/

/-- Bytes of a row of `cols` elements in a format, elements only. -/
def elemBytes (f : NumFmt) (n : Nat) : Nat :=
  match f with | .fp32 => 4 * n | .bf16 => 2 * n | .mxfp4 => n / 2 | _ => n

/-- Whether a format carries a scale array. -/
def hasScale (f : NumFmt) : Bool := match f with | .fp32 => false | .bf16 => false | _ => true

/-- Where the scale array of a tensor of `n` elements stands: the first 128-byte boundary at or after its elements
(R47). -/
def scaleAt (f : NumFmt) (n : Nat) : Nat := roundUp (elemBytes f n) 128

/-- Bytes of a tensor of `n` elements with its scales. -/
def tensorBytes (f : NumFmt) (n : Nat) : Nat := if hasScale f then scaleAt f n + n / 32 else elemBytes f n

/-- Element `i` of a tensor of `n` elements as a vector unit reads it: an MX block with scale 0xFF is all NaN (R28), and
an MXINT8 0x80 is -2 times the scale (R30). -/
def vuElem (f : NumFmt) (n : Nat) (b : Bytes) (i : Nat) : Num :=
  match f with
  | .fp32 => ofFp (BitVec.ofNat 32 (u32 b (4 * i)))
  | .bf16 => ofBf (u16 b (2 * i))
  | f =>
    let sc := u8 b (scaleAt f n + i / 32)
    if sc = 0xFF then .nan
    else match f with
      | .mxint8 => int8Val false (u8 b i) sc
      | .e4m3 => e4m3Val (u8 b i) sc
      | _ => e2m1Val (u8 b (i / 2) / (if i % 2 = 0 then 1 else 16) % 16) sc

/-- A decoded value as FP32 holds it: exact but for overflow to an infinity and underflow to a signed zero (R52). -/
def viaFp32 (x : Num) : Num := ofFp (toFp x)

/-- A tensor of values written in a format, with the number of blocks that held a substitution (R48, R49). -/
def vuWrite (f : NumFmt) (xs : List Num) : Bytes × Nat :=
  match f with
  | .fp32 => (xs.flatMap fun x => natLe 4 (toFp x).toNat, 0)
  | .bf16 => (xs.flatMap fun x => natLe 2 (toBf x), 0)
  | f =>
    let n := xs.length
    let blocks := (List.range (ceilDiv n 32)).map fun b => mxEncode f ((xs.drop (32 * b)).take 32)
    let els := blocks.flatMap fun b => packBlock (if f == .mxfp4 then 2 else 0) b.codes
    (fitTo els (scaleAt f n) ++ blocks.map fun b => BitVec.ofNat 8 b.scale, (blocks.filter (·.subst)).length)

end Sys2Proof.Machine
end

