-- ==== Sys2Proof/Machine/KvOps.lean ====
section
/-! DEFINITION. Key-value pools, pages and sessions: units, frame table, page lists, the walk, sealing triggers and
commits (R146, R155 to R170). -/
namespace Sys2Proof.Machine

/-- The seal paths, which the device runs on its own account (R169, R449). -/
def sealReader (c : Nat) : Reader := { ctx := c, priv := 0, master := 0x10, cls := 0, alloc := false }

/-! ## Geometry (R155 to R157) -/

/-- The unit size U (R155). -/
def KvRec.unit (k : KvRec) : Nat := k.frame4k * 2048
def KvRec.dh (k : KvRec) : Nat := 32 * k.dh32
def KvRec.geom (k : KvRec) : PageGeom := { layers := k.layers, heads := k.heads, dh := k.dh }
def KvRec.unitAddr (k : KvRec) (u : Nat) : Nat := k.pool + u * k.unit
/-- Units that pages may take: all but the staging units (R157). -/
def KvRec.pageUnits (k : KvRec) : Nat := k.units - k.sealSlots

/-- A pool before any page: every page unit is free. -/
def Pool.empty : Pool := { frames := [], descs := [], emitted := 0, held := 0, stalls := 0, commits := 0, waiting := [], ended := [] }
/-- A pool without pages. What R173 reports of the last walk, the last boundary and the stalls since creation stays. -/
def Pool.renewed (p : Pool) : Pool := { p with frames := [], descs := [], waiting := [], ended := [] }

def Ctx.pool (c : Ctx) (m : Nat) : Pool :=
  tgetD c.pools m Pool.empty

/-- Frame states of R166. -/
def fOpen : Nat := 1
def fFull : Nat := 2
def fSealing : Nat := 3
def fSealed : Nat := 4
def fShipping : Nat := 5

/-- Units in use by pages. -/
def Pool.used (p : Pool) : List Nat :=
  p.frames.flatMap fun e => e.1 :: (match e.2.upper with | some u => [u] | none => [])

/-- The free page units, ascending (R157). -/
def freeUnits (k : KvRec) (p : Pool) : List Nat :=
  let used := p.used
  (List.range k.pageUnits).filter fun u => !used.contains u

/-- The free staging units, ascending (R157, R169). -/
def freeStages (k : KvRec) (p : Pool) : List Nat :=
  let used := p.frames.filterMap fun e => e.2.stage
  ((List.range k.sealSlots).map (· + k.pageUnits)).filter fun u => !used.contains u

/-- A new open page of a record's open format (R167). -/
def newFrame (k : KvRec) (upper : Nat) : Frame :=
  { st := fOpen, upper := some upper, refs := 1, pend := false, fmt := k.fmt, shipFrom := 0, ships := 0, sealDue := 0,
    stage := none, image := false }

/-! ## Images in DRAM (R157, R158, R161, R164)

The device's own tables are held as data; what R158, R161 and R164 give a place in DRAM is written there too, so that a
reader of the memory finds it (log entry 14). -/

/-- A memory fault of an access that the Masthead makes for a context: its contained error is raised at the end of what the
Masthead does (R219). -/
def State.meet (s : State) (c m : Nat) (e : Nat × Nat) : State :=
  s.modCtx c fun x => { x with met := x.met ++ [(m, e.2, e.1 * 64)] }

/-- The Masthead writes a table of a context into a mast's DRAM (R218, R227). In a coolant stop DRAM serves no access and the
write waits for its end (R222); a fenced mast serves none (R233). -/
def State.mastWrite (s : State) (c m off : Nat) (b : Bytes) : State :=
  if !s.mastUp m then s
  else if s.pwr.coolstop then s.modCtx c fun x => { x with late := x.late ++ [(m, off, b)] }
  else
    let q := s.writeDram m (control c 0x18) off b
    match q.2 with | some e => q.1.meet c m e | none => q.1

/-- The table writes of a context that waited for the end of a coolant stop are made, in order (R222, R395). -/
def State.writeLate (s : State) (c : Nat) : State :=
  match s.ctx? c with
  | none => s
  | some x => x.late.foldl (fun (s : State) w => s.mastWrite c w.1 w.2.1 w.2.2) (s.modCtx c fun x => { x with late := [] })

/-- Regions of a mast's DRAM are read for a context, one after the other; none when some of it cannot be delivered (R219), or
when DRAM serves no access (R222, R233). -/
def State.mastRead (s : State) (c m : Nat) (r : Reader) : List (Nat × Nat) → State × Option Bytes
  | [] => (s, some [])
  | (off, n) :: rest =>
    if s.pwr.coolstop || !s.mastUp m then (s, none)
    else
    let q := s.readDram m r off n
    match q.2.2 with
    | some e => (q.1.meet c m e, none)
    | none => let t := q.1.mastRead c m r rest; (t.1, t.2.map fun b => q.2.1 ++ b)

/-- A frame table entry (R161). -/
def ftEntry (k : KvRec) (p : Pool) (u : Nat) : Bytes :=
  match tget p.frames u with
  | some f =>
    natLe 4 (f.upper.getD 0xFFFFFFFF) ++ natLe 2 f.refs
    ++ natLe 1 (packFields [(0, 3, f.st), (3, 1, b2n f.pend), (4, 2, f.fmt), (6, 2, f.shipFrom)]) ++ natLe 1 f.ships
    ++ natLe 4 f.sealDue ++ natLe 4 (f.stage.getD 0xFFFFFFFF)
  | none =>
    let st := if (p.frames.any fun e => e.2.upper == some u) then 6 else if k.pageUnits ≤ u then 7 else 0
    natLe 4 0xFFFFFFFF ++ zeros 2 ++ natLe 1 st ++ zeros 5 ++ natLe 4 0xFFFFFFFF

/-- The units whose frame table entries two pools may disagree on. -/
def touchedUnits (p q : Pool) : List Nat :=
  dedup (p.used ++ q.used ++ (p.frames.filterMap fun e => e.2.stage) ++ (q.frames.filterMap fun e => e.2.stage))

/-- A context's pool on a mast changes, and its frame table with it. -/
def State.setPool (s : State) (c m : Nat) (p : Pool) : State :=
  match s.ctx? c with
  | none => s
  | some x =>
    match tget x.kv m with
    | none => s
    | some k =>
      let old := x.pool m
      let s := s.modCtx c fun x => { x with pools := tset x.pools m p }
      (touchedUnits old p).foldl (fun s u =>
        if ftEntry k old u == ftEntry k p u then s else s.mastWrite c m (k.ft + 16 * u) (ftEntry k p u)) s

/-- The frame tables of a context whose pools are empty (R161, R166). -/
def State.kvTables (s : State) (c : Nat) : State :=
  match s.ctx? c with
  | none => s
  | some x => x.kv.foldl (fun (s : State) e =>
      s.mastWrite c e.1 e.2.ft ((List.range e.2.units).flatMap (ftEntry e.2 Pool.empty))) s

/-- The DRAM regions of a page: offset, length. -/
def pageRegions (k : KvRec) (u : Nat) (f : Frame) : List (Nat × Nat) :=
  let n := k.geom.bytes f.fmt
  if f.fmt = 2 || n ≤ k.unit then [(k.unitAddr u, n)]
  else (k.unitAddr u, k.unit) :: (match f.upper with | some v => [(k.unitAddr v, n - k.unit)] | none => [])

/-- A page image is written into its units; whole half-lines lose their poison. -/
def State.writePage (s : State) (c m : Nat) (k : KvRec) (u : Nat) (f : Frame) (img : Bytes) : State :=
  (pageRegions k u f).foldl (fun (acc : State × Bytes) r =>
    ((acc.1.writeDram m (stream c 0x18) r.1 (acc.2.take r.2)).1, acc.2.drop r.2)) (s, img) |>.1

/-- The address of byte `o` of an open page (R157). -/
def pageAddr (k : KvRec) (u : Nat) (f : Frame) (o : Nat) : Nat :=
  if o < k.unit then k.unitAddr u + o else k.unitAddr (f.upper.getD 0) + (o - k.unit)

/-- The DRAM regions of bytes `o` to `o + n` of a page. -/
def pageRuns (k : KvRec) (u : Nat) (upper : Option Nat) (o n : Nat) : List (Nat × Nat) :=
  let hi := k.unitAddr (upper.getD 0)
  if o < k.unit then
    let a := min n (k.unit - o)
    (k.unitAddr u + o, a) :: (if a < n then [(hi, n - a)] else [])
  else [(hi + (o - k.unit), n)]

/-- Where the key with its value of a token slot of a page that is not sealed lies, for layer `l` and head `h` (R50, R152):
elements, then scales. -/
def entryRuns (k : KvRec) (u : Nat) (upper : Option Nat) (l t h : Nat) : List (Nat × Nat) :=
  let i := k.geom.index l t h 0 0
  pageRuns k u upper i (2 * k.dh) ++ pageRuns k u upper (k.geom.elems + i / 32) (2 * k.dh / 32)

/-! ## Sessions (R158, R159, R179) -/

/-- A session that has just been opened (R179). -/
def newSession (c : Nat) (ptrs : Tab Nat) (cap mirror : Nat) : Session :=
  { ctx := c, listPtr := ptrs, listCap := cap, globals := [], length := 0, mirror, pages := [],
    shown := { length := 0, pages := 0, globals := 0, bound := false } }

def State.session? (s : State) (i : Nat) : Option Session := tget s.sess i
def State.modSession (s : State) (i : Nat) (f : Session → Session) : State := { s with sess := tmod s.sess i f }

/-- The masts on which a context holds a key-value record. -/
def Ctx.kvMasts (c : Ctx) : List Nat := tkeys c.kv

/-- The frame of a session's page on a mast. -/
def Session.frame (x : Session) (m p : Nat) : Option Nat := match tget x.pages m with | some t => tget t p | none => none

/-- PAGES of R158 on a mast: one past the highest present page index. -/
def Session.pagesOn (x : Session) (m : Nat) : Nat := match tget x.pages m with | some t => maxD ((tkeys t).map (· + 1)) 0 | none => 0

/-- A page-list entry changes (R158). -/
def State.setPage (s : State) (i m p : Nat) (f : Option Nat) : State :=
  match s.session? i with
  | none => s
  | some x =>
    let t := tgetD x.pages m []
    let t := match f with | some u => tset t p u | none => tdel t p
    let s := s.modSession i fun x => { x with pages := tset x.pages m t }
    match tget x.listPtr m with
    | some ptr => s.mastWrite x.ctx m (ptr % 2 ^ 48 + 256 + 4 * p) (natLe 4 (f.getD 0xFFFFFFFF))
    | none => s

/-- A seal that ended because its page was freed (R167): counted on its mast. -/
def State.sealAborted (s : State) (c m u : Nat) : State :=
  let s := s.modMast m fun x =>
    let jobs := x.ae.sealJobs.filter fun j => !(j.ctx == c && j.frame == u)
    { x with ae := { x.ae with err := x.ae.err ||| 0x80, sealJobs := jobs, building := x.ae.building && !jobs.isEmpty } }
  s.countM m (occ 0x043 1 0 c 0x18)

/-- REFCOUNT of a frame falls by 1; at 0 its units are freed, but a shipping page keeps them until its exports end, and
a sealing page aborts its seal (R159, R167, R170). -/
def State.dropRef (s : State) (c m u : Nat) : State :=
  match s.ctx? c with
  | none => s
  | some x =>
    let p := x.pool m
    match tget p.frames u with
    | none => s
    | some f =>
      if 1 < f.refs then s.setPool c m { p with frames := tset p.frames u { f with refs := f.refs - 1 } }
      else if f.st = fShipping then s.setPool c m { p with frames := tset p.frames u { f with refs := 0 } }
      else
        let s := s.setPool c m { p with frames := tdel p.frames u, waiting := p.waiting.filter (· != u),
                                        ended := p.ended.filter (· != u) }
        if f.st = fSealing then s.sealAborted c m u else s

/-- The pages of a session from index `n` on are released on every mast (R159, R181). -/
def State.releasePages (s : State) (i n : Nat) : State :=
  match s.session? i with
  | none => s
  | some x =>
    x.pages.foldl (fun s e => (e.2.filter fun q => decide (n ≤ q.1)).foldl (fun s q =>
      (s.setPage i e.1 q.1 none).dropRef x.ctx e.1 q.2) s) s

/-- A session ends: its pages are released and its directory entries freed (R179). -/
def State.closeSession (s : State) (i : Nat) : State :=
  let s := s.releasePages i 0
  { s with sess := tdel s.sess i }

/-- A request in an active state of R179 is bound to the session. -/
def activeState (st : Nat) : Bool := 1 ≤ st && st ≤ 5
def State.boundTo (s : State) (i : Nat) : Option Nat :=
  (s.reqs.find? fun e => e.2.session == i && activeState e.2.state &&
    (match s.session? i with | some x => x.ctx == e.2.ctx | none => false)).map (·.1)

/-- Whether sharing `n` pages would take some REFCOUNT above 65,535 (R159). -/
def State.shareFull (s : State) (src n : Nat) : Bool :=
  match s.session? src with
  | none => false
  | some x => x.pages.any fun e => e.2.any fun q => decide (q.1 < n) &&
      (match s.ctx? x.ctx with
       | some c => (match tget (c.pool e.1).frames q.2 with | some f => 65535 ≤ f.refs | none => false)
       | none => false)

/-- `n` page-list entries are copied and their frames gain a reference (R159); the target's LENGTH follows (R179). -/
def State.sharePages (s : State) (src dst n : Nat) : State :=
  match s.session? src with
  | none => s
  | some x =>
    let s := x.pages.foldl (fun s e => (e.2.filter fun q => decide (q.1 < n)).foldl (fun s q =>
      let s := s.setPage dst e.1 q.1 (some q.2)
      match s.ctx? x.ctx with
      | none => s
      | some c =>
        let p := c.pool e.1
        s.setPool x.ctx e.1 { p with frames := tmod p.frames q.2 fun f => { f with refs := f.refs + 1 } }) s) s
    s.modSession dst fun y => { y with length := min (256 * n) x.length }

/-! ## The mask (R146) -/

/-- The positions that one layer admits through its window or sink for the queries `a` to `b`, as intervals. -/
def layerSpans (e : LayerAttn) (a b : Nat) : List (Nat × Nat) :=
  if b < a then [] else
  let top := if e.exclSelf then b else b + 1           -- one past the last position that can be admitted
  let lo := if e.window = 0 then 0 else a + 1 - min e.window (a + 1)
  let win := if e.window = 1 && e.exclSelf then [] else [(lo, top)]
  let sink := [(0, min e.sink top)]
  (win ++ sink).filter fun r => decide (r.1 < r.2)

/-- Whether a page holds a position of some span. -/
def pageHit (spans : List (Nat × Nat)) (p : Nat) : Bool := spans.any fun r => decide (r.1 < 256 * p + 256 ∧ 256 * p < r.2)

/-- The pages that the layers of a program let in for queries `a` to `b` of a session: (page, only through the global
list) (R162, R164). -/
def admittedPages (attn : List LayerAttn) (globals : List Nat) (a b : Nat) : List (Nat × Bool) :=
  let layers := attn.filter (·.attn)
  let spans := layers.flatMap fun e => layerSpans e a b
  let gl := globals.filter fun j => layers.any fun e =>
    e.globalEn && (if e.exclSelf then decide (j < b) else decide (j ≤ b))
  (List.range (b / 256 + 1)).filterMap fun p =>
    if pageHit spans p then some (p, false) else if gl.any fun j => j / 256 == p then some (p, true) else none

/-- Whether a layer admits key position `j` for the query at `p` (R146). -/
def admits (e : LayerAttn) (globals : List Nat) (len p j : Nat) : Bool :=
  decide (j < len) && decide (j ≤ p) && (!e.exclSelf || j != p)
  && (e.window == 0 || decide (p + 1 ≤ j + e.window) || decide (j < e.sink) || (e.globalEn && globals.contains j))

/-! ## The walk (R162 to R164) -/

/-- What a request asks of a walk: its slot, session, first new position and how many. -/
structure WalkReq where
  slot    : Nat
  session : Nat
  start   : Nat
  count   : Nat

/-- The pages that the new positions of a request need units for on a mast: (page, frame to copy). DESIGN CHOICE (log entry 94):
a page's REFCOUNT is that before the walk, so that two requests of one walk that share an open page both copy it (R160). -/
def walkNeeds (x : Session) (p : Pool) (m : Nat) (w : WalkReq) : List (Nat × Option Nat) :=
  if w.count = 0 then []
  else
    let first := w.start / 256
    ((List.range ((w.start + w.count - 1) / 256 - first + 1)).map (· + first)).filterMap fun q =>
      match x.frame m q with
      | none => some (q, none)
      | some f => match tget p.frames f with
        | some fr => if fr.st = fOpen && fr.refs = 1 then none else some (q, some f)
        | none => some (q, none)

/-- One request's reservation on a mast: its pages with their two units, and its descriptors. -/
structure Reservation where
  slot  : Nat
  takes : List (Nat × Option Nat × Nat × Nat)   -- page, frame to copy, lower and upper unit
  pages : List (Nat × Bool)

/-- Pairs of units for each need, in order; none when they run out. -/
def pairUp : List (Nat × Option Nat) → List Nat → Option (List (Nat × Option Nat × Nat × Nat) × List Nat)
  | [], us => some ([], us)
  | n :: ns, a :: b :: us => (pairUp ns us).map fun r => ((n.1, n.2, a, b) :: r.1, r.2)
  | _ :: _, _ => none

/-- The walk of one mast: reservations in ascending slot, or held (R162). A request that is held for want of descriptor space
keeps the units it has reserved until the walk ends, when R163 returns them (DEDUCED; log entry 83). -/
def walkMast (attn : List LayerAttn) (k : KvRec) (p : Pool) (m : Nat) (sess : Tab Session) :
    List WalkReq → List Nat → Nat → List Reservation × List Nat
  | [], _, _ => ([], [])
  | w :: ws, us, descs =>
    match tget sess w.session with
    | none => walkMast attn k p m sess ws us descs
    | some x =>
      let pages := admittedPages attn x.globals w.start (w.start + w.count - 1)
      match pairUp (walkNeeds x p m w) us with
      | some (takes, us') =>
        if descs + pages.length ≤ k.descCap then
          let r := walkMast attn k p m sess ws us' (descs + pages.length)
          ({ slot := w.slot, takes, pages } :: r.1, r.2)
        else
          let r := walkMast attn k p m sess ws us' descs
          (r.1, w.slot :: r.2)
      | none =>
        let r := walkMast attn k p m sess ws us descs
        (r.1, w.slot :: r.2)

/-- The open image of a page that a walk copies (R160); none when its memory cannot be read. DESIGN CHOICE (log entry 84): a
sealed block whose scale is 0xFF is decoded as NaN, which R49 makes zero and counts. -/
def State.openImage (s : State) (c m : Nat) (k : KvRec) (u : Nat) (o : Frame) : State × Option Bytes :=
  let q := s.mastRead c m (stream c 0x18) (pageRegions k u o)
  if o.fmt = 2 then
    match q.2 with
    | none => q
    | some b =>
      let v := convertLoose k.geom 2 k.fmt b
      (q.1.countM m (occ 0x011 v.2 1 c 0x18), some v.1)
  else q

/-- A page is opened or copied with two units (R160, R167). -/
def State.openPage (s : State) (c m i : Nat) (k : KvRec) (t : Nat × Option Nat × Nat × Nat) : State :=
  let lower := t.2.2.1
  let fr := newFrame k t.2.2.2
  match s.ctx? c with
  | none => s
  | some x =>
    let p := x.pool m
    let img := match t.2.1.bind fun f => (tget p.frames f).map fun o => (f, o) with
      | none => (s, none)
      | some o => s.openImage c m k o.1 o.2
    let s := img.1.setPool c m { p with frames := tset p.frames lower fr }
    let s := match img.2 with | some b => s.writePage c m k lower fr b | none => s
    let s := s.setPage i m t.1 (some lower)
    match t.2.1 with | some f => s.dropRef c m f | none => s

/-- A descriptor's 16 bytes (R164). -/
def Desc.image (d : Desc) : Bytes :=
  natLe 4 d.frame ++ natLe 4 (d.upper.getD 0xFFFFFFFF)
  ++ natLe 4 (packFields [(0, 22, 256 * d.page), (22, 9, d.valid), (31, 1, b2n d.glob)])
  ++ natLe 4 (packFields [(0, 14, d.session), (14, 14, d.page), (28, 2, d.fmt), (30, 1, b2n d.last)])

/-- The descriptors of one request on a mast (R164). -/
def descsOf (x : Session) (p : Pool) (m i newLen : Nat) (pages : List (Nat × Bool)) : List Desc :=
  (enum pages).filterMap fun e =>
    (x.frame m e.2.1).bind fun f => (tget p.frames f).map fun fr =>
      { session := i, page := e.2.1, frame := f, upper := fr.upper, valid := min 256 (newLen - 256 * e.2.1), glob := e.2.2,
        fmt := fr.fmt, last := decide (e.1 + 1 = pages.length) }

/-- The walk of a step over its requests (ascending slot): units are taken, pages opened and copied, descriptors
written; the result lists the slots held on any mast (R162 to R164). -/
def State.walk (s : State) (c : Nat) (attn : List LayerAttn) (ws : List WalkReq) : State × List Nat :=
  match s.ctx? c with
  | none => (s, [])
  | some x =>
    let perMast := x.kv.map fun e => (e.1, e.2, walkMast attn e.2 (x.pool e.1) e.1 s.sess ws (freeUnits e.2 (x.pool e.1)) 0)
    let held := dedup (perMast.flatMap fun q => q.2.2.2)
    let s := perMast.foldl (fun s q =>
      let m := q.1
      let k := q.2.1
      let kept := q.2.2.1.filter fun r => !held.contains r.slot
      let s := kept.foldl (fun s r =>
        match ws.find? fun w => w.slot == r.slot with
        | none => s
        | some w => r.takes.foldl (fun s t => s.openPage c m w.session k t) s) s
      let p := (match s.ctx? c with | some y => y.pool m | none => x.pool m)
      let ds := kept.flatMap fun r =>
        match ws.find? fun w => w.slot == r.slot with
        | none => []
        | some w => match s.session? w.session with
          | some y => descsOf y p m w.session (w.start + w.count) r.pages
          | none => []
      let s := s.modCtx c fun y => { y with pools := tset y.pools m { p with descs := ds, emitted := ds.length, held := q.2.2.2.length } }
      let s := if q.2.2.2.isEmpty then s
        else s.modMast m fun z => { z with ae := { z.ae with err := z.ae.err ||| 0x10 } }
      s.mastWrite c m k.desc (ds.flatMap Desc.image)) s
    (s, held)

/-! ## Page changes at a boundary (R167 to R169) -/

/-- Pages whose slot 255 the step wrote become full (R167). -/
def fillPages (x : Session) (m len : Nat) (p : Pool) : Pool :=
  match tget x.pages m with
  | none => p
  | some t => (t.filter fun q => decide (256 * q.1 + 256 ≤ len)).foldl (fun p q =>
      { p with frames := tmod p.frames q.2 fun f => if f.st = fOpen then { f with st := fFull } else f }) p

/-- Whether a seal due at step `n` has no complete image yet (R169). -/
def Pool.sealLate (p : Pool) (n : Nat) : Bool :=
  p.frames.any fun e => e.2.st == fSealing && e.2.sealDue == n % 2 ^ 32 && !e.2.image

/-- One trigger (R168): a full page enters `sealing`, a shipping one gets SEAL_PENDING, any other is left alone. -/
def triggerFrame (k : KvRec) (n : Nat) (p : Pool) (u : Nat) : Pool :=
  match tget p.frames u with
  | none => p
  | some f =>
    if f.st = fFull && f.ships = 0 then
      { p with frames := tset p.frames u { f with st := fSealing, sealDue := (n + k.sealLag) % 2 ^ 32, image := false },
               waiting := p.waiting ++ [u] }
    else if f.st = fShipping then { p with frames := tset p.frames u { f with pend := true } }
    else p

/-- The triggers of one session on a mast: every page at or below its newest page less SEAL_WINDOW, ascending. -/
def triggerSession (k : KvRec) (n : Nat) (x : Session) (m : Nat) (p : Pool) : Pool :=
  if k.sealWin = 0 || x.length = 0 then p
  else match tget x.pages m with
    | none => p
    | some t => (t.filter fun q => decide (q.1 + k.sealWin ≤ (x.length - 1) / 256)).foldl
        (fun p q => triggerFrame k n p q.2) p

/-- The commits due at the boundary of step `n`: each image goes into its lower unit (R169). `ended`: that step has just ended; when
its boundary runs again (R489), COMMITS counts on, since it is the same boundary (R173; log entry 103). -/
def State.commitSeals (s : State) (c m n : Nat) (ended : Bool) (k : KvRec) : State :=
  match s.ctx? c with
  | none => s
  | some x =>
    let p := x.pool m
    let due := p.frames.filter fun e => e.2.st == fSealing && e.2.sealDue == n % 2 ^ 32 && e.2.image
    let s := due.foldl (fun s e =>
      let img := s.mastRead c m (sealReader c) [(k.unitAddr (e.2.stage.getD 0), k.geom.bytes 2)]
      match img.2 with
      | some b => (img.1.writeDram m (sealReader c) (k.unitAddr e.1) b).1
      | none => img.1) s
    s.setPool c m { p with
      frames := due.foldl (fun t e => tset t e.1 { e.2 with st := fSealed, upper := none, fmt := 2, stage := none, image := false })
        p.frames,
      commits := if ended then due.length else p.commits + due.length }

end Sys2Proof.Machine
end

