-- ==== Sys2Proof/Machine/ServeOps.lean ====
section
/-! DEFINITION. The serving sequencer: request entries and configurations as bytes, the application of recorded commands,
exports, the mirror log, bundles and the step boundary (R176 to R205, R489). -/
namespace Sys2Proof.Machine

/-! ## States and flags (R177, R192) -/

def rFree : Nat := 0
def rQueued : Nat := 1
def rPrefill : Nat := 2
def rDecode : Nat := 3
def rParked : Nat := 4
def rDraining : Nat := 5
def rDone : Nat := 6
def rFaulted : Nat := 7

def flStopToken : Nat := 1
def flMaxLength : Nat := 2
def flDeadline : Nat := 4
def flCancelled : Nat := 8
def flHandover : Nat := 16
def flLast : Nat := 32

/-- Mirror status codes (R177). -/
def mNone : Nat := 0
def mSynced : Nat := 1
def mResync : Nat := 2
def mLost : Nat := 3

/-! ## Layouts (R176, R180) -/

/-- A request entry's 64 bytes, with LENGTH, STOP, COUNTER and LAST_TOKEN as given (R176, R208). -/
def entryImage (e : Request) (len stop counter last : Nat) : Bytes :=
  natLe 1 (packFields [(0, 4, e.state), (4, 2, e.partner)])
  ++ natLe 1 (packFields [(0, 3, e.priority), (3, 1, b2n e.imp), (4, 1, b2n e.exp), (5, 1, b2n e.releaseSess)])
  ++ natLe 1 e.ctx ++ natLe 1 stop ++ natLe 2 e.session ++ natLe 2 e.cause ++ natLe 4 len ++ natLe 4 e.maxLength
  ++ natLe 4 e.promptStart ++ natLe 4 e.promptEnd ++ natLe 8 e.deadline ++ natLe 8 e.seed ++ natLe 4 counter
  ++ natLe 4 e.promptIdx ++ natLe 4 e.temperature.toNat ++ natLe 4 e.topP.toNat ++ natLe 2 e.topK ++ natLe 2 e.stopMask
  ++ natLe 4 last

/-- The entry as it stands. -/
def Request.image (e : Request) : Bytes := entryImage e e.length e.stop e.counter e.lastToken
/-- The entry as the request table window shows it (R208). -/
def Request.shown (e : Request) : Bytes := entryImage e e.wLength e.wStop e.wCounter e.wLastToken

/-- The entry that an image spells (R176). -/
def parseEntry (b : Bytes) : Request :=
  { state := u8 b 0 % 16, partner := bits (u8 b 0) 4 2, priority := u8 b 1 % 8, imp := bit (u8 b 1) 3,
    exp := bit (u8 b 1) 4, releaseSess := bit (u8 b 1) 5, ctx := u8 b 2 % 128, stop := u8 b 3,
    session := u16 b 4 % 2 ^ 14, cause := u16 b 6, length := u32 b 8 % 2 ^ 23, maxLength := u32 b 12 % 2 ^ 23,
    promptStart := u32 b 16 % 2 ^ 23, promptEnd := u32 b 20 % 2 ^ 23, deadline := u64 b 24, seed := u64 b 32,
    counter := u32 b 40, promptIdx := u32 b 44, temperature := BitVec.ofNat 32 (u32 b 48),
    topP := BitVec.ofNat 32 (u32 b 52), topK := u16 b 56 % 2 ^ 11, stopMask := u16 b 58, lastToken := u32 b 60 % 2 ^ 20,
    wLength := 0, wStop := 0, wCounter := 0, wLastToken := 0, lastOut := false, resume := false, imported := false,
    delivered := [], serial := 0 }

/-- The configuration that 128 bytes spell (R180). -/
def parseConfig (b : Bytes) : ServeConfig :=
  { maxRows := u16 b 0, chunk := u16 b 2, vocab := u32 b 4 % 2 ^ 21, tokenMast := u8 b 8 % 8, noticeCh := u8 b 9 % 8,
    mirrorEn := bit (u8 b 10) 0, policy := bit (u8 b 10) 1, holder := bit (u8 b 10) 2, alwaysStep := bit (u8 b 10) 3,
    partnerCtx := u8 b 11 % 128, partnerPkg := u8 b 12, tokenArea := u64 b 16, ringPtr := u64 b 24, ringLines := u32 b 32,
    mirrorTo := if u16 b 36 = 0 then 5000 else u16 b 36, exportTo := (if u16 b 38 = 0 then 200 else u16 b 38) * 100,
    stopIds := (List.range 16).map fun i =>
      if bit (u32 b (40 + 4 * i)) 31 then some (u32 b (40 + 4 * i) % 2 ^ 20) else none }

/-! ## Small changes -/

def State.req? (s : State) (i : Nat) : Option Request := tget s.reqs i
def State.modReq (s : State) (i : Nat) (f : Request → Request) : State := { s with reqs := tmod s.reqs i f }

/-- The request slots of a context, ascending. -/
def State.slotsOf (s : State) (c : Nat) : List Nat := (s.reqs.filter fun e => e.2.ctx == c).map (·.1)

/-- Pages that hold `n` positions. -/
def pagesFor (n : Nat) : Nat := ceilDiv n 256

/-- Whether an export of a session is in flight (R183). -/
def State.exporting (s : State) (i : Nat) : Bool :=
  s.exports.any fun e => e.2.session == i && e.2.started && !e.2.resync

/-- A request enters `faulted` with a cause (R183). -/
def State.faultReq (s : State) (i cause : Nat) : State :=
  let s := s.modReq i fun r => { r with state := rFaulted, cause }
  { s with srvErr := s.srvErr ||| 1 }

/-- Every request and session of a context takes a mirror status, or those for which `p` holds (R179, R203, R204). -/
def State.setMirror (s : State) (c st : Nat) (p : Nat → Bool) : State :=
  { s with
    sess := tmap s.sess fun i x => if x.ctx == c && p i then { x with mirror := st } else x,
    reqs := tmap s.reqs fun _ r => if r.ctx == c && activeState r.state && p r.session then { r with partner := st } else r }

/-- A context writes its log: it mirrors and its partner is not lost (R199, R203). -/
def Ctx.logging (x : Ctx) : Bool := x.mirror.en && !x.mirror.lost

/-- A session command applied at a boundary goes into the log of the step that follows (R200), as does the close of a session
that its request releases (log entry 85). -/
def State.noteSession (s : State) (c : Nat) (k : ServeCmd) : State :=
  s.modCtx c fun x => if x.logging then { x with mirror := { x.mirror with sessCmds := x.mirror.sessCmds ++ [k] } } else x

/-- A draining request whose last entry is out, whose session has no export in flight and whose handover, if one is set,
is complete becomes `done` (R183, R195). -/
def State.settleDraining (s : State) (c : Nat) : State :=
  (s.slotsOf c).foldl (fun (s : State) i =>
    match s.req? i with
    | none => s
    | some r =>
      let handed := !bit r.stop 4 || (List.range (pagesFor r.length)).all fun p => r.delivered.contains p
      if r.state = rDraining && r.lastOut && !s.exporting r.session && handed then
        let s := s.modReq i fun r => { r with state := rDone }
        if r.releaseSess then (s.closeSession r.session).noteSession c (.close r.session) else s
      else s) s

/-! ## Exports (R195 to R197) -/

def State.modExport (s : State) (i : Nat) (f : Export → Export) : State := { s with exports := tmod s.exports i f }

/-- What a session of a context holds of a page: mast and unit. -/
def State.pageParts (s : State) (c i p : Nat) : List (Nat × Nat) :=
  match s.ctx? c, s.session? i with
  | some x, some y => if y.ctx = c then x.kvMasts.filterMap fun m => (y.frame m p).map fun u => (m, u) else []
  | _, _ => []

/-- A frame of a context's pool on a mast. -/
def State.frameAt (s : State) (c : Nat) (t : Nat × Nat) : Option Frame := (s.ctx? c).bind fun x => tget (x.pool t.1).frames t.2

/-- Whether the parts of a page can enter `shipping` now: they are open, full, sealed or already shipping with fewer than 255
exports (R161, R167, R170). In a coolant stop DRAM serves no access (R222). -/
def State.canShip (s : State) (c : Nat) (ts : List (Nat × Nat)) : Bool :=
  !s.pwr.coolstop && ts.all fun t => (s.frameAt c t).all fun fr => fr.st != fSealing && decide (fr.ships < 255)

/-- A page enters `shipping` on a mast (R167). -/
def shipFrame (fr : Frame) : Frame :=
  if fr.st = fShipping then { fr with ships := fr.ships + 1 }
  else { fr with st := fShipping, ships := 1,
                 shipFrom := if fr.st = fOpen then 0 else if fr.st = fFull then 1 else 2 }

/-- The state a page returns to after `shipping` (R161, R167). -/
def unshipState (n : Nat) : Nat := if n = 0 then fOpen else if n = 1 then fFull else fSealed

/-- A page's export ends on a mast: SHIP_COUNT falls, and at 0 the page returns or its units are freed (R167). -/
def unshipFrame (p : Pool) (u : Nat) : Pool :=
  match tget p.frames u with
  | none => p
  | some f =>
    if 1 < f.ships then { p with frames := tset p.frames u { f with ships := f.ships - 1 } }
    else if f.refs = 0 then { p with frames := tdel p.frames u }
    else { p with frames := tset p.frames u { f with ships := 0, st := unshipState f.shipFrom, pend := false },
                  ended := if f.pend then p.ended ++ [u] else p.ended }

/-- Something of an export or of a mirror goes to another package: a package of no partition sends nothing (R331). -/
def State.emitFab (s : State) (pkg : Nat) (o : Out) : State :=
  if s.nlc.partId = 0 && pkg != s.nlc.ownIndex then s else s.emit o

/-- What `shipping` frames of a list end: their exports (R167). -/
def State.unshipAll (s : State) (c : Nat) (fs : List (Nat × Nat × Nat)) : State :=
  fs.foldl (fun (s : State) f => match s.ctx? c with
    | some x => s.setPool c f.2.1 (unshipFrame (x.pool f.2.1) f.2.2)
    | none => s) s

/-- A mast's part of a page that is exported. -/
structure Shipment where
  mast : Nat
  unit : Nat
  kv   : KvRec
  fr   : Frame

/-- The parts of a page that an export has shipping, one for each mast that holds it. -/
def Ctx.shipments (x : Ctx) (e : Export) (p : Nat) : List Shipment :=
  (e.frames.filter fun f => f.1 == p).filterMap fun f => (tget (x.pool f.2.1).frames f.2.2).bind fun fr =>
    (tget x.kv f.2.1).map fun kv => { mast := f.2.1, unit := f.2.2, kv, fr }

/-- The images of the parts are read; none when one of them cannot be (R219). -/
def State.readShipments (s : State) (c : Nat) : List Shipment → State × Option (List (Shipment × Bytes))
  | [] => (s, some [])
  | t :: ts =>
    let q := s.mastRead c t.mast ((stream c 0x1A).cls' 2) (pageRegions t.kv t.unit t.fr)
    match q.2 with
    | none => (q.1, none)
    | some b => let r := q.1.readShipments c ts; (r.1, r.2.map fun l => (t, b) :: l)

/-- The header of a session's copy to a new partner: TARGET_SLOT names the source session, for which the holder keeps a
mirror session of its own, SEED the number of the copy, and the other fields of a request are zero; the header that begins a copy
names 0x4000, which is no session (R199, R204; DESIGN CHOICE, log entry 31). -/
def State.resyncHeader (s : State) (c id i len n : Nat) : ExportHeader :=
  let k := match s.ctx? c with
    | some x => (match x.kv with | e :: _ => some e.2 | [] => none)
    | none => none
  { srcPkg := s.nlc.ownIndex, exportId := id,
    targetCtx := (match s.ctx? c with | some x => x.mirror.ctx | none => 0), targetSlot := i, length := len,
    lastToken := 0, maxLength := 0, seed := (match s.ctx? c with | some x => x.mirror.copyNo | none => 0), counter := 0,
    temperature := 0, topP := 0, topK := 0, stopMask := 0, priority := 0, deadlineLeft := 0, pages := n,
    layers := (k.map (·.layers)).getD 0, heads := (k.map (·.heads)).getD 0, dh32 := (k.map (·.dh32)).getD 0,
    kvFmt := (k.map (·.fmt)).getD 0, masts := maskOf (match s.ctx? c with | some x => x.kvMasts | none => []) }

/-- A page of an export has a status. -/
def State.pageStatus (s : State) (id p st : Nat) : State := s.modExport id fun e => { e with pages := tset e.pages p st }

/-- A page of an export that could not do so before enters `shipping` on every mast that holds it (R167, R195). DESIGN CHOICE (log
entry 102): a page that its session has given up meanwhile (R181) ends, timed out; one that a copy has yet to send needs no
copying. A copy of a session of LENGTH 0 has no page (log entry 31). -/
def State.shipPage (s : State) (id p : Nat) : State :=
  match tget s.exports id with
  | none => s
  | some e =>
    let ts := s.pageParts e.ctx e.session p
    if e.last < e.first then s.pageStatus id p 5
    else if ts.isEmpty then s.pageStatus id p (if e.resync then 0 else 2)
    else if s.canShip e.ctx ts then
      let s := ts.foldl (fun (s : State) t => match s.ctx? e.ctx with
        | some x =>
          let q := x.pool t.1
          s.setPool e.ctx t.1 { q with frames := tmod q.frames t.2 shipFrame }
        | none => s) s
      s.modExport id fun e => { e with pages := tset e.pages p 5, frames := e.frames ++ ts.map fun t => (p, t.1, t.2) }
    else s

/-- The LENGTH by which an export's pages are valid: of its request, or of the session that is copied. -/
def State.exportLength (s : State) (e : Export) : Nat :=
  match e.source with
  | some r => r.length
  | none => match s.session? e.session with | some y => y.length | none => 0

/-- One page of an export leaves: each mast sends its copy (R197). In place of the pages of a copy that has none its header leaves,
which the holder acknowledges as page 0 (log entry 31). In a coolant stop DRAM serves no access (R222). -/
def State.sendPage (s : State) (id p : Nat) : State :=
  match tget s.exports id with
  | none => s
  | some e =>
    match s.ctx? e.ctx with
    | none => s
    | some x =>
      if s.pwr.coolstop then s
      else if e.last < e.first then
        (s.emitFab e.pkg (.exportHeader e.pkg (s.resyncHeader e.ctx id e.session (s.exportLength e) 0))).pageStatus id p 3
      else
      let q := s.readShipments e.ctx (x.shipments e p)
      match q.2 with
      | none => q.1
      | some l =>
        let s := l.foldl (fun (s : State) t =>
          let img : ExportPage :=
            { srcPkg := s.nlc.ownIndex, exportId := id, mast := t.1.mast, page := p, fmt := t.1.fr.fmt,
              valid := min 256 (s.exportLength e - 256 * p), bytes := t.2 }
          s.emitFab e.pkg (.exportPage e.pkg img)) q.1
        s.pageStatus id p 3

/-- The header of an export, with its request's fields as they stood when it started (R196). -/
def State.exportHeader (s : State) (id : Nat) (e : Export) : Option ExportHeader :=
  match e.source, s.ctx? e.ctx with
  | some r, some x =>
    match x.kv with
    | [] => none
    | (_, k) :: _ => some
      { srcPkg := s.nlc.ownIndex, exportId := id, targetCtx := e.tctx, targetSlot := e.tslot, length := r.length,
        lastToken := r.lastToken, maxLength := r.maxLength, seed := r.seed, counter := r.counter,
        temperature := r.temperature, topP := r.topP, topK := r.topK, stopMask := r.stopMask, priority := r.priority,
        deadlineLeft := if r.deadline = 0 then 0 else max 1 (r.deadline - s.time), pages := e.last + 1 - e.first,
        layers := k.layers, heads := k.heads, dh32 := k.dh32, kvFmt := k.fmt, masts := maskOf x.kvMasts }
  | _, _ => none

/-- The last token sampled for a request is in a bundle that is still withheld, or in the step whose boundary runs (R24). -/
def State.unreleased (s : State) (c slot serial : Nat) : Bool :=
  match s.ctx? c with
  | some x => (x.held.any fun b => b.entries.any fun e => e.slot == slot && e.serial == serial && e.status == 0)
      || (x.step.any fun w => w.rows.any fun r => r.slot == slot && r.sampled.isSome)
         && (s.req? slot).any fun r => r.serial == serial
  | none => false

/-- The header of an export leaves, before its pages, once the bundle of the step that sampled the token it carries is
released: no token leaves the package before (R24, R196). -/
def State.sendHeader (s : State) (id : Nat) : State :=
  match tget s.exports id with
  | none => s
  | some e =>
    if e.headed || e.source.any fun r => s.unreleased e.ctx e.slot r.serial then s
    else
      let s := match s.exportHeader id e with
        | some h => s.emitFab e.pkg (.exportHeader e.pkg h)
        | none => s
      s.modExport id fun e => { e with headed := true }

/-- The completion of an export: pages delivered, refused and timed out, and two bits for each page (R277). -/
def exportAns (status : Nat) (e : Export) : Ans :=
  let n := fun st => (e.pages.filter fun q => q.2 == st).length
  let codes := (List.range (e.last + 1 - e.first)).map fun i => tgetD e.pages (e.first + i) 2
  let bytes := (List.range (ceilDiv (e.last + 1 - e.first) 4)).map fun i =>
    BitVec.ofNat 8 (codes.getD (4 * i) 0 + 4 * codes.getD (4 * i + 1) 0 + 16 * codes.getD (4 * i + 2) 0
      + 64 * codes.getD (4 * i + 3) 0)
  { status, hi := 0, arg1 := n 0 + n 1 * 2 ^ 16 + n 2 * 2 ^ 32, parts := [bytes] }

/-- An export all of whose sent pages have ended completes (R197); a copy that is delivered whole leaves its session in step
with the holder (R204). -/
def State.finishExport (s : State) (id : Nat) : State :=
  match tget s.exports id with
  | none => s
  | some e =>
    if e.pages.any fun q => decide (3 ≤ q.2) then s
    else
      let s := { s with exports := tdel s.exports id }
      if e.resync then
        if !e.torn && e.pages.all fun q => q.2 == 0 then
          s.modCtx e.ctx fun x => { x with mirror := { x.mirror with resync := x.mirror.resync.filter (· != e.session) } }
        else s
      else
        (s.complete (.exported id) (exportAns (if e.torn then stContextTorn else stDone) e)).settleDraining e.ctx

/-- An operation on each page of an export that has a status. -/
def State.eachPage (s : State) (id st : Nat) (f : State → Nat → State) : State :=
  match tget s.exports id with
  | none => s
  | some e => (e.pages.filter fun q => q.2 == st).foldl (fun (s : State) q => f s q.1) s

/-- An export does what it can: pages enter `shipping`, its header leaves, its pages follow it, and it completes when all of them
have ended (R24, R161, R170, R195 to R197). -/
def State.driveExport (s : State) (id : Nat) : State :=
  let s := (s.eachPage id 4 fun s p => s.shipPage id p).sendHeader id
  let s := if (tget s.exports id).any fun e => e.headed then s.eachPage id 5 fun s p => s.sendPage id p else s
  s.finishExport id

/-- The exports of a context that have not ended go on as far as they can. -/
def State.sendWaiting (s : State) (c : Nat) : State :=
  (s.exports.filter fun e => e.2.ctx == c && e.2.started && !e.2.torn).foldl (fun (s : State) e => s.driveExport e.1) s

/-- An export sends no further page: those that were not sent are timed out and no longer `shipping` (R167, R197). -/
def State.stopExport (s : State) (id : Nat) : State :=
  match tget s.exports id with
  | none => s
  | some e =>
    let unsent := fun p => tget e.pages p == some 4 || tget e.pages p == some 5
    let s := s.unshipAll e.ctx (e.frames.filter fun f => unsent f.1)
    (s.modExport id fun e => { e with torn := true, pages := tmap e.pages fun p st => if unsent p then 2 else st,
                                      frames := e.frames.filter fun f => !unsent f.1 }).finishExport id

/-- A page ends its export with a status: 0 delivered, 1 refused, 2 timed out (R197). A page of a copy that was not delivered is
sent again (R204). -/
def State.endPage (s : State) (id p st : Nat) : State :=
  match tget s.exports id with
  | none => s
  | some e =>
    if tget e.pages p != some 3 then s
    else
      let s := s.unshipAll e.ctx (e.frames.filter fun f => f.1 == p)
      let again := e.resync && !e.torn && st != 0
      let s := s.modExport id fun e => { e with pages := tset e.pages p (if again then 4 else st),
                                                frames := e.frames.filter fun f => f.1 != p }
      let s := if st = 0 then
          (if e.hand then s.modReq e.slot fun r =>
             if e.source.any fun q => q.serial == r.serial then { r with delivered := insAsc p r.delivered } else r
           else s)
        else { s with srvErr := s.srvErr ||| 8 }
      (s.sendWaiting e.ctx).finishExport id

/-- An export starts at its boundary, its header first, or completes with STATE or BAD_ARGUMENT (R195). -/
def State.startExport (s : State) (id : Nat) : State :=
  match tget s.exports id with
  | none => s
  | some e =>
    match s.req? e.slot with
    | none => ({ s with exports := tdel s.exports id }).complete (.exported id) (ans stState)
    | some r =>
      if r.ctx != e.ctx || !([rParked, rDraining, rDone].contains r.state) || (s.session? r.session).isNone then
        ({ s with exports := tdel s.exports id }).complete (.exported id) (ans stState)
      else if pagesFor r.length ≤ e.last then
        ({ s with exports := tdel s.exports id }).complete (.exported id) (ans stBadArgument)
      else
        let pages := tof ((List.range (e.last + 1 - e.first)).map fun i => (e.first + i, 4))
        let s := s.modExport id fun e => { e with started := true, session := r.session, source := some r, pages, hand := bit r.stop 4 }
        s.sendWaiting e.ctx

/-! ## Bundles (R191 to R194, R201 to R204) -/

/-- The parts of a bundle: 252 entries each (R193). -/
def Bundle.partCount (b : Bundle) : Nat := max 1 (ceilDiv b.entries.length 252)

def Entry.image (e : Entry) : Bytes :=
  natLe 2 e.slot ++ natLe 1 e.status ++ natLe 1 e.stop ++ natLe 4 e.token ++ natLe 4 e.position ++ natLe 4 e.logprob.toNat

/-- Part `i` of a bundle as a notice (R191, R283). -/
def Bundle.part (b : Bundle) (ctx ch i : Nat) : Pkt :=
  let es := (b.entries.drop (252 * i)).take 252
  let n := b.partCount
  { kind := 2, silent := false, keepTag := true, opcode := 0x0581, tag := 0, ctx, channel := ch,
    more := decide (i + 1 < n), arg0 := b.step, arg1 := i + n * 256,
    payload := natLe 8 b.step ++ natLe 8 b.time ++ natLe 1 ctx ++ natLe 1 (b2n b.degraded) ++ natLe 1 i ++ natLe 1 n
      ++ natLe 2 es.length ++ zeros 2 ++ natLe 4 b.entries.length ++ zeros 4 ++ es.flatMap Entry.image }

/-- A request that a withheld bundle names is SYNCED or no longer active; it is no longer active when its slot is another's (R204). -/
def State.syncedOrGone (s : State) (e : Entry) : Bool :=
  match s.req? e.slot with
  | none => true
  | some r => r.serial != e.serial || r.partner == mSynced || !activeState r.state

/-- Whether a bundle may be released, and whether degraded (R201, R203, R204). -/
def State.releasable (s : State) (x : Ctx) (b : Bundle) : Option Bool :=
  if b.due.isSome then b.due
  else if !x.mirror.en then some false
  else if x.mirror.lost then (if x.mirror.policy then some true else none)
  else if b.orphan then (if b.entries.all s.syncedOrGone then some false else none)
  else if x.mirror.unacked.contains b.step then none
  else some false

/-- A bundle joins the transmit queue: the window shows its boundary, and its LAST entries are out (R183, R194, R208). -/
def State.releaseBundle (s : State) (c : Nat) (b : Bundle) (degraded : Bool) : State :=
  let b := { b with degraded, time := s.time, sent := 0, ch := 0 }
  let s := s.modCtx c fun x => { x with
    txq := x.txq ++ [b],
    mirror := if b.orphan then { x.mirror with unacked := x.mirror.unacked.filter (· != b.step) } else x.mirror }
  let s := b.show_.foldl (fun (s : State) v => s.modReq v.slot fun r =>
    if r.serial = v.serial then { r with wLength := v.length, wStop := v.stop, wCounter := v.counter, wLastToken := v.token }
    else r) s
  (b.entries.filter fun e => bit e.stop 5).foldl (fun (s : State) e =>
    s.modReq e.slot fun r => { r with lastOut := r.lastOut || r.serial == e.serial }) s

/-- The bundles of ended steps are released in ascending STEP as far as they may be and the transmit queue has room; `fuel` at
most (R194, R201). -/
def State.releaseBundles (s : State) (c : Nat) : Nat → State
  | 0 => s.settleDraining c
  | fuel + 1 =>
    match s.ctx? c with
    | none => s
    | some x =>
      match x.held with
      | [] => s.settleDraining c
      | b :: bs =>
        if 4 ≤ x.txq.length then s.settleDraining c
        else match s.releasable x b with
        | none => s.settleDraining c
        | some d =>
          (((s.modCtx c fun x => { x with held := bs }).releaseBundle c b d).sendWaiting c).releaseBundles c fuel

/-- The unacknowledged steps that the present partner was sent. -/
def Ctx.ownUnacked (x : Ctx) : List Nat :=
  x.mirror.unacked.filter fun n =>
    !(x.held.any fun b => b.step == n && b.orphan) && !(x.step.any fun w => w.num == n && w.orphan)

/-- Sessions and requests whose copy has been delivered return to SYNCED once every step that the present partner was
sent is acknowledged, and withheld bundles are released (R204). -/
def State.syncCheck (s : State) (c : Nat) : State :=
  match s.ctx? c with
  | none => s
  | some x =>
    let s := if x.mirror.en && !x.mirror.lost && x.ownUnacked.isEmpty then
        s.setMirror c mSynced fun i => !x.mirror.resync.contains i &&
          (match s.session? i with | some y => y.mirror == mResync | none => false)
      else s
    s.releaseBundles c (x.held.length + 1)

/-! ## The mirror log (R200 to R203) -/

/-- The 32-byte header of a log record (R200). -/
def logHeader (typ mast layer head step count bytes : Nat) : Bytes :=
  natLe 1 typ ++ natLe 1 mast ++ natLe 2 layer ++ natLe 1 head ++ zeros 3 ++ natLe 4 step ++ natLe 4 count ++ natLe 4 bytes
  ++ zeros 12

/-- One log line goes to the next ring line, or waits for ring space (R201). -/
def State.logLine (s : State) (c : Nat) (line : Bytes) : State :=
  match s.ctx? c with
  | none => s
  | some x =>
    let lines := max 4096 (Config.partnerRingLines x.mirror.pkg x.mirror.ctx)
    if !x.mirror.backlog.isEmpty || decide (x.mirror.applied + lines ≤ x.mirror.head) then
      let s := s.modCtx c fun x => { x with mirror := { x.mirror with backlog := x.mirror.backlog ++ [line] } }
      { s with srvErr := s.srvErr ||| 0x40 }
    else
      let addr := Config.partnerRing x.mirror.pkg x.mirror.ctx + x.mirror.head % lines * 128
      let s := s.modCtx c fun x => { x with mirror := { x.mirror with head := x.mirror.head + 1 } }
      (s.issue (.mirror c) true x.mirror.pkg x.mirror.ctx (addr % 2 ^ 39) 0 0 0 line).1

/-- Lines that waited for ring space are written as the holder applies records. -/
def State.drainLog (s : State) (c : Nat) : State :=
  match s.ctx? c with
  | none => s
  | some x =>
    let wait := x.mirror.backlog
    wait.foldl (fun (s : State) l => s.logLine c l) (s.modCtx c fun x => { x with mirror := { x.mirror with backlog := [] } })

/-- A record is written into the log, padded to whole lines (R200). -/
def State.logRecord (s : State) (c : Nat) (hdr payload : Bytes) : State :=
  match s.ctx? c with
  | none => s
  | some x =>
    if x.logging then
      let img := hdr ++ payload
      let lines := chunksOf 128 (ceilDiv img.length 128) img
      lines.foldl (fun (s : State) l => s.logLine c l)
        (s.modCtx c fun x => { x with mirror := { x.mirror with lines := x.mirror.lines + lines.length } })
    else s

/-- The arguments of a session command in the log, as they stood in its Stauc packet (R200, R277). DESIGN CHOICE (log entry 85):
a command takes its opcode, six zero bytes, ARG0, ARG1 and its payload. -/
def sessCmdImage : ServeCmd → Bytes
  | .open_ i cap ptrs => natLe 2 0x0510 ++ zeros 6 ++ natLe 8 i ++ natLe 8 cap ++ (List.range 8).flatMap fun m => natLe 8 (tgetD ptrs m 0)
  | .close i => natLe 2 0x0511 ++ zeros 6 ++ natLe 8 i ++ zeros 8
  | .share a b n => natLe 2 0x0512 ++ zeros 6 ++ natLe 8 (a + b * 2 ^ 16) ++ natLe 8 n
  | .truncate i n => natLe 2 0x0513 ++ zeros 6 ++ natLe 8 i ++ natLe 8 n
  | .globals i ps => natLe 2 0x0514 ++ zeros 6 ++ natLe 8 i ++ natLe 8 ps.length ++ ps.flatMap fun p => natLe 4 p
  | _ => []

/-- The sampled state of a row's request as the boundary will leave it (R186). -/
def afterRow (r : Request) (w : StepRow) : Request :=
  if w.fault != 0 then r
  else match w.sampled with
    | some t => { r with length := r.length + w.count, lastToken := t.1, counter := (r.counter + 1) % 2 ^ 32 }
    | none => { r with length := r.length + w.count }

/-- The entry of a slot as a step leaves it, for the mirror log (R200). -/
def State.entryNow (s : State) (w : StepRun) (i : Nat) : Option Request :=
  (s.req? i).map fun q => match w.rows.find? fun r => r.slot == i && r.fault == 0 with
    | some r => afterRow q r
    | none => q

/-- The entries of a context that differ from what its log holds, by slot (R200). -/
def State.changedEntries (s : State) (c : Nat) (logged : Tab Request) (w : StepRun) : List (Nat × Request) :=
  (s.slotsOf c).filterMap fun i => (s.entryNow w i).bind fun q =>
    if (tget logged i).any fun o => o.image == q.image then none else some (i, q)

/-- The requests that the log holds as active and whose slots have been released since: they are logged as `free` (R200). -/
def State.freedEntries (s : State) (c : Nat) (logged : Tab Request) : List Request :=
  (logged.filter fun e => activeState e.2.state &&
    !((s.req? e.1).any fun q => q.ctx == c && q.session == e.2.session)).map fun e => { e.2 with state := rFree }

/-- After sampling: the SESSION and ENTRY records and the COMMIT of a step (R202). -/
def State.commitLog (s : State) (c : Nat) (w : StepRun) : State :=
  match s.ctx? c with
  | none => s
  | some x =>
    if x.logging then
      let sc := x.mirror.sessCmds
      let s := if sc.isEmpty then s else
        let p := sc.flatMap sessCmdImage
        s.logRecord c (logHeader 3 0 0 0 w.num sc.length p.length) p
      let es := s.changedEntries c x.mirror.logged w
      let is := s.freedEntries c x.mirror.logged ++ es.map (·.2)
      let p := is.flatMap Request.image
      let s := if is.isEmpty then s else s.logRecord c (logHeader 2 0 0 0 w.num is.length p.length) p
      let n := match s.ctx? c with | some y => y.mirror.lines + 1 | none => 1
      let s := s.logRecord c (logHeader 4 0 0 0 w.num n 0) []
      s.modCtx c fun y => { y with mirror := { y.mirror with
        unacked := y.mirror.unacked ++ [w.num], lines := 0, sessCmds := [],
        logged := es.foldl (fun t e => tset t e.1 e.2) (y.mirror.logged.filter fun e => (s.slotsOf c).contains e.1) } }
    else s

/-- The copy of one open session to the holder starts; one of LENGTH 0 has no page, and its copy is its header (R199, R204). -/
def State.copySession (s : State) (c i : Nat) : State :=
  match s.ctx? c, s.session? i with
  | some x, some y =>
    let n := pagesFor y.length
    let id := s.nextExp
    let s := { s with nextExp := id + 1 }
    let s := if n = 0 then s
      else s.emitFab x.mirror.pkg (.exportHeader x.mirror.pkg (s.resyncHeader c id i y.length n))
    let e : Export :=
      { ctx := c, slot := 0, session := i, first := if n = 0 then 1 else 0, last := n - 1, pkg := x.mirror.pkg,
        tctx := x.mirror.ctx, tslot := 0, started := true, source := none, headed := true, resync := true, hand := false, torn := false,
        pages := tof ((List.range (max n 1)).map fun p => (p, 4)), frames := [] }
    { s with exports := tset s.exports id e }.sendWaiting c
  | _, _ => s

/-- The copies of a context's sessions that are under way end with what they have sent. -/
def State.endCopies (s : State) (c : Nat) (p : Nat → Bool) : State :=
  let gone := (s.exports.filter fun e => e.2.ctx == c && e.2.resync && p e.2.session).map (·.1)
  gone.foldl (fun (s : State) i => s.stopExport i) s

/-- What a context's withheld bundles wait for once its partner is named anew (R203, R204). Those that no partner held back,
and those that DEGRADE lets go, are due. -/
def Ctx.orphanAll (x : Ctx) (due : Option Bool) : Ctx :=
  { x with held := x.held.map fun b => { b with orphan := true, due := if b.due.isSome then b.due else due },
           step := x.step.map fun w => { w with orphan := true, due := if w.due.isSome then w.due else due },
           mirror := { x.mirror with unacked := x.mirror.unacked.filter fun n =>
             (x.held.any fun b => b.step == n) || x.step.any fun w => w.num == n } }

/-- Naming the partner anew clears LOST and starts the copy of every open session (R204); the log begins anew at ring line 0
(DESIGN CHOICE, log entry 33). -/
def State.startResync (s : State) (c : Nat) (due : Option Bool) : State :=
  let open_ := (s.sess.filter fun e => e.2.ctx == c).map (·.1)
  let s := (s.endCopies c fun _ => true).modCtx c fun x => { x.orphanAll due with
    mirror := { (x.orphanAll due).mirror with lost := false, resync := open_, lines := 0, head := 0, applied := 0, backlog := [],
                                              sessCmds := [], logged := [], copyNo := x.mirror.copyNo + 1 } }
  let s := s.setMirror c mResync fun _ => true
  let s := match s.ctx? c with
    | some x => { s with nextExp := s.nextExp + 1 }.emitFab x.mirror.pkg
        (.exportHeader x.mirror.pkg (s.resyncHeader c s.nextExp 0x4000 0 0))
    | none => s
  (open_.foldl (fun (s : State) i => s.copySession c i) s).syncCheck c

/-- The settings of a mirror change (R180, R204): whether the partner is named anew, and the settings. -/
def Mirror.anew (x : Mirror) (pkg pctx : Nat) (en : Bool) : Bool := en && (!x.en || x.pkg != pkg || x.ctx != pctx || x.lost)
def Mirror.named (x : Mirror) (pkg pctx : Nat) (en policy : Bool) : Mirror :=
  { x with en, policy, pkg, ctx := pctx, lost := x.lost && en && !x.anew pkg pctx en }

/-- A partner and policy are set (R180, R199, R204). `en`: the context mirrors. Under a switch to DEGRADE the bundles that a
lost partner withholds are due as degraded (R203). DESIGN CHOICE (log entry 86): where a configuration turns mirroring off, the
unacknowledged steps are forgotten, the withheld bundles are released as those of a context that does not mirror, not degraded
(R24, R201), and LOST is cleared (R210). -/
def State.setPartner (s : State) (c pkg pctx : Nat) (en policy : Bool) : State :=
  match s.ctx? c with
  | none => s
  | some x =>
    let due := if !x.mirror.en then some false else if x.mirror.lost && (policy || x.mirror.policy) then some true else none
    let s := s.modCtx c fun x => { x with mirror := x.mirror.named pkg pctx en policy }
    if x.mirror.anew pkg pctx en then s.startResync c due
    else if !en && x.mirror.en then
      (((s.endCopies c fun _ => true).modCtx c fun x => { x with mirror := { x.mirror with
        unacked := [], resync := [], backlog := [], sessCmds := [], logged := [] } }).setMirror c mNone) fun _ => true
    else s

/-! ## Recorded commands (R181, R182) -/

/-- A configuration applies (R180). -/
def State.applyConfig (s : State) (c : Nat) (g : ServeConfig) : State :=
  (s.modCtx c fun x => { x with config := some g }).setPartner c g.partnerPkg g.partnerCtx g.mirrorEn g.policy

/-- A request that enters `draining` or `faulted` without a token owes an entry to the step that starts (R193). -/
def State.oweEntry (s : State) (c i status stop token : Nat) : State :=
  match s.req? i with
  | none => s
  | some r => s.modCtx c fun x =>
      let e : Entry := { slot := i, status, stop := stop % 32 + flLast, token, position := r.length, logprob := 0, serial := r.serial }
      { x with owed := x.owed ++ [e] }

/-- A request stops without a token (R183, R193). -/
def State.stopReq (s : State) (c i flag : Nat) : State :=
  match s.req? i with
  | none => s
  | some r => (s.modReq i fun r => { r with state := rDraining, stop := setBit r.stop flag true, lastOut := false }).oweEntry c i 4
      (setBit r.stop flag true) 0

/-- Adds a flag to the entry that the request in a slot owes. -/
def State.flagOwed (s : State) (c i flag : Nat) : State :=
  let own := fun (e : Entry) => e.slot == i && (s.req? i).any fun r => r.serial == e.serial
  s.modCtx c fun x => { x with owed := x.owed.map fun e => if own e then { e with stop := setBit e.stop flag true } else e }

/-- Where a resumed request goes (R183). -/
def resumeState (r : Request) : Nat := if r.length < r.promptEnd then rPrefill else rDecode

/-- The request in a slot and the session of an id, when they are the context's own: another context may have taken a slot or
an id that this one gave up (R181, R182). -/
def State.ownReq (s : State) (c i : Nat) : Option Request := (s.req? i).filter fun r => r.ctx == c
def State.ownSess (s : State) (c i : Nat) : Option Session := (s.session? i).filter fun x => x.ctx == c

/-- A session of LENGTH 0 is opened. One of the same id whose close is recorded but not applied yet, in another context, is closed
first (R179, R182). -/
def State.openSession (s : State) (c i cap : Nat) (ptrs : Tab Nat) : State :=
  let s := match s.session? i with
    | some x => (s.closeSession i).noteSession x.ctx (.close i)
    | none => s
  let mir := match s.ctx? c with | some x => if x.mirror.en then mSynced else mNone | none => mNone
  let x : Session := newSession c ptrs cap mir
  let s := ptrs.foldl (fun (s : State) e => s.mastWrite c e.1 (e.2 % 2 ^ 48 + 256) (List.replicate (4 * cap) 0xFF#8)) s
  ({ s with sess := tset s.sess i x }).noteSession c (.open_ i cap ptrs)

/-- A request enters its slot as `queued` (R176, R183). -/
def State.submitReq (s : State) (i : Nat) (e : Request) : State :=
  let old := s.req? i
  let st := match s.session? e.session with | some x => x.mirror | none => mNone
  let len := match s.session? e.session with | some x => x.length | none => 0
  let e := { e with state := rQueued, partner := st, length := len, stop := 0, cause := 0,
                    wLength := (old.map (·.wLength)).getD 0, wStop := (old.map (·.wStop)).getD 0,
                    wCounter := (old.map (·.wCounter)).getD 0, wLastToken := (old.map (·.wLastToken)).getD 0 }
  { s with reqs := tset s.reqs i e }

/-- A recorded serving command takes effect (R181 to R183). -/
def State.applyCmd (s : State) (c : Nat) : ServeCmd → State
  | .submit i e => s.submitReq i e
  | .cancel i =>
    match s.ownReq c i with
    | none => s
    | some r =>
      if 1 ≤ r.state && r.state ≤ 4 then s.stopReq c i 3
      else if r.state = rDraining then (s.modReq i fun r => { r with stop := setBit r.stop 3 true }).flagOwed c i 3
      else s
  | .park i =>
    match s.ownReq c i with
    | none => s
    | some r => if r.state = rPrefill || r.state = rDecode then s.modReq i fun r => { r with state := rParked } else s
  | .resume i =>
    match s.ownReq c i with
    | none => s
    | some r =>
      if r.state = rParked then
        if s.exporting r.session then s.modReq i fun r => { r with resume := true }
        else s.modReq i fun r => { r with state := resumeState r, resume := false }
      else s
  | .release i => if (s.ownReq c i).isSome then { s with reqs := tdel s.reqs i } else s
  | .open_ i cap ptrs => s.openSession c i cap ptrs
  | .close i => if (s.ownSess c i).isSome then ((s.closeSession i).noteSession c (.close i)).sendWaiting c else s
  | .share a b n =>
    if (s.ownSess c a).isSome && (s.ownSess c b).isSome then (s.sharePages a b n).noteSession c (.share a b n) else s
  | .truncate i n =>
    if (s.ownSess c i).all fun x => x.length == n then s
    else
      let s := s.releasePages i (pagesFor n)
      ((s.modSession i fun x => { x with length := n }).noteSession c (.truncate i n)).sendWaiting c
  | .globals i ps =>
    match s.ownSess c i with
    | none => s
    | some x =>
      let s := x.listPtr.foldl (fun (s : State) (e : Nat × Nat) =>
        s.mastWrite c e.1 (e.2 % 2 ^ 48) (ps.flatMap fun p => natLe 4 p)) s
      (s.modSession i fun x => { x with globals := ps }).noteSession c (.globals i ps)
  | .exportStart id => s.startExport id
  | .mirrorSet pkg pctx policy => s.setPartner c pkg pctx true policy
  | .config g => s.applyConfig c g

/-- Every recorded command of a context is applied, in order of arrival (R182, R185). -/
def State.applyRecorded (s : State) (c : Nat) : State :=
  match s.ctx? c with
  | none => s
  | some x => x.recorded.foldl (fun (s : State) k => s.applyCmd c k.2) (s.modCtx c fun x => { x with recorded := [] })

/-- The projected state of R182: every serving command accepted so far applied, whatever context it belongs to, in the order in
which they were accepted. -/
def State.projectedAll (s : State) : State :=
  let ks := s.ctxs.flatMap fun e => e.2.recorded.map fun k => (k.1, e.1, k.2)
  let ks := sortBy (fun (a b : Nat × Nat × ServeCmd) => decide (a.1 ≤ b.1)) ks
  ks.foldl (fun (s : State) k => s.applyCmd k.2.1 k.2.2) { s with ctxs := tmap s.ctxs fun _ x => { x with recorded := [] } }

/-- A command takes its place among the recorded ones by its arrival number (R263). -/
def recordAt (n : Nat) (k : ServeCmd) (l : List (Nat × ServeCmd)) : List (Nat × ServeCmd) :=
  (l.filter fun e => decide (e.1 ≤ n)) ++ (n, k) :: l.filter fun e => decide (n < e.1)

/-- A command is recorded for the next boundary, at which the recorded ones apply in the order in which their packets were
reassembled (R182, R263). -/
def State.record (s : State) (c : Nat) (k : ServeCmd) : State :=
  s.modCtx c fun x => { x with recorded := recordAt s.st.current k x.recorded }

/-- Recorded commands at a furl or a teardown: configurations and partners apply, the others are dropped (R284, R292). -/
def State.dropRecorded (s : State) (c : Nat) : State :=
  match s.ctx? c with
  | none => s
  | some x => x.recorded.foldl (fun (s : State) k => match k.2 with
      | .config g => s.modCtx c fun x => { x with
          config := some g, mirror := x.mirror.named g.partnerPkg g.partnerCtx g.mirrorEn g.policy }
      | .mirrorSet pkg pctx policy => s.modCtx c fun x => { x with mirror := x.mirror.named pkg pctx true policy }
      | .exportStart _ => s
      | _ => s) (s.modCtx c fun x => { x with recorded := [] })

/-! ## The boundary (R185 to R188) -/

/-- The stop flags of a token sampled for position `p` (R187). -/
def stopFlags (g : ServeConfig) (r : Request) (tok p : Nat) : Nat :=
  let hit := (enum g.stopIds).any fun e => e.2 == some tok && bit r.stopMask e.1
  b2n hit * flStopToken + b2n (decide (p + 1 = r.maxLength)) * flMaxLength

/-- The deadline of a request has passed (R185, R188). -/
def deadlinePassed (now : Nat) (r : Request) : Bool := r.deadline != 0 && decide (r.deadline ≤ now)

/-- A row's request is in the step: the walk has not taken it out (R149, R162). -/
def StepRow.inStep (w : StepRow) : Bool := w.fault != 1 && w.fault != 2

/-- The results of the ended step: positions, tokens and counters, stops and faults (R185 to R188). -/
def State.rowResult (s : State) (g : ServeConfig) (w : StepRow) : State :=
  match s.req? w.slot with
  | none => s
  | some r =>
    let late := deadlinePassed s.time r
    if w.fault != 0 then
      let s := if late then s.modReq w.slot fun r => { r with stop := setBit r.stop 2 true } else s
      s.faultReq w.slot w.fault
    else
      let r' := afterRow r w
      let fl := match w.sampled with | some t => stopFlags g r t.1 r'.length | none => 0
      let stop := if fl = 0 then r.stop else fl + b2n late * flDeadline
      let s := s.modReq w.slot fun _ => { r' with stop, state := if fl = 0 then r.state else rDraining,
                                                  lastOut := if fl = 0 then r.lastOut else false }
      s.modSession r.session fun x => { x with length := r'.length }

/-- Requests whose deadline has passed enter `draining` with DEADLINE (R185 step 2). -/
def State.deadlines (s : State) (c : Nat) : State :=
  (s.slotsOf c).foldl (fun (s : State) i =>
    match s.req? i with
    | none => s
    | some r => if 1 ≤ r.state && r.state ≤ 4 && deadlinePassed s.time r then s.stopReq c i 2 else s) s

/-- Whether an imported session can be stepped (R198). -/
def State.decodable (s : State) (r : Request) : Bool :=
  r.imported && (match s.session? r.session, s.ctx? r.ctx with
    | some x, some c => c.kvMasts.all fun m => (List.range (pagesFor r.length)).all fun p => (x.frame m p).isSome
    | _, _ => false)

/-- The transitions at the end of prefill, of imports that are decodable, and resumptions that waited for an export (R183, R185
step 3). -/
def State.transitions (s : State) (c : Nat) : State :=
  (s.slotsOf c).foldl (fun (s : State) i =>
    match s.req? i with
    | none => s
    | some r =>
      if r.state = rPrefill && r.promptEnd ≤ r.length then
        if r.exp then s.modReq i fun r => { r with state := rDraining, stop := setBit r.stop 4 true, lastOut := false, delivered := [] }
        else s.modReq i fun r => { r with state := rDecode }
      else if r.state = rQueued && r.imp && s.decodable r then s.modReq i fun r => { r with state := rDecode }
      else if r.state = rParked && r.resume && !s.exporting r.session then
        s.modReq i fun r => { r with state := resumeState r, resume := false }
      else s) s

/-- A row's bundle entry after the boundary (R192, R193). -/
def State.rowEntry (s : State) (w : StepRow) : Entry :=
  let r := s.req? w.slot
  let len := (r.map (·.length)).getD 0
  let st := (r.map (·.state)).getD 0
  let stop := (r.map (·.stop)).getD 0
  let serial := (r.map (·.serial)).getD 0
  if w.fault != 0 then { slot := w.slot, status := 5, stop := stop % 32 + flLast, token := w.fault, position := len, logprob := 0, serial }
  else match w.sampled with
    | some t =>
      let last := st = rDraining && (bit stop 0 || bit stop 1 || bit stop 4)
      { slot := w.slot, status := 0, stop := if last then stop % 32 + flLast else 0, token := t.1, position := w.start + w.count,
        logprob := t.2, serial }
    | none => { slot := w.slot, status := 1, stop := 0, token := 0, position := len, logprob := 0, serial }

/-- The step that ended gets its bundle (R191, R193); none when it has no entry. -/
def State.closeStep (s : State) (c : Nat) (w : StepRun) : State :=
  let es := sortBy (fun (a b : Entry) => decide (a.slot ≤ b.slot)) (w.early ++ w.rows.map s.rowEntry)
  let show_ := (s.reqs.filter fun e => e.2.ctx == c).map fun e =>
    ({ slot := e.1, serial := e.2.serial, length := e.2.length, stop := e.2.stop, counter := e.2.counter,
       token := e.2.lastToken } : Shown)
  let s := s.modCtx c fun x => { x with step := none }
  let s := s.modCtx c fun x =>
    if es.isEmpty then
      if w.orphan then { x with mirror := { x.mirror with unacked := x.mirror.unacked.filter (· != w.num) } } else x
    else { x with held := x.held ++ [{ step := w.num, entries := es, degraded := false, orphan := w.orphan, show_, time := 0,
                                       sent := 0, ch := 0, due := w.due }] }
  s.releaseBundles c ((match s.ctx? c with | some x => x.held.length | none => 0) + 1)

/-- Whether a request is a candidate for the next step (R185). -/
def State.candidate (s : State) (x : Ctx) (r : Request) : Bool :=
  (r.state == rDecode || r.state == rPrefill || (r.state == rQueued && (!r.imp || s.decodable r)))
  && !(x.mirror.en && !x.mirror.policy && r.partner == mResync)

/-- Rank of R185 step 4: priority, class, deadline, slot. -/
def rankLe (a b : Nat × Request) : Bool :=
  let ka := (7 - a.2.priority, b2n (a.2.state != rDecode), if a.2.deadline = 0 then 2 ^ 64 else a.2.deadline, a.1)
  let kb := (7 - b.2.priority, b2n (b.2.state != rDecode), if b.2.deadline = 0 then 2 ^ 64 else b.2.deadline, b.1)
  decide (ka.1 < kb.1 ∨ (ka.1 = kb.1 ∧ (ka.2.1 < kb.2.1 ∨ (ka.2.1 = kb.2.1 ∧
    (ka.2.2.1 < kb.2.2.1 ∨ (ka.2.2.1 = kb.2.2.1 ∧ ka.2.2.2 ≤ kb.2.2.2))))))

/-- Rows of the ranked candidates while rows remain (R185 step 5): selected rows and skipped slots. -/
def selectRows (chunk : Nat) : List (Nat × Request) → Nat → List StepRow × List Nat
  | [], _ => ([], [])
  | e :: es, left =>
    let pre := decide (e.2.length < e.2.promptEnd)
    let n := if pre then min chunk (min (e.2.promptEnd - e.2.length) left) else 1
    if left = 0 then
      let r := selectRows chunk es 0
      (r.1, e.1 :: r.2)
    else
      let r := selectRows chunk es (left - n)
      ({ slot := e.1, start := e.2.length, count := n, prefill := pre,
         samples := !pre || decide (e.2.length + n = e.2.promptEnd), sampled := none, fault := 0 } :: r.1, r.2)

/-- The selection of the next step: rows in rank order, skipped slots (R185). -/
def State.select (s : State) (c : Nat) : List StepRow × List Nat :=
  match s.ctx? c with
  | none => ([], [])
  | some x =>
    match x.config with
    | none => ([], [])
    | some g =>
      let cs := (s.reqs.filter fun e => e.2.ctx == c && s.candidate x e.2)
      selectRows g.chunk (sortBy rankLe cs) g.maxRows

/-- Whether the shards that a program lists let a step start (R316): 0 yes, 1 some is loading, 2 absent, 3 quarantined. -/
def State.shardGate (s : State) (ids : List Nat) : Nat :=
  let st := fun i => match tget s.hal.shards i with | some h => h.state | none => 0
  if ids.any fun i => st i = 0 then 2 else if ids.any fun i => st i = 4 then 3 else if ids.any fun i => st i = 1 then 1 else 0

/-- What the rules on depth, queue and blocks say of starting a step (R184, R194, R201, R316, R385). -/
def State.mayStart (s : State) (x : Ctx) : Bool :=
  !s.pwr.brownout && !s.pwr.floorCap && !s.pwr.floorMgmt && decide (x.txq.length < 4)
  && (!x.mirror.en || (x.mirror.lost && x.mirror.policy) || (!x.mirror.lost && x.mirror.unacked.all fun n => decide (x.stepNext < n + 2)))
  && (match x.prog with | some p => s.shardGate p.shards == 0 | none => false)

/-- Something calls for a step: a selection, ALWAYS_STEP or an entry that waits (R184). -/
def State.wantsStep (s : State) (c : Nat) : Bool :=
  match s.ctx? c with
  | none => false
  | some x => match x.config with
    | none => false
    | some g => !g.holder && (g.alwaysStep || !x.owed.isEmpty || !(s.select c).1.isEmpty)

/-- A step starts over the selected rows: selected queued requests change state, the program swaps, the walk runs, and
held, skipped and waiting entries are settled (R162, R183, R185, R193). -/
def State.startStep (s : State) (c : Nat) : State :=
  match s.ctx? c with
  | none => s
  | some x =>
    let sel := s.select c
    let s := sel.1.foldl (fun (s : State) w => s.modReq w.slot fun r =>
      if r.state = rQueued then { r with state := if w.prefill then rPrefill else rDecode } else r) s
    let attn := match x.prog with | some p => p.attn | none => []
    let dense := attn.any fun e => e.attn && e.window == 0
    let faulty := fun (w : StepRow) =>
      let cap := match s.req? w.slot with
        | some r => (match s.session? r.session with | some y => y.listCap | none => 0)
        | none => 0
      if dense && decide (262144 < w.start + w.count) then 1 else if 256 * cap < w.start + w.count then 2 else 0
    let rows := sortBy (fun (a b : StepRow) => decide (a.slot ≤ b.slot)) (sel.1.map fun w => { w with fault := faulty w })
    let s := if rows.any fun w => w.fault != 0 then
        x.kvMasts.foldl (fun (s : State) m => s.modMast m fun z => { z with ae := { z.ae with err := z.ae.err ||| 0x20 } }) s
      else s
    let ws : List WalkReq := (rows.filter fun w => w.fault == 0).map fun w =>
      { slot := w.slot, session := (match s.req? w.slot with | some r => r.session | none => 0), start := w.start, count := w.count }
    let wk := s.walk c attn ws
    let s := wk.1
    let held := wk.2
    let entry := fun st i =>
      ({ slot := i, status := st, stop := 0, token := 0, logprob := 0,
         position := (match s.req? i with | some r => r.length | none => 0),
         serial := (match s.req? i with | some r => r.serial | none => 0) } : Entry)
    let early := x.owed ++ held.map (entry 2) ++ sel.2.map (entry 3)
    (s.modCtx c fun x => { x with
      owed := [], heldLast := held.length, stepNext := x.stepNext + 1,
      step := some { num := x.stepNext, rows := rows.filter fun w => !held.contains w.slot, early, sampled := false,
                     named := [], ended := [], orphan := false, due := none } }).countH
      (occ 0x010 1 0 c 0x00)

/-- What SESSION_QUERY reports from now on is how the context's sessions stand (R181). -/
def State.showSessions (s : State) (c : Nat) : State :=
  let ms := match s.ctx? c with | some x => x.masts | none => []
  { s with sess := tmap s.sess fun i y =>
      if y.ctx == c then { y with shown := { length := y.length, pages := maxD (ms.map fun m => y.pagesOn m) 0,
                                             globals := y.globals.length, bound := (s.boundTo i).isSome } }
      else y }

/-- The boundary's work on requests: the ended step's results, recorded commands, faults, deadlines and transitions, and
the ended step's bundle (R185). -/
def State.serveBoundary (s : State) (c : Nat) : State :=
  match s.ctx? c with
  | none => s
  | some x =>
    let ended := x.step
    let s := match ended, x.config with
      | some w, some g => w.rows.foldl (fun (s : State) r => s.rowResult g r) s
      | _, _ => s
    let s := s.deadlines c
    let s := s.applyRecorded c
    let s := s.deadlines c
    let s := s.transitions c
    let s := match (s.ctx? c).bind (·.step) with
      | some w => s.closeStep c w
      | none => s.releaseBundles c (x.held.length + 1)
    s.showSessions c

/-- Whether a step of the context could start at its next boundary (R184, R295). -/
def State.couldStep (s : State) (c : Nat) : Bool :=
  let t := s.serveBoundary c
  match t.ctx? c with
  | none => false
  | some x => t.wantsStep c && t.mayStart { x with prog := match x.nextProg with | some p => some p | none => x.prog }

end Sys2Proof.Machine
end

