-- ==== Sys2Proof/Machine/Sched.lean ====
section
/-! DEFINITION. Who holds contested engines: readiness, pre-emption, yields, spills and restores (R295 to R303). -/
namespace Sys2Proof.Machine

/-- A call of a context runs on a mast. -/
def State.calling (s : State) (c m : Nat) : Bool := (s.mast m).calls.any fun r => r.ctx == c

/-- A context that has been unfurled and may run (R288). -/
def runsState (st : CtxState) : Bool := match st with | .unfurled => true | .displaced => true | _ => false

/-- A context is displaced (R288). -/
def State.isDisplaced (s : State) (c : Nat) : Bool := (s.ctx? c).any fun x => x.state == .displaced

/-- Whether a context holds engines on a mast; it holds all of its placement or none (R295). -/
def State.holds (s : State) (c m : Nat) : Bool := (s.mast m).me.holders.any fun e => e.2 == c

/-- The contexts that hold engines of a mask on a mast, other than `c` (R295). -/
def State.holdersOf (s : State) (c m mask : Nat) : List Nat :=
  dedup (((s.mast m).me.holders.filter fun e => bit mask e.1 && e.2 != c).map (·.2))

/-- A context is ready on a mast (R295). -/
def State.ready (s : State) (c m : Nat) : Bool :=
  match s.ctx? c with
  | none => false
  | some x => runsState x.state && (x.step.isSome || thas x.live m || s.couldStep c)

/-- The contexts that wait for engines on a mast: ready there and without them (R296). -/
def State.waiters (s : State) (m : Nat) : List Nat :=
  (s.ctxs.filter fun e => e.2.masts.contains m && !s.holds e.1 m && s.ready e.1 m).map (·.1)

def State.prio (s : State) (c : Nat) : Nat := match s.ctx? c with | some x => x.priority | none => 0
def State.maskOn (s : State) (c m : Nat) : Nat := match s.ctx? c with | some x => x.mePlace m | none => 0

/-- The highest job priority among contexts. -/
def State.topPrio (s : State) (hs : List Nat) : Nat := maxD (hs.map s.prio) 0

/-- Some waiter of higher job priority than every rival that holds its engines wants the engines of `h` (R296). -/
def State.preempts (s : State) (h m : Nat) : Bool :=
  (s.waiters m).any fun r =>
    let hs := s.holdersOf r m (s.maskOn r m)
    hs.contains h && decide (s.topPrio hs < s.prio r)

/-- At a step boundary, or with no step in progress, `h` gives its engines on `m` to a waiter: of higher priority, of the
highest holder's when the mast is re-evaluated (`due`) or `h` is not ready, or of a lower one when `h` is not ready (R296). -/
def State.yields (s : State) (due : Bool) (h m : Nat) : Bool :=
  (s.waiters m).any fun r =>
    let hs := s.holdersOf r m (s.maskOn r m)
    hs.contains h &&
      (decide (s.topPrio hs < s.prio r) || ((due || !s.ready h m) && s.topPrio hs == s.prio r) || (decide (s.prio r < s.prio h) && !s.ready h m))

/-- The live regions of the last cleat that a context passed on a mast (R298). -/
def State.liveAt (s : State) (c m : Nat) : List (Nat × Nat) :=
  match s.ctx? c with
  | none => []
  | some x =>
    match x.prog, tget x.cleat m with
    | some p, some k => (match p.live.find? fun e => e.cleat == k && e.mast == m with | some e => e.regions | none => [])
    | _, _ => []

/-- In a coolant stop a mast's DRAM is in self-refresh, from the end of a copy that was running on (R222, R303, R394). -/
def Mast.refreshes (cool : Bool) (z : Mast) : Mast :=
  if cool && z.bulk.all fun j => j.frozen then { z with mc := { z.mc with selfRefresh := true } } else z

/-- A victim stops on a mast and its spill joins the bulk copy path (R299). -/
def State.displace (s : State) (c m : Nat) : State :=
  let regions := s.liveAt c m
  let s := s.modCtx c fun x => { x with state := .displaced }
  s.modMast m fun x => { x with bulk := x.bulk ++ [{ ctx := c, restore := false, regions, frozen := false }] }

/-- A copy of a context is pending on a mast. -/
def State.copying (s : State) (c m : Nat) : Bool := (s.mast m).bulk.any fun j => j.ctx == c

/-- A context that holds its engines on every mast and has nothing to copy back is unfurled (R289). -/
def State.promote (s : State) (c : Nat) : State :=
  match s.ctx? c with
  | none => s
  | some x =>
    if x.state == .displaced && x.masts.all fun m => s.holds c m && !s.copying c m then
      s.modCtx c fun x => { x with state := .unfurled }
    else s

/-- A context takes the engines of its placement on a mast; live data it saved is copied back first (R295, R300). -/
def State.takeEngines (s : State) (c m : Nat) : State :=
  let mask := s.maskOn c m
  let s := s.modMast m fun x =>
    { x with me := { x.me with holders := (bitsSet mask 16).foldl (fun t e => tset t e c) x.me.holders } }
  let s := (s.modCtx c fun x => { x with wait := tdel x.wait m }).servePmc c m
  match s.ctx? c with
  | none => s
  | some x =>
    match tget x.live m with
    | some rs => s.modMast m fun z => { z with bulk := z.bulk ++ [{ ctx := c, restore := true, regions := rs, frozen := false }] }
    | none => s.promote c

/-- The waiters of a mast in the order they are served: job priority, time waited, id (R296). -/
def State.queueFor (s : State) (m : Nat) : List Nat :=
  let since := fun c => match s.ctx? c with | some x => tgetD x.wait m s.time | none => s.time
  sortBy (fun (a b : Nat) => decide (s.prio b < s.prio a ∨ (s.prio a = s.prio b ∧ since a ≤ since b))) (s.waiters m)

/-- Waiters take engines that no one holds and no waiter before them wants (R296). -/
def State.serveWaiters (m : Nat) : List Nat → Nat → State → State
  | [], _, s => s
  | r :: rs, claimed, s =>
    let mask := s.maskOn r m
    if (s.holdersOf r m mask).isEmpty && mask &&& claimed == 0 then State.serveWaiters m rs claimed (s.takeEngines r m)
    else State.serveWaiters m rs (claimed ||| mask) s

/-- The hub looks at a mast (R296): who begins to wait has waited from now, who no longer waits has not waited. A holder yields to
an equal when the mast is re-evaluated: a step has ended, a cleat is reached or priorities have changed (`due`), or some context
has become ready there, and at any time while it is not ready; thus a context that was given engines starts its step before it
yields them again. No copy starts in a
coolant stop (R303). -/
def State.reeval (s : State) (due : Bool) (m : Nat) : State :=
  if s.pwr.coolstop || !s.mastUp m then s
  else
    let ws := s.waiters m
    let now := s.time
    let due := due || ws.any fun c => (s.ctx? c).any fun x => !thas x.wait m
    let s := { s with ctxs := tmap s.ctxs fun c x =>
      { x with wait := if !ws.contains c then tdel x.wait m else if thas x.wait m then x.wait else tset x.wait m now } }
    let idle := (s.ctxs.filter fun e =>
      runsState e.2.state && e.2.step.isNone && s.holds e.1 m && !s.copying e.1 m).map (·.1)
    let s := idle.foldl (fun (s : State) h => if s.yields due h m then s.displace h m else s) s
    State.serveWaiters m (s.queueFor m) 0 s

/-- Every mast is looked at. -/
def State.reevalAll (s : State) (due : Bool) : State := (List.range 8).foldl (fun (s : State) m => s.reeval due m) s

/-- A context's slices on a mast are zeroed and its engines released to those that wait (R291, R299, R304). -/
def State.freeEngines (s : State) (c m : Nat) : State :=
  if s.holds c m then
    let mask := s.maskOn c m
    let s := s.modMast m fun x =>
      let x := x.zeroSlices mask
      { x with me := { x.me with holders := x.me.holders.filter fun e => e.2 != c,
                                 engines := x.me.engines.filter fun e => e.2.ctx != c } }
    s.reeval false m
  else s

end Sys2Proof.Machine
end

