-- ==== Sys2Proof/Machine/Teardown.lean ====
section
/-! DEFINITION. What the classes of R404 do: teardown of one context, fencing of one mast, the fatal state; and the
quarantine of a shard (R304, R315, R411 to R414). -/
namespace Sys2Proof.Machine

/-! ## Loads -/

/-- The masts of a shard's pieces. -/
def Shard.onMast (h : Shard) (m : Nat) : Bool := h.pieces.any fun p => p.1 == m

/-- A load stops and its shard becomes absent (R284, R315, R319). -/
def State.dropShard (s : State) (id : Nat) : State :=
  let s := s.modNlc fun n => { n with reqs := n.reqs.filter fun e =>
    match e.2.issuer with | .halyard i _ => i != id | _ => true }
  { s with hal := { s.hal with shards := tdel s.hal.shards id } }

/-- The loads of a context stop (R319). -/
def State.dropLoads (s : State) (c : Nat) : State :=
  (s.hal.shards.filter fun e => e.2.ctx == c && e.2.state == 1).foldl (fun (s : State) e => s.dropShard e.1) s

/-- The loads of a context stop, and complete with a status (R284, R319). -/
def State.endLoads (s : State) (c st : Nat) : State :=
  (s.hal.shards.filter fun e => e.2.ctx == c && e.2.state == 1).foldl (fun (s : State) e =>
    (s.dropShard e.1).complete (.shard e.1) (ans st)) s

/-! ## Teardown (R304) -/

/-- Every call and copy of a context stops on a mast, and what its routing calls have noted goes. -/
def Mast.stopCtx (z : Mast) (c : Nat) : Mast :=
  let jobs := z.ae.sealJobs.filter fun j => j.ctx != c
  { z with
    calls := z.calls.filter fun r => r.ctx != c,
    bulk := z.bulk.filter fun j => j.ctx != c,
    limits := z.limits.filter fun l => l.1 != c,
    me := { z.me with engines := z.me.engines.filter fun e => e.2.ctx != c },
    ae := { z.ae with engines := z.ae.engines.filter fun e => e.2.ctx != c, sealJobs := jobs,
                      building := z.ae.building && !jobs.isEmpty },
    rtu := let u := { z.rtu with lists := z.rtu.lists.filter fun l => l.ctx != c }
           if u.ctx = c then { u with ctx := 0, layer := 0, state := 0 } else u,
    tt := { z.tt with samples := z.tt.samples.filter fun x => x.ctx != c,
                      results := z.tt.results.filter fun x => x.1 != c } }

/-- The same on every mast. -/
def State.stopAll (s : State) (c : Nat) : State :=
  (List.range 8).foldl (fun (s : State) m => s.modMast m fun z => (z.stopCtx c).refreshes s.pwr.coolstop) s

/-- The fabric operations of a context's calls and mirror are given up. -/
def State.dropFabric (s : State) (c : Nat) : State :=
  s.modNlc fun n => { n with reqs := n.reqs.filter fun e =>
    match e.2.issuer with | .copy i _ => i != c | .mirror i => i != c | _ => true }

/-- Requests of a torn context enter `faulted` (R183), and its mirrored ones stay as they are otherwise. -/
def State.tearRequests (s : State) (c : Nat) : State :=
  (s.slotsOf c).foldl (fun (s : State) i => s.faultReq i 0x0006) s

/-- Exports of a context at a teardown: one that has not started ends at once; one that has sends no further page and
completes when its sent pages have ended (R197, R284). -/
def State.tearExports (s : State) (c : Nat) : State :=
  let s := (s.exports.filter fun e => e.2.ctx == c && !e.2.started).foldl (fun (s : State) e =>
    ({ s with exports := tdel s.exports e.1 }).complete (.exported e.1) (ans stContextTorn)) s
  (s.exports.filter fun e => e.2.ctx == c && e.2.started).foldl (fun (s : State) e => s.stopExport e.1) s

/-- Whether an outstanding command is an export. -/
def Owed.isExport : Owed → Bool
  | .exported _ => true
  | _ => false

/-- Every step of R304 for a context that a contained error strikes; `cause` goes into CTX_TORN. -/
def State.tearDown (s : State) (c cause : Nat) : State :=
  match s.ctx? c with
  | none => s
  | some x =>
    match x.state with
    | .unfurled | .displaced | .coolstop =>
      let step := x.stepNo
      let s := s.stopAll c
      let s := s.modCtx c fun x => { x with
        state := .torn, step := none, atEnd := false, stopAt := [], stopped := [], spilled := [], live := [], wait := [] }
      let s := (s.withdrawCtx c).dropFabric c
      let s := s.tearRequests c
      let s := s.modCtx c fun x => { x with held := [], owed := [] }
      let s := (s.dropLoads c).dropRecorded c
      let s := s.completeAll c stContextTorn fun w => !w.isExport
      let s := s.tearExports c
      let s := s.notify (.ctxTorn c cause step)
      let s := x.masts.foldl (fun (s : State) m => s.freeEngines c m) s
      s.retarget
    | .furling =>
      let s := s.stopAll c
      ((s.modCtx c fun x => { x with stopped := x.masts }).withdrawCtx c).dropFabric c
    | _ => s.endLoads c stContextTorn

/-- A contained error of a context: its record, and the teardown (R404). A context that is furling stops its calls and goes
on furling; of one that is furled or unfurling the loads stop, and it takes the record (R289, R303, R319; log entry 18). -/
def State.contained (s : State) (r : Record) : State := (s.raise { r with cls := clsUC }).tearDown r.ctx r.cause

/-- A contained error with a cause, of a unit of a mast. -/
def State.containedAt (s : State) (cause m unit ctx : Nat) : State := s.contained (mkRec cause clsUC m unit ctx)

/-- What the Masthead's own accesses for a context have met ends in contained errors of the context (R219). -/
def State.raiseMet (s : State) (c : Nat) : State :=
  match s.ctx? c with
  | none => s
  | some x => x.met.foldl (fun (s : State) e => s.contained { mkRec e.2.1 clsUC e.1 noUnit c with addr := e.2.2 })
      (s.modCtx c fun x => { x with met := [] })

/-! ## Quarantine (R315) -/

/-- The flag of HAL_ERR for a reason (R323). -/
def halFlag (reason : Nat) : Word :=
  match reason with | 1 => 1 | 2 => 2 | 3 => 0x10 | 4 => 4 | 5 => 8 | 6 => 0x20 | 7 => 0x40 | _ => 0

/-- Whether the program of a shard's owner lists it. -/
def State.listsShard (s : State) (c id : Nat) : Bool :=
  match s.ctx? c with
  | none => false
  | some x => (match x.prog with | some p => p.shards.contains id | none => false)
              || (match x.nextProg with | some p => p.shards.contains id | none => false)

/-- A shard is quarantined for a reason; `place` is the shard offset of the first fault, when it has one. A load or recheck
of it completes with QUARANTINED. -/
def State.quarantine (s : State) (id reason : Nat) (place : Option Nat) : State :=
  match tget s.hal.shards id with
  | none => s
  | some h =>
    let line := match place with | some o => o / 128 | none => 0xFFFFFFFF
    let a : Ans := { status := stQuarantined, hi := reason, arg1 := place.getD (2 ^ 64 - 1), parts := [] }
    let s := s.modShard id fun h => { h with state := 4, reason, faultLine := line, scanning := false, ready := [] }
    let s := { s with hal := { s.hal with err := s.hal.err ||| halFlag reason } }
    let s := s.modNlc fun n => { n with reqs := n.reqs.filter fun e =>
      match e.2.issuer with | .halyard i _ => i != id | _ => true }
    let s := s.complete (.shard id) a
    let s := if h.state = 3 then
        (match s.holder? 0 with
         | some m => if m.activity = actRecheck && m.arg = id then s.endMaint actRecheck a else s
         | none => s)
      else s
    let r := { mkRec 0x0501 clsCE hubMast noUnit h.ctx with addr := id, info0 := reason }
    if s.listsShard h.ctx id then s.contained r else s.raise r

/-! ## Fencing (R411) -/

/-- A load with a piece on a mast that becomes fenced ends with FENCED, and its shard is absent (R315). A context that the fencing
tears down ends its loads itself, with CONTEXT_TORN (R284). -/
def State.fenceLoads (s : State) (m : Nat) : State :=
  (s.hal.shards.filter fun e => e.2.state == 1 && e.2.onMast m && !((s.ctx? e.2.ctx).any fun x =>
    x.state == .unfurled || x.state == .displaced || x.state == .coolstop)).foldl (fun (s : State) e =>
      (s.dropShard e.1).complete (.shard e.1) (ans stFenced)) s

/-- A mast is fenced (R411); `cause` is the first cause. -/
def State.fence (s : State) (m cause : Nat) : State :=
  if s.fencedMast m || !s.present m then s
  else
    let s := s.modMast m fun z => { z with
      fenced := true, cause, calls := [], bulk := [],
      ae := { z.ae with sealJobs := [], building := false },
      tt := { z.tt with recs := [], samples := [], results := [], tiles := [] } }
    let s := { s with flt := { s.flt with err := s.flt.err ||| 8 } }
    let s := s.raise { mkRec 0x0102 clsCE m noUnit 0 with info0 := cause }
    let s := s.fenceLoads m
    let s := (s.ctxs.filter fun e => bit e.2.mastMask m).foldl (fun (s : State) e =>
      s.contained { mkRec 0x0102 clsUC m noUnit e.1 with info0 := cause }) s
    (s.hal.shards.filter fun e => (e.2.state == 2 || e.2.state == 3) && e.2.onMast m).foldl
      (fun (s : State) e => s.quarantine e.1 7 none) s

/-! ## Fatal errors (R414) -/

/-- The package stops until power is cycled; `r` is the record of the cause. -/
def State.fatalAt (s : State) (r : Record) : State :=
  if s.flt.fatal then s
  else
    let s := s.raise { r with cls := clsFT }
    let s := { s with
      flt := { s.flt with fatal := true, fatalCause := r.cause, faultOut := true, holders := [], queues := [] },
      cn := { s.cn with mastRails := false },
      hif := { s.hif with mods := tmap s.hif.mods fun _ x => { x with state := 0 } } }
    (s.modNlc fun n => { n with ports := tmap n.ports fun _ x => { x with state := pOff } }).emit (.fault true false)

/-- A fatal error of the hub. -/
def State.fatalNow (s : State) (cause : Nat) : State := s.fatalAt (mkRec cause clsFT hubMast noUnit 0)

end Sys2Proof.Machine
end

