-- ==== Sys2Proof/Machine/UnitIO.lean ====
section
/-! DEFINITION. How the units of a mast reach memory for a context: pointers, regions, reads and writes, and when a call of
a context can be issued (R75, R219, R224, R226, R297). -/
namespace Sys2Proof.Machine

/-! ## Pointers (R75) -/

def ptrRsv (x : Nat) : Nat := bits x 56 8
def ptrSpace (x : Nat) : Nat := bits x 48 8
def ptrOff (x : Nat) : Nat := bits x 0 48
/-- A pointer of a structure whose chapter lists no check of reserved bits: they are ignored (R8, R75). -/
def ptrAt (b : Bytes) (i : Nat) : Nat := u64 b i % 2 ^ 56

/-- A pointer of a call: no reserved bit, a space of generation 1 within the mast's DRAM where it is that (R213), 128-byte
aligned. -/
def ptrOk (x : Nat) : Bool :=
  ptrRsv x == 0 && decide (ptrSpace x ≤ 1) && (ptrSpace x != 0 || decide (ptrOff x < dramSize)) && ptrOff x % 128 == 0
  && decide (x < 2 ^ 64)

/-- A region lies in the context's memory on a mast: granted DRAM, or slices of its placement (R224, R271). -/
def State.inMem (s : State) (c m x len : Nat) : Bool :=
  match s.ctx? c with
  | none => false
  | some k => if ptrSpace x = 0 then k.granted m (ptrOff x) len else k.sliceOk m (ptrOff x) len

/-- A pointer is well formed and its region is the context's. -/
def State.ptrIn (s : State) (c m x len : Nat) : Bool := ptrOk x && s.inMem c m x len

/-- What went wrong in an access: a cause of R407 and the address. -/
abbrev IoErr := Option (Nat × Nat)

/-- A unit reads memory for a context. -/
def State.readAt (s : State) (m : Nat) (r : Reader) (x len : Nat) : State × Bytes × IoErr :=
  if ptrSpace x = 0 then
    let q := s.readDram m r (ptrOff x) len
    (q.1, q.2.1, q.2.2.map fun e => (e.2, e.1 * 64))
  else
    let q := (s.mast m).readSpad r (ptrOff x) len
    (s.modMast m fun z => (z.readSpad r (ptrOff x) len).1, q.2.1, q.2.2.map fun w => (0x1304, w * 8))

/-- A unit writes memory for a context. -/
def State.writeAt (s : State) (m : Nat) (r : Reader) (x : Nat) (data : Bytes) : State × IoErr :=
  if ptrSpace x = 0 then
    let q := s.writeDram m r (ptrOff x) data
    (q.1, q.2.map fun e => (e.2, e.1 * 64))
  else (s.modMast m fun z => z.writeSpad (ptrOff x) data, none)

/-- An access of a unit failed: contained error of its context (R219, R226). -/
def State.ioFail (s : State) (c m unit : Nat) (e : Nat × Nat) : State :=
  s.contained { mkRec e.1 clsUC m unit c with addr := e.2 }

/-- Reads, and goes on with the bytes or ends in the contained error. -/
def State.withRead (s : State) (c m unit : Nat) (r : Reader) (x len : Nat) (f : State → Bytes → State) : State :=
  let q := s.readAt m r x len
  match q.2.2 with
  | some e => q.1.ioFail c m unit e
  | none => f q.1 q.2.1

/-- Reads, with what went wrong as a cause of R407 and its address. -/
def State.fetch (s : State) (m : Nat) (r : Reader) (x len : Nat) : State × Except (Nat × Nat) Bytes :=
  let q := s.readAt m r x len
  (q.1, match q.2.2 with | some e => .error e | none => .ok q.2.1)

/-- Writes, and goes on or ends in the contained error. -/
def State.withWrite (s : State) (c m unit : Nat) (r : Reader) (x : Nat) (data : Bytes) (f : State → State) : State :=
  let q := s.writeAt m r x data
  match q.2 with
  | some e => q.1.ioFail c m unit e
  | none => f q.1

/-- An access outside the slices of a context's placement (R224). -/
def State.spadRange (s : State) (c m unit addr : Nat) : State :=
  (s.modMast m fun z => { z with mc := { z.mc with err := z.mc.err ||| 0x100 } }).contained
    { mkRec 0x1303 clsUC m unit c with addr }

/-- A region of a call is not the context's: where its pointer is well formed and names the scratchpad, as R224 says, else
as the call's own checks have it. -/
def State.regionFail (s : State) (c m x : Nat) (bad : State → State) : State :=
  if ptrOk x && ptrSpace x == 1 then s.spadRange c m noUnit (ptrOff x) else bad s

/-- Goes on where every region is the context's; the first that is not ends the call. -/
def State.withRegions (s : State) (c m : Nat) (rs : List (Nat × Nat)) (bad : State → State) (f : State → State) : State :=
  match rs.find? fun r => !s.ptrIn c m r.1 r.2 with
  | some r => s.regionFail c m r.1 bad
  | none => f s

/-! ## Issue -/

/-- A context may issue calls: it is not furling, and no pre-emption of it on the mast is pending (R291, R299). -/
def State.mayIssue (s : State) (c m : Nat) : Bool :=
  match s.ctx? c with
  | none => false
  | some x => runsState x.state && !(x.preemptible && s.preempts c m)

/-- Whether a context can run on a mast now: a step runs, the context holds its engines there with no copy pending, and
nothing stops it (R291, R297, R299, R394). -/
def State.canRun (s : State) (c m : Nat) : Bool :=
  match s.ctx? c with
  | none => false
  | some x =>
    (runsState x.state || (x.state == .furling && x.stopAt.contains m)) && x.step.isSome && !x.atEnd && s.mastUp m
    && x.masts.contains m && s.holds c m && !s.copying c m && !s.pwr.coolstop && !x.stopped.contains m

/-- Whether a call of a context can be issued on a mast now: it can run there, nothing holds it back at its next cleat, which
is the point after its running call (R297), and it is in no collective phase (R360). -/
def State.canIssue (s : State) (c m : Nat) : Bool :=
  s.canRun c m && s.mayIssue c m && !((s.mast m).calls.any fun r => r.ctx == c && r.kind == .collective)

/-- Every call on which the call `x` of a context on a mast depends has ended in the running step (R25). Which calls those are
is the program's (log entry 70). -/
def State.depsMet (s : State) (c m x : Nat) : Bool :=
  match (s.ctx? c).bind (·.step) with
  | none => false
  | some w => (Config.needs c m x).all w.ended.contains

/-- The call `x` of a context on a mast has ended. -/
def State.callEnded (s : State) (c m x : Nat) : State :=
  s.modCtx c fun k => { k with step := k.step.map fun w => { w with ended := w.ended ++ [(m, x)] } }

/-- Whether the call `x` of a context can be issued on a mast now. -/
def State.canStart (s : State) (c m x : Nat) : Bool := s.canIssue c m && s.depsMet c m x

/-- A descriptor's pointer fails with the cause of the call's descriptor faults: it lies outside the context's memory or is
malformed, but for the range of the scratchpad, which R224 names. -/
def State.descFault (s : State) (c m desc len : Nat) : Bool :=
  (!s.inMem c m desc len || ptrRsv desc != 0 || decide (1 < ptrSpace desc)) && !(ptrRsv desc == 0 && ptrSpace desc == 1)

/-- A call's descriptor is read by the Masthead, and the call goes on with its bytes. One that lies outside the
context's memory fails with the cause of the call's descriptor faults, or as R224 says for the scratchpad. The hint that the call
carries takes effect as it starts (R389). -/
def State.withDesc (s : State) (c m cause desc len : Nat) (f : State → Bytes → State) : State :=
  if s.descFault c m desc len then s.contained (mkRec cause clsUC m noUnit c)
  else if !s.inMem c m desc len then s.spadRange c m noUnit (ptrOff desc)
  else (s.callHint c desc).withRead c m noUnit (control c 0x18) desc len f

/-- The same for a call that ends as it is issued (R25). -/
def State.atOnce (s : State) (c m cause desc len : Nat) (f : State → Bytes → State) : State :=
  (s.withDesc c m cause desc len f).callEnded c m desc

/-- The safeguard entry of a layer of a context's program (R97). -/
def State.guardOf (s : State) (c layer : Nat) : Option Safeguard :=
  (s.ctx? c).bind fun x => x.prog.bind fun p => p.guards[layer]?

/-- A limit of one record for a context, mast and step (R49, R67, R121): whether it was free, and the state with it used. -/
def State.firstLimit (s : State) (c m : Nat) (l : StepLimit) : Bool × State :=
  if (s.mast m).limits.contains (c, l) then (false, s)
  else (true, s.modMast m fun z => { z with limits := z.limits ++ [(c, l)] })

/-- The record of such a limit, raised once. -/
def State.limitRec (s : State) (c m unit layer cause : Nat) (l : StepLimit) : State :=
  let q := s.firstLimit c m l
  if q.1 then q.2.raise { mkRec cause clsCE m unit c with layer } else s

end Sys2Proof.Machine
end

