-- ==== Sys2Proof/Machine/TelltaleOps.lean ====
section
/-! DEFINITION. Layer records, sampled tiles and their comparison (R99 to R108, R111). -/
namespace Sys2Proof.Machine

def ltNarrow : Nat := 0
def ltWidened : Nat := 1
def ltPinned : Nat := 2

/-- A reset layer record (R105). -/
def LayerRec.new : LayerRec := { state := 0, relaxLeft := 0, hist := 0, histLen := 0, widenCount := 0, cmd := 0 }

def recKey (ctx layer : Nat) : Nat := ctx * 4096 + layer
def TtBlk.rec? (t : TtBlk) (ctx layer : Nat) : LayerRec := tgetD t.recs (recKey ctx layer) LayerRec.new

/-- The mode of a layer's calls on a mast (R68, R103). -/
def State.layerWide (s : State) (c m layer : Nat) : Bool := ((s.mast m).tt.rec? c layer).state != ltNarrow

/-- A context's layer records and step marks on a mast are gone. -/
def TtBlk.forget (t : TtBlk) (ctx : Nat) : TtBlk :=
  { t with recs := t.recs.filter fun e => e.1 / 4096 != ctx, tiles := t.tiles.filter fun e => e.1 / 4096 != ctx,
           samples := t.samples.filter fun x => x.ctx != ctx, results := t.results.filter fun x => x.1 != ctx }

/-- Exceedances among the last `n` samples (R105). -/
def LayerRec.exceeds (r : LayerRec) (n : Nat) : Nat := popCount r.hist.toNat (min n 64)

/-- A sample is appended to the history (R105). -/
def LayerRec.append (r : LayerRec) (exc : Bool) : LayerRec :=
  { r with hist := (r.hist <<< 1) ||| BitVec.ofNat 64 (b2n exc), histLen := min 64 (r.histLen + 1) }

/-- A history is cleared. -/
def LayerRec.clearHist (r : LayerRec) : LayerRec := { r with hist := 0, histLen := 0 }

/-- Entry into a state (R105). -/
def LayerRec.enter (g : Safeguard) (r : LayerRec) (st : Nat) : LayerRec :=
  { r.clearHist with state := st, relaxLeft := if st = ltWidened then g.relaxSteps else 0 }

/-- What a boundary made of a layer on a mast (R105). -/
structure LayerStep where
  rec_     : LayerRec
  held     : Bool
  wideExc  : Bool
  widened  : Bool

/-- The appended samples, and whether the count of R105 step 1 reached TT_M. -/
def appendAll (g : Safeguard) (r : LayerRec) : List Bool → LayerRec × Bool
  | [] => (r, false)
  | e :: es =>
    let r' := r.append e
    let q := appendAll g r' es
    (q.1, q.2 || decide (g.ttM ≤ r'.exceeds g.ttN))

/-- Steps 1 to 6 of R105 for one layer. `ended`: a step has ended. -/
def layerBoundary (g : Safeguard) (autoEn ended : Bool) (r : LayerRec) (excs : List Bool) : LayerStep :=
  let a := appendAll g r excs
  let hit := a.2
  let mark := hit && r.state == ltNarrow && g.autoWiden && autoEn
  let held := hit && r.state == ltNarrow && !mark
  let wideExc := hit && r.state != ltNarrow
  let r1 := if held || wideExc then a.1.clearHist else a.1
  let left := if excs.any id then g.relaxSteps else r1.relaxLeft - 1
  let relaxes := ended && r1.state == ltWidened && g.relaxSteps != 0
  let r2 := if relaxes then { r1 with relaxLeft := left } else r1
  let back := relaxes && left == 0
  let r3 := { r2 with cmd := 0 }
  if r.cmd = 1 then
    if r.state = ltNarrow then { rec_ := if mark then r3.clearHist else r3, held, wideExc, widened := false }
    else { rec_ := r3.enter g ltNarrow, held, wideExc, widened := false }
  else if r.cmd = 2 then
    { rec_ := if r.state = ltPinned then r3 else r3.enter g ltPinned, held, wideExc, widened := false }
  else if mark then
    { rec_ := { r3.enter g ltWidened with widenCount := min (r3.widenCount + 1) 0xFFFF }, held, wideExc, widened := true }
  else if back then { rec_ := r3.enter g ltNarrow, held, wideExc, widened := false }
  else { rec_ := r3, held, wideExc, widened := false }

/-- |x| of an FP32 word. -/
def fpAbs (w : Word) : Word := w &&& 0x7FFFFFFF#32

/-- The comparison of R102: exceedance, and whether a value was not finite. -/
def ttExceeds (x : TtSample) : Bool × Bool :=
  let nonfinite := x.prod.any (fun w => !fpIsFinite w) || x.ref.any fun w => !fpIsFinite w
  let d := (x.prod.zip x.ref).foldl (fun m p => fpMax m (fpAbs (fpSub p.1 p.2))) fpZero
  let q := x.ref.foldl (fun m w => fpMax m (fpAbs w)) fpZero
  let thr := fpMul (toFp (.fin false 1 (-(x.thr : Int)))) (fpAdd q (toFp (.fin false 1 (-24))))
  (nonfinite || fpLt thr d, nonfinite)

/-- The comparison of a sampled tile, which no longer waits (R102). -/
def State.compareSample (s : State) (m : Nat) (x : TtSample) : State :=
  let e := ttExceeds x
  let s := s.modMast m fun z => { z with tt := { z.tt with results := z.tt.results ++ [(x.ctx, x.layer, x.tile, e.1)] } }
  let s := s.countM m (occ 0x021 1 1 x.ctx 0x17)
  let s := if e.2 then s.countM m (occ 0x024 1 1 x.ctx 0x17) else s
  if e.1 then s.countM m (occ 0x022 1 1 x.ctx 0x17) else s

/-- The sampled tiles of a mast that wait for their comparison. -/
def State.setSamples (s : State) (m : Nat) (xs : List TtSample) : State :=
  s.modMast m fun z => { z with tt := { z.tt with samples := xs } }

/-- The oldest sampled tile of a mast is compared (R102). -/
def State.compareTile (s : State) (m : Nat) : State :=
  match (s.mast m).tt.samples with
  | [] => s
  | x :: xs => (s.setSamples m xs).compareSample m x

/-- Every sampled tile of a context on a mast is compared: its boundary comes after its last comparison (R105). -/
def State.compareAll (s : State) (c m : Nat) : State :=
  let xs := (s.mast m).tt.samples
  (xs.filter fun x => x.ctx == c).foldl (fun s x => s.compareSample m x) (s.setSamples m (xs.filter fun x => x.ctx != c))

/-- The layers of a context with a record or a sample on a mast. -/
def TtBlk.layersOf (t : TtBlk) (ctx : Nat) : List Nat :=
  sortBy (fun (a b : Nat) => decide (a ≤ b)) (dedup (((t.recs.filter fun e => e.1 / 4096 == ctx).map fun e => e.1 % 4096)
    ++ (t.results.filter fun x => x.1 == ctx).map fun x => x.2.1))

/-- The samples of one layer in ascending tile number. -/
def TtBlk.excsOf (t : TtBlk) (ctx layer : Nat) : List Bool :=
  (sortBy (fun (a b : Nat × Nat × Nat × Bool) => decide (a.2.2.1 ≤ b.2.2.1))
    (t.results.filter fun x => x.1 == ctx && x.2.1 == layer)).map fun x => x.2.2.2

/-- What a boundary makes of each layer of a context on a mast (R105). -/
def TtBlk.boundaries (t : TtBlk) (c : Nat) (guards : List Safeguard) (ended : Bool) : List (Nat × LayerStep) :=
  (t.layersOf c).filterMap fun l => guards[l]?.map fun g =>
    (l, layerBoundary g t.autoEn ended (t.rec? c l) (if ended then t.excsOf c l else []))

/-- A step of R105 raises its event for each layer that it concerns, and notes it in TT_ERR. -/
def State.layerEvents (s : State) (c m cause flag : Nat) (ls : List Nat) : State :=
  ls.foldl (fun s l => s.raise { mkRec cause clsCE m noUnit c with layer := l })
    (if ls.isEmpty then s else s.modMast m fun z => { z with tt := { z.tt with err := z.tt.err ||| flag } })

/-- The boundary of a context's layers on one mast, step 2 of R105 for every layer before step 3 (R105, R111): the state, and the
layers that widened. -/
def State.ttBoundary (s : State) (c m : Nat) (guards : List Safeguard) (ended : Bool) : State × List Nat :=
  let s := s.compareAll c m
  let bs := (s.mast m).tt.boundaries c guards ended
  let ls := fun (p : LayerStep → Bool) => (bs.filter fun b => p b.2).map (·.1)
  let s := (s.layerEvents c m 0x1401 8 (ls (·.held))).layerEvents c m 0x1402 0x10 (ls (·.wideExc))
  (s.modMast m fun z => { z with
      limits := z.limits.filter fun x => x.1 != c,
      tt := { z.tt with
        recs := bs.foldl (fun t b => tset t (recKey c b.1) b.2.rec_) z.tt.recs,
        err := z.tt.err ||| (if (ls (·.widened)).isEmpty then 0 else 4),
        results := if ended then z.tt.results.filter fun x => x.1 != c else z.tt.results,
        tiles := z.tt.tiles.filter fun e => e.1 / 4096 != c,
        latch := tset z.tt.latch c { sampleEn := z.tt.sampleEn, autoEn := z.tt.autoEn, seed := z.tt.seed } } },
   ls (·.widened))

/-- The widening storm of a boundary (R108). -/
def State.storm (s : State) (c : Nat) (count : Nat) (moved : List (Nat × List Nat)) : State :=
  let ids := dedup (moved.flatMap (·.2))
  if count < 4 * ids.length then
    let s := s.raise { mkRec 0x1403 clsCE hubMast noUnit c with info0 := ids.length }
    (moved.filter fun e => !e.2.isEmpty).foldl (fun (s : State) e =>
      s.modMast e.1 fun z => { z with tt := { z.tt with err := z.tt.err ||| 0x20 } }) s
  else s

/-- The layer records of a context at its boundary, on every mast (R105, R108). -/
def State.ttAll (s : State) (c : Nat) (ended : Bool) : State :=
  match s.ctx? c with
  | none => s
  | some x =>
    let guards := match x.prog with | some p => p.guards | none => []
    let r := (List.range 8).foldl (fun (a : State × List (Nat × List Nat)) m =>
      if a.1.mastUp m then
        let q := a.1.ttBoundary c m guards ended
        (q.1, a.2 ++ [(m, q.2)])
      else a) (s, [])
    if ended then r.1.storm c guards.length r.2 else r.1

/-- Every layer record of a context is reset (R105, R290, R291). -/
def State.ttReset (s : State) (c : Nat) : State :=
  (List.range 8).foldl (fun (s : State) m => s.modMast m fun z => { z with tt := z.tt.forget c }) s

/-- A newly loaded program takes effect: layer records are reset, and the report of routing calls starts afresh (R105,
R143, R276). DESIGN CHOICE (log entry 107): "since its program was loaded" counts from here, not from PROG_LOAD's completion. -/
def State.programTaken (s : State) (c : Nat) : State :=
  let s := s.ttReset c
  let s := (List.range 8).foldl (fun (s : State) m => s.modMast m fun z =>
    { z with rtu := { z.rtu with last := tdel z.rtu.last c } }) s
  s.modCtx c fun x => match x.nextProg with | some p => { x with prog := some p, nextProg := none } | none => x

end Sys2Proof.Machine
end

