-- ==== Sys2Proof/Machine/Boundary.lean ====
section
/-! DEFINITION. A context's step boundary in full: layer records, pages, commands, requests, and the start of the next step
(R105, R167 to R169, R184, R185, R316, R489). -/
namespace Sys2Proof.Machine

/-- The rows whose requests the step stepped: those that the walk did not take out (R149, R162, R167, R168). -/
def StepRun.stepped (w : StepRun) : List StepRow := w.rows.filter fun r => r.inStep

/-- A seal due at the end of step `n` has no complete image yet on these masts (R169). -/
def State.stalledMasts (s : State) (c n : Nat) : List Nat :=
  match s.ctx? c with
  | none => []
  | some x => x.kvMasts.filter fun m => s.mastUp m && (x.pool m).sealLate n

/-- The boundary waits for a seal image (R169): each wait is counted once. -/
def State.sealWait (s : State) (c : Nat) (ms : List Nat) : State :=
  ms.foldl (fun (s : State) m =>
    let s := s.modMast m fun z => { z with ae := { z.ae with err := z.ae.err ||| 0x40 } }
    let s := s.modCtx c fun x =>
      let p := x.pool m
      { x with pools := tset x.pools m { p with stalls := min (p.stalls + 1) 0xFFFF } }
    s.countM m (occ 0x042 1 0 c 0x18)) s

/-- A session as the ended step leaves it, for the pages' rules. -/
def State.sessionAfter (s : State) (w : StepRow) : Option (Nat × Session) :=
  (s.req? w.slot).bind fun r => (s.session? r.session).map fun x => (r.session, { x with length := w.start + w.count })

/-- Pages of imported sessions that became decodable (R168). -/
def State.importedSessions (s : State) (c : Nat) : List Session :=
  (s.reqs.filter fun e => e.2.ctx == c && e.2.state == rQueued && e.2.imp && s.decodable e.2).filterMap fun e =>
    s.session? e.2.session

/-- The page changes of a boundary on one mast: pages fill, commits take effect, triggers are taken (R167 to R169): of stepped
sessions, then of imported ones, then at ended exports (DESIGN CHOICE, log entry 95). `n`: the current step number, between steps
that of the last step started (DEDUCED, log entry 96). `ended`: a step has ended. -/
def State.pageBoundary (s : State) (c m n : Nat) (ended : Bool) (k : KvRec) (rows : List StepRow) : State :=
  let ss := rows.filterMap fun w => s.sessionAfter w
  let pool := fun (s : State) => match s.ctx? c with
    | some x => x.pool m
    | none => Pool.empty
  let s := s.setPool c m (ss.foldl (fun p e => fillPages e.2 m e.2.length p) (pool s))
  let s := s.commitSeals c m n ended k
  let p := pool s
  let p := ss.foldl (fun p e => triggerSession k n e.2 m p) p
  let p := (s.importedSessions c).foldl (fun p x => triggerSession k n x m p) p
  let p := p.ended.foldl (fun q u => triggerFrame k n q u) { p with ended := [] }
  s.setPool c m p

/-- The page changes of a boundary. -/
def State.pagesAll (s : State) (c n : Nat) (ended : Bool) (rows : List StepRow) : State :=
  match s.ctx? c with
  | none => s
  | some x => (x.kv.foldl (fun (s : State) (e : Nat × KvRec) =>
      if s.mastUp e.1 then s.pageBoundary c e.1 n ended e.2 rows else s) s).sendWaiting c

/-- A listed shard that is absent or quarantined at a boundary (R316). -/
def State.shardCheck (s : State) (c : Nat) : State :=
  match s.ctx? c with
  | none => s
  | some x => match x.prog with
    | none => s
    | some p => match s.shardGate p.shards with
      | 2 => s.contained (mkRec 0x0502 clsUC hubMast noUnit c)
      | 3 => s.contained (mkRec 0x0501 clsUC hubMast noUnit c)
      | _ => s

/-- A step of a context that holds its engines is called for, outside coolant stop (R184, R295, R394). -/
def State.stepDue (s : State) (c : Nat) (x : Ctx) : Bool :=
  x.state == .unfurled && x.step.isNone && !s.pwr.coolstop && s.wantsStep c

/-- A step starts if one is called for and nothing forbids it (R184, R194, R295). -/
def State.tryStart (s : State) (c : Nat) : State :=
  match s.ctx? c with
  | none => s
  | some x =>
    if s.stepDue c x then
      if s.mayStart x then s.startStep c
      else if 4 ≤ x.txq.length then { s with srvErr := s.srvErr ||| 0x80 }
      else s
    else s

/-- The boundary of a context: after a step, or again while none is in progress (R185, R489). -/
def State.boundary (s : State) (c : Nat) : State :=
  match s.ctx? c with
  | none => s
  | some x =>
    if !runsState x.state || s.pwr.coolstop then s
    else
      let late := match x.step with | some w => s.stalledMasts c w.num | none => []
      if !late.isEmpty then
        (if x.atEnd then s else (s.sealWait c late).modCtx c fun x => { x with atEnd := true })
      else
        let s := s.modCtx c fun x => { x with atEnd := false }
        let s := s.ttAll c x.step.isSome
        let s := s.pagesAll c x.stepNo x.step.isSome (match x.step with | some w => w.stepped | none => [])
        let s := s.serveBoundary c
        let s := if x.nextProg.isSome then s.programTaken c else s
        let s := s.shardCheck c
        ((s.reevalAll x.step.isSome).tryStart c).raiseMet c

/-- Something happened that could change the outcome of a context's boundary (R489): a context with no step in progress
runs it again, with or without its engines (R288), and a displaced one may have become ready (R296). -/
def State.idle (s : State) (c : Nat) : State :=
  match s.ctx? c with
  | none => s
  | some x =>
    if runsState x.state && x.step.isNone then s.boundary c
    else if x.state == .displaced then (s.reevalAll false).raiseMet c
    else s.raiseMet c

/-- The same for every context. -/
def State.idleAll (s : State) : State := (tkeys s.ctxs).foldl (fun (s : State) c => s.idle c) s

end Sys2Proof.Machine
end

