-- ==== Sys2Proof/Machine/Sampling.lean ====
section
/-! DEFINITION. Token sampling: the generator and the rule of R189 over a row of logits. -/
namespace Sys2Proof.Machine

/-! ## Philox4x32-10 (R189; PRESUMED, log entry 30: the published definition's constants) -/

def philoxM0 : Nat := 0xD2511F53
def philoxM1 : Nat := 0xCD9E8D57
def philoxW0 : Nat := 0x9E3779B9
def philoxW1 : Nat := 0xBB67AE85

/-- Four counter words. -/
structure Philox where
  c0 : Nat
  c1 : Nat
  c2 : Nat
  c3 : Nat
  deriving DecidableEq, Repr

/-- One round with two key words. -/
def philoxRound (x : Philox) (k0 k1 : Nat) : Philox :=
  let p := philoxM0 * x.c0
  let q := philoxM1 * x.c2
  { c0 := q / 2 ^ 32 ^^^ x.c1 ^^^ k0, c1 := q % 2 ^ 32, c2 := p / 2 ^ 32 ^^^ x.c3 ^^^ k1, c3 := p % 2 ^ 32 }

/-- `n` rounds; the key rises by its constants between rounds. -/
def philoxRun : Nat → Philox → Nat → Nat → Philox
  | 0, x, _, _ => x
  | n + 1, x, k0, k1 => philoxRun n (philoxRound x k0 k1) ((k0 + philoxW0) % 2 ^ 32) ((k1 + philoxW1) % 2 ^ 32)

/-- Word 0 for a seed, a sample counter and a position (R189). -/
def philoxWord (seed counter position : Nat) : Nat :=
  (philoxRun 10 { c0 := counter % 2 ^ 32, c1 := position % 2 ^ 32, c2 := 0, c3 := 0 } (seed % 2 ^ 32) (seed / 2 ^ 32 % 2 ^ 32)).c0

/-! ## The rule of R189 -/

def fpMaxFin : Word := 0x7F7FFFFF#32
def fpMinFin : Word := 0xFF7FFFFF#32

/-- Whether a logit is substituted, and its value after substitution. -/
def logitBad (w : Word) : Bool := fpIsNan w || w == fpPosInf
def logitOf (w : Word) : Word := if fpIsNan w then fpNegInf else if w == fpPosInf then fpMaxFin else w

/-- A finite logit over the temperature stays finite. -/
def scaled (t w : Word) : Word :=
  if w == fpNegInf then w
  else let z := fpDiv w t
       if z == fpPosInf then fpMaxFin else if z == fpNegInf then fpMinFin else z

/-- The index of the greatest value, the lowest one among equals. -/
def argMax (l : List Word) : Nat :=
  ((enum l).foldl (fun (best : Nat × Word) e => if fpLt best.2 e.2 then e else best) (0, l.headD fpNegInf)).1

/-- Ids by descending value, ties to the lower id. -/
def byValue (z : List Word) : List (Nat × Word) := sortBy (fun (a b : Nat × Word) => fpLe b.2 a.2) (enum z)

/-- Running sums from +0.0, ascending. -/
def sumFp (l : List Word) : Word := l.foldl fpAdd fpZero

/-- The position of the first running sum that satisfies `p`. -/
def firstSum (p : Word → Bool) : List Word → Word → Nat → Option Nat
  | [], _, _ => none
  | w :: ws, c, j => let c := fpAdd c w
                     if p c then some j else firstSum p ws c (j + 1)

/-- How many of the weights nucleus sampling keeps. -/
def keepCount (topP : Word) (w : List Word) : Nat :=
  if fpLt topP fpOne then
    let bound := fpMul topP (sumFp w)
    match firstSum (fun c => fpLe bound c) w fpZero 0 with | some j => j + 1 | none => w.length
  else w.length

/-- The parameters of a draw. -/
structure Draw where
  temperature : Word
  topP        : Word
  topK        : Nat
  seed        : Nat
  counter     : Nat
  position    : Nat

/-- The token and its log-probability over a row in which some logit is above -infinity (R189). -/
def drawToken (d : Draw) (l : List Word) : Nat × Word :=
  if (ofFp d.temperature).isZero then (argMax l, fpZero)
  else
    let all := byValue (l.map (scaled d.temperature))
    let ord := if 0 < d.topK then all.take d.topK else all
    let m := (ord.headD (0, fpZero)).2
    let w := ord.map fun e => fpExp (fpSub e.2 m)
    let w := w.take (keepCount d.topP w)
    let s := sumFp w
    let x := philoxWord d.seed d.counter d.position
    let t := fpMul (toFp (ofInt (x / 256 : Nat) (-24) false)) s
    let sel := (firstSum (fun c => fpLt t c) w fpZero 0).getD (w.length - 1)
    ((ord.getD sel (0, fpZero)).1, fpLog (fpDiv (w.getD sel fpZero) s))

/-- A row is sampled: none when every logit is -infinity after substitution (SAMPLE_NONFINITE). -/
def sampleRow (d : Draw) (row : List Word) : Option (Nat × Word) :=
  let l := row.map logitOf
  if l.all (· == fpNegInf) then none else some (drawToken d l)

end Sys2Proof.Machine
end

