-- ==== Sys2Proof/Machine/StepEvents.lean ====
section
/-! DEFINITION. The serving sequencer's events: the end of a step, deadlines, sampling, mirror acknowledgements and
timeouts, and the transmission of bundles (R185, R188, R189, R191, R194, R201 to R203, R489). -/
namespace Sys2Proof.Machine

/-! ## The end of a step (R185, R202) -/

/-- Every mast of a context stands at its boundary: no call of it runs, no copy of it is pending and no live data of it
waits for a restore. -/
def State.atBoundary (s : State) (x : Ctx) (c : Nat) : Bool :=
  x.masts.all fun m => s.mastUp m && !s.calling c m && !s.copying c m && (tgetD x.live m []).isEmpty

/-- Rows that sample and have neither sampled nor faulted (R186). -/
def StepRun.unsampled (w : StepRun) : Bool := !w.sampled && w.rows.any fun r => r.samples && r.fault == 0

/-- A step with nothing to sample writes its log at its end (R202). -/
def State.logUnsampled (s : State) (c : Nat) (w : StepRun) : State :=
  if w.sampled then s else (s.modCtx c fun x => { x with step := some { w with sampled := true } }).commitLog c { w with sampled := true }

/-- Bytes of a mast's DRAM that the spec does not define: free bytes. -/
def State.haze (s : State) (m : Nat) (r : Nat × Nat) : State :=
  (s.modMast m fun z => { z with dram := { z.dram with cells := memWrite z.dram.cells r.1 (s.freeBytes r.2) } }).drawnN r.2

/-- The slots that a row would have written in a page layer and head hold undefined bytes (R151). -/
def State.hazeRow (s : State) (m : Nat) (k : KvRec) (l h : Nat) (w : StepRow) : State :=
  (List.range w.count).foldl (fun (s : State) i =>
    let p := w.start + i
    match (s.sessionAfter w).bind fun e => (e.2.frame m (p / 256)).bind fun u =>
        (s.ctx? e.2.ctx).bind fun x => (tget (x.pool m).frames u).map fun f => (u, f) with
    | some (u, f) => if f.st = fOpen then (entryRuns k u f.upper l (p % 256) h).foldl (fun (s : State) r => s.haze m r) s else s
    | none => s) s

/-- The requests of a step that no attention call of a layer and head on a mast has named: what the call would have written is
not defined (R151; log entry 82). -/
def State.hazeUnnamed (s : State) (x : Ctx) (w : StepRun) : State :=
  match x.prog with
  | none => s
  | some p => p.attnOn.foldl (fun (s : State) a =>
    match p.attn[a.2]?, tget x.kv a.1 with
    | some e, some k =>
      if e.attn then (List.range k.heads).foldl (fun (s : State) h =>
        (w.rows.filter fun r => r.inStep && !w.named.contains (a.1, e.pageLayer, h, r.slot)).foldl
          (fun (s : State) r => s.hazeRow a.1 k e.pageLayer h r) s) s
      else s
    | _, _ => s) s

/-- The last call of a context's step has ended on every mast: its boundary runs, or a furling context has reached its
last cleat (R185, R291). -/
def State.stepEnds (s : State) (c : Nat) : State :=
  match s.ctx? c with
  | none => s
  | some x =>
    match x.step with
    | none => s
    | some w =>
      if s.pwr.coolstop || x.atEnd || !s.atBoundary x c then s
      else if x.state == .furling then s.modCtx c fun x => { x with stopAt := [], stopped := x.masts }
      else if w.unsampled || !runsState x.state then s
      else ((s.hazeUnnamed x w).logUnsampled c w).boundary c

/-- STEP_BOUNDARY (R185). -/
def execStepBoundary (ctx : Nat) (s : State) : Host.Outcome State Fault Refusal := settle s (s.whenAlive (s.stepEnds ctx))

/-- DEADLINE_DUE: a context with no step in progress runs its boundary again (R188, R489). -/
def execDeadlineDue (ctx : Nat) (s : State) : Host.Outcome State Fault Refusal := settle s (s.whenAlive (s.idle ctx))

/-! ## Sampling (R186, R189) -/

/-- The parameters of a request's draw for a position. -/
def drawOf (r : Request) (position : Nat) : Draw :=
  { temperature := r.temperature, topP := r.topP, topK := r.topK, seed := r.seed, counter := r.counter, position }

/-- One row is sampled on the vector units of mast `m`: the row with its token, or with its fault. -/
def State.sampleOne (s : State) (c m : Nat) (w : StepRow) (l : List Word) : State × StepRow :=
  match s.req? w.slot with
  | none => (s, w)
  | some r =>
    let bad := l.any logitBad
    let t := sampleRow (drawOf r (w.start + w.count)) l
    let s := if bad then s.countM m (occ 0x044 1 1 c 0x12) else s
    let s := if bad || t.isNone then { s with srvErr := s.srvErr ||| 2 } else s
    (s, match t with | some v => { w with sampled := some v } | none => { w with fault := 3 })

/-- The row of logits for a slot, with the mast that samples it. -/
def logitsFor (ls : List (Nat × Nat × List Word)) (slot : Nat) : Option (Nat × List Word) :=
  (ls.find? fun e => e.1 == slot).map (·.2)

/-- Whether the logits name every row that samples, each once, with the vocabulary's length, on a mast of the context. -/
def logitsFit (x : Ctx) (g : ServeConfig) (w : StepRun) (ls : List (Nat × Nat × List Word)) : Bool :=
  (w.rows.filter fun r => r.samples && r.fault == 0).all fun r =>
    match logitsFor ls r.slot with
    | some e => x.masts.contains e.1 && e.2.length == g.vocab
    | none => false

/-- Every row that samples is sampled (R189), and the step's records go into the mirror log (R202). -/
def State.sampleAll (s : State) (c : Nat) (w : StepRun) (ls : List (Nat × Nat × List Word)) : State :=
  let q := w.rows.foldl (fun (acc : State × List StepRow) r =>
    match logitsFor ls r.slot with
    | some e => if r.samples && r.fault == 0 then
                  let y := acc.1.sampleOne c e.1 r e.2
                  (y.1, acc.2 ++ [y.2])
                else (acc.1, acc.2 ++ [r])
    | none => (acc.1, acc.2 ++ [r])) (s, [])
  let w := { w with rows := q.2, sampled := true }
  (q.1.modCtx c fun x => { x with step := some w }).commitLog c w

/-- SAMPLING: the logits of a step are complete (R189): the calls that form them, of which each of the step may be one, have
ended (R25). -/
def State.sampling (s : State) (c : Nat) (ls : List (Nat × Nat × List Word)) : State :=
  match s.ctx? c with
  | none => s
  | some x =>
    match x.step, x.config with
    | some w, some g =>
      if runsState x.state && !s.pwr.coolstop && !w.sampled && x.masts.all s.mastUp && !x.masts.any (s.calling c) && logitsFit x g w ls
    then s.sampleAll c w ls
      else s
    | _, _ => s

/-- SAMPLING (R189). -/
def execSampling (ctx : Nat) (logits : List (Nat × Nat × List Word)) (s : State) : Host.Outcome State Fault Refusal :=
  settle s (s.whenAlive (s.sampling ctx logits))

/-! ## The mirror (R201, R203) -/

/-- A step whose partner was named anew since (R204). -/
def Ctx.orphaned (x : Ctx) (n : Nat) : Bool :=
  (x.held.any fun b => b.step == n && b.orphan) || x.step.any fun w => w.num == n && w.orphan

/-- An acknowledgement of a step: the ring position moves on, sessions that the holder could not take are LOST, and
bundles are released (R199, R201). One that comes after MIRROR_LOST is ignored and counted (R203); one of a former partner
frees the depth of R201 alone, because its ring is no longer written (DESIGN CHOICE, log entry 33). -/
def State.mirrorAck (s : State) (c step ringPos : Nat) (lost : List Nat) : State :=
  match s.ctx? c with
  | none => s
  | some x =>
    if !x.mirror.en then s
    else if x.mirror.lost || x.mirror.late.contains step then
      ({ s with srvErr := s.srvErr ||| 0x20 }).countH (occ 0x013 1 0 c 0x00)
    else if !x.mirror.unacked.contains step then s
    else
      let s := s.modCtx c fun x => { x with mirror := { x.mirror with
        unacked := x.mirror.unacked.filter (· != step), acked := step } }
      if x.orphaned step then s.idle c
      else
        let s := s.modCtx c fun x => { x with mirror := { x.mirror with
          applied := max x.mirror.applied ringPos, resync := x.mirror.resync.filter fun i => !lost.contains i } }
        let s := if lost.isEmpty then s else s.setMirror c mLost lost.contains
        (((s.endCopies c lost.contains).drainLog c).syncCheck c).idle c

/-- MIRROR_ACK_RECEIVE (R201, R203). -/
def execMirrorAckReceive (ctx step ringPos : Nat) (lost : List Nat) (s : State) : Host.Outcome State Fault Refusal :=
  settle s (s.whenAlive (s.whenAssigned (s.mirrorAck ctx step ringPos lost)))

/-- No acknowledgement came in time: MIRROR_LOST, and every mirrored request and session is LOST (R203). -/
def State.mirrorLost (s : State) (c : Nat) : State :=
  match s.ctx? c with
  | none => s
  | some x =>
    if !x.mirror.en || x.mirror.lost || x.ownUnacked.isEmpty then s
    else
      let s := s.modCtx c fun x => { x with mirror := { x.mirror with
        lost := true, backlog := [], late := dedup (x.mirror.late ++ x.mirror.unacked) } }
      let s := ({ s with srvErr := s.srvErr ||| 0x10 }).raise (mkRec 0x0401 clsCE hubMast noUnit c)
      ((s.setMirror c mLost fun _ => true).releaseBundles c (x.held.length + 1)).idle c

/-- MIRROR_TIMEOUT (R203). -/
def execMirrorTimeout (ctx : Nat) (s : State) : Host.Outcome State Fault Refusal := settle s (s.whenAlive (s.mirrorLost ctx))

/-! ## Bundles (R191, R194, R269) -/

/-- Another context's bundle is part-way out on a channel. -/
def State.otherBundle (s : State) (c ch : Nat) : Bool :=
  s.ctxs.any fun e => e.1 != c && (match e.2.txq with
    | b :: _ => decide (0 < b.sent) && b.ch == ch
    | [] => false)

/-- The parts of a context's oldest released bundle leave, one after another, as far as credits allow; `fuel` at most. All of
them leave on the channel of the first (R258, R269); a bundle that is out makes room for the next (R194). -/
def State.sendParts (s : State) (c : Nat) : Nat → State
  | 0 => s
  | fuel + 1 =>
    match s.ctx? c with
    | none => s
    | some x =>
      match x.txq, x.config with
      | b :: bs, some g =>
        let ch := if b.sent = 0 then g.noticeCh else b.ch
        let p := b.part c ch b.sent
        if s.st.negotiated && !s.otherBundle c ch && !s.answerBusy ch && s.canSend ch p.payload.length then
          let s := s.transmit p
          if p.more then (s.modCtx c fun x => { x with txq := { b with sent := b.sent + 1, ch } :: bs }).sendParts c fuel
          else
            let s := (s.modCtx c fun x => { x with txq := bs }).releaseBundles c (x.held.length + 1)
            (s.pump ch (s.chan ch).answers.length).idle c
        else s
      | _, _ => s

/-- BUNDLE_TRANSMIT: the oldest released bundle of a context goes out on NOTICE_CH (R191, R194). -/
def execBundleTransmit (ctx : Nat) (s : State) : Host.Outcome State Fault Refusal :=
  settle s (s.whenAlive (s.sendParts ctx 131))

end Sys2Proof.Machine
end

