-- ==== Sys2Proof/Machine/UpsetOps.lean ====
section
/-! DEFINITION. Storage upsets: how they lie latent until a read meets them, what a line-cache error does, and the sweep
of patrol scrub (R218 to R221, R226, R230). -/
namespace Sys2Proof.Machine

/-- Two flaws of one code word: the worse one stands. -/
def Flaw.worse (a : Option Flaw) (b : Flaw) : Flaw := if a = some .uc then .uc else b

/-- A half-line of DRAM itself is struck; a poisoned one stays poisoned (R219). -/
def Mast.strikeDram (z : Mast) (h : Nat) (f : Flaw) : Mast :=
  let x := z.beneath (h / 2)
  if x.poison.contains h || decide (dramSize ≤ h * 64) then z
  else z.setBeneath (h / 2) { x with flaws := tset x.flaws h (Flaw.worse (tget x.flaws h) f) }

/-- A scratchpad word is struck. -/
def Spad.strike (p : Spad) (w : Nat) (f : Flaw) : Spad :=
  if spadSize ≤ w * 8 then p else { p with flaws := tset p.flaws w (Flaw.worse (tget p.flaws w) f) }

/-- A line leaves the cache; a dirty one is written back. -/
def Mast.dropLine (z : Mast) (l : CLine) : Mast :=
  { z with lc := { z.lc with lines := z.lc.lines.filter fun x => x.line != l.line }, dram := z.dram.evict l,
           pmc := if l.dirty then z.pmc.count ((maintReader.cls' 1).occ 0x061 1 (l.line * 128)) else z.pmc }

/-- A line-cache error is corrected and counted (R230). -/
def State.lcCorrected (s : State) (m line : Nat) : State := s.countM m ((maintReader.cls' 1).occ 0x055 1 (line * 128))

/-- An uncorrectable error in a half-line that the cache holds: a clean line is invalidated, a dirty one is written back
with that half-line as poison (R230). -/
def State.lcData (s : State) (m h : Nat) (l : CLine) : State :=
  let s := s.modMast m fun z =>
    let z := z.dropLine l
    let z := { z with mc := { z.mc with err := z.mc.err ||| 4 } }
    if l.dirty then { z with dram := { z.dram with poison := insAsc h z.dram.poison, flaws := tdel z.dram.flaws h } } else z
  s.raise { mkRec 0x1306 clsCE m noUnit 0 with addr := h * 64 }

/-- The line-cache line that holds a line of DRAM. -/
def State.lcLine (s : State) (m line : Nat) : Option CLine := (s.mast m).lc.lines.find? fun l => l.line == line

/-- One upset strikes. A line-cache upset is met at once, because the access that meets it and the error are one event;
the others lie latent until they are read. An uncorrectable error in a control structure of the hub is fatal (R413; log entry 72). -/
def State.strike (s : State) (u : Upset) : State :=
  if u.kind = .hub then s.fatalNow 0x0103
  else if !s.mastUp u.mast then s
  else match u.kind with
  | .hub => s
  | .dramCe => s.modMast u.mast fun z => z.strikeDram u.at_ .ce
  | .dramUc => s.modMast u.mast fun z => z.strikeDram u.at_ .uc
  | .spadCe => s.modMast u.mast fun z => { z with spad := z.spad.strike u.at_ .ce }
  | .spadUc => s.modMast u.mast fun z => { z with spad := z.spad.strike u.at_ .uc }
  | .lcDataCe => if (s.lcLine u.mast (u.at_ / 2)).isSome then s.lcCorrected u.mast (u.at_ / 2) else s
  | .lcDataUc => match s.lcLine u.mast (u.at_ / 2) with | some l => s.lcData u.mast u.at_ l | none => s
  | .lcTag => if (s.lcLine u.mast u.at_).isSome then s.lcCorrected u.mast u.at_ else s
  | .lcTags => if (s.lcLine u.mast u.at_).isSome then s.fence u.mast 0x1306 else s

def State.strikeAll (s : State) (us : List Upset) : State := us.foldl (fun (s : State) u => s.strike u) s

/-! ## Patrol scrub (R221) -/

/-- The DRAM regions of a mast whose channel-local offsets lie in chunk `k`: 16 chunks of 1 MiB make a band (R213 to R215,
R221). -/
def Mast.chunkRegions (z : Mast) (k : Nat) : List (Nat × Nat) :=
  let j := z.mc.band (k / 16)
  if j = 3 then [(k * 2 ^ 28, 2 ^ 28)]
  else (List.range (2 ^ (3 - j))).map fun i => (k / 16 * 2 ^ 32 + i * 2 ^ (29 + j) + k % 16 * 2 ^ (25 + j), 2 ^ (25 + j))

/-- Scrub reads one half-line of the DRAM itself: what it finds is corrected, poisoned and recorded with context 0; the data of a
line of the cache over it stand (R218, R219, R228). -/
def State.scrubHalf (s : State) (m h : Nat) : State :=
  let t := ((s.mast m).beneath (h / 2)).read h
  let s := s.modMast m fun z =>
    Mast.noteMet ({ z with dram := z.dram.countRows t.2.ce }.setBeneath (h / 2) ((z.beneath (h / 2)).read h).1) maintReader t.2
  let s := (repairRows (s.mast m).dram t.2).foldl (fun (s : State) p => s.repairRow m p.1 p.2) s
  match t.2.bad with
  | some b => s.raise { mkRec b.2 clsCE m noUnit 0 with addr := b.1 * 64 }
  | none => s

/-- Half-lines of a line of DRAM that hold an error. -/
def DLine.flawed (x : DLine) : List Nat := x.poison ++ tkeys x.flaws

/-- Half-lines of a mast's DRAM itself that hold an error, ascending. -/
def Mast.flawed (z : Mast) : List Nat :=
  let own := (tkeys z.dram.flaws ++ z.dram.poison).filter fun h =>
    !(z.lc.lines.any fun l => l.line == h / 2 && l.under.isSome)
  (own ++ (z.lc.lines.filterMap (·.under)).flatMap DLine.flawed).foldl (fun l h => insAsc h l) []

/-- One mast's part of a chunk. -/
def State.scrubMast (s : State) (k m : Nat) : State :=
  let z := s.mast m
  let rs := z.chunkRegions k
  let hs := z.flawed.filter fun h => rs.any fun r => decide (r.1 ≤ h * 64 ∧ h * 64 < r.1 + r.2)
  let s := rs.foldl (fun (s : State) r => s.countM m (maintReader.occ 0x060 (r.2 / 128) r.1)) s
  hs.foldl (fun (s : State) h => s.scrubHalf m h) s

/-- The position of the walk moves on, on every mast alike (R221, R236). -/
def McBlk.nextChunk (c : McBlk) : McBlk :=
  { c with chunk := (c.chunk + 1) % 192, passes := if c.chunk = 191 then c.passes + 1 else c.passes }

/-- The chunk that every enabled mast sweeps next. -/
def State.scrubChunk (s : State) : Nat := ((s.masts.find? fun e => s.mastUp e.1).map fun e => e.2.mc.chunk).getD 0

/-- A chunk is swept on the masts of a list, and the walk moves on. -/
def State.sweep (s : State) (ms : List Nat) : State :=
  let k := s.scrubChunk
  let s := ms.foldl (fun (s : State) m => s.scrubMast k m) s
  s.mapMasts fun _ z => { z with mc := z.mc.nextChunk }

end Sys2Proof.Machine
end

