-- ==== Sys2Proof/Machine/RouteOps.lean ====
section
/-! DEFINITION. Descriptors, token tags and assignment entries of expert routing, as the routing unit and the all-to-all
operations read them (R116 to R118, R128, R130, R132, R133). -/
namespace Sys2Proof.Machine

/-- A routing call descriptor (R116). -/
structure RouteDesc where
  tokens  : Nat
  logits  : Nat
  params  : Nat
  map     : Nat
  assign  : Nat
  count   : Nat
  experts : Nat
  layer   : Nat
  topK    : Nat
  depth   : Nat
  mode    : Nat
  scale   : Word
  rsv     : Bool      -- some reserved field is non-zero

def parseRoute (b : Bytes) : RouteDesc :=
  { tokens := u64 b 0, logits := u64 b 8, params := u64 b 16, map := u64 b 24, assign := u64 b 32, count := u16 b 40,
    experts := u16 b 42, layer := u16 b 44 % 4096, topK := u8 b 46 % 32, depth := u8 b 47 % 8, mode := u8 b 48 % 16,
    scale := BitVec.ofNat 32 (u32 b 52),
    rsv := u16 b 44 / 4096 != 0 || u8 b 46 / 32 != 0 || u8 b 47 / 8 != 0 || u8 b 48 / 16 != 0 || !allZero (sub b 49 3)
           || !allZero (sub b 56 8) }

/-- E_p of R116. -/
def RouteDesc.rowLen (d : RouteDesc) : Nat := 32 * ceilDiv d.experts 32

/-- Where the count array stands (R128). -/
def RouteDesc.countOff (d : RouteDesc) : Nat := roundUp (d.count * d.topK * 8) 128

/-- Bytes of an assignment record with its count array (R128). -/
def RouteDesc.assignLen (d : RouteDesc) : Nat := d.countOff + 2 * d.experts

/-- The key of a token list entry or of a tag: SLOT × 2^22 + POSITION (R117). -/
def keyOf (e : Nat) : Nat := bits e 0 15 * 2 ^ 22 + bits e 15 22

/-- Token tag (R130) of a slot. -/
def mkTag (fallback : Bool) (pkg expert rank entry : Nat) : Nat :=
  packFields [(59, 1, b2n fallback), (51, 8, pkg), (41, 10, expert), (37, 4, rank), (0, 37, entry)]

def tagPad (t : Nat) : Bool := bit t 60
def tagPkg (t : Nat) : Nat := bits t 51 8
def tagExpert (t : Nat) : Nat := bits t 41 10
def tagRank (t : Nat) : Nat := bits t 37 4

/-- The entries of a token list. -/
def tokenList (b : Bytes) (n : Nat) : List Nat := (List.range n).map fun i => u64 b (8 * i)

/-- An assignment slot (R128). -/
structure Slot where
  gate    : Word
  expert  : Nat
  status  : Nat
  arrived : Bool

def parseSlot (b : Bytes) (i : Nat) : Slot :=
  { gate := BitVec.ofNat 32 (u32 b (8 * i)), expert := u16 b (8 * i + 4) % 1024, status := u8 b (8 * i + 6),
    arrived := bit (u8 b (8 * i + 7)) 0 }

def Slot.image (s : Slot) : Bytes :=
  natLe 4 s.gate.toNat ++ natLe 2 s.expert ++ natLe 1 s.status ++ natLe 1 (b2n s.arrived)

/-- An expert location map entry: package and mast (R118). -/
def mapPkg (w : Nat) : Nat := bits w 16 8
def mapMast (w : Nat) : Nat := bits w 0 3

/-- An intake call descriptor (R132). -/
structure IntakeDesc where
  recv  : Nat
  table : Nat
  emap  : Nat
  layer : Nat
  fmt   : Nat
  k     : Nat
  rsv   : Bool

def parseIntake (b : Bytes) : IntakeDesc :=
  { recv := u64 b 0, table := u64 b 8, emap := u64 b 16, layer := u16 b 24 % 4096, fmt := u8 b 26, k := u32 b 28,
    rsv := u16 b 24 / 4096 != 0 || u8 b 27 != 0 }

/-- K_p of R34. -/
def pad128 (n : Nat) : Nat := 128 * ceilDiv n 128

/-- Bytes of `rows` activation rows of K elements in a row format: 0 BF16, 1 MXINT8 (R47, R56). -/
def actBytes (fmt k rows : Nat) : Nat :=
  if fmt = 0 then rows * pad128 k * 2 else roundUp (rows * pad128 k) 128 + rows * pad128 k / 32

/-- The offset of the tag array from ACT_PTR: the first 128-byte boundary after the entry's region (R133). -/
def tagArrayOff (fmt k rowsMax : Nat) : Nat := roundUp (actBytes fmt k rowsMax) 128

/-- A grouped call table entry (R77). -/
structure GrpEntry where
  expert : Nat
  tokens : Nat
  wfmt   : Nat
  act    : Nat
  w      : Nat
  out    : Nat
  rsv    : Bool

def parseEntry77 (b : Bytes) : GrpEntry :=
  { expert := u16 b 0 % 1024, tokens := u16 b 2, wfmt := u8 b 4, act := u64 b 8, w := u64 b 16, out := u64 b 24,
    rsv := u16 b 0 / 1024 != 0 || !allZero (sub b 5 3) }

/-- Entry map word of an expert (R132): table index and ROWS_MAX. -/
def emapIdx (w : Nat) : Nat := w % 65536
def emapMax (w : Nat) : Nat := w / 65536 % 65536

end Sys2Proof.Machine
end

