-- ==== Sys2Proof/Machine/WeightFmt.lean ====
section
/-! DEFINITION. Weight tensors: their geometry (R34, R35), the packed burst formats (R36 to R44), the checks of the edge
decoder (R45) and residual lists (R94, R95). A format is its WFMT code of R77: 1 W1T, 2 W2C, 4 W4F, 8 plain MXINT8. -/
namespace Sys2Proof.Machine

def wW1T : Nat := 1
def wW2C : Nat := 2
def wW4F : Nat := 4
def wINT8 : Nat := 8

def knownWfmt (f : Nat) : Bool := [wW1T, wW2C, wW4F, wINT8].contains f

/-! ## Geometry (R34, R35, R47) -/

/-- MX blocks of a tensor (R34). -/
def wBlocks (k n : Nat) : Nat := pad128 k * pad128 n / 32

/-- Blocks per burst (R35). -/
def perBurst (f : Nat) : Nat := if f = wW1T then 16 else if f = wW2C then 14 else 7

/-- Bursts of a packed tensor (R35). -/
def wBursts (f k n : Nat) : Nat := ceilDiv (wBlocks k n) (perBurst f)

/-- Bytes of a tensor, with a W2C tensor's codebook line (R40) and without a residual list. -/
def wBytes (f k n : Nat) : Nat :=
  if f = wINT8 then roundUp (wBlocks k n * 32) 128 + wBlocks k n
  else (if f = wW2C then 128 else 0) + 128 * wBursts f k n

/-- Where burst `q` stands from W_PTR (R35, R40). -/
def burstOff (f q : Nat) : Nat := (if f = wW2C then 128 else 0) + 128 * q

/-- The tile a block lies in (R34). -/
def tileOf (b : Nat) : Nat := b / 512

/-- The position of element `i` of block `b` in a tensor with `kt` reduction tiles (R34): reduction row and column. -/
def wPlace (kt b i : Nat) : Nat × Nat :=
  let t := tileOf b
  (t % kt * 128 + b % 4 * 32 + i, t / kt * 128 + b % 512 / 4)

/-- The block that holds row `k` of column `n`, and the element within it. -/
def wBlockOf (kt k n : Nat) : Nat × Nat :=
  ((n / 128 * kt + k / 128) * 512 + n % 128 * 4 + k % 128 / 32, k % 32)

/-! ## Bursts (R36 to R44) -/

def byteAt (b : Bytes) (i : Nat) : Nat := (b.getD i 0).toNat

/-- The tag of a format's burst (R36). -/
def burstTag (f : Nat) : Nat := 0xA0 + (if f = wW4F then 4 else f)

/-- The scale code of block slot `s` of a burst (R37, R39, R42). -/
def burstScale (f : Nat) (b : Bytes) (s : Nat) : Nat := byteAt b ((if f = wW1T then 103 else 112) + s)

/-- A level of a codebook line: entry `e`, code `c` (R40). -/
def cbLevel (cb : Bytes) (e c : Nat) : Int := signed4 (bits (u16 cb (2 * e)) (4 * c) 4)

/-- Weight `j` of a burst in the units of R58 (R38, R41, R42). -/
def burstWeight (f : Nat) (cb b : Bytes) (j : Nat) : Int :=
  if f = wW1T then (byteAt b (j / 5) / 3 ^ (j % 5) % 3 : Nat) - 1
  else if f = wW2C then cbLevel cb (byteAt b 126 % 16) (bits (byteAt b (j / 4)) (2 * (j % 4)) 2)
  else e2m1Half (bits (byteAt b (j / 2)) (4 * (j % 2)) 4)

def resFirst (b : Bytes) : Nat := u32 b 119
def resCount (b : Bytes) : Nat := u16 b 123
def burstCheck (b : Bytes) : Nat := u16 b 125

/-- Whether a format's bursts have a tail (R43). -/
def hasTail (f : Nat) : Bool := f == wW1T || f == wW4F

/-- The most residual entries of a burst (R43). -/
def resLimit (f : Nat) : Nat := if f = wW1T then 512 else 224

/-! ## The checks of R45 -/

def fmtTag : Nat := 0x1001
def fmtCheck : Nat := 0x1002
def fmtElement : Nat := 0x1003
def fmtScale : Nat := 0x1004
def fmtTail : Nat := 0x1005

/-- The element check of a burst (R45 order 3). -/
def elementsBad (f : Nat) (b : Bytes) : Bool :=
  if f = wW1T then (b.take 102).any (fun x => decide (242 < x.toNat)) || decide (8 < byteAt b 102)
  else f == wW2C && byteAt b 126 / 16 != 0

/-- Checks 1 to 5 of R45 for a burst: the cause of the first that fails. -/
def burstFault (f : Nat) (b : Bytes) : Option Nat :=
  if byteAt b 127 != burstTag f then some fmtTag
  else if hasTail f && crc16 (b.take 125 ++ b.drop 127) != burstCheck b then some fmtCheck
  else if elementsBad f b then some fmtElement
  else if (List.range (perBurst f)).any fun s => burstScale f b s == 0xFF then some fmtScale
  else if hasTail f && (decide (resLimit f < resCount b) || (resCount b == 0 && resFirst b != 0)) then some fmtTail
  else none

/-- The checks of R45 for a codebook line. -/
def codebookFault (cb : Bytes) : Option Nat :=
  if byteAt cb 127 != 0xA3 then some fmtTag
  else if !allZero (sub cb 32 95) then some fmtElement
  else if (List.range 64).any fun i => decide (3 < (cbLevel cb (i / 4) (i % 4)).natAbs) then some fmtElement
  else none

/-! ## Residual entries (R94) -/

def resJ (e : Nat) : Nat := e % 512
def resCorr (e : Nat) : Nat := bits e 16 16
def resRsv (e : Nat) : Nat := bits e 9 7

/-- The block that a residual entry of burst `q` corrects. -/
def resBlock (f q e : Nat) : Nat := q * perBurst f + resJ e / 32

/-- J addresses a padding block slot, or none of the burst's (R35, R45, R95). -/
def resPadding (f blocks q e : Nat) : Bool := decide (perBurst f ≤ resJ e / 32) || decide (blocks ≤ resBlock f q e)

/-- CORR is an infinity or a NaN. -/
def resNonfinite (e : Nat) : Bool := !(ofBf (resCorr e)).isFinite

/-- The J of a list of entries strictly ascend. -/
def ascending : List Nat → Bool
  | [] => true
  | [_] => true
  | a :: b :: l => decide (a < b) && ascending (b :: l)

/-- An entry that fails the order or value checks of R45 and R95. -/
def resBad (f blocks q e : Nat) : Bool := resRsv e != 0 || resNonfinite e || resPadding f blocks q e

/-! ## Residual lists at load (R95) -/

/-- The state of a walk over a tensor's bursts: the next entry that must follow, the tiles of the last entries with their
counts, and the first fault with its offset from W_PTR. -/
structure ResWalk where
  next  : Nat
  tiles : Tab Nat
  fault : Option Nat

/-- Offset of residual entry `i` from W_PTR (R94). -/
def resEntryOff (f k n i : Nat) : Nat := wBytes f k n + 128 + 4 * i

/-- One burst's ranges and entries (R95). -/
def ResWalk.burst (f k n : Nat) (rd : Nat → Nat → Bytes) (w : ResWalk) (q : Nat) : ResWalk :=
  match w.fault with
  | some _ => w
  | none =>
    let b := rd (burstOff f q) 128
    let c := resCount b
    if c = 0 then w
    else if resFirst b != w.next then { w with fault := some (burstOff f q) }
    else
      let es := (List.range c).map fun i => u32 (rd (resEntryOff f k n (w.next + i)) 4) 0
      let blocks := wBlocks k n
      let tiles := es.foldl (fun t e => let x := tileOf (resBlock f q e); tset t x (tgetD t x 0 + 1)) w.tiles
      let bad := (enum es).find? fun e => resBad f blocks q e.2
          || (decide (0 < e.1) && decide (resJ e.2 ≤ resJ (es.getD (e.1 - 1) 0)))
      let full := tiles.any fun t => decide (256 < t.2)
      { next := w.next + c, tiles,
        fault := match bad with
          | some e => some (resEntryOff f k n (w.next + e.1))
          | none => if full then some (resEntryOff f k n w.next) else none }

/-- The residual list of a tensor fails R95: the offset of the fault from W_PTR. `rd`: the tensor's bytes. -/
def residualFault (f k n : Nat) (rd : Nat → Nat → Bytes) : Option Nat :=
  let head := wBytes f k n
  let hdr := rd head 128
  let count := u32 hdr 0
  if 1048576 < count then some head
  else if !allZero (hdr.drop 4) then some head
  else
    let w := (List.range (wBursts f k n)).foldl (ResWalk.burst f k n rd) { next := 0, tiles := [], fault := none }
    match w.fault with
    | some o => some o
    | none => if w.next != count then some head else none

end Sys2Proof.Machine
end

