-- ==== Sys2Proof/Machine/Attention.lean ====
section
/-! DEFINITION. Attention calls and the building of sealed images (R145 to R154, R169, R202). -/
namespace Sys2Proof.Machine

/-! ## Pages, piece by piece (R50, R157) -/

/-- Bytes of a page are read. -/
def State.readRuns (s : State) (m : Nat) (r : Reader) : List (Nat × Nat) → State × Except (Nat × Nat) Bytes
  | [] => (s, .ok [])
  | (a, n) :: rest => match s.fetch m r a n with
    | (s, .error x) => (s, .error x)
    | (s, .ok b) => match s.readRuns m r rest with
      | (s, .error x) => (s, .error x)
      | (s, .ok bs) => (s, .ok (b ++ bs))

/-- Bytes of a page are written. -/
def State.writeRuns (s : State) (m : Nat) (r : Reader) : List (Nat × Nat) → Bytes → State × IoErr
  | [], _ => (s, none)
  | (a, n) :: rest, b => match s.writeAt m r a (b.take n) with
    | (s, some x) => (s, some x)
    | (s, none) => s.writeRuns m r rest (b.drop n)

/-! ## New entries (R152): shared with the holder of a mirror -/

/-- A key with its value in the open format: their elements, then their scales. -/
structure KvEntry where
  elems  : Bytes
  scales : Bytes
  deriving DecidableEq, Repr

/-- A key and its value converted by R48 and R49, and the blocks with a substitution. -/
def encodeEntry (fmt : Nat) (xs : List Num) : KvEntry × Nat :=
  let bs := (List.range (xs.length / 32)).map fun b => mxEncode (fmtOf fmt) ((xs.drop (32 * b)).take 32)
  ({ elems := bs.flatMap fun b => packBlock fmt b.codes, scales := bs.map fun b => BitVec.ofNat 8 b.scale },
   (bs.filter (·.subst)).length)

/-- A new entry goes into token slot `t` of a page, for layer `l` and head `h` (R50, R152). -/
def State.kvWrite (s : State) (m : Nat) (r : Reader) (k : KvRec) (u : Nat) (upper : Option Nat) (l t h : Nat) (e : KvEntry) :
    State × IoErr :=
  let i := k.geom.index l t h 0 0
  match s.writeRuns m r (pageRuns k u upper i e.elems.length) e.elems with
  | (s, some x) => (s, some x)
  | (s, none) => s.writeRuns m r (pageRuns k u upper (k.geom.elems + i / 32) e.scales.length) e.scales

/-! ## Reading keys and values (R153) -/

/-- An element code with its scale code, as an attention engine decodes it into FP32 (R30, R153). -/
def kvElem (fmt c sc : Nat) : Word :=
  toFp (if fmt = 0 then int8Val true c sc
    else if fmt = 1 then (match e4m3Val c sc with | .nan => .fin false 0 0 | x => x)
    else e2m1Val c sc)

/-- Element code `i` of a run of elements. -/
def kvCode (fmt : Nat) (els : Bytes) (i : Nat) : Nat :=
  if fmt = 2 then byteAt els (i / 2) / (if i % 2 = 0 then 1 else 16) % 16 else byteAt els i

/-- What a key with its value holds: FP32 elements, 0x80 codes met and blocks with a NaN element (R30, R153); none when a
scale code is 0xFF. -/
def decodeEntry (fmt n : Nat) (els scs : Bytes) : Option (List Word × Nat × Nat) :=
  if scs.any (· == 0xFF#8) then none
  else
    let codes := (List.range n).map (kvCode fmt els)
    let nanIn := fun b => ((codes.drop (32 * b)).take 32).any fun c => c % 128 == 0x7F
    some ((enum codes).map fun e => kvElem fmt e.2 (byteAt scs (e.1 / 32)),
      if fmt = 0 then (codes.filter (· == 0x80)).length else 0,
      if fmt = 1 then ((List.range (n / 32)).filter nanIn).length else 0)

/-- The engine reads the key and value of token slot `t` through a descriptor. The error is a cause with its address; a
scale of 0xFF is KV_SCALE, with the frame. -/
def State.kvRead (s : State) (m : Nat) (r : Reader) (k : KvRec) (d : Desc) (l t h : Nat) :
    State × Except (Nat × Nat) (List Word × Nat × Nat) :=
  let i := k.geom.index l t h 0 0
  let n := 2 * k.dh
  let half := if d.fmt = 2 then 2 else 1
  match s.readRuns m r (pageRuns k d.frame d.upper (i / half) (n / half)) with
  | (s, .error x) => (s, .error x)
  | (s, .ok els) => match s.readRuns m r (pageRuns k d.frame d.upper (k.geom.elems / half + i / 32) (n / 32)) with
    | (s, .error x) => (s, .error x)
    | (s, .ok scs) => match decodeEntry d.fmt n els scs with
      | none => (s, .error (0x1203, d.frame))
      | some v => (s, .ok v)

/-! ## Blockwise attention (R153): pure -/

/-- The sum of exact products in ascending order. -/
def fpDot : List Word → List Word → Word
  | x :: xs, y :: ys => (xs.zip ys).foldl (fun a p => fpAdd a (fpMul p.1 p.2)) (fpMul x y)
  | _, _ => fpZero

/-- The running maximum, sum and output of a query head. -/
structure AttnAcc where
  m : Word
  l : Word
  o : List Word
  deriving DecidableEq, Repr

/-- One block of admitted token slots: keys with values, ascending (R153). -/
def AttnAcc.block (scale : Word) (q : List Word) (a : AttnAcc) (kv : List (List Word × List Word)) : AttnAcc :=
  let ss := kv.map fun p => fpMul scale (fpDot q p.1)
  let m2 := ss.foldl fpMax a.m
  let c := if a.m = fpNegInf then fpZero else fpExp (fpSub a.m m2)
  let ws := ss.map fun x => fpExp (fpSub x m2)
  let t := ws.foldl fpAdd fpZero
  { m := m2, l := fpAdd (fpMul a.l c) t,
    o := (enum a.o).map fun e => fpAdd (fpMul e.2 c)
      ((ws.zip kv).foldl (fun x p => fpAdd x (fpMul p.1 (p.2.2.getD e.1 fpZero))) fpZero) }

/-- The output and the log-sum-exp of a query head over its blocks (R147, R153). -/
def attnHead (scale : Word) (dh : Nat) (q : List Word) (blocks : List (List (List Word × List Word))) : List Word × Word :=
  if blocks.isEmpty then (List.replicate dh fpZero, fpNegInf)
  else
    let a := blocks.foldl (AttnAcc.block scale q) { m := fpNegInf, l := fpZero, o := List.replicate dh fpZero }
    (a.o.map fun x => fpDiv x a.l, fpAdd a.m (fpLog a.l))

/-- A query element as it enters (R70, R153). -/
def queryElem (b : Nat) : Word × Bool :=
  match ofBf b with
  | .nan => (fpZero, true)
  | .inf neg => (if neg then 0xFF7F0000#32 else 0x7F7F0000#32, true)
  | _ => (BitVec.ofNat 32 (b % 65536 * 65536), false)

/-! ## The call (R150, R151) -/

/-- An attention call descriptor (R150). Its reserved bits are ignored: the rule lists no check of them (R8). -/
structure AttnDesc where
  q     : Nat
  new   : Nat
  qlist : Nat
  out   : Nat
  lse   : Nat
  count : Nat
  layer : Nat
  head  : Nat
  bf    : Bool
  deriving DecidableEq, Repr

def parseAttnCall (b : Bytes) : AttnDesc :=
  { q := ptrAt b 0, new := ptrAt b 8, qlist := ptrAt b 16, out := ptrAt b 24, lse := ptrAt b 32, count := u16 b 40,
    layer := u16 b 42 % 4096, head := u8 b 44 % 16, bf := bit (u8 b 45) 0 }

/-- A query list entry (R151). -/
structure Query where
  pad  : Bool
  slot : Nat
  pos  : Nat
  deriving DecidableEq, Repr

def parseQuery (e : Nat) : Query := { pad := bit e 60, slot := bits e 0 15, pos := bits e 15 22 }

/-- What a call works with once its descriptor holds. -/
structure AttnCall where
  c   : Nat
  m   : Nat
  ae  : Nat
  d   : AttnDesc
  e   : LayerAttn
  k   : KvRec

def AttnCall.reader (a : AttnCall) : Reader := stream a.c (0x10 + a.ae)
/-- Bytes of a query's heads at `w` bytes an element. -/
def AttnCall.rowBytes (a : AttnCall) (w : Nat) : Nat := a.e.hg * a.k.dh * w

def State.aeErr (s : State) (m : Nat) (w : Word) : State :=
  s.modMast m fun z => { z with ae := { z.ae with err := z.ae.err ||| w } }

/-- AE_ERR by cause (R174). -/
def aeFlag (cause : Nat) : Word :=
  if cause = 0x1201 then 2 else if cause = 0x1202 then 1 else if cause = 0x1203 then 8 else if cause = 0x1204 then 4 else 0

/-- An attention call ends in a contained error. -/
def State.attnFail (s : State) (m ae c layer cause addr : Nat) : State :=
  (s.aeErr m (aeFlag cause)).contained { mkRec cause clsUC m ae c with layer, addr }

/-- The call that a descriptor describes, when it passes R150. DESIGN CHOICE (log entry 93): a QCOUNT outside 1 to 32,768 fails as
the listed faults do. -/
def State.attnCall (s : State) (c m ae : Nat) (d : AttnDesc) : Option AttnCall :=
  match (s.ctx? c).bind fun x => (x.prog.bind fun p => p.attn[d.layer]?).bind fun e => (tget x.kv m).map fun k => (e, k) with
  | none => none
  | some (e, k) =>
    let a : AttnCall := { c, m, ae, d, e, k }
    if (s.guardOf c d.layer).isSome && e.attn && decide (d.head < k.heads) && decide (e.pageLayer < k.layers)
        && decide (1 ≤ d.count ∧ d.count ≤ 32768)
        && [(d.q, d.count * a.rowBytes 2), (d.new, d.count * 4 * k.dh), (d.qlist, 8 * d.count),
            (d.out, d.count * a.rowBytes (if d.bf then 2 else 4)), (d.lse, 4 * d.count * e.hg)].all fun r => s.ptrIn c m r.1 r.2
    then some a else none

/-- The row of a request that is in a context's running step. -/
def State.stepRow (s : State) (c slot : Nat) : Option StepRow :=
  (s.ctx? c).bind fun x => x.step.bind fun w => w.rows.find? fun r => r.slot == slot && r.inStep

/-- Entries without PAD come first, with strictly ascending keys (R151). -/
def queriesOrdered (es : List Nat) : Bool :=
  let real := es.takeWhile fun e => !bit e 60
  (es.drop real.length).all (fun e => bit e 60) && ascending (real.map keyOf)

/-- The query list passes R151. -/
def State.queriesOk (s : State) (c : Nat) (es : List Nat) : Bool :=
  let qs := (es.map parseQuery).filter fun q => !q.pad
  es.all (fun e => bits e 37 23 == 0 && bits e 61 3 == 0) && queriesOrdered es
  && (dedup (qs.map (·.slot))).all fun i => match s.stepRow c i with
    | none => false
    | some w => ((qs.filter fun q => q.slot == i).map (·.pos)) == (List.range w.count).map (· + w.start)

/-- The session that a query reads, with its id and its length after the step's writes (R146). -/
def State.querySession (s : State) (c : Nat) (q : Query) : Option (Nat × Session × Nat) :=
  (s.stepRow c q.slot).bind fun w => (s.req? q.slot).bind fun r => (s.session? r.session).map fun y =>
    (r.session, y, w.start + w.count)

/-! ## Writes of the call (R152, R202) -/

/-- Where a query's entry goes: its session, lower and upper unit; none when its page may not be written. -/
def State.entryPlace (s : State) (a : AttnCall) (q : Query) : Option (Nat × Nat × Option Nat) :=
  (s.querySession a.c q).bind fun y => (y.2.1.frame a.m (q.pos / 256)).bind fun u =>
    (s.ctx? a.c).bind fun x => (tget (x.pool a.m).frames u).bind fun f =>
      if f.st = fOpen then some (y.1, u, f.upper) else none

/-- The new entries of a call: session, position, place and entry, in list order. -/
structure NewEntry where
  session : Nat
  pos     : Nat
  unit    : Nat
  upper   : Option Nat
  entry   : KvEntry
  deriving DecidableEq, Repr

/-- The entries are written one after the other. -/
def State.writeEntries (s : State) (a : AttnCall) : List NewEntry → State × IoErr
  | [] => (s, none)
  | n :: ns => match s.kvWrite a.m a.reader a.k n.unit n.upper a.e.pageLayer (n.pos % 256) a.d.head n.entry with
    | (s, some x) => (s, some x)
    | (s, none) => s.writeEntries a ns

/-- The KV record of the mirror log (R200, R202). -/
def State.logEntries (s : State) (a : AttnCall) (ns : List NewEntry) : State :=
  let p := ns.flatMap fun n => natLe 8 (n.session % 2 ^ 14 + n.pos % 2 ^ 22 * 2 ^ 14) ++ n.entry.elems ++ n.entry.scales
  let num := match s.ctx? a.c with | some x => x.stepNo | none => 0
  s.logRecord a.c (logHeader 1 a.m a.e.pageLayer a.d.head num ns.length p.length) p

/-- Blocks with a substituted element are counted and reported (R49, R70). -/
def State.nonfinite (s : State) (a : AttnCall) (blocks : Nat) : State :=
  if blocks = 0 then s
  else (s.countM a.m (occ 0x011 blocks 1 a.c (0x10 + a.ae))).limitRec a.c a.m a.ae a.d.layer 0x100C .nonfiniteAct

/-! ## Reads and outputs of the call -/

/-- Whether a descriptor's page is read at position `j` for the query at `p` (R146, R164). -/
def reads (e : LayerAttn) (y : Session) (len p : Nat) (d : Desc) (j : Nat) : Bool :=
  admits e y.globals len p j && (!d.glob || y.globals.contains j)

/-- The token slots of a descriptor's block that a query reads. -/
def blockSlots (e : LayerAttn) (y : Session) (len p : Nat) (d : Desc) (b : Nat) : List Nat :=
  ((List.range 32).map (· + 32 * b)).filter fun t => decide (t < d.valid) && reads e y len p d (256 * d.page + t)

/-- A query's blocks in order, each as descriptor and token slots (R153). -/
def queryBlocks (e : LayerAttn) (y : Session) (len p : Nat) (ds : List Desc) : List (Desc × List Nat) :=
  (ds.flatMap fun d => (List.range (ceilDiv d.valid 32)).map fun b => (d, blockSlots e y len p d b)).filter fun x => !x.2.isEmpty

/-- A key with its value as read: session, page, token slot. -/
abbrev KvCache := List ((Nat × Nat × Nat) × List Word)

/-- A pair is read unless the call holds it already; codes read as -127 and NaN blocks are counted (R30, R153). -/
def State.cacheKv (a : AttnCall) (q : State × Except (Nat × Nat) KvCache) (x : Desc × Nat) : State × Except (Nat × Nat) KvCache :=
  match q.2 with
  | .error _ => q
  | .ok cache =>
    let key := (x.1.session, x.1.page, x.2)
    if cache.any fun e => e.1 == key then q
    else match q.1.kvRead a.m a.reader a.k x.1 a.e.pageLayer x.2 a.d.head with
      | (s, .error e) => (s, .error e)
      | (s, .ok v) =>
        let s := s.countM a.m (occ 0x010 v.2.1 1 a.c (0x10 + a.ae))
        let s := if v.2.2 = 0 then s else (s.countM a.m (occ 0x011 v.2.2 1 a.c (0x10 + a.ae))).aeErr a.m 0x100
        (s, .ok (cache ++ [(key, v.1)]))

/-- The pair that a cache holds. -/
def cached (cache : KvCache) (dh : Nat) (d : Desc) (t : Nat) : List Word × List Word :=
  match cache.find? fun e => e.1 == (d.session, d.page, t) with
  | some e => (e.2.take dh, e.2.drop dh)
  | none => ([], [])

/-- The result of one query: outputs and log-sum-exps of its heads, and its blocks with a substituted element. -/
def queryResult (a : AttnCall) (cache : KvCache) (raw : Bytes) (blocks : List (Desc × List Nat)) : List (List Word × Word) × Nat :=
  let dh := a.k.dh
  let kv := blocks.map fun b => b.2.map fun t => cached cache dh b.1 t
  let heads := (List.range a.e.hg).map fun g => (List.range dh).map fun i => queryElem (u16 raw (2 * (g * dh + i)))
  let subs := if blocks.isEmpty then 0 else (heads.map fun h =>
    ((List.range (dh / 32)).filter fun b => ((h.drop (32 * b)).take 32).any (·.2)).length).foldl (· + ·) 0
  (heads.map fun h => attnHead a.e.scale dh (h.map (·.1)) kv, subs)

/-- A query with the blocks that it reads. -/
abbrev QueryPlan := Query × List (Desc × List Nat)

/-- The plans of a call: padding reads nothing (R146, R153). -/
def State.queryPlans (s : State) (a : AttnCall) (qs : List Query) : List QueryPlan :=
  let descs := match s.ctx? a.c with | some x => (x.pool a.m).descs | none => []
  qs.map fun q => (q, if q.pad then [] else match s.querySession a.c q with
    | some y => queryBlocks a.e y.2.1 y.2.2 q.pos (descs.filter fun d => d.session == y.1)
    | none => [])

/-- The pairs that the plans read. -/
def planReads (plans : List QueryPlan) : List (Desc × Nat) := plans.flatMap fun p => p.2.flatMap fun b => b.2.map fun t => (b.1, t)

/-- The outputs and log-sum-exps of a call, formed from what it has read and written (R147, R153). -/
def State.attnOut (s : State) (a : AttnCall) (plans : List QueryPlan) (cache : KvCache) (raw : Bytes) : State :=
  let res := (enum plans).map fun p => queryResult a cache (sub raw (p.1 * a.rowBytes 2) (a.rowBytes 2)) p.2.2
  let subs := (res.map (·.2)).foldl (· + ·) 0
  let s := (if subs = 0 then s else s.aeErr a.m 0x100).nonfinite a subs
  let s := s.countM a.m (occ 0x040 (plans.filter fun p => !p.1.pad && p.2.isEmpty).length 1 a.c (0x10 + a.ae))
  let words := fun (l : List Word) => l.flatMap fun w => if a.d.bf then natLe 2 (toBf (ofFp w)) else natLe 4 w.toNat
  let out := res.flatMap fun r => r.1.flatMap fun h => words h.1
  let lse := res.flatMap fun r => r.1.flatMap fun h => natLe 4 h.2.toNat
  s.withWrite a.c a.m a.ae a.reader a.d.out out fun s => s.withWrite a.c a.m a.ae a.reader a.d.lse lse fun s => s

/-- Attention of a call whose entries are written (R147, R153). -/
def State.attend (s : State) (a : AttnCall) (qs : List Query) : State :=
  let fail := fun (s : State) (x : Nat × Nat) =>
    if x.1 = 0x1203 then s.attnFail a.m a.ae a.c a.d.layer 0x1203 x.2 else s.ioFail a.c a.m a.ae x
  let plans := s.queryPlans a qs
  match (planReads plans).foldl (State.cacheKv a) (s, .ok []) with
  | (s, .error x) => fail s x
  | (s, .ok cache) => match s.fetch a.m a.reader a.d.q (a.d.count * a.rowBytes 2) with
    | (s, .error x) => fail s x
    | (s, .ok raw) => s.attnOut a plans cache raw

/-- The entries that a call's pairs come to, with their places; each with its blocks that were not finite (R152). -/
def newEntries (a : AttnCall) (real : List Query) (places : List (Option (Nat × Nat × Option Nat))) (nb : Bytes) :
    List (NewEntry × Nat) :=
  ((enum real).zip places).filterMap fun p => p.2.map fun x =>
    let xs := (List.range (2 * a.k.dh)).map fun i => ofBf (u16 nb (p.1.1 * 4 * a.k.dh + 2 * i))
    let e := encodeEntry a.k.fmt xs
    (({ session := x.1, pos := p.1.2.pos, unit := x.2.1, upper := x.2.2, entry := e.1 } : NewEntry), e.2)

/-- The requests that a call names are noted (R151). -/
def State.noteNamed (s : State) (a : AttnCall) (real : List Query) : State :=
  s.modCtx a.c fun x => { x with step := x.step.map fun w => { w with
    named := w.named ++ (dedup (real.map (·.slot))).map fun i => (a.m, a.e.pageLayer, a.d.head, i) } }

/-- A call whose descriptor and query list hold: the new entries are written, then attention runs (R152). -/
def State.attnRun (s : State) (a : AttnCall) (qs : List Query) : State :=
  let real := qs.filter fun q => !q.pad
  let places := real.map (s.entryPlace a)
  if places.any (·.isNone) then s.attnFail a.m a.ae a.c a.d.layer 0x1204 0
  else
    s.withRead a.c a.m a.ae a.reader a.d.new (a.d.count * 4 * a.k.dh) fun s nb =>
    let ns := newEntries a real places nb
    match s.writeEntries a (ns.map (·.1)) with
    | (s, some x) => s.ioFail a.c a.m a.ae x
    | (s, none) => (((s.noteNamed a real).nonfinite a ((ns.map (·.2)).foldl (· + ·) 0)).logEntries a (ns.map (·.1))).attend a qs

/-- A call whose descriptor has been read (R150, R151). -/
def State.attnDesc (s : State) (c m ae : Nat) (b : Bytes) : State :=
  let d := parseAttnCall b
  match s.attnCall c m ae d with
  | none => s.attnFail m ae c d.layer 0x1202 0
  | some a =>
    s.withRead c m ae (control c (0x10 + ae)) d.qlist (8 * d.count) fun s qb =>
    let es := (List.range d.count).map fun i => u64 qb (8 * i)
    if s.queriesOk c es then s.attnRun a (es.map parseQuery) else s.attnFail m ae c d.layer 0x1201 0

/-- The attention engines of a context's placement on a mast. -/
def Ctx.aePlace (x : Ctx) (m : Nat) : Nat := match tget x.places m with | some p => p.ae | none => 0

/-- ATTENTION_CALL. A call is atomic at its issue; upsets strike as it starts. -/
def execAttentionCall (c m ae desc : Nat) (ups : List Upset) (s : State) : Host.Outcome State Fault Refusal :=
  onMast m s (s.whenAlive (
    if !s.canStart c m desc || !(match s.ctx? c with | some x => bit (x.aePlace m) ae | none => false) then s
    else
      let s := s.strikeAll ups
      if !s.alive || !s.canStart c m desc then s
      else
      let s := if s.descFault c m desc 64 then s.aeErr m 1 else s
      s.atOnce c m 0x1202 desc 64 fun s b => s.attnDesc c m ae b))

/-! ## Sealed images (R51, R169) -/

/-- Pages of a context take staging units in trigger order, as far as there are free ones. -/
def State.takeStages (s : State) (m : Nat) (e : Nat × Ctx) : State :=
  match tget e.2.kv m with
  | none => s
  | some k =>
    if !runsState e.2.state then s
    else
      let p := e.2.pool m
      let pairs := p.waiting.zip (freeStages k p)
      if pairs.isEmpty then s
      else
        let p' := { p with
          waiting := p.waiting.drop pairs.length,
          frames := pairs.foldl (fun t x => tmod t x.1 fun f => { f with stage := some x.2 }) p.frames }
        (s.setPool e.1 m p').modMast m fun z => { z with ae := { z.ae with
          sealJobs := z.ae.sealJobs ++ pairs.map fun x => { ctx := e.1, frame := x.1, stage := x.2 } } }

/-- SEAL_IMAGE_BUILD: pages take free staging units, contexts in ascending id, and the seal paths start on the first
image if they are idle (R169). -/
def execSealImageBuild (m : Nat) (s : State) : Host.Outcome State Fault Refusal :=
  onMast m s (s.whenAlive (
    if s.pwr.coolstop || !s.mastUp m then s
    else
      let s := s.ctxs.foldl (fun (s : State) e => (s.takeStages m e).raiseMet e.1) s
      s.modMast m fun z => { z with ae := { z.ae with building := !z.ae.sealJobs.isEmpty } }))

/-- What a seal counts: MXINT8 codes read as -127, and E4M3 blocks with an element read as zero (R30, R51, R153). -/
def State.sealCounts (s : State) (m c fmt : Nat) (g : PageGeom) (img : Bytes) : State :=
  let s := if fmt = 0 then s.countM m (occ 0x010 (negClamps g img) 0 c 0x10) else s
  let nans := if fmt = 1 then nanBlocks g img else 0
  if nans = 0 then s else (s.countM m (occ 0x011 nans 0 c 0x10)).aeErr m 0x100

/-- The image of a page is formed and written into its staging unit (R51). A page that cannot be read, or that holds a
scale of 0xFF, is a contained error of its context. DESIGN CHOICE (log entry 87): a seal that stops at such a block counts
nothing of the blocks before it. -/
def State.sealImage (s : State) (m : Nat) (j : SealJob) (k : KvRec) (f : Frame) : State :=
  match s.readRuns m (sealReader j.ctx) (pageRegions k j.frame f) with
  | (s, .error x) => s.ioFail j.ctx m noUnit x
  | (s, .ok img) => match convertPage k.geom f.fmt 2 img with
    | .error b => (s.aeErr m 8).contained { mkRec 0x1203 clsUC m noUnit j.ctx with addr := j.frame, info0 := b }
    | .ok out =>
      let s := ((s.sealCounts m j.ctx f.fmt k.geom img).writeDram m (sealReader j.ctx) (k.unitAddr j.stage) out).1
      match s.ctx? j.ctx with
      | none => s
      | some x => s.setPool j.ctx m { x.pool m with frames := tmod (x.pool m).frames j.frame fun f => { f with image := true } }

/-- The first image of a mast's seal paths is complete, and the next one starts; a boundary that waited for it goes on. -/
def State.sealDone (s : State) (m : Nat) : State :=
  match (s.mast m).ae.sealJobs with
  | [] => s
  | j :: js =>
    let s := s.modMast m fun z => { z with ae := { z.ae with sealJobs := js, building := !js.isEmpty } }
    match (s.ctx? j.ctx).bind fun x => (tget x.kv m).bind fun k => (tget (x.pool m).frames j.frame).map fun f => (k, f) with
    | none => s
    | some (k, f) =>
      let s := s.sealImage m j k f
      match s.ctx? j.ctx with
      | some x => if x.atEnd then s.boundary j.ctx else s.raiseMet j.ctx
      | none => s

/-- SEAL_IMAGE_COMPLETE (R169). -/
def execSealImageComplete (m : Nat) (s : State) : Host.Outcome State Fault Refusal :=
  onMast m s (s.whenAlive (
    if s.pwr.coolstop || !s.mastUp m || !(s.mast m).ae.building then s else s.sealDone m))

end Sys2Proof.Machine
end

