-- ==== Sys2Proof/Machine/HostLinkOps.lean ====
section
/-! DEFINITION. The UCIe modules as every family reaches them: binding of channels, RESUME, link-up and FLUSH
(R241 to R250, R267, R268). -/
namespace Sys2Proof.Machine

def hmDown : Nat := 0
def hmTraining : Nat := 1
def hmUp : Nat := 2
def hmRetraining : Nat := 3

/-- Every channel's answers go out as far as credits and modules allow. -/
def State.pumpAll (s : State) : State :=
  (List.range 8).foldl (fun (s : State) c => s.pump c (s.chan c).answers.length) s

/-- A module's unacknowledged flits are sent again, in order (R245). -/
def State.resendFlits (s : State) (m : Nat) : State := s.putFlits m (s.hmod m).replay

/-- Flits of a dead module that its peer has not accepted, after SEQ `seq` (R248). -/
def flitsAfter (fs : List Flit) (seq : Nat) : List Flit :=
  fs.filter fun f => f.seq != seq && decide ((f.seq + 4096 - seq) % 4096 < 2048)

/-! ## Modules that go down (R246 to R249) -/

/-- The RESUME flit that reports the last SEQ accepted on a dead module (R248). -/
def resumeFlit (seq dead last : Nat) : Flit :=
  { seq, typ := 2, ch := 0, first := 15, fill := 0, payload := natLe 4 (dead % 4 * 4096 + last % 4096),
    resends := 0, born := 0 }

/-- A module is not up any more, or was held down: not one whose first training has yet to end (R241, R247). -/
def Module.left (x : Module) : Bool := (x.state == hmDown || x.state == hmTraining) && !x.fresh

/-- A module that trains: one that RETRY started, or one whose first training has not ended (R250). -/
def Module.trains (x : Module) : Bool := x.state == hmTraining || (x.state == hmDown && x.fresh)

/-- A module is down: neither up nor training, once training is enabled (R249, R250). -/
def State.isDown (s : State) (m : Nat) : Bool := (s.hmod m).state == hmDown && !(s.hif.ready && (s.hmod m).fresh)

/-- The channels bound to a module that has gone down, or was held down, move to module `n` (R247). -/
def State.gather (s : State) (n : Nat) : State :=
  let down := fun (m : Nat) => (s.hmod m).left
  { s with st := { s.st with chans := tmap s.st.chans fun _ c => if down c.module then { c with module := n } else c } }

/-- Flits that module `m` can still take before its replay buffer is full (R245). -/
def State.room (s : State) (m : Nat) : Nat := if (s.hmod m).state == hmUp then 256 - (s.hmod m).replay.length else 0

/-- RESUME for a dead module goes out on the lowest-numbered module that is up, once that has room (R245, R248). -/
def State.sendResume (s : State) (dead : Nat) : State :=
  match s.modsUp with
  | n :: _ =>
    if (s.hmod dead).owes && decide (0 < s.room n) then
      (s.modHmod dead fun x => { x with owes := false }).sendFlits n
        [resumeFlit (s.hmod n).txSeq dead (s.hmod dead).rxLast]
    else s
  | [] => s

/-- The channels of a dead module rebind to module `n`, on which RESUME goes out (R247, R248). -/
def State.rebindTo (s : State) (dead n : Nat) : State :=
  (s.gather n).sendResume dead

/-- A module stops carrying traffic and its going down is recorded; RESUME is owed for it (R246, R248). -/
def State.moduleOff (s : State) (m : Nat) : State :=
  let s := s.modHmod m fun x =>
    { x with state := hmDown, fresh := false, failRun := 0, times := [], owes := true, awaits := true }
  let s := { s with hif := { s.hif with err := s.hif.err ||| 4 } }
  s.raise (mkRec 0x0301 clsCE hubMast m 0)

/-- No module is up any more (R249). -/
def State.linkDown (s : State) (last : Nat) : State :=
  State.raise { s with hif := { s.hif with err := s.hif.err ||| 8, resumeFrom := some last } } (mkRec 0x0302 clsCE hubMast noUnit 0)

/-- The link is down once every module is (R249). -/
def State.linkCheck (s : State) (last : Nat) : State :=
  if s.hif.resumeFrom.isNone && (List.range 4).all s.isDown then s.linkDown last else s

/-- A module goes down: its channels rebind to the lowest-numbered module that is up, or the link is down (R247 to R249). -/
def State.moduleDown (s : State) (m : Nat) : State :=
  if s.isDown m || !s.hif.ready then s
  else
    let s := s.moduleOff m
    match s.modsUp with
    | n :: _ => (s.rebindTo m n).pumpAll
    | [] => s.linkCheck m

/-- Every module goes down at once (R487). -/
def State.allModulesDown (s : State) : State :=
  let ms := (List.range 4).filter fun m => s.hif.ready && !s.isDown m
  if ms.isEmpty then s
  else (ms.foldl (fun (s : State) m => s.moduleOff m) s).linkDown (maxD ms 0)

/-- Credit units are granted afresh on every channel (R268). -/
def State.grantAll (s : State) : State :=
  (List.range 8).foldl (fun (s : State) c => (s.modChan c fun x => { x with reqs := 64, owed := 64 }).sendCredit c) s

/-- FLUSH: replay buffers are discarded, SEQ starts at 0, a packet partly received is discarded, credits are granted
afresh and the session must be negotiated anew (R249, R268, R284). -/
def State.flush (s : State) : State :=
  let s := { s with
    hif := { s.hif with mods := tmap s.hif.mods fun _ x =>
      { x with replay := [], txSeq := 0, rxLast := 4095, owes := false, rest := [], awaits := false },
                            resumeFrom := none },
    st := { s.st with negotiated := false,
                      chans := tmap s.st.chans fun _ c => { c with buf := [], skipping := false, lost := 0 } } }
  if s.hif.oper then s.grantAll else s

/-- RETRY: the named modules that are down start to train, once READY has been indicated (R250); one with a broken wire does
not (R403). -/
def State.retryModules (s : State) (mask : Nat) : State :=
  let train := fun (m : Nat) (x : Module) => if bit mask m && x.state == hmDown && !x.broken then { x with state := hmTraining } else x
  if s.hif.ready then { s with hif := { s.hif with mods := tmap s.hif.mods train } } else s

end Sys2Proof.Machine
end

