-- ==== Sys2Proof/Machine/ShardOps.lean ====
section
/-! DEFINITION. Shards as every family reaches them: their regions and their removal (R275, R307, R308, R316, R319). -/
namespace Sys2Proof.Machine

def State.shard? (s : State) (id : Nat) : Option Shard := tget s.hal.shards id

/-- The regions of every shard on a mast, in any state but `absent`. -/
def State.shardRegions (s : State) (m : Nat) : List (Nat × Nat) :=
  s.hal.shards.flatMap fun e => (e.2.pieces.filter fun p => p.1 == m).map fun p => (p.2.1, p.2.2)

/-- Whether a region meets a shard. -/
def State.meetsShard (s : State) (m off len : Nat) : Bool := (s.shardRegions m).any fun r => overlap off len r.1 r.2

/-- A shard's entry is freed: a load or a recheck of it completes with STATE first (R307, R319). -/
def State.removeShard (s : State) (id : Nat) : State :=
  match s.shard? id with
  | none => s
  | some h =>
    let s := if h.state = 1 then s.complete (.shard id) (ans stState) else s
    let s := s.dropShard id
    match s.holder? 0 with
    | some m => if m.activity = actRecheck && m.arg = id then s.endMaint actRecheck (ans stState) else s
    | none => s

end Sys2Proof.Machine
end

