-- ==== Sys2Proof/Machine/Stauc.lean ====
section
/-! DEFINITION. A Stauc request from its arrival to its answer: request credits, the checks that come before a command
acts (R265, checks 1 to 9), tags and the ORDERED hold (R261 to R263). -/
namespace Sys2Proof.Machine

/-- One command of the tables R272 to R282: whether its Ctx column says 0, the payload lengths it allows, and what it
does and answers once checks 1 to 9 have passed (checks 10 to 14 are its own). `after` is what the answer sets off. -/
structure Cmd where
  opcode : Nat
  hello  : Bool := false
  device : Bool
  lenOk  : Req → Bool
  act    : Req → State → State × Ans
  after  : Req → Ans → State → State := fun _ _ s => s

/-- The byte offset of the first offending reserved field of the header, when there is one (R257, R265 check 5). -/
def reservedHeader (r : Req) : Option Nat :=
  if r.flagRsv != 0 then some 1 else if r.channel.toNat / 8 != 0 then some 12 else if r.rsv != 0 then some 13 else none

/-- Checks 1 to 5 of R265. -/
def headerCheck (negotiated hello : Bool) (r : Req) : Option Ans :=
  if !negotiated && !(hello && r.flitCh == 0) then some (refuse stVersion 0x30)
  else if !hello && r.version != 0x30 then some (refuse stVersion 0x30)
  else if r.kind != 0 || r.more then some (refuse stMalformed 1)
  else if r.channel.toNat % 8 != r.flitCh then some (refuse stChannelMismatch 12)
  else match reservedHeader r with
    | some o => some (refuse stReserved o)
    | none => none

/-- Checks 7 to 9 of R265. -/
def formCheck (tags : List Nat) (device : Bool) (lenOk : Req → Bool) (r : Req) : Option Ans :=
  if r.ctx.toNat > 64 || (device && r.ctx != 0) || (!device && r.ctx == 0) then some (refuse stBadArgument 6)
  else if !lenOk r then some (refuse stMalformed 8)
  else if tags.contains r.tag.toNat then some (refuse stTagInUse 4)
  else none

/-- A request takes its units of the channel's request credits (R267), and its place in the order of reassembly (R263). -/
def State.arrive (s : State) (r : Req) : State :=
  { s with st := { s.st with arrivals := s.st.arrivals + 1, current := s.st.arrivals + 1 } }.modChan r.flitCh fun c =>
    { c with reqs := c.reqs - units r.payload.length }

/-- The units of a request return when it is examined (R268). -/
def State.returnUnits (s : State) (r : Req) : State :=
  (s.modChan r.flitCh fun c => { c with reqs := c.reqs + units r.payload.length }).giveCredit r.flitCh (units r.payload.length)

/-- How many answers wait for host credits on a channel (R268). -/
def Chan.waitingAnswers (c : Chan) : Nat := (c.answers.filter fun p => !p.more && p.answers).length

/-- Whether a request must wait: requests before it wait, 64 answers wait for credits (R268), or it is ORDERED and an
earlier final answer has not been sent (R263). -/
def State.blocked (s : State) (r : Req) : Bool :=
  let c := s.chan r.flitCh
  decide (64 ≤ c.waitingAnswers) || (r.ordered && (!c.tags.isEmpty || c.answers.any Pkt.answers))

/-- An answer that refuses a request before its command acts. -/
def State.refuseReq (s : State) (opcode : Nat) (r : Req) (a : Ans) : State :=
  let dup := a.status == stTagInUse
  (if dup then s else s.modChan r.flitCh fun c => { c with tags := c.tags ++ [r.tag.toNat] }).queueAnswers r.flitCh
    (respond opcode r dup a)

/-- Checks 1 to 9 for a known command (R265). -/
def Cmd.check (k : Cmd) (r : Req) (s : State) : Option Ans :=
  match headerCheck s.st.negotiated k.hello r with
  | some a => some a
  | none => formCheck (s.chan r.flitCh).tags k.device k.lenOk r

/-- A request's tag is in use from now on (R262). -/
def State.tagged (s : State) (r : Req) : State := s.modChan r.flitCh fun c => { c with tags := c.tags ++ [r.tag.toNat] }

/-- The command of a request acts, and its answer is queued (R261, R263). -/
def Cmd.run (k : Cmd) (r : Req) (s : State) : State :=
  let x := k.act r s
  k.after r x.2 (x.1.queueAnswers r.flitCh (respond k.opcode r false x.2))

/-- The device examines a request: its units return, the checks run, and the command acts and is answered
(R263, R265, R268). -/
def examine (k : Cmd) (r : Req) (s : State) : State :=
  let s := s.returnUnits r
  match k.check r s with
  | some a => s.refuseReq k.opcode r a
  | none => k.run r (s.tagged r)

/-- A request with an opcode that no table defines (R265 check 6). -/
def examineUnknown (opcode : Nat) (r : Req) (s : State) : State :=
  let s := s.returnUnits r
  match headerCheck s.st.negotiated false r with
  | some a => s.refuseReq opcode r a
  | none => s.refuseReq opcode r (refuse stUnknownOpcode 2)

/-- The state in which the command of an admitted request acts: the request has come, its units have returned and its tag is
in use. -/
def State.heard (s : State) (r : Req) : State := ((s.arrive r).returnUnits r).tagged r

/-- A request arrives on its channel: it is examined at once, or waits behind what its channel must finish first. -/
def receive (k : Cmd) (r : Req) (s : State) : State :=
  let s := s.arrive r
  if !(s.chan r.flitCh).waiting.isEmpty || s.blocked r then
    s.modChan r.flitCh fun c => { c with waiting := c.waiting ++ [(k.opcode, r, s.st.current)] }
  else examine k r s

/-- The meaning of a command that is a Stauc request. -/
def stauc (k : Cmd) (r : Req) (s : State) : Host.Outcome State Fault Refusal :=
  onChannel r.flitCh s (s.whenAlive (receive k r s))

/-! ## Checks that many commands share -/

/-- The first of a list of checks that fails. -/
def firstErr : List (Bool × Ans) → Option Ans
  | [] => none
  | (bad, a) :: t => if bad then some a else firstErr t

/-- Runs an action unless a check fails. -/
def guardAct (cs : List (Bool × Ans)) (s : State) (f : State × Ans) : State × Ans :=
  match firstErr cs with
  | some a => (s, a)
  | none => f

/-- ARG0 and ARG1 as numbers. -/
def a0 (r : Req) : Nat := r.arg0.toNat
def a1 (r : Req) : Nat := r.arg1.toNat

/-- Walks down from bit `b` while the bits below it are reserved as well; `fuel` at most. -/
def runStart (used : Nat) : Nat → Nat → Nat
  | 0, b => b
  | fuel + 1, b => if b = 0 || bit used (b - 1) then b else runStart used fuel (b - 1)

/-- The byte offset, within a 64-bit argument, of the first reserved field that is not zero: the byte that holds the
lowest bit of that field (DEDUCED, log entry 17). `used`: the bits in use. -/
def rsvField (used x : Nat) : Option Nat :=
  ((List.range 64).find? fun b => bit x b && !bit used b).map fun b => runStart used 64 b / 8

/-- A reserved field of ARG0 or ARG1 is non-zero (check 10): `m0` and `m1` are the bits in use. -/
def argRsv (r : Req) (m0 m1 : Nat) : Bool × Ans :=
  match rsvField m0 (a0 r), rsvField m1 (a1 r) with
  | some o, _ => (true, refuse stReserved (16 + o))
  | none, some o => (true, refuse stReserved (24 + o))
  | none, none => (false, ans 0)

/-- Payload lengths a command allows. -/
def noPayload (r : Req) : Bool := r.payload.isEmpty
def payloadIs (n : Nat) (r : Req) : Bool := r.payload.length == n
def payloadIn (a b : Nat) (r : Req) : Bool := decide (a ≤ r.payload.length ∧ r.payload.length ≤ b)

/-- The low `n` bits. -/
def lowMask (n : Nat) : Nat := 2 ^ n - 1

/-- The context named in CONTEXT is not created (check 12). -/
def noCtx (s : State) (r : Req) : Bool × Ans := ((s.ctx? r.ctx.toNat).isNone, ans stNoContext)

/-- What the state of a context refuses for commands other than the ones R279, R284 and R289 name. -/
def stateRefusal (st : CtxState) : Option Nat :=
  match st with
  | .furling => some stContextFurled
  | .coolstop => some stCoolstop
  | .torn => some stContextTorn
  | _ => none

/-- Check 13 for a command of context `r.ctx` that no state rule admits (R279, R284, R289). -/
def ctxStateCheck (s : State) (r : Req) : Bool × Ans :=
  match s.ctx? r.ctx.toNat with
  | none => (false, ans 0)
  | some c => match stateRefusal c.state with
    | some st => (true, ans st)
    | none => (false, ans 0)

def ctxState (s : State) (c : Nat) : Option CtxState := (s.ctx? c).map (·.state)

end Sys2Proof.Machine
end

