-- ==== Sys2Proof/Machine/ContextCmds.lean ====
section
/-! DEFINITION. Contexts: creation, unfurling, furling, destruction, query and priority (R155, R156, R274, R285 to R293,
R296, R491). -/
namespace Sys2Proof.Machine

/-! ## The creation record (R155, R156, R285, R286) -/

def crMask (p : Bytes) : Nat := u8 p 1
def crMasts (p : Bytes) : List Nat := bitsSet (crMask p) 8
def crKv (p : Bytes) : Bool := bit (u8 p 3) 0
def crConfined (p : Bytes) : Bool := bit (u8 p 2) 0
def crBase (p : Bytes) : Nat := bits (u8 p 2) 1 3
def crSet (p : Bytes) : Nat := bits (u8 p 2) 4 2

/-- The payload length of a creation record (R285). -/
def createLenOk (r : Req) : Bool :=
  let n := (crMasts r.payload).length
  decide (32 ≤ r.payload.length) && r.payload.length == 32 + 16 * n + (if crKv r.payload then 64 * n else 0)

/-- Reserved fields that are not zero: the first of a list of (offset, non-zero). -/
def firstTrue (l : List (Nat × Bool)) : Option Nat := (l.find? (·.2)).map (·.1)

/-- The payload offset of placement record `i`, and of key-value record `i` among `n` masts. -/
def placeOff (i : Nat) : Nat := 32 + 16 * i
def kvOff (n i : Nat) : Nat := 32 + 16 * n + 64 * i

/-- Reserved fields of a key-value record that starts at `o` (R155). -/
def kvRsv (p : Bytes) (o : Nat) : List (Nat × Bool) :=
  [(o + 7, u8 p (o + 7) != 0), (o + 15, u8 p (o + 15) / 32 != 0), (o + 17, !allZero (sub p (o + 17) 3)),
   (o + 31, u8 p (o + 31) != 0), (o + 39, u8 p (o + 39) != 0), (o + 48, !allZero (sub p (o + 48) 16))]

/-- The first reserved field of a creation record that is not zero. -/
def createRsv (p : Bytes) : Option Nat :=
  let n := (crMasts p).length
  firstTrue ([(0, u8 p 0 / 8 != 0), (2, u8 p 2 / 64 != 0), (3, u8 p 3 / 2 != 0), (4, !allZero (sub p 4 28))]
    ++ ((List.range n).flatMap fun i => let o := placeOff i
        [(o + 2, u8 p (o + 2) / 4 != 0), (o + 3, u8 p (o + 3) / 16 != 0), (o + 4, u8 p (o + 4) / 2 != 0),
         (o + 5, !allZero (sub p (o + 5) 11))])
    ++ (if crKv p then (List.range n).flatMap fun i => kvRsv p (kvOff n i) else []))

def parsePlace (p : Bytes) (o : Nat) : Placement :=
  { me := u16 p o, ae := u8 p (o + 2) % 4, vu := u8 p (o + 3) % 16, units := u8 p (o + 4) % 2 }

def parseKv (p : Bytes) (o : Nat) : KvRec :=
  { pool := u64 p o % 2 ^ 48, units := u32 p (o + 8), frame4k := u16 p (o + 12), fmt := u8 p (o + 14),
    sealWin := u8 p (o + 15) % 32, sealLag := u8 p (o + 16), sealSlots := u32 p (o + 20),
    ft := u64 p (o + 24) % 2 ^ 48, desc := u64 p (o + 32) % 2 ^ 48, descCap := u32 p (o + 40), layers := u16 p (o + 44),
    heads := u8 p (o + 46), dh32 := u8 p (o + 47) }

/-- Faulty fields of a key-value record at `o`, in order of offset (R155, R156). -/
def kvBad (p : Bytes) (o : Nat) : List (Nat × Bool) :=
  let k := parseKv p o
  let e := k.layers * 256 * k.heads * 2 * (32 * k.dh32)
  [(o, u8 p (o + 6) != 0 || k.pool % 4096 != 0),
   (o + 8, decide (k.units < 2 + k.sealSlots) || decide (dramSize < k.pool + k.units * k.unit)),
   (o + 12, decide (k.frame4k < 1 ∨ 1024 < k.frame4k) || decide (k.frame4k * 4096 < 2 * (e / 2 + e / 32))),
   (o + 14, decide (1 < k.fmt)), (o + 15, decide (16 < k.sealWin)), (o + 16, decide (k.sealLag < 1 ∨ 64 < k.sealLag)),
   (o + 20, if k.sealWin = 0 then k.sealSlots != 0 else k.sealSlots == 0),
   (o + 24, u8 p (o + 30) != 0 || k.ft % 128 != 0 || decide (dramSize < k.ft + 16 * k.units)),
   (o + 32, u8 p (o + 38) != 0 || k.desc % 128 != 0 || decide (dramSize < k.desc + 16 * k.descCap)),
   (o + 40, decide (k.descCap < 1 ∨ 16777216 < k.descCap)), (o + 44, decide (k.layers < 1 ∨ 4096 < k.layers)),
   (o + 46, decide (k.heads < 1 ∨ 16 < k.heads)), (o + 47, decide (k.dh32 < 1 ∨ 8 < k.dh32))]

/-- The first faulty field of a creation record (R286). -/
def State.createBad (s : State) (p : Bytes) : Option Nat :=
  let n := (crMasts p).length
  firstTrue ([(1, crMask p == 0 || (crMasts p).any fun m => !s.present m),
      (2, crSet p == 3 || (crConfined p && crBase p % 2 ^ crSet p != 0))]
    ++ ((List.range n).map fun i => (placeOff i, u16 p (placeOff i) == 0))
    ++ (if crKv p then (List.range n).flatMap fun i => kvBad p (kvOff n i) else []))

/-! ## Save areas (R287) -/

/-- Whether a save area may lie at `base`: 4 KiB aligned, within DRAM, in nothing granted, reserved or changing, and
within the sub-ranges of a confined context. -/
def State.saveFits (s : State) (confined : Bool) (cbase j m base size : Nat) : Bool :=
  base % 4096 == 0 && decide (base + size ≤ dramSize) && !s.taken m base size && !(s.mast m).mc.bandBusy base size
  && (!confined || confinedOk (s.mast m).mc cbase j base size)

/-- Places where the lowest fitting save area can begin. -/
def State.saveStarts (s : State) (confined : Bool) (cbase j m : Nat) : List Nat :=
  let subs := if confined then (List.range 12).map fun b => b * 2 ^ 32 + cbase / 2 ^ j * 2 ^ (29 + j) else [0]
  let bands := (List.range 13).map fun b => b * 2 ^ 32
  let ends := (s.takenRegions m).map fun r => roundUp (r.1 + r.2) 4096
  sortBy (fun (a b : Nat) => decide (a ≤ b)) (subs ++ bands ++ ends)

/-- A save area on a mast: the spec says where it may lie, not which place the device takes, so the place is a free value
among those that fit (log entry 19). -/
def State.savePlace (s : State) (confined : Bool) (cbase j m size : Nat) : Option Nat :=
  let fits := fun b => s.saveFits confined cbase j m b size
  let want := s.freeNat * 4096
  match (s.saveStarts confined cbase j m).find? fits with
  | none => none
  | some lowest => if fits want then some want else some lowest

/-- Save areas for a list of masts with their sizes; none when some mast has no room. -/
def State.savePlaces (s : State) (confined : Bool) (cbase j : Nat) : List (Nat × Nat) → Option (State × Tab (Nat × Nat))
  | [] => some (s, [])
  | (m, size) :: l =>
    match s.savePlace confined cbase j m size with
    | none => none
    | some b => match State.savePlaces s.drawn confined cbase j l with
      | none => none
      | some r => some (r.1, (m, b, size) :: r.2)

/-! ## CTX_CREATE -/

/-- A created context (R289: furled). -/
def newCtx (p : Bytes) (preemptible : Bool) (saves : Tab (Nat × Nat)) : Ctx :=
  let ms := crMasts p
  let n := ms.length
  { state := .furled, before := .furled, preemptible, priority := u8 p 0 % 8, mastMask := crMask p,
    confined := crConfined p, base := crBase p, setLog2 := crSet p,
    places := (enum ms).map fun e => (e.2, parsePlace p (placeOff e.1)),
    kv := if crKv p then (enum ms).map fun e => (e.2, parseKv p (kvOff n e.1)) else [],
    saves, grants := [], prog := none, nextProg := none, config := none, recorded := [], stepNext := 0, step := none,
    held := [], owed := [], heldLast := 0, atEnd := false, txq := [],
    mirror := { en := false, policy := false, pkg := 0, ctx := 0, lost := false, acked := 0, unacked := [], head := 0,
                applied := 0, lines := 0, backlog := [], sessCmds := [], resync := [], late := [], copyNo := 0, logged := [] },
    holder := Holder.reset, met := [],
    pools := [], late := [], spilled := [], wait := [],
    cleat := [], live := [], stopAt := [], stopped := [], deferred := false, owesZero := false,
    zeroList := [], reefValid := false, reefGroup := 0, reefTarget := 0, reefSeq := 0, counterRead := false,
    compat := false, shsel := [] }

/-- The answer of CTX_CREATE: with save areas, 8 DPTRs (R287). -/
def createAns (saves : Tab (Nat × Nat)) : Ans :=
  if saves.isEmpty then ans stDone
  else { status := stDone, hi := 0, arg1 := 0,
         parts := [(List.range 8).flatMap fun m => natLe 8 (match tget saves m with | some a => m * 2 ^ 56 + a.1 | none => 0)] }

/-- The context enters the table, with the way mask of creation on every mast (R229). -/
def State.addCtx (s : State) (c : Nat) (x : Ctx) : State :=
  let s := s.mapMasts fun _ z => { z with mc := { z.mc with ctxs := tdel z.mc.ctxs c } }
  { s with ctxs := tset s.ctxs c x }

/-- The save areas of a context to be created: one per mast for a preemptible one, none for another (R287). -/
def State.createSaves (s : State) (pre : Bool) (p : Bytes) : Option (State × Tab (Nat × Nat)) :=
  s.savePlaces (crConfined p) (crBase p) (crSet p)
    (if pre then (enum (crMasts p)).map fun e => (e.2, popCount (u16 p (placeOff e.1)) 16 * 0x800000) else [])

def ctxCreateAct (r : Req) (s : State) : State × Ans :=
  let p := r.payload
  let c := r.ctx.toNat
  let rsv := createRsv p
  let bad := s.createBad p
  guardAct [argRsv r 1 0, (rsv.isSome, refuse stReserved (32 + rsv.getD 0)), (bad.isSome, refuse stBadArgument (32 + bad.getD 0)),
            ((s.ctx? c).isSome, ans stState), ((crMasts p).any s.fencedMast, ans stFenced)] s
    (match s.createSaves (bit (a0 r) 0) p with
     | none => (s, ans stNoMemory)
     | some q => (q.1.addCtx c (newCtx p (bit (a0 r) 0) q.2), createAns q.2))

def ctxCreateCmd : Cmd := { opcode := 0x0201, device := false, lenOk := createLenOk, act := ctxCreateAct }

/-- CTX_CREATE: the record is checked, save areas are reserved, and the context is furled (R285 to R287, R289). -/
def execCtxCreate (r : Req) (s : State) : Host.Outcome State Fault Refusal := stauc ctxCreateCmd r s

/-! ## Unfurling (R274, R289, R290) -/

def ctxUnfurlAct (r : Req) (s : State) : State × Ans :=
  let c := r.ctx.toNat
  match s.ctx? c with
  | none => guardAct [argRsv r 0 0] s (s, ans stNoContext)
  | some x =>
    guardAct [argRsv r 0 0] s
      (match x.state with
       | .furled =>
         if x.deferred then (s, ans stAlreadyPending)
         else if x.owesZero then
           ((s.modCtx c fun x => { x with deferred := true }).owe 0x0202 r .unfurl, ans stDeferred)
         else ((s.modCtx c fun x => { x with state := .unfurling }).owe 0x0202 r .unfurl, ans stAccepted)
       | .unfurling => (s, ans stAlreadyPending)
       | .furling =>
         if x.deferred then (s, ans stAlreadyPending)
         else ((s.modCtx c fun x => { x with deferred := true }).owe 0x0202 r .unfurl, ans stDeferred)
       | .coolstop => (s, ans stCoolstop)
       | .torn => (s, ans stContextTorn)
       | _ => (s, ans stState))

def ctxUnfurlCmd : Cmd := { opcode := 0x0202, device := false, lenOk := noPayload, act := ctxUnfurlAct }

/-- CTX_UNFURL: a furled context starts to unfurl; during a furl the unfurl is deferred (R274, R289). -/
def execCtxUnfurl (r : Req) (s : State) : Host.Outcome State Fault Refusal := stauc ctxUnfurlCmd r s

/-- The regions of a key-value record (R155). -/
def KvRec.regions (k : KvRec) : List (Nat × Nat) :=
  [(k.pool, k.units * k.unit), (k.ft, 16 * k.units), (k.desc, 16 * k.descCap)]

/-- Whether some two regions of a list overlap. -/
def anyOverlap : List (Nat × Nat) → Bool
  | [] => false
  | r :: rs => rs.any (fun q => overlap r.1 r.2 q.1 q.2) || anyOverlap rs

/-- The regions of a context's key-value record on a mast are its own, suit its confinement and overlap nothing (R290). -/
def State.kvRegionsOk (s : State) (x : Ctx) (m : Nat) (k : KvRec) : Bool :=
  k.regions.all (fun r => x.granted m r.1 r.2 && s.confineOk x m r.1 r.2 && !s.meetsShard m r.1 r.2)
  && !anyOverlap k.regions

/-- The context takes the engines of its placement wherever no rival holds or awaits them (R290, R295, R296). -/
def State.claimEngines (s : State) (c : Nat) : State :=
  match s.ctx? c with
  | none => s
  | some x =>
    let s := s.reevalAll false
    x.masts.foldl (fun (s : State) m =>
      let mask := s.maskOn c m
      let wanted := (s.waiters m).foldl (fun a r => if r = c then a else a ||| s.maskOn r m) 0
      if s.mastUp m && !s.holds c m && (s.holdersOf c m mask).isEmpty && mask &&& wanted == 0 then s.takeEngines c m else s) s

/-- What an unfurl whose checks passed makes of the context: the program that was loaded last takes effect, layer records, page
tables, step number, reef target and the SEQ of its groups start anew, and it takes engines, or waits for the end of a coolant
stop (R276, R290, R352, R381, R394). -/
def State.reborn (s : State) (c : Nat) : State :=
  let s := s.ttReset c
  let s := if (s.ctx? c).any fun x => x.nextProg.isSome then s.programTaken c else s
  let s := (s.kvTables c).modCtx c fun x => { x with pools := tmap x.pools fun _ => Pool.renewed }
  let s := s.modCol fun k =>
    { k.reefDrop (s.ownsGroup c) with groups := tmap k.groups fun _ g => if g.ctx = c then { g with next := [] } else g }
  let s := s.modCtx c fun x => { x with stepNext := 0, reefTarget := 0, reefSeq := 0, heldLast := 0, atEnd := false, cleat := [] }
  if s.pwr.coolstop then s.modCtx c fun x => { x with state := .coolstop, before := .unfurling }
  else (s.modCtx c fun x => { x with state := .displaced }).claimEngines c

/-- An unfurl ends with DONE, and its first boundary runs (R284, R290, R489). -/
def State.unfurled (s : State) (c : Nat) : State := ((s.reborn c).retarget.completeOf c .unfurl (ans stDone)).idle c

/-- The checks of an unfurl and their outcome (R289, R290). -/
def State.unfurlEnd (s : State) (c : Nat) : State :=
  match s.ctx? c with
  | none => s
  | some x =>
    if x.state != .unfurling then s
    else
      let back := s.modCtx c fun x => { x with state := .furled }
      if x.masts.any s.fencedMast then back.completeOf c .unfurl (ans stFenced)
      else if x.kv.any fun e => !s.kvRegionsOk x e.1 e.2 then back.completeOf c .unfurl (ans stNotPermitted)
      else s.unfurled c

/-- An unfurl in progress ends: its checks run, and the context becomes unfurled, displaced, coolstop or furled (R290). -/
def execUnfurlComplete (ctx : Nat) (s : State) : Host.Outcome State Fault Refusal :=
  settle s (s.whenAlive (s.unfurlEnd ctx))

/-! ## Furling (R291, R292, R491) -/

/-- Every export of a context ends, its pages no longer shipping (R167, R284). -/
def State.dropExports (s : State) (c : Nat) : State :=
  (s.exports.filter fun e => e.2.ctx == c).foldl (fun (s : State) e =>
    { s.unshipAll c e.2.frames with exports := tdel s.exports e.1 }) s

/-- The masts on which a furl waits for the next cleat: those with a call of the context in progress (R291, R297). -/
def State.cleatsAhead (s : State) (x : Ctx) (c : Nat) : List Nat := x.masts.filter fun m => s.calling c m

/-- Calls of a context that are frozen by a coolant stop are discarded, and the package withdraws from its collectives
(R491). -/
def State.discardCalls (s : State) (c : Nat) : State :=
  let s := s.stopAll c
  ((s.withdrawCtx c).dropFabric c).modCtx c fun x => { x with stopped := x.masts }

/-- A page of an export awaits its acknowledgement, or has not been sent. -/
def Export.open_ (e : Export) : Bool := e.pages.any fun q => decide (3 ≤ q.2)

/-- The exports of a context that furls complete at once, with every page that awaits its acknowledgement timed out
(R197, R211). -/
def State.exportsFurled (s : State) (c : Nat) : State :=
  let s := if s.exports.any fun e => e.2.ctx == c && e.2.started && e.2.open_ then { s with srvErr := s.srvErr ||| 8 } else s
  (s.exports.filter fun e => e.2.ctx == c && !e.2.resync).foldl (fun (s : State) e =>
    let pages := tmap e.2.pages fun _ st => if 3 ≤ st then 2 else st
    let status := if e.2.torn then stContextTorn else stContextFurled
    s.complete (.exported e.1) (if e.2.started then exportAns status { e.2 with pages } else ans status)) s

/-- Step 1 of a furl (R284, R291, R292). -/
def State.startFurl (s : State) (c : Nat) (r : Req) : State :=
  match s.ctx? c with
  | none => s
  | some x =>
    let cool := x.state == .coolstop || s.pwr.coolstop
    let ahead := s.cleatsAhead x c
    let s := (s.exportsFurled c).completeAll c stContextFurled fun _ => true
    let s := ((s.dropLoads c).dropRecorded c).dropExports c
    let s := s.modCtx c fun y => { y with
      state := .furling, stopAt := ahead, stopped := x.masts.filter fun m => !ahead.contains m }
    let s := (List.range 8).foldl (fun (s : State) m => s.modMast m fun z =>
      Mast.refreshes s.pwr.coolstop { z with bulk := z.bulk.filter fun j => j.ctx != c }) s
    let s := if cool then s.discardCalls c else s
    (s.reevalAll false).owe 0x0203 r .furl

def ctxFurlAct (r : Req) (s : State) : State × Ans :=
  let c := r.ctx.toNat
  match s.ctx? c with
  | none => guardAct [argRsv r 0 0] s (s, ans stNoContext)
  | some x =>
    guardAct [argRsv r 0 0] s
      (match x.state with
       | .furled => (s, ans stState)
       | .furling => (s, ans stAlreadyPending)
       | _ => (s.startFurl c r, ans stAccepted))

def ctxFurlCmd : Cmd := { opcode := 0x0203, device := false, lenOk := noPayload, act := ctxFurlAct }

/-- CTX_FURL: the context stops at its next cleats (R274, R289, R291). -/
def execCtxFurl (r : Req) (s : State) : Host.Outcome State Fault Refusal := stauc ctxFurlCmd r s

/-- 5 ms after a furl was accepted the package withdraws from collectives still in flight (R291). -/
def execFurlWithdrawLimit (ctx : Nat) (s : State) : Host.Outcome State Fault Refusal :=
  settle s (s.whenAlive (if ctxState s ctx == some .furling then s.withdrawCtx ctx else s))

/-- The DRAM regions that a furl zeroes: pools, descriptor areas, session list regions, save areas (R291 step 5). -/
def State.furlRegions (s : State) (c : Nat) (x : Ctx) : List (Nat × Nat × Nat) :=
  (x.kv.flatMap fun e => [(e.1, e.2.pool, e.2.units * e.2.unit), (e.1, e.2.desc, 16 * e.2.descCap)])
  ++ ((s.sess.filter fun e => e.2.ctx == c).flatMap fun e =>
        e.2.listPtr.map fun q => (q.1, q.2 % 2 ^ 48, 256 + 4 * e.2.listCap))
  ++ x.saves.map fun e => (e.1, e.2.1, e.2.2)

/-- Regions of DRAM are zeroed; a fenced mast serves no access (R223, R411). -/
def State.zeroRegions (s : State) (rs : List (Nat × Nat × Nat)) : State :=
  rs.foldl (fun (s : State) r => if s.mastUp r.1 then s.modMast r.1 fun z => z.zeroDram r.2.1 r.2.2 else s) s

/-- Step 4 of a furl: requests become free, sessions and pages are released, layer records reset (R291). -/
def State.releaseServing (s : State) (c : Nat) : State :=
  match s.ctx? c with
  | none => s
  | some x =>
    let s := { s with reqs := s.reqs.filter fun e => e.2.ctx != c, sess := s.sess.filter fun e => e.2.ctx != c,
                      imports := s.imports.filter fun e => e.2.ctx != c }
    let s := x.kv.foldl (fun (s : State) e => s.setPool c e.1 (x.pool e.1).renewed) s
    s.ttReset c

/-- Step 5 of a furl: memory is zeroed, cache lines of the context are invalidated, and its engines pass on (R229, R291,
R455). -/
def State.furlZero (s : State) (c : Nat) (rs : List (Nat × Nat × Nat)) : State :=
  match s.ctx? c with
  | none => s
  | some x =>
    let s := s.zeroRegions rs
    let s := s.mapMasts fun m z => { z.dropLines c with pmc := if s.fencedMast m then z.pmc else z.pmc.unserve c }
    x.masts.foldl (fun (s : State) m => s.freeEngines c m) s

/-- What of a context's serving state ends with a furl. DESIGN CHOICE (log entry 107): the last acknowledged step stays (R210). -/
def Ctx.furlClear (x : Ctx) : Ctx :=
  { x with state := .furled, step := none, atEnd := false, held := [], owed := [], txq := [], recorded := [], live := [],
           wait := [], cleat := [], stopAt := [], stopped := [], spilled := [],
           mirror := { x.mirror with unacked := [], lines := 0, backlog := [], sessCmds := [], resync := [], late := [], logged := [] },
           holder := Holder.reset, met := [] }

/-- A deferred unfurl proceeds (R274, R491). -/
def State.unfurlDeferred (s : State) (c : Nat) : State :=
  s.modCtx c fun x => if x.deferred && !x.owesZero then { x with deferred := false, state := .unfurling } else x

/-- Steps 3 to 6 of a furl (R291, R491). -/
def State.furlEnd (s : State) (c : Nat) : State :=
  match s.ctx? c with
  | none => s
  | some x =>
    if x.state != .furling || x.masts.any fun m => s.calling c m then s
    else
      let rs := s.furlRegions c x
      let s := (List.range 8).foldl (fun (s : State) m => s.modMast m fun z => z.stopCtx c) s
      let s := (s.dropFabric c).releaseServing c
      let s := s.modCtx c Ctx.furlClear
      let s := if s.pwr.coolstop then s.modCtx c fun x => { x with owesZero := true, zeroList := rs }
        else s.furlZero c rs
      let s := (s.retarget.completeOf c .furl (ans stDone)).unfurlDeferred c
      s.pumpAll

/-- A furl ends: requests, sessions and pages are freed, regions zeroed, engines released, and the context is furled
(R291). -/
def execFurlComplete (ctx : Nat) (s : State) : Host.Outcome State Fault Refusal := settle s (s.whenAlive (s.furlEnd ctx))

/-! ## Destruction (R293) -/

/-- A destroyed context's counters on a mast: its shadows are discarded; the counters of a fenced mast keep their values (R455, R460). -/
def Mast.forgetCtx (c : Nat) (z : Mast) : PmcBlk :=
  let b := if !z.fenced then z.pmc.unserve c else if z.pmc.served = c then { z.pmc with served := 0 } else z.pmc
  { b.orphan c with shadows := b.shadows.filter fun e => e.1 / 16 != c }

/-- Everything of a context is released; its regions are being zeroed from now on. -/
def State.destroy (s : State) (c : Nat) : State :=
  match s.ctx? c with
  | none => s
  | some x =>
    let ids := (s.hal.shards.filter fun e => e.2.ctx == c).map (·.1)
    let s := ids.foldl (fun (s : State) i => s.removeShard i) s
    let rs := (x.grants.map fun g => (g.mast, g.base, g.size)) ++ (x.saves.map fun e => (e.1, e.2.1, e.2.2)) ++ x.zeroList
    let s := if x.owesZero then x.masts.foldl (fun (s : State) m => s.freeEngines c m) s else s
    let s := s.modCol fun k => { k.reefDrop (s.ownsGroup c) with groups := k.groups.filter fun e => e.2.ctx != c }
    let s := s.mapMasts fun _ z => { z with
      mc := { z.mc with ctxs := tdel z.mc.ctxs c }, pmc := z.forgetCtx c,
      tt := { z.tt with latch := tdel z.tt.latch c }, rtu := { z.rtu with last := tdel z.rtu.last c } }
    { s with ctxs := tdel s.ctxs c,
             zeroing := if rs.isEmpty then s.zeroing else tset s.zeroing c (tgetD s.zeroing c [] ++ rs),
             pmc := s.pmc.orphan c }

def ctxDestroyAct (r : Req) (s : State) : State × Ans :=
  let c := r.ctx.toNat
  guardAct [argRsv r 0 0, noCtx s r, ctxStateCheck s r, (ctxState s c != some .furled, ans stState)] s
    ((s.completeAll c stState fun _ => true).destroy c, ans stDone)

def ctxDestroyCmd : Cmd := { opcode := 0x0204, device := false, lenOk := noPayload, act := ctxDestroyAct }

/-- CTX_DESTROY: a furled context releases everything it holds and its id is free (R274, R293). -/
def execCtxDestroy (r : Req) (s : State) : Host.Outcome State Fault Refusal := stauc ctxDestroyCmd r s

/-- Zeroing ends: of a destroyed context's regions, which become free, or that which a furl owed since a coolant stop,
after which a deferred unfurl proceeds (R293, R491). -/
def State.zeroingEnd (s : State) (c : Nat) : State :=
  if s.pwr.coolstop then s
  else
    let rs := tgetD s.zeroing c []
    let s := { s.zeroRegions rs with zeroing := tdel s.zeroing c }
    match s.ctx? c with
    | none => s
    | some x =>
      if x.owesZero then
        ((s.furlZero c x.zeroList).modCtx c fun x => { x with owesZero := false, zeroList := [] }).unfurlDeferred c
      else s

/-- The zeroing of a destroyed or furled context's memory ends (R293, R491). -/
def execContextZeroingEnd (ctx : Nat) (s : State) : Host.Outcome State Fault Refusal :=
  settle s (s.whenAlive (s.zeroingEnd ctx))

/-! ## Query and priority (R288, R296) -/

/-- The code of a context's state (R288). -/
def CtxState.code : CtxState → Nat
  | .furled => 1
  | .unfurling => 2
  | .unfurled => 3
  | .displaced => 4
  | .furling => 5
  | .coolstop => 6
  | .torn => 7

def ctxQueryAct (r : Req) (s : State) : State × Ans :=
  guardAct [argRsv r 0 0, noCtx s r] s
    (s, match s.ctx? r.ctx.toNat with
        | some x => done1 (packFields [(0, 4, x.state.code), (4, 1, b2n x.preemptible), (5, 3, x.priority)])
        | none => ans stNoContext)

def ctxQueryCmd : Cmd := { opcode := 0x0205, device := false, lenOk := noPayload, act := ctxQueryAct }

/-- CTX_QUERY: the state code, PREEMPTIBLE and the job priority (R288). -/
def execCtxQuery (r : Req) (s : State) : Host.Outcome State Fault Refusal := stauc ctxQueryCmd r s

def ctxPriorityAct (r : Req) (s : State) : State × Ans :=
  guardAct [argRsv r 7 0, noCtx s r, ctxStateCheck s r] s
    ((s.modCtx r.ctx.toNat fun x => { x with priority := a0 r % 8 }).reevalAll true, ans stDone)

def ctxPriorityCmd : Cmd := { opcode := 0x0206, device := false, lenOk := noPayload, act := ctxPriorityAct }

/-- CTX_PRIORITY: the job priority, effective at the re-evaluation that follows (R296). -/
def execCtxPriority (r : Req) (s : State) : Host.Outcome State Fault Refusal := stauc ctxPriorityCmd r s

end Sys2Proof.Machine
end

