-- ==== Sys2Proof/Machine/ColRun.lean ====
section
/-! DEFINITION. How a collective runs on a member: reduction, the chunks each method sends and forwards, completion and
failure (R353 to R369, R382, R383). -/
namespace Sys2Proof.Machine

/-! ## Reduction (R354)

A partial sum of SUM_BF16 is carried in FP32, four bytes for each BF16 element, in two chunks (log entry 16). -/

def bfWord (x : Nat) : Word := BitVec.ofNat 32 (x % 65536 * 65536)

/-- A contribution as a partial result. -/
def redInit (dtype : Nat) (x : Bytes) : Bytes :=
  if dtype = 2 then (List.range (x.length / 2)).flatMap fun i => natLe 4 (bfWord (u16 x (2 * i))).toNat else x

/-- The larger of two contributions; a NaN where one is NaN (R354). -/
def redMax (a b : Word) : Word := if (ofFp a).isNan || (ofFp b).isNan then fpNan else fpMax a b

/-- A partial result with one more contribution. -/
def redAdd (dtype : Nat) (p x : Bytes) : Bytes :=
  let w := fun b i => BitVec.ofNat 32 (u32 b (4 * i))
  match dtype with
  | 1 => (List.range (x.length / 4)).flatMap fun i => natLe 4 (fpAdd (w p i) (w x i)).toNat
  | 2 => (List.range (x.length / 2)).flatMap fun i => natLe 4 (fpAdd (w p i) (bfWord (u16 x (2 * i)))).toNat
  | 3 => (List.range (x.length / 4)).flatMap fun i => natLe 4 (redMax (w p i) (w x i)).toNat
  | _ => (List.range (x.length / 2)).flatMap fun i => natLe 2 ((redMax (bfWord (u16 p (2 * i))) (bfWord (u16 x (2 * i)))).toNat / 65536)

/-- The result of a partial that holds every contribution. A NaN of a maximum is the one that R354 names, in a group of one
member too. -/
def redOut (dtype : Nat) (p : Bytes) : Bytes :=
  let w := fun i => BitVec.ofNat 32 (u32 p (4 * i))
  let h := fun i => bfWord (u16 p (2 * i))
  match dtype with
  | 2 => (List.range (p.length / 4)).flatMap fun i => natLe 2 (toBf (ofFp (w i)))
  | 3 => (List.range (p.length / 4)).flatMap fun i => natLe 4 (redMax (w i) (w i)).toNat
  | 4 => (List.range (p.length / 2)).flatMap fun i => natLe 2 ((redMax (h i) (h i)).toNat / 65536)
  | _ => p

/-- The reduction of the contributions of ranks 0, 1, … in order. -/
def reduce (dtype : Nat) : List Bytes → Bytes
  | [] => []
  | x :: xs => redOut dtype (xs.foldl (redAdd dtype) (redInit dtype x))

/-! ## Shapes (R353, R359) -/

def opAR : Nat := 1
def opRS : Nat := 2
def opAG : Nat := 3
def opBC : Nat := 4
def opBAR : Nat := 5
def opPLAIN : Nat := 6
def opDISP : Nat := 7
def opRET : Nat := 8

def isReduction (op : Nat) : Bool := op == 1 || op == 2
def isA2aRows (op : Nat) : Bool := op == 7 || op == 8

/-- Chunks of COUNT bytes. -/
def ColCall.per (c : ColCall) : Nat := c.count / 128

/-- Chunks of the region that the ring or a switch works on. -/
def ColCall.total (c : ColCall) (g : Nat) : Nat := if c.op = opRS || c.op = opAG then g * c.per else c.per

/-- Chunk `i` of this member's source. -/
def ColCall.own (c : ColCall) (i : Nat) : Bytes := sub c.prod (128 * i) 128

/-- A chunk received from a sender. -/
def ColCall.from? (c : ColCall) (r i : Nat) : Option Bytes := (c.got.find? fun x => x.1 == r && x.2.1 == i).map (·.2.2)
def ColCall.fromD (c : ColCall) (r i : Nat) : Bytes := (c.from? r i).getD (zeros 128)

def prevRank (r g : Nat) : Nat := (r + g - 1) % g
def nextRank (r g : Nat) : Nat := (r + 1) % g

/-! Chunk ids of a ring count the chunks of one rank to the next (R361): for a reduction first the partials, then the results;
for ALL_GATHER the blocks in the order in which they come round (log entry 16). -/

/-- Chunks in which rank `r` sends one partial: a rank after the first adds in FP32 (R354). -/
def ColCall.wide (c : ColCall) (r : Nat) : Nat := if c.dtype = 2 && 0 < r then 2 else 1

/-- Chunks of partials that rank `r` sends to the next. -/
def ColCall.partials (c : ColCall) (g r : Nat) : Nat := if r + 1 < g then c.wide r * c.total g else 0

/-- The place of the first result that rank `r` sends on: the blocks of REDUCE_SCATTER up to its own have been delivered. -/
def ColCall.firstRes (c : ColCall) (g r : Nat) : Nat := if c.op = opAR || r + 1 = g then 0 else (r + 1) * c.per

/-- The id under which rank `r` sends the result at place `i`. -/
def ColCall.resId (c : ColCall) (g r i : Nat) : Nat := c.partials g r + i - c.firstRes g r

/-- The partial at place `i` from rank `p`, when all of it is here. -/
def ColCall.partial? (c : ColCall) (p i : Nat) : Option Bytes :=
  let l := (List.range (c.wide p)).map fun k => c.from? p (c.wide p * i + k)
  if l.any Option.isNone then none else some (l.flatMap fun b => b.getD [])

/-- A partial from rank `p` with the contribution of this rank at place `i`. -/
def ColCall.addTo (c : ColCall) (p i : Nat) (x : Bytes) : Bytes :=
  redAdd c.dtype (if p = 0 then redInit c.dtype x else x) (c.own i)

/-- A barrier's contribution: one chunk of zeros to every other member (log entry 16). -/
def barrierChunk : Bytes := zeros 128

/-- Chunk `i` of this member's source, sent to a receiver under an id. -/
def ColCall.srcChunk (c : ColCall) (dest id i : Nat) : ColChunk := newChunk dest id 0 (c.own i) (some (c.src + 128 * i))

/-- The first `n` chunks of this member's source for one receiver. -/
def ColCall.srcChunks (c : ColCall) (dest n : Nat) : List ColChunk := (List.range n).map fun i => c.srcChunk dest i i

/-- The chunks a member sends when its call starts. Rows of A2A_DISPATCH and A2A_RETURN are added by their own rules. -/
def ColCall.firstSends (c : ColCall) (g : Nat) : List ColChunk :=
  let others := (List.range g).filter (· != c.rank)
  if c.method = mSwitch then c.srcChunks switchRank (c.total g)
  else if c.method = mRing then
    if g ≤ 1 then []
    else if isReduction c.op then
      (if c.rank = 0 then c.srcChunks 1 (c.total g) else [])
    else if c.op = opAG then c.srcChunks (nextRank c.rank g) c.per
    else (if c.rank = c.root then c.srcChunks (nextRank c.rank g) c.per else [])
  else if c.op = opAR || c.op = opAG then others.flatMap fun j => c.srcChunks j c.per
  else if c.op = opRS || c.op = opPLAIN then
    others.flatMap fun j => (List.range c.per).map fun i => c.srcChunk j i (j * c.per + i)
  else if c.op = opBC then
    (if c.rank = c.root then others.flatMap fun j => c.srcChunks j c.per else [])
  else if c.op = opBAR then others.map fun j => newChunk j 0 0 barrierChunk none
  else []

/-- What a member of a ring sends on when the chunk with id `x` arrives with `data` (R359). -/
def ColCall.forward (c : ColCall) (g x : Nat) (data : Bytes) : List ColChunk :=
  let r := c.rank
  let on := fun (dest id : Nat) (b : Bytes) => newChunk dest id 0 b none
  let p := prevRank r g
  if c.method != mRing then []
  else if isReduction c.op then
    if x < c.partials g p then
      let i := x / c.wide p
      match c.partial? p i with
      | none => []
      | some b =>
        let sum := c.addTo p i b
        if r + 1 < g then (List.range (c.wide r)).map fun k => on (r + 1) (c.wide r * i + k) (sub sum (128 * k) 128)
        else if c.op = opRS && i / c.per = r then [] else [on 0 (c.resId g r i) (redOut c.dtype sum)]
    else
      let i := x - c.partials g p + c.firstRes g p
      let last := if c.op = opAR then g - 2 else i / c.per
      if r < last then [on (r + 1) (c.resId g r i) data] else []
  else if c.op = opAG then
    (if x / c.per + 2 < g then [on (nextRank r g) (x + c.per) data] else [])
  else if c.op = opBC then (if nextRank r g = c.root then [] else [on (nextRank r g) x data])
  else []

/-- The chunks a member waits for, as sender and id: every rule of R353 with the method of R359 or R363. -/
def ColCall.expects (c : ColCall) (g : Nat) : List (Nat × Nat) :=
  let n := c.total g
  let r := c.rank
  let others := (List.range g).filter (· != r)
  if c.method = mSwitch then
    (if c.op = opAR then (List.range n).map fun i => (switchRank, i)
     else (List.range c.per).map fun i => (switchRank, i))
  else if c.method = mRing then
    let p := prevRank r g
    if g ≤ 1 then []
    else if isReduction c.op then
      (List.range (c.partials g p + (if r + 1 < g then (if c.op = opAR then n else (g - 1 - r) * c.per) else 0))).map
        fun i => (p, i)
    else if c.op = opAG then (List.range ((g - 1) * c.per)).map fun i => (p, i)
    else if r = c.root then [] else (List.range n).map fun i => (p, i)
  else if c.op = opBC then (if r = c.root then [] else (List.range c.per).map fun i => (c.root, i))
  else if c.op = opBAR then others.map fun j => (j, 0)
  else if isA2aRows c.op then []
  else others.flatMap fun j => (List.range c.per).map fun i => (j, i)

/-- Rows of an all-to-all that have arrived whole from a sender. -/
def ColCall.rowsFrom (c : ColCall) (r : Nat) : Nat := (c.tagsGot.filter fun t => t.1 == r).length

/-- Every other member's END marker has arrived (R357). -/
def ColCall.allEnds (c : ColCall) (g : Nat) : Bool := ((List.range g).filter (· != c.rank)).all fun j => (tget c.ends j).isSome

/-- A member holds everything its call waits for (R353, R357). -/
def ColCall.holdsAll (c : ColCall) (g : Nat) : Bool :=
  (c.expects g).all (fun e => (c.from? e.1 e.2).isSome)
  && (!isA2aRows c.op || (c.held.isEmpty && ((List.range g).filter (· != c.rank)).all fun j =>
        match tget c.ends j with | some n => n == c.rowsFrom j | none => false))

/-- The destination bytes of a complete call (R353, R354). -/
def ColCall.result (c : ColCall) (g : Nat) : Bytes :=
  let n := c.total g
  let p := prevRank c.rank g
  let block := fun j => sub c.prod (j * c.count) c.count
  let chunks := fun (k : Nat) (f : Nat → Bytes) => (List.range k).flatMap f
  if c.op = opAR || c.op = opRS then
    let base := if c.op = opRS then c.rank * c.per else 0
    if c.method = mSwitch then chunks c.per fun i => c.fromD switchRank i
    else if c.method = mRing then
      if g ≤ 1 then redOut c.dtype (redInit c.dtype c.prod)
      else chunks c.per fun i =>
        if c.rank + 1 = g then redOut c.dtype (c.addTo p (base + i) ((c.partial? p (base + i)).getD []))
        else c.fromD p (c.resId g p (base + i))
    else chunks c.per fun i => reduce c.dtype ((List.range g).map fun j =>
        if j = c.rank then c.own (base + i) else c.fromD j i)
  else if c.op = opAG then
    chunks (g * c.per) fun i =>
      let j := i / c.per
      if j = c.rank then c.own (i % c.per)
      else if c.method = mRing then c.fromD p ((p + g - j) % g * c.per + i % c.per)
      else c.fromD j (i % c.per)
  else if c.op = opBC then
    (if c.rank = c.root then c.prod
     else chunks c.per fun i => c.fromD (if c.method = mRing then p else c.root) i)
  else if c.op = opPLAIN then
    (List.range g).flatMap fun j => if j = c.rank then block j else chunks c.per fun i => c.fromD j i
  else []

/-! ## Failure (R368) -/

/-- The flag of COL_ERR for a cause (R374). -/
def colFlag (cause : Nat) : Word :=
  if cause = 0x0701 || cause = 0x0702 then 0x40 else if cause = 0x0703 then 0x10 else if cause = 0x0704 then 8
  else if cause = 0x0705 || cause = 0x0706 then 0x20 else if cause = 0x0708 || cause = 0x0709 then 0x80 else 0

def State.colErr (s : State) (w : Word) : State := s.modCol fun c => { c with err := c.err ||| w }

/-- A call in flight fails: ABORT to the other members, and the contained error. -/
def State.failCall (s : State) (grp m cause : Nat) : State :=
  match s.colCall? grp m with
  | none => s
  | some c =>
    let s := (s.colErr (colFlag cause)).colTellAll c kAbort cause
    let s := (s.modGroup grp fun g => { g with outcome := 3 }).dropCall grp m c.ctx false
    s.containedAt cause m noUnit c.ctx

/-- A call whose memory access failed withdraws and takes the contained error of the access (R368). -/
def State.failIo (s : State) (grp m : Nat) (e : Nat × Nat) : State :=
  match s.colCall? grp m with
  | none => s
  | some c =>
    let s := s.colTellAll c kWithdraw 0
    let s := (s.modGroup grp fun g => { g with outcome := 3 }).dropCall grp m c.ctx false
    s.ioFail c.ctx m noUnit e

/-! ## Completion -/

/-- The context agrees a reef target at the boundary of an agreement call: one on the group that was its reef group when the
call started (R383, R401). -/
def State.agree (s : State) (c : ColCall) : State :=
  if c.op = opBC || !c.agrees then s
  else (s.modCtx c.ctx fun x => { x with reefTarget := c.reefMax, reefSeq := c.seq }).retarget

/-- The call completes (R352, R360, R373). -/
def State.colComplete (s : State) (grp m : Nat) : State :=
  match s.colCall? grp m with
  | none => s
  | some c =>
    let s := c.owedAcks.foldl (fun (s : State) r => s.sendAck grp m r) s
    let s := s.modGroup grp fun g => { g with method := c.method + 1, outcome := if c.fallback then 2 else 1 }
    let s := s.agree c
    let s := ((s.mast m).calls.filter fun r => r.ctx == c.ctx && r.kind == .collective).foldl
      (fun (s : State) r => s.callEnded c.ctx m r.desc) s
    s.dropCall grp m c.ctx c.chain

/-- The last work of a call that holds everything, with its chunks acknowledged: the result is written, and the receive
header of a dispatch (R357); a dispatch that dropped rows fails. -/
def State.finishCall (s : State) (grp m : Nat) (g : Nat) : State :=
  match s.colCall? grp m with
  | none => s
  | some c =>
    if c.op = opBAR || c.op = opRET then s.colComplete grp m
    else
      let data := if c.op = opDISP then natLe 4 c.rows ++ natLe 4 c.dropped ++ zeros 120 else c.result g
      let q := s.writeAt m (stream c.ctx 0x1A) c.dst data
      match q.2 with
      | some e => q.1.failIo grp m e
      | none => if 0 < c.dropped then q.1.failCall grp m 0x0707 else q.1.colComplete grp m

/-- Whether every local A2A_RETURN of the group's SEQ holds its rows (R358; log entry 16). -/
def State.returnsReady (s : State) (c : ColCall) (g : Nat) : Bool :=
  c.op != opRET || (s.col.calls.filter fun d => d.group == c.group && d.seq == c.seq).all fun d => d.holdsAll g

/-- A call completes once it holds everything and its own chunks are acknowledged (R365: it owns its source until
then); a dispatch that dropped rows ends once every END marker has arrived (R357). A call that a coolant stop freezes ends
after it (R394). -/
def State.checkDone (s : State) (grp m : Nat) : State :=
  match s.colCall? grp m, s.group? grp with
  | some c, some g =>
    let n := g.members.length
    if !s.frozen c.ctx && ((c.holdsAll n && c.sent.isEmpty && s.returnsReady c n) || (0 < c.dropped && c.allEnds n)) then
      s.finishCall grp m n
    else s
  | _, _ => s

/-- Every local call of a group is looked at again. -/
def State.checkGroup (s : State) (grp : Nat) : State :=
  (s.col.calls.filter fun c => c.group == grp).foldl (fun (s : State) c => s.checkDone grp c.mast) s

/-! ## Rows of the expert all-to-all (R357, R358) -/

/-- A dispatch row is placed in order of arrival, or dropped beyond RECV_CAP (R357). -/
def State.placeDispatch (s : State) (grp m tag : Nat) (row : Bytes) : State :=
  match s.colCall? grp m with
  | none => s
  | some c =>
    if c.cap ≤ c.rows then s.modCall grp m fun c => { c with dropped := c.dropped + 1 }
    else
      let s := s.modCall grp m fun c => { c with rows := c.rows + 1 }
      let q := s.writeAt m (stream c.ctx 0x1A) (c.dst + 128 + c.rows * (128 + c.count)) (natLe 8 tag ++ zeros 120 ++ row)
      match q.2 with | some e => q.1.failIo grp m e | none => q.1

/-- A stray result row; R136 names no address for its record (R406). -/
def State.strayRow (s : State) (ctx m : Nat) : State :=
  (s.countM m (occ 0x036 1 1 ctx 0x16)).contained (mkRec 0x1106 clsUC m noUnit ctx)
  |> fun s => s.modMast m fun z => { z with rtu := { z.rtu with err := z.rtu.err ||| 0x40 } }

/-- A result row is placed in a mast's return region under R135 and R136. A RANK not below TOP_K names no slot: the row is
stray (DESIGN CHOICE, log entry 77). -/
def State.placeReturn (s : State) (grp m tag : Nat) (row : Bytes) : State :=
  match s.colCall? grp m with
  | none => s
  | some c =>
    let rd := control c.ctx 0x16
    let q := s.readAt m rd c.aux1 64
    let d := parseRoute q.2.1
    let t := q.1.readAt m rd d.tokens (8 * d.count)
    match (enum (tokenList t.2.1 d.count)).find? fun e => keyOf e.2 == keyOf tag with
    | none => t.1.strayRow c.ctx m
    | some e =>
      let i := e.1 * d.topK + tagRank tag
      let a := t.1.readAt m rd (d.assign + 8 * i) 8
      let sl := parseSlot a.2.1 0
      if d.topK ≤ tagRank tag || tagPkg tag != s.nlc.ownIndex || sl.status == 2 || sl.expert != tagExpert tag || sl.arrived then
        a.1.strayRow c.ctx m
      else
        let w := a.1.writeAt m (stream c.ctx 0x1A) (c.dst + i * c.count) row
        match w.2 with
        | some e => w.1.failIo grp m e
        | none => (w.1.writeAt m rd (d.assign + 8 * i) { sl with arrived := true }.image).1

/-- The mast of this package whose registered range holds a row's key (R358). -/
def State.returnMast (s : State) (grp seq tag : Nat) : Option Nat :=
  (s.col.calls.find? fun c => c.group == grp && c.seq == seq && c.op == opRET && decide (c.keyLo ≤ keyOf tag ∧ keyOf tag ≤ c.keyHi)).map
    (·.mast)

/-- A whole row has arrived at the member on mast `m` (R357, R358). A result row with PAD counts toward its sender's END marker and is
discarded (R130), counted in INTAKE_PAD (DESIGN CHOICE, log entry 106); a dispatch row with PAD is placed, and the intake discards it
(log entry 16). -/
def State.rowArrived (s : State) (grp m seq tag : Nat) (row : Bytes) : State :=
  match s.colCall? grp m with
  | none => s
  | some c =>
    if c.op = opDISP then s.placeDispatch grp m tag row
    else if tagPad tag then s.countM m (occ 0x034 1 1 c.ctx 0x16)
    else match s.returnMast grp seq tag with
      | some k => s.placeReturn grp k tag row
      | none => ((s.countH (occ 0x033 1 1 c.ctx 0x01)).colErr 0x100).strayRow c.ctx m

/-- Chunk `i` of an all-to-all completed its row: the row takes its place. -/
def State.rowChunk (s : State) (grp m from_ i info : Nat) : State :=
  match s.colCall? grp m with
  | none => s
  | some c =>
    let o := i / c.per
    if isA2aRows c.op && (List.range c.per).all fun k => (c.from? from_ (o * c.per + k)).isSome then
      let row := (List.range c.per).flatMap fun k => c.fromD from_ (o * c.per + k)
      (s.modCall grp m fun c => { c with tagsGot := c.tagsGot ++ [(from_, o, info)] }).rowArrived grp m c.seq info row
    else s

/-! ## Methods -/

/-- A call starts, or runs again, by a method: what it held of another attempt is gone, and its first chunks leave. -/
def State.runMethod (s : State) (grp m method : Nat) : State :=
  match s.group? grp with
  | none => s
  | some g =>
    let s := s.modCall grp m fun c => { c with method, got := [], sent := [], acked := [], owedAcks := [], ackPorts := [] }
    match s.colCall? grp m with
    | none => s
    | some c => s.addChunks grp m (c.firstSends g.members.length)

/-- MIN_PLANES, SMALL_LOG2 and COL_TIMEOUT as selected (R372). -/
def Collectives.planesMin (c : Collectives) : Nat := if c.minPlanes = 0 || 36 < c.minPlanes then 18 else c.minPlanes
def Collectives.smallLog (c : Collectives) : Nat := if c.smallLog2 < 7 || 24 < c.smallLog2 then 14 else c.smallLog2
def Collectives.timeoutUs (c : Collectives) : Nat := (if c.timeoutMs = 0 then 50 else c.timeoutMs) * 1000

/-- The method that ALG selects (R359). -/
def algMethod (smallLog op alg count : Nat) : Nat :=
  if op = opBAR || 6 ≤ op then mTree
  else if alg = 1 then mRing else if alg = 2 then mTree
  else if count ≤ 2 ^ smallLog then mTree else mRing

/-- A member's source is read again for a call that runs again (R363, R365); a frozen mast reads nothing (R394). -/
def State.rereadSource (s : State) (c : ColCall) : State × Except (Nat × Nat) Bytes :=
  if c.prod.isEmpty || s.frozen c.ctx then (s, .ok c.prod) else s.fetch c.mast (stream c.ctx 0x1A) c.src c.prod.length

/-- A switch attempt falls back to the method of ALG with the same SEQ (R363). -/
def State.fallBack (s : State) (grp m : Nat) : State :=
  match s.colCall? grp m with
  | none => s
  | some c =>
    if c.method != mSwitch then s
    else
      let s := (s.countH (occ 0x030 1 1 c.ctx 0x01)).colErr 2
      let s := s.modCall grp m fun c => { c with fallback := true }
      match s.rereadSource c with
      | (s, .error e) => s.failIo grp m e
      | (s, .ok b) =>
        (s.modCall grp m fun c => { c with prod := b }).runMethod grp m (algMethod c.smallLog c.op c.alg c.count)

/-- Whether a group has a member on another package. -/
def State.groupAbroad (s : State) (g : Group) : Bool := g.members.any fun x => x.pkg != s.nlc.ownIndex

/-- Calls end with COL_DEAD when a member's package is dead (R366, R368). -/
def State.failDead (s : State) (pkg : Nat) : State :=
  (s.col.calls.filter fun c => match s.group? c.group with
    | some g => g.members.any fun x => x.pkg == pkg
    | none => false).foldl (fun (s : State) c => s.failCall c.group c.mast 0x0705) s

end Sys2Proof.Machine
end

