-- ==== Sys2Proof/Machine/ExportEvents.lean ====
section
/-! DEFINITION. Exports as they arrive and as they end: headers, pages, acknowledgements and timeouts (R167, R196 to R199,
R204). -/
namespace Sys2Proof.Machine

/-- The key of an import: source package and export id. -/
def importKey (pkg id : Nat) : Nat := pkg * 2 ^ 32 + id

/-- The header agrees with the receiving context's key-value records (R196). -/
def headerMatches (x : Ctx) (h : ExportHeader) : Bool :=
  match x.kv with
  | [] => false
  | (_, k) :: _ => k.layers == h.layers && k.heads == h.heads && k.dh32 == h.dh32 && k.fmt == h.kvFmt && maskOf x.kvMasts == h.masts

/-- An import is recorded. -/
def State.setImport (s : State) (key : Nat) (i : Import) : State := { s with imports := tset s.imports key i }

/-! ## Headers (R196) -/

/-- The fields of an accepted header go into the target entry and its session (R179, R196). -/
def importFields (h : ExportHeader) (now : Nat) (r : Request) : Request :=
  { r with length := h.length, lastToken := h.lastToken, maxLength := h.maxLength, seed := h.seed, counter := h.counter,
           temperature := h.temperature, topP := h.topP, topK := h.topK, stopMask := h.stopMask, priority := h.priority,
           deadline := if h.deadlineLeft = 0 then 0 else now + h.deadlineLeft, promptStart := h.length, promptEnd := h.length,
           imported := true }

/-- A header for a request: refused, mismatching, or taken (R196). -/
def State.headerFor (s : State) (h : ExportHeader) (x : Ctx) : State :=
  let key := importKey h.srcPkg h.exportId
  let entry := fun (session : Nat) (refused : Bool) =>
    ({ ctx := h.targetCtx, slot := h.targetSlot, session, copy := false, refused, got := [], done := [] } : Import)
  match s.req? h.targetSlot with
  | none => s.setImport key (entry 0 true)
  | some r =>
    if r.ctx != h.targetCtx || r.state != rQueued || !r.imp || (s.session? r.session).isNone then s.setImport key (entry 0 true)
    else if headerMatches x h then
      let s := s.modReq h.targetSlot (importFields h s.time)
      ((s.modSession r.session fun y => { y with length := h.length }).setImport key (entry r.session false)).idle h.targetCtx
    else
      let s := ({ s with srvErr := s.srvErr ||| 4 }).faultReq h.targetSlot 5
      ((s.oweEntry h.targetCtx h.targetSlot 5 r.stop 5).setImport key (entry r.session true)).idle h.targetCtx

/-- The least session id that is not open (R199; DESIGN CHOICE, log entry 31). -/
def State.freeSession (s : State) : Option Nat := (List.range 16384).find? fun i => !thas s.sess i

/-- A session of a holder for a source session: the one it keeps, or a new one, when an id is free (R199). -/
def State.mirrorSession (s : State) (c src : Nat) (cap : Nat) : State × Option Nat :=
  match s.ctx? c with
  | none => (s, none)
  | some x =>
    match tget x.holder.sessions src with
    | some i => (s, some i)
    | none =>
      match s.freeSession with
      | none => (s, none)
      | some i =>
        let y : Session := newSession c [] cap mNone
        (({ s with sess := tset s.sess i y }).modCtx c fun x =>
           { x with holder := { x.holder with sessions := tset x.holder.sessions src i } }, some i)

def State.modHolder (s : State) (c : Nat) (f : Holder → Holder) : State := s.modCtx c fun x => { x with holder := f x.holder }

/-- The own session of a source session. -/
def State.ownSession (s : State) (c src : Nat) : Option Nat := (s.ctx? c).bind fun x => tget x.holder.sessions src

/-- A source session cannot be held: it is marked LOST and let go (R199). -/
def State.holderLoses (s : State) (c src : Nat) : State :=
  let s := match s.ownSession c src with | some i => s.closeSession i | none => s
  s.modHolder c fun k => { k with lost := insAsc src k.lost, sessions := tdel k.sessions src, entries := tdel k.entries src }

/-- A copy of the source begins: the mirror sessions of an earlier one are released, and the log begins anew at ring line 0
(R204; DESIGN CHOICE, log entry 33). A header of the copy that is under way changes nothing. -/
def State.renewRing (s : State) (c n : Nat) : State :=
  match s.ctx? c with
  | none => s
  | some x =>
    if x.holder.copyNo = n then s
    else (x.holder.sessions.foldl (fun (s : State) e => s.closeSession e.2) s).modHolder c fun _ => { Holder.reset with copyNo := n }

/-- A header that copies a session to its holder, or begins the copy (R204). A session for which no id is free is LOST (R199).
The header of a copy without pages is answered as its page 0 would be (DESIGN CHOICE, log entry 31). -/
def State.headerToHolder (s : State) (h : ExportHeader) (x : Ctx) : State :=
  let key := importKey h.srcPkg h.exportId
  let taken := fun (s : State) (session : Nat) (refused : Bool) =>
    let s := s.setImport key
      { ctx := h.targetCtx, slot := h.targetSlot, session, copy := true, refused, got := [], done := [] }
    if h.pages = 0 then s.emitFab h.srcPkg (.pageAck h.srcPkg h.exportId 0 refused) else s
  if !headerMatches x h then taken s 0 true
  else
    let s := s.renewRing h.targetCtx h.seed
    if 0x4000 ≤ h.targetSlot then s
    else
      let q := s.mirrorSession h.targetCtx h.targetSlot 16384
      match q.2 with
      | none => taken (q.1.holderLoses h.targetCtx h.targetSlot) 0 true
      | some i =>
        let s := q.1.releasePages i 0
        taken (s.modSession i fun y => { y with length := h.length }) i false

/-- An export header arrives (R196). -/
def State.headerIn (s : State) (h : ExportHeader) : State :=
  match s.ctx? h.targetCtx with
  | none => s.setImport (importKey h.srcPkg h.exportId)
      { ctx := h.targetCtx, slot := h.targetSlot, session := 0, copy := false, refused := true, got := [], done := [] }
  | some x =>
    if (match x.config with | some g => g.holder | none => false) && !x.holder.promoted then s.headerToHolder h x
    else s.headerFor h x

/-- EXPORT_HEADER_RECEIVE (R196). -/
def execExportHeaderReceive (h : ExportHeader) (s : State) : Host.Outcome State Fault Refusal :=
  settle s (s.whenAlive (s.whenAssigned (s.headerIn h)))

/-! ## Pages (R167, R197, R198) -/

/-- A page is answered: acknowledged or refused, once. -/
def State.answerPage (s : State) (key pkg id p : Nat) (refused : Bool) : State :=
  let s := { s with imports := tmod s.imports key fun i => { i with done := insAsc p i.done } }
  s.emitFab pkg (.pageAck pkg id p refused)

/-- The units that a delivered page takes: one when it is sealed, else two (R167); none when the pool lacks them. -/
def importUnits (k : KvRec) (p : Pool) (fmt : Nat) : Option (Nat × Option Nat) :=
  match freeUnits k p with
  | a :: rest => if fmt = 2 then some (a, none) else (match rest with | b :: _ => some (a, some b) | [] => none)
  | [] => none

/-- A delivered page's frame, as its bytes require (R167). -/
def importFrame (fmt valid : Nat) (upper : Option Nat) : Frame :=
  { st := if fmt = 2 then fSealed else if 256 ≤ valid then fFull else fOpen, upper, refs := 1, pend := false, fmt,
    shipFrom := 0, ships := 0, sealDue := 0, stage := none, image := false }

/-- One mast takes its copy of a page: units, bytes, page-list entry. -/
def State.takePage (s : State) (i : Import) (p : ExportPage) : Option State :=
  match s.ctx? i.ctx with
  | none => none
  | some x =>
    match tget x.kv p.mast with
    | none => none
    | some k =>
      if p.fmt != 2 && p.fmt != k.fmt then none
      else match importUnits k (x.pool p.mast) p.fmt with
        | none => none
        | some u =>
          let fr := importFrame p.fmt p.valid u.2
          let s := s.setPool i.ctx p.mast { x.pool p.mast with frames := tset (x.pool p.mast).frames u.1 fr }
          let s := s.writePage i.ctx p.mast k u.1 fr (fitTo p.bytes (k.geom.bytes p.fmt))
          some (s.setPage i.session p.mast p.page (some u.1))

/-- What was taken for a page on other masts is returned (R197). -/
def State.returnPage (s : State) (key : Nat) (i : Import) (p : Nat) : State :=
  let s := (i.got.filter fun g => g.1 == p).foldl (fun (s : State) g =>
    match (s.session? i.session).bind fun y => y.frame g.2 p with
    | some f => (s.setPage i.session g.2 p none).dropRef i.ctx g.2 f
    | none => s) s
  { s with imports := tmod s.imports key fun i => { i with got := i.got.filter fun g => g.1 != p } }

/-- Every mast of the context holds a page's entry. -/
def State.pageWhole (s : State) (i : Import) (p : Nat) : Bool :=
  match s.ctx? i.ctx, s.session? i.session with
  | some x, some y => x.kvMasts.all fun m => (y.frame m p).isSome
  | _, _ => false

/-- An import that no longer has its session: pages of it are refused (R196, R199). -/
def State.importGone (s : State) (i : Import) : Bool :=
  match s.ctx? i.ctx, s.session? i.session with
  | some x, some y => y.ctx != i.ctx || (x.state == .furling) || (x.state == .torn)
      || (i.copy && tget x.holder.sessions i.slot != some i.session)
  | _, _ => true

/-- One mast's copy of a page arrives (R197). A mirror session that finds no unit is LOST (R199). In a coolant stop the mast serves
no access, and the page is not taken (R222, R394). -/
def State.pageIn (s : State) (p : ExportPage) : State :=
  let key := importKey p.srcPkg p.exportId
  let refuse := s.emitFab p.srcPkg (.pageAck p.srcPkg p.exportId p.page true)
  match tget s.imports key with
  | none => refuse
  | some i =>
    if i.done.contains p.page then s
    else if i.refused || s.importGone i then s.answerPage key p.srcPkg p.exportId p.page true
    else if s.pwr.coolstop || !s.mastUp p.mast then s
    else
      let present := ((s.session? i.session).bind fun y => y.frame p.mast p.page).isSome
      let step := if present then some s else (s.takePage i p).map fun s =>
        { s with imports := tmod s.imports key fun i => { i with got := i.got ++ [(p.page, p.mast)] } }
      match step with
      | none =>
        let s := (s.returnPage key i p.page).answerPage key p.srcPkg p.exportId p.page true
        (if i.copy then s.holderLoses i.ctx i.slot else s).raiseMet i.ctx
      | some s =>
        if s.pageWhole i p.page then (s.answerPage key p.srcPkg p.exportId p.page false).idle i.ctx else s.raiseMet i.ctx

/-- EXPORT_PAGE_RECEIVE (R197). -/
def execExportPageReceive (p : ExportPage) (s : State) : Host.Outcome State Fault Refusal :=
  settle s (if p.mast < 8 then s.whenAlive (s.whenAssigned (s.pageIn p)) else s)

/-! ## Ends of pages at the source (R197) -/

/-- A page of an export of this package ends, and what waited for it goes on (R197, R204, R489). -/
def State.pageEnds (s : State) (id p st : Nat) : State :=
  match tget s.exports id with
  | none => s
  | some e =>
    if tget e.pages p = some 3 then
      let s := s.endPage id p st
      let s := if e.resync then s.syncCheck e.ctx else s
      s.idle e.ctx
    else s

/-- EXPORT_PAGE_ACK_RECEIVE: a page was written everywhere, or refused (R197). -/
def execExportPageAckReceive (exportId page : Nat) (refused : Bool) (s : State) : Host.Outcome State Fault Refusal :=
  settle s (s.whenAlive (s.whenAssigned (s.pageEnds exportId page (if refused then 1 else 0))))

/-- EXPORT_PAGE_TIMEOUT: EXPORT_TIMEOUT passed after a page was sent (R197). -/
def execExportPageTimeout (exportId page : Nat) (s : State) : Host.Outcome State Fault Refusal :=
  settle s (s.whenAlive (s.pageEnds exportId page 2))

end Sys2Proof.Machine
end

