-- ==== Sys2Proof/Machine/MemoryCmds.lean ====
section
/-! DEFINITION. Grants, and the memory commands of the host (R216 to R219, R223, R271, R275, R312, R316, R490). -/
namespace Sys2Proof.Machine

/-- Checks 10 and 11 of a device pointer in ARG0 whose space is at most `sp` and whose region of `len` bytes must lie in
that space (R213, R271). -/
def dptrChecks (s : State) (r : Req) (m1 sp len : Nat) : List (Bool × Ans) :=
  let p := dptr (a0 r)
  [argRsv r (lowMask 59) m1, (!s.present p.mast, refuse stBadArgument 23), (decide (sp < p.space), refuse stBadArgument 22),
   (p.space == 0 && decide (dramSize < p.off + len), refuse stBadArgument 16)]

/-- A pointer that names a fenced mast (R271). -/
def fencedPtr (s : State) (r : Req) : Bool × Ans := (s.fencedMast (dptr (a0 r)).mast, ans stFenced)

/-- In coolant stop no access of the host to a mast is served: it is answered COOLSTOP (R222, R394; DESIGN CHOICE, log entry
50). -/
def coolCheck (s : State) : Bool × Ans := (s.pwr.coolstop, ans stCoolstop)

/-- The region of a device pointer is memory of the request's context: granted DRAM, or slices of its placement. -/
def State.ptrGranted (s : State) (r : Req) (len : Nat) : Bool :=
  let p := dptr (a0 r)
  match s.ctx? r.ctx.toNat with
  | none => false
  | some x => if p.space = 0 then x.granted p.mast p.off len else x.sliceOk p.mast p.off len

/-! ## MEM_GRANT and MEM_RELEASE -/

/-- Checks 10 and 11 of a grant's region (R275). -/
def grantChecks (s : State) (r : Req) : List (Bool × Ans) :=
  let p := dptr (a0 r)
  dptrChecks s r (lowMask 64) 0 1 ++
  [(p.off % 4096 != 0, refuse stBadArgument 16),
   (a1 r % 4096 != 0 || a1 r == 0 || decide (dramSize < p.off + a1 r), refuse stBadArgument 24)]

/-- Checks 10 to 14 of MEM_GRANT (R217, R271, R275). -/
def memGrantChecks (r : Req) (s : State) : List (Bool × Ans) :=
  let p := dptr (a0 r)
  let confine := match s.ctx? r.ctx.toNat with | some x => s.confineOk x p.mast p.off (a1 r) | none => true
  grantChecks s r ++ [noCtx s r, ctxStateCheck s r, fencedPtr s r, (!confine, ans stConfinement),
      (s.taken p.mast p.off (a1 r) || (s.mast p.mast).mc.bandBusy p.off (a1 r), ans stNoMemory)]

def memGrantAct (r : Req) (s : State) : State × Ans :=
  let p := dptr (a0 r)
  guardAct (memGrantChecks r s) s
    (s.modCtx r.ctx.toNat fun x => { x with grants := x.grants ++ [{ mast := p.mast, base := p.off, size := a1 r, releasing := false }] },
     ans stDone)

def memGrantCmd : Cmd := { opcode := 0x0301, device := false, lenOk := noPayload, act := memGrantAct }

/-- MEM_GRANT: a region of a mast's DRAM is granted to a context (R217, R275, R490). -/
def execMemGrant (r : Req) (s : State) : Host.Outcome State Fault Refusal := stauc memGrantCmd r s

/-- The regions of a context's key-value record on a mast, which stay granted from unfurl to furl (R155). -/
def Ctx.kvOn (x : Ctx) (m : Nat) : List (Nat × Nat) := match tget x.kv m with | some k => k.regions | none => []

/-- Checks 10 to 14 of MEM_RELEASE (R155, R271, R275, R316). -/
def memReleaseChecks (r : Req) (s : State) : List (Bool × Ans) :=
  let p := dptr (a0 r)
  let c := r.ctx.toNat
  let g := (s.ctx? c).bind fun x => x.grants.find? fun g => g.mast == p.mast && g.base == p.off && g.size == a1 r
  let kv := match s.ctx? c with
    | some x => x.state != .furled && (x.kvOn p.mast).any fun q => overlap p.off (a1 r) q.1 q.2
    | none => false
  grantChecks s r ++ [noCtx s r, (g.isNone, ans stNotPermitted), ctxStateCheck s r, fencedPtr s r,
      (kv || s.meetsShard p.mast p.off (a1 r), ans stState),
      ((g.map (·.releasing)).getD false, ans stAlreadyPending)]

def memReleaseAct (r : Req) (s : State) : State × Ans :=
  let p := dptr (a0 r)
  guardAct (memReleaseChecks r s) s
    ((s.modCtx r.ctx.toNat fun x => { x with grants := x.grants.map fun g =>
        if g.mast == p.mast && g.base == p.off then { g with releasing := true } else g }).owe 0x0302 r (.release p.mast p.off),
     ans stAccepted)

def memReleaseCmd : Cmd := { opcode := 0x0302, device := false, lenOk := noPayload, act := memReleaseAct }

/-- MEM_RELEASE: the zeroing of exactly one earlier grant starts (R223, R275, R316). -/
def execMemRelease (r : Req) (s : State) : Host.Outcome State Fault Refusal := stauc memReleaseCmd r s

/-- The zeroing of a released grant ends and the grant is gone; on a mast that was fenced meanwhile the release completes
with FENCED (R223, R275, R284). -/
def State.releaseEnd (s : State) (c m base : Nat) : State :=
  match (s.ctx? c).bind fun x => x.grants.find? fun g => g.mast == m && g.base == base && g.releasing with
  | none => s
  | some g =>
    if s.fencedMast m then
      (s.modCtx c fun x => { x with grants := x.grants.map fun h =>
        if h.mast == m && h.base == base then { h with releasing := false } else h }).completeOf c (.release m base) (ans stFenced)
    else if s.pwr.coolstop then s
    else
      ((s.zeroRegions [(m, base, g.size)]).modCtx c fun x => { x with grants := x.grants.filter fun h =>
        !(h.mast == m && h.base == base) }).completeOf c (.release m base) (ans stDone)

/-- The region of a released grant has been zeroed (R223, R275). -/
def execMemReleaseZeroed (ctx mast base : Nat) (s : State) : Host.Outcome State Fault Refusal :=
  onMast mast s (s.whenAlive (s.releaseEnd ctx mast base))

/-! ## MEM_WRITE -/

/-- The shards that a region of a mast meets. -/
def State.shardsAt (s : State) (m off len : Nat) : List (Nat × Shard) :=
  s.hal.shards.filter fun e => e.2.pieces.any fun p => p.1 == m && overlap off len p.2.1 p.2.2

/-- The pieces of a shard, each with the shard offset at which it starts (R308). -/
def pieceStarts : List (Nat × Nat × Nat) → Nat → List (Nat × Nat × Nat × Nat)
  | [], _ => []
  | p :: ps, o => (o, p.1, p.2.1, p.2.2) :: pieceStarts ps (o + p.2.2)

/-- The shard offset of a region that lies within one piece. -/
def Shard.offsetOf (h : Shard) (m off len : Nat) : Option Nat :=
  match (pieceStarts h.pieces 0).find? fun p => p.2.1 == m && decide (p.2.2.1 ≤ off ∧ off + len ≤ p.2.2.1 + p.2.2.2) with
  | some p => some (p.1 + (off - p.2.2.1))
  | none => none

/-- How many chunks a shard has (R313). -/
def Shard.chunks (h : Shard) : Nat := ceilDiv h.len 0x100000

/-- A host write into a loading shard covers whole lines of one piece and one chunk (R312). -/
def Shard.writeOk (h : Shard) (m off len : Nat) : Bool :=
  off % 128 == 0 && len % 128 == 0 &&
  match h.offsetOf m off len with
  | some o => o / 0x100000 == (o + len - 1) / 0x100000
  | none => false

/-- A loading shard whose bytes the host writes. -/
def Shard.hostLoad (h : Shard) : Bool := h.state == 1 && !h.fabric

/-- A chunk that has been hashed takes no further write (R312). -/
def Shard.hashedAt (h : Shard) (m off len : Nat) : Bool :=
  match h.offsetOf m off len with
  | some o => thas h.leaves (o / 0x100000)
  | none => false

/-- The 128-byte lines of a chunk. -/
def Shard.chunkLines (h : Shard) (k : Nat) : List Nat :=
  (List.range (min 8192 (ceilDiv h.len 128 - k * 8192))).map (· + k * 8192)

/-- Lines of a shard arrive in DRAM; a chunk that they complete waits to be hashed (R312, R314). -/
def Shard.take (h : Shard) (line n : Nat) : Shard :=
  let lines := ((List.range n).map (· + line)).foldl (fun l x => insAsc x l) h.lines
  let k := line / 8192
  let whole := (h.chunkLines k).all lines.contains && !h.ready.contains k && !thas h.leaves k
  { h with lines, ready := if whole then h.ready ++ [k] else h.ready }

/-- The lines of a host write are recorded in the shards it loads (R312). -/
def State.recordLines (s : State) (m off len : Nat) : State :=
  (s.shardsAt m off len).foldl (fun (s : State) e =>
    match e.2.offsetOf m off len with
    | some o => if e.2.hostLoad then s.modShard e.1 fun h => h.take (o / 128) (len / 128) else s
    | none => s) s

/-- The record of a command of the host that met a bad half-line (R219). -/
def State.hostPoison (s : State) (c m : Nat) (b : Nat × Nat) : State :=
  s.raise { mkRec b.2 clsCE m noUnit c with addr := b.1 * 64 }

/-- The offset from byte `off` of the first byte that lies in half-line `h`. -/
def lostAt (h off : Nat) : Nat := h * 64 - off

/-- The answer of a MEM_WRITE whose bytes are written (R219, R275, R316). -/
def memWritten (c : Nat) (p : Dptr) (n : Nat) (x : State × Option (Nat × Nat)) : State × Ans :=
  match x.2 with
  | some e => (x.1.hostPoison c p.mast (e.2 / 64, e.1), { status := stPoison, hi := lostAt (e.2 / 64) p.off, arg1 := 0, parts := [] })
  | none => (if p.space = 0 then x.1.recordLines p.mast p.off n else x.1, ans stDone)

/-- Checks 10 to 14 of MEM_WRITE (R271, R275, R312, R316). -/
def memWriteChecks (r : Req) (s : State) : List (Bool × Ans) :=
  let p := dptr (a0 r)
  let c := r.ctx.toNat
  let n := r.payload.length
  let hit := if p.space = 0 then s.shardsAt p.mast p.off n else []
  let own := hit.filter fun e => e.2.hostLoad && e.2.ctx == c
  dptrChecks s r 0 1 n ++
     [(own.any fun e => !e.2.writeOk p.mast p.off n, refuse stBadArgument 16), noCtx s r,
      (!s.ptrGranted r n || hit.any fun e => e.2.state != 1, ans stNotPermitted), ctxStateCheck s r, coolCheck s, fencedPtr s r,
      (own.any fun e => e.2.hashedAt p.mast p.off n, ans stState)]

def memWriteAct (r : Req) (s : State) : State × Ans :=
  let p := dptr (a0 r)
  let c := r.ctx.toNat
  guardAct (memWriteChecks r s) s
    (memWritten c p r.payload.length (s.writeAt p.mast (hostReader c) (p.space * 2 ^ 48 + p.off) r.payload))

def memWriteCmd : Cmd := { opcode := 0x0303, device := false, lenOk := payloadIn 1 4096, act := memWriteAct }

/-- MEM_WRITE: bytes go into granted memory or into slices of the placement; the bytes of a partly written poisoned
half-line are lost (R218, R275, R312, R316). -/
def execMemWrite (r : Req) (s : State) : Host.Outcome State Fault Refusal := stauc memWriteCmd r s

/-! ## MEM_READ -/

/-- Check 13 of MEM_READ: a torn context may still read its memory (R289). -/
def readStateCheck (s : State) (r : Req) : Bool × Ans :=
  if ctxState s r.ctx.toNat == some .torn then (false, ans 0) else ctxStateCheck s r

/-- A read of scratchpad that met a double-bit word is a contained error of its context (R226); the bytes of the word are
free values. -/
def State.hostSpadRead (s : State) (c m off len : Nat) : State × Ans :=
  let q := s.readAt m (hostReader c) (2 ^ 48 + off) len
  match q.2.2 with
  | none => (q.1, { status := stDone, hi := 0, arg1 := 0, parts := [q.2.1] })
  | some e =>
    let t := q.1.ioFail c m noUnit e
    let bad := fun a => thas (q.1.mast m).spad.flaws (a / 8)
    let data := ((enum q.2.1).zip (t.freeBytes len)).map fun z => if bad (off + z.1.1) then z.2 else z.1.2
    if ctxState s c != ctxState t c then (t, ans stContextTorn)
    else (t.drawnN len, { status := stPoison, hi := e.2 - off, arg1 := 0, parts := [data] })

/-- Checks 10 to 14 of MEM_READ (R271, R275, R289). -/
def memReadChecks (r : Req) (s : State) : List (Bool × Ans) :=
  let p := dptr (a0 r)
  let n := a1 r
  dptrChecks s r (lowMask 64) 1 1 ++
     [(n == 0 || decide (4096 < n), refuse stBadArgument 24),
      (p.space == 0 && decide (dramSize < p.off + n), refuse stBadArgument 16), noCtx s r, (!s.ptrGranted r n, ans stNotPermitted),
      readStateCheck s r, coolCheck s, fencedPtr s r]

def memReadAct (r : Req) (s : State) : State × Ans :=
  let p := dptr (a0 r)
  let c := r.ctx.toNat
  let n := a1 r
  guardAct (memReadChecks r s) s
    (if p.space = 0 then
       let q := s.readDram p.mast (hostReader c) p.off n
       match q.2.2 with
       | none => (q.1, { status := stDone, hi := 0, arg1 := 0, parts := [q.2.1] })
       | some b => (q.1.hostPoison c p.mast b, { status := stPoison, hi := lostAt b.1 p.off, arg1 := 0, parts := [q.2.1] })
     else s.hostSpadRead c p.mast p.off n)

def memReadCmd : Cmd := { opcode := 0x0304, device := false, lenOk := noPayload, act := memReadAct }

/-- MEM_READ: bytes of granted memory or of slices of the placement, those of poisoned half-lines as zero (R219, R275). -/
def execMemRead (r : Req) (s : State) : Host.Outcome State Fault Refusal := stauc memReadCmd r s

end Sys2Proof.Machine
end

