-- ==== Sys2Proof/Machine/ServeCmds.lean ====
section
/-! DEFINITION. The serving commands: the checks on arrival against the projected state, and what is recorded for the next
boundary (R148, R159, R176 to R182, R195, R204, R277, R489). -/
namespace Sys2Proof.Machine

/-! ## Shared checks -/

/-- A slot that belongs to another context (R277). -/
def otherSlot (s : State) (r : Req) (slot : Nat) : Bool × Ans :=
  (match s.projectedAll.req? slot with | some q => q.ctx != r.ctx.toNat | none => false, ans stNotPermitted)

/-- A session that belongs to another context (R277). -/
def otherSession (s : State) (r : Req) (i : Nat) : Bool × Ans :=
  (match s.projectedAll.session? i with | some x => x.ctx != r.ctx.toNat | none => false, ans stNotPermitted)

/-- A session that is not open (R277). -/
def noSession (s : State) (i : Nat) : Bool × Ans := ((s.projectedAll.session? i).isNone, ans stState)

/-- The command is recorded, and answered DONE (R182). -/
def recordAct (s : State) (r : Req) (k : ServeCmd) : State × Ans := (s.record r.ctx.toNat k, ans stDone)

/-- After its answer, a recorded command makes the boundary of a context without a step in progress run again (R489). -/
def recordAfter (r : Req) (a : Ans) (s : State) : State :=
  if a.status = stDone || a.status = stAccepted then s.idle r.ctx.toNat else s

/-- A serving command of the table R277. -/
def serveCmd (opcode : Nat) (lenOk : Req → Bool) (act : Req → State → State × Ans) : Cmd :=
  { opcode, device := false, lenOk, act, after := recordAfter }

/-- The slot, and the session, of ARG0. -/
def slotArg (r : Req) : Nat := a0 r % 2 ^ 15
def sessArg (r : Req) : Nat := a0 r % 2 ^ 14

/-! ## REQ_SUBMIT (R176, R181, R277) -/

/-- Reserved bits of an entry image. -/
def submitRsv (p : Bytes) : Option Nat :=
  firstTrue [(0, decide (64 ≤ u8 p 0)), (1, decide (64 ≤ u8 p 1)), (2, decide (128 ≤ u8 p 2)), (3, decide (64 ≤ u8 p 3)),
    (5, decide (2 ^ 14 ≤ u16 p 4)), (10, decide (2 ^ 23 ≤ u32 p 8)), (14, decide (2 ^ 23 ≤ u32 p 12)),
    (18, decide (2 ^ 23 ≤ u32 p 16)), (22, decide (2 ^ 23 ≤ u32 p 20)), (57, decide (2 ^ 11 ≤ u16 p 56)),
    (62, decide (2 ^ 20 ≤ u32 p 60))]

/-- TEMPERATURE is 0.0 or lies from 2^-8 to 2^8 (R176). -/
def tempOk (w : Word) : Bool := (ofFp w).isZero || (fpLe 0x3B800000 w && fpLe w 0x43800000)

/-- TOP_P is above 0 and at most 1 (R176). -/
def topPOk (w : Word) : Bool := fpLt fpZero w && fpLe w fpOne

/-- The first value of an entry image that is out of range or that the device fills; `cap`: LIST_CAP of the session, when it
is open (R176, R181, R277). -/
def submitBad (c : Nat) (cap : Option Nat) (p : Bytes) : Option Nat :=
  let e := parseEntry p
  let empty := e.promptStart == e.promptEnd
  firstTrue [(0, u8 p 0 % 64 != 0), (2, e.ctx != c), (3, e.stop != 0), (6, e.cause != 0), (8, e.length != 0),
    (12, e.maxLength == 0 || decide (min 4194304 (256 * cap.getD 16384) < e.maxLength)),
    (20, decide (e.promptEnd < e.promptStart) || decide (e.maxLength ≤ e.promptEnd)
      || (empty && decide (e.maxLength ≤ e.promptEnd + 1))),
    (48, !tempOk e.temperature), (52, !topPOk e.topP), (56, decide (1024 < e.topK))]

/-- What R180 and R181 refuse by state. -/
def submitState (s : State) (c slot : Nat) (e : Request) : Bool :=
  let q := s.projectedAll
  match q.ctx? c, q.session? e.session with
  | some x, some y => x.config.isNone || (q.req? slot).isSome || (q.boundTo e.session).isSome
      || e.promptStart != y.length || (e.promptStart == e.promptEnd && y.length == 0)
  | _, _ => true

/-- Checks 10 to 14 of REQ_SUBMIT (R176, R180, R181, R277). -/
def reqSubmitChecks (r : Req) (s : State) : List (Bool × Ans) :=
  let p := r.payload
  let c := r.ctx.toNat
  let e := parseEntry p
  let cap := match s.projectedAll.session? e.session with | some y => if y.ctx = c then some y.listCap else none | none => none
  let rsv := submitRsv p
  let bad := submitBad c cap p
  [argRsv r (lowMask 15) 0, (rsv.isSome, refuse stReserved (32 + rsv.getD 0)),
      (bad.isSome, refuse stBadArgument (32 + bad.getD 0)), noCtx s r, otherSlot s r (slotArg r), otherSession s r e.session,
      ctxStateCheck s r, (submitState s c (slotArg r) e, ans stState)]

def reqSubmitAct (r : Req) (s : State) : State × Ans :=
  let e := { parseEntry r.payload with serial := s.st.current }
  guardAct (reqSubmitChecks r s) s
    (recordAct s r (.submit (slotArg r) e))

def reqSubmitCmd : Cmd := serveCmd 0x0501 (payloadIs 64) reqSubmitAct

/-- REQ_SUBMIT: an entry image is checked against the projected state and recorded (R181, R182). -/
def execReqSubmit (r : Req) (s : State) : Host.Outcome State Fault Refusal := stauc reqSubmitCmd r s

/-! ## Commands on one request (R181) -/

/-- Checks 10 to 14 of a command on a slot whose request must be in one of some states (R181, R277). -/
def slotChecks (states : List Nat) (r : Req) (s : State) : List (Bool × Ans) :=
  let st := match s.projectedAll.req? (slotArg r) with | some q => q.state | none => rFree
  [argRsv r (lowMask 15) 0, noCtx s r, otherSlot s r (slotArg r), ctxStateCheck s r, (!states.contains st, ans stState)]

/-- A command on a slot. -/
def slotAct (states : List Nat) (k : Nat → ServeCmd) (r : Req) (s : State) : State × Ans :=
  guardAct (slotChecks states r s) s (recordAct s r (k (slotArg r)))

def reqCancelCmd : Cmd := serveCmd 0x0502 noPayload (slotAct [rQueued, rPrefill, rDecode, rParked] .cancel)

/-- REQ_CANCEL: stops a request that is queued, in prefill or decode, or parked (R181). -/
def execReqCancel (r : Req) (s : State) : Host.Outcome State Fault Refusal := stauc reqCancelCmd r s

def reqParkCmd : Cmd := serveCmd 0x0503 noPayload (slotAct [rPrefill, rDecode] .park)

/-- REQ_PARK: parks a request in prefill or decode (R181). -/
def execReqPark (r : Req) (s : State) : Host.Outcome State Fault Refusal := stauc reqParkCmd r s

def reqResumeCmd : Cmd := serveCmd 0x0504 noPayload (slotAct [rParked] .resume)

/-- REQ_RESUME: a parked request goes on (R181, R183). -/
def execReqResume (r : Req) (s : State) : Host.Outcome State Fault Refusal := stauc reqResumeCmd r s

def reqReleaseCmd : Cmd := serveCmd 0x0505 noPayload (slotAct [rDone, rFaulted] .release)

/-- REQ_RELEASE: frees a request that is done or faulted (R181). -/
def execReqRelease (r : Req) (s : State) : Host.Outcome State Fault Refusal := stauc reqReleaseCmd r s

/-! ## Sessions (R158, R159, R179, R181) -/

/-- LIST_PTR of a mast in SESSION_OPEN. -/
def listPtr (p : Bytes) (m : Nat) : Nat := u64 p (8 * m)

/-- The first list pointer that is out of range: a pointer for an unused mast, in a reserved space, or misaligned. -/
def openBad (mask : Nat) (p : Bytes) : Option Nat :=
  firstTrue ((List.range 8).map fun m => (8 * m, if bit mask m then
    ptrSpace (listPtr p m) != 0 || ptrOff (listPtr p m) % 128 != 0 else listPtr p m != 0))

def openRsv (p : Bytes) : Option Nat := firstTrue ((List.range 8).map fun m => (8 * m + 7, ptrRsv (listPtr p m) != 0))

/-- Checks 10 to 14 of SESSION_OPEN (R158, R179, R181). -/
def sessionOpenChecks (r : Req) (s : State) : List (Bool × Ans) :=
  let p := r.payload
  let c := r.ctx.toNat
  let cap := a1 r % 2 ^ 15
  let mask := match s.ctx? c with | some x => x.mastMask | none => 0
  let rsv := openRsv p
  let bad := if (s.ctx? c).isSome then openBad mask p else none
  let inside := match s.ctx? c with
    | some x => x.masts.all fun m => x.granted m (ptrOff (listPtr p m)) (256 + 4 * cap)
    | none => true
  [argRsv r (lowMask 14) (lowMask 15), (rsv.isSome, refuse stReserved (32 + rsv.getD 0)),
      (decide (cap < 1 ∨ 16384 < cap), refuse stBadArgument 24), (bad.isSome, refuse stBadArgument (32 + bad.getD 0)), noCtx s r,
      (!inside, ans stNotPermitted), otherSession s r (sessArg r), ctxStateCheck s r,
      ((s.projectedAll.session? (sessArg r)).isSome, ans stState)]

def sessionOpenAct (r : Req) (s : State) : State × Ans :=
  let p := r.payload
  let c := r.ctx.toNat
  let cap := a1 r % 2 ^ 15
  let mask := match s.ctx? c with | some x => x.mastMask | none => 0
  guardAct (sessionOpenChecks r s) s
    (recordAct s r (.open_ (sessArg r) cap ((bitsSet mask 8).map fun m => (m, listPtr p m))))

def sessionOpenCmd : Cmd := serveCmd 0x0510 (payloadIs 64) sessionOpenAct

/-- SESSION_OPEN: a session's directory entry on every mast of its context (R158, R179). -/
def execSessionOpen (r : Req) (s : State) : Host.Outcome State Fault Refusal := stauc sessionOpenCmd r s

/-- Checks 10 to 14 of SESSION_CLOSE (R159, R181). -/
def sessionCloseChecks (r : Req) (s : State) : List (Bool × Ans) :=
  [argRsv r (lowMask 14) 0, noCtx s r, otherSession s r (sessArg r), ctxStateCheck s r, noSession s (sessArg r),
      ((s.projectedAll.boundTo (sessArg r)).isSome, ans stState)]

def sessionCloseAct (r : Req) (s : State) : State × Ans :=
  guardAct (sessionCloseChecks r s) s
    (recordAct s r (.close (sessArg r)))

def sessionCloseCmd : Cmd := serveCmd 0x0511 noPayload sessionCloseAct

/-- SESSION_CLOSE: releases an unbound session (R159, R179). -/
def execSessionClose (r : Req) (s : State) : Host.Outcome State Fault Refusal := stauc sessionCloseCmd r s

/-- The pages that a share of `n` pages needs are present on every mast of the source (R181). -/
def sharePagesOk (ms : List Nat) (x : Session) (n : Nat) : Bool :=
  ms.all fun m => (List.range (pagesFor (min (256 * n) x.length))).all fun p => (x.frame m p).isSome

/-- What R181 refuses of a share by state. -/
def shareState (s : State) (c src dst n : Nat) : Bool :=
  let q := s.projectedAll
  match q.session? src, q.session? dst, q.ctx? c with
  | some x, some y, some z => y.length != 0 || y.pages.any (fun e => !e.2.isEmpty) || (q.boundTo dst).isSome
      || !sharePagesOk z.kvMasts x n
  | _, _, _ => true

/-- Checks 10 to 14 of SESSION_SHARE (R159, R181). -/
def sessionShareChecks (r : Req) (s : State) : List (Bool × Ans) :=
  let src := sessArg r
  let dst := bits (a0 r) 16 14
  let n := a1 r % 2 ^ 15
  let q := s.projectedAll
  let cap : Nat := min (((q.session? src).map (·.listCap)).getD 16384) (((q.session? dst).map (·.listCap)).getD 16384)
  [argRsv r 0x3FFF3FFF (lowMask 15), (decide (cap < n), refuse stBadArgument 24), noCtx s r, otherSession s r src,
      otherSession s r dst, ctxStateCheck s r, (shareState s r.ctx.toNat src dst n, ans stState),
      (q.shareFull src n, ans stTableFull)]

def sessionShareAct (r : Req) (s : State) : State × Ans :=
  let src := sessArg r
  let dst := bits (a0 r) 16 14
  let n := a1 r % 2 ^ 15
  guardAct (sessionShareChecks r s) s
    (recordAct s r (.share src dst n))

def sessionShareCmd : Cmd := serveCmd 0x0512 noPayload sessionShareAct

/-- SESSION_SHARE: the first pages of a session become the pages of an empty one (R159, R181). -/
def execSessionShare (r : Req) (s : State) : Host.Outcome State Fault Refusal := stauc sessionShareCmd r s

/-- Checks 10 to 14 of SESSION_TRUNCATE (R181). -/
def sessionTruncateChecks (r : Req) (s : State) : List (Bool × Ans) :=
  let i := sessArg r
  let n := a1 r % 2 ^ 23
  let q := s.projectedAll
  let tooShort := match q.session? i with | some x => x.ctx == r.ctx.toNat && decide (x.length < n) | none => false
  [argRsv r (lowMask 14) (lowMask 23), (tooShort, refuse stBadArgument 24), noCtx s r, otherSession s r i, ctxStateCheck s r,
      noSession s i, ((q.boundTo i).isSome, ans stState)]

def sessionTruncateAct (r : Req) (s : State) : State × Ans :=
  let i := sessArg r
  let n := a1 r % 2 ^ 23
  guardAct (sessionTruncateChecks r s) s
    (recordAct s r (.truncate i n))

def sessionTruncateCmd : Cmd := serveCmd 0x0513 noPayload sessionTruncateAct

/-- SESSION_TRUNCATE: a lower LENGTH, and the release of the pages beyond it (R181). -/
def execSessionTruncate (r : Req) (s : State) : Host.Outcome State Fault Refusal := stauc sessionTruncateCmd r s

/-- The words of a global list. -/
def globalsArg (r : Req) : List Nat := (List.range (a1 r % 128)).map fun i => u32 r.payload (4 * i)

/-- The first word of a list that does not lie above the one before it, as an index. -/
def notAscending (l : List Nat) : Option Nat :=
  ((enum l).find? fun e => decide (0 < e.1) && decide (e.2 ≤ l.getD (e.1 - 1) 0)).map (·.1)

/-- Checks 10 to 14 of SESSION_GLOBALS (R148, R181). -/
def sessionGlobalsChecks (r : Req) (s : State) : List (Bool × Ans) :=
  let i := sessArg r
  let ps := globalsArg r
  let rsv := (enum ps).find? fun e => decide (2 ^ 22 ≤ e.2)
  let bad := notAscending ps
  [argRsv r (lowMask 14) (lowMask 7), (rsv.isSome, refuse stReserved (32 + 4 * (rsv.map (·.1)).getD 0 + 2)),
      (decide (64 < ps.length), refuse stBadArgument 24), (bad.isSome, refuse stBadArgument (32 + 4 * bad.getD 0)), noCtx s r,
      otherSession s r i, ctxStateCheck s r, noSession s i]

def sessionGlobalsAct (r : Req) (s : State) : State × Ans :=
  let i := sessArg r
  let ps := globalsArg r
  guardAct (sessionGlobalsChecks r s) s
    (recordAct s r (.globals i ps))

def sessionGlobalsCmd : Cmd :=
  serveCmd 0x0514 (fun r => r.payload.length == 4 * (a1 r % 128)) sessionGlobalsAct

/-- SESSION_GLOBALS: replaces a session's global list (R148, R181). -/
def execSessionGlobals (r : Req) (s : State) : Host.Outcome State Fault Refusal := stauc sessionGlobalsCmd r s

/-- Checks 10 to 14 of SESSION_QUERY (R181, R277). -/
def sessionQueryChecks (r : Req) (s : State) : List (Bool × Ans) :=
  let i := sessArg r
  [argRsv r (lowMask 14) 0, noCtx s r, otherSession s r i, ctxStateCheck s r, noSession s i]

/-- ARG1 of the answer of SESSION_QUERY (R277). -/
def SessView.image (v : SessView) : Nat :=
  packFields [(0, 23, v.length), (23, 15, v.pages), (38, 7, v.globals), (45, 1, b2n v.bound)]

def sessionQueryAct (r : Req) (s : State) : State × Ans :=
  let i := sessArg r
  guardAct (sessionQueryChecks r s) s
    (s, match s.ownSess r.ctx.toNat i with
        | some x => done1 x.shown.image
        | none => ans stState)

def sessionQueryCmd : Cmd := { opcode := 0x0515, device := false, lenOk := noPayload, act := sessionQueryAct }

/-- SESSION_QUERY: LENGTH, PAGES, GCOUNT and binding as they stood after the last boundary (R181, R277). -/
def execSessionQuery (r : Req) (s : State) : Host.Outcome State Fault Refusal := stauc sessionQueryCmd r s

/-! ## KV_EXPORT (R181, R195) -/

def exFirst (r : Req) : Nat := bits (a0 r) 16 14
def exLast (r : Req) : Nat := bits (a0 r) 32 14
def exPkg (r : Req) : Nat := bits (a0 r) 46 8
def exCtx (r : Req) : Nat := bits (a0 r) 54 7
def exSlot (r : Req) : Nat := a1 r % 2 ^ 15

/-- A package to which something can be sent now. -/
def State.reaches (s : State) (pkg : Nat) : Bool :=
  pkg == s.nlc.ownIndex || (s.nlc.partId != 0 && !s.isDead pkg && (s.route 0 pkg 0).isSome)

/-- Checks 10 to 14 of KV_EXPORT (R181, R195). -/
def kvExportChecks (r : Req) (s : State) : List (Bool × Ans) :=
  let i := slotArg r
  let st := match s.projectedAll.req? i with | some q => q.state | none => rFree
  [argRsv r 0x1FFFFFFF3FFF7FFF (lowMask 15), (decide (exLast r < exFirst r), refuse stBadArgument 20),
      (decide (exCtx r < 1 ∨ 64 < exCtx r), refuse stBadArgument 22), noCtx s r, otherSlot s r i, ctxStateCheck s r,
      (!([rParked, rDraining, rDone].contains st), ans stState), (!s.reaches (exPkg r), ans stUnreachable)]

def kvExportAct (r : Req) (s : State) : State × Ans :=
  let i := slotArg r
  guardAct (kvExportChecks r s) s
    (let id := s.nextExp
     let e : Export :=
       { ctx := r.ctx.toNat, slot := i, session := ((s.projectedAll.req? i).map (·.session)).getD 0, first := exFirst r,
         last := exLast r, pkg := exPkg r, tctx := exCtx r, tslot := exSlot r, started := false, source := none, headed := false, resync := false,
         hand := false, torn := false, pages := [], frames := [] }
     (({ s with exports := tset s.exports id e, nextExp := id + 1 }.owe 0x0520 r (.exported id)).record r.ctx.toNat
        (.exportStart id), ans stAccepted))

def kvExportCmd : Cmd := serveCmd 0x0520 noPayload kvExportAct

/-- KV_EXPORT: pages of a request's session go to another package from the next boundary on (R181, R195). -/
def execKvExport (r : Req) (s : State) : Host.Outcome State Fault Refusal := stauc kvExportCmd r s

/-! ## MIRROR_SET (R181, R204) -/

/-- HOLDER in the projected configuration of a context. -/
def State.isHolder (s : State) (c : Nat) : Bool :=
  match (s.projectedAll.ctx? c).bind (·.config) with | some g => g.holder | none => false

/-- Checks 10 to 14 of MIRROR_SET (R181, R204). -/
def mirrorSetChecks (r : Req) (s : State) : List (Bool × Ans) :=
  let pctx := bits (a0 r) 8 7
  [argRsv r 0x17FFF 0, (decide (pctx < 1 ∨ 64 < pctx), refuse stBadArgument 17), noCtx s r, ctxStateCheck s r,
      (s.isHolder r.ctx.toNat, ans stState)]

def mirrorSetAct (r : Req) (s : State) : State × Ans :=
  let pctx := bits (a0 r) 8 7
  guardAct (mirrorSetChecks r s) s
    (recordAct s r (.mirrorSet (a0 r % 256) pctx (bit (a0 r) 16)))

def mirrorSetCmd : Cmd := serveCmd 0x0530 noPayload mirrorSetAct

/-- MIRROR_SET: a partner and a policy, recorded for the next boundary (R181, R204). -/
def execMirrorSet (r : Req) (s : State) : Host.Outcome State Fault Refusal := stauc mirrorSetCmd r s

/-! ## SERVE_CONFIG (R180) -/

def configRsv (p : Bytes) : Option Nat :=
  firstTrue ([(6, decide (2 ^ 21 ≤ u32 p 4)), (8, decide (8 ≤ u8 p 8)), (9, decide (8 ≤ u8 p 9)), (10, decide (16 ≤ u8 p 10)),
      (11, decide (128 ≤ u8 p 11)), (13, !allZero (sub p 13 3)), (23, u8 p 23 != 0), (31, u8 p 31 != 0)]
    ++ ((List.range 16).map fun i => (42 + 4 * i, bits (u32 p (40 + 4 * i)) 20 11 != 0))
    ++ [(104, !allZero (sub p 104 24))])

/-- The first value of a configuration that is out of range; `mask`: the context's masts. -/
def configBad (mask : Nat) (p : Bytes) : Option Nat :=
  let g := parseConfig p
  let other := g.mirrorEn && decide (g.partnerCtx < 1 ∨ 64 < g.partnerCtx)
  firstTrue [(0, decide (g.maxRows < 1 ∨ 32768 < g.maxRows)), (2, decide (g.chunk < 1 ∨ 32768 < g.chunk)),
    (4, decide (g.vocab < 1 ∨ 1048576 < g.vocab)), (8, !bit mask g.tokenMast), (11, other),
    (16, decide (1 < ptrSpace g.tokenArea)), (24, g.holder && (ptrSpace g.ringPtr != 0 || ptrOff g.ringPtr % 128 != 0)),
    (32, g.holder && decide (g.ringLines < 4096)), (36, decide (0 < u16 p 36 ∧ u16 p 36 < 100))]

/-- A change that R180 refuses while some request of the context is not free. -/
def configState (s : State) (c : Nat) (g : ServeConfig) : Bool :=
  let q := s.projectedAll
  match (q.ctx? c).bind (·.config) with
  | some h => !(q.slotsOf c).isEmpty && (h.vocab != g.vocab || h.tokenMast != g.tokenMast || h.tokenArea != g.tokenArea)
  | none => false

/-- A holder's ring lies in the context's memory on mast 0 (R180). -/
def ringOutside (s : State) (c : Nat) (g : ServeConfig) : Bool :=
  match s.ctx? c with
  | some x => g.holder && !x.granted 0 (ptrOff g.ringPtr) (128 * g.ringLines)
  | none => false

/-- Checks 10 to 14 of SERVE_CONFIG (R180, R181). -/
def serveConfigChecks (r : Req) (s : State) : List (Bool × Ans) :=
  let p := r.payload
  let c := r.ctx.toNat
  let g := parseConfig p
  let rsv := configRsv p
  let mask := match s.ctx? c with | some x => x.mastMask | none => 0xFF
  let bad := configBad mask p
  [argRsv r 0 0, (rsv.isSome, refuse stReserved (32 + rsv.getD 0)), (bad.isSome, refuse stBadArgument (32 + bad.getD 0)),
      noCtx s r, (ringOutside s c g, ans stNotPermitted), ctxStateCheck s r, (configState s c g, ans stState)]

def serveConfigAct (r : Req) (s : State) : State × Ans :=
  let g := parseConfig r.payload
  guardAct (serveConfigChecks r s) s
    (recordAct s r (.config g))

def serveConfigCmd : Cmd := serveCmd 0x0540 (payloadIs 128) serveConfigAct

/-- SERVE_CONFIG: a serving configuration, recorded for the next boundary (R180). -/
def execServeConfig (r : Req) (s : State) : Host.Outcome State Fault Refusal := stauc serveConfigCmd r s

end Sys2Proof.Machine
end

