-- ==== Sys2Proof/Machine/HolderOps.lean ====
section
/-! DEFINITION. The holder of a mirror: its ring, the records it applies, the steps it acknowledges, and MIRROR_PROMOTE
(R199 to R201, R205). -/
namespace Sys2Proof.Machine

/-! ## The ring (R180, R200) -/

/-- The ring of a context that holds a mirror: DRAM offset on mast 0, and lines. -/
def Ctx.ring (x : Ctx) : Option (Nat × Nat) :=
  x.config.bind fun g => if g.holder then some (ptrOff g.ringPtr, g.ringLines) else none

/-- `n` ring lines from position `pos` on, as they were written: by them the lines that hold the headers of a step are known. The
Masthead reads those lines itself, and fails where one cannot be read (`State.readHeads`; R219). -/
def State.ringBytes (s : State) (r : Nat × Nat) (pos n : Nat) : Bytes :=
  (List.range n).flatMap fun i => memRead (s.mast 0).dram.cells (r.1 + (pos + i) % r.2 * 128) 128

/-- The same lines as the Masthead reads them (R219, R227). -/
def State.ringRead (s : State) (c : Nat) (r : Nat × Nat) (pos n : Nat) : State × Option Bytes :=
  s.mastRead c 0 (control c 0x18) ((List.range n).map fun i => (r.1 + (pos + i) % r.2 * 128, 128))

/-- The header of a log record (R200). -/
structure LogRec where
  typ   : Nat
  mast  : Nat
  layer : Nat
  head  : Nat
  step  : Nat
  count : Nat
  bytes : Nat

def parseLog (b : Bytes) : LogRec :=
  { typ := u8 b 0, mast := u8 b 1 % 8, layer := u16 b 2 % 4096, head := u8 b 4, step := u32 b 8, count := u32 b 12,
    bytes := u32 b 16 }

def LogRec.lines (h : LogRec) : Nat := ceilDiv (32 + h.bytes) 128

def State.logAt (s : State) (r : Nat × Nat) (pos : Nat) : LogRec := parseLog (s.ringBytes r pos 1)

/-- Records of one step follow one another from `pos` and end in the COMMIT at `last`; `fuel` records at most. -/
def State.chainOk (s : State) (r : Nat × Nat) (step last : Nat) : Nat → Nat → Bool
  | 0, _ => false
  | fuel + 1, pos =>
    let h := s.logAt r pos
    if h.step != step then false
    else if pos = last then h.typ == 4
    else decide (1 ≤ h.typ ∧ h.typ ≤ 3 ∧ pos + h.lines ≤ last) && s.chainOk r step last fuel (pos + h.lines)

/-- The first position of the step whose COMMIT stands at `p`, when all its lines have been written (R201). -/
def State.stepAt (s : State) (r : Nat × Nat) (k : Holder) (p : Nat) : Option Nat :=
  let h := s.logAt r p
  if h.typ = 4 && h.bytes = 0 && decide (1 ≤ h.count ∧ k.applied + h.count ≤ p + 1)
      && (List.range h.count).all (fun i => k.got.contains (p - i))
      && s.chainOk r h.step p h.count (p + 1 - h.count) then some (p + 1 - h.count)
  else none

/-- The Masthead reads the headers of a step's records, from `pos` to the COMMIT at `last`; false when one cannot be read (R219,
R227). `fuel` records at most. -/
def State.readHeads (s : State) (c : Nat) (r : Nat × Nat) (last : Nat) : Nat → Nat → State × Bool
  | 0, _ => (s, true)
  | fuel + 1, pos =>
    let h := s.logAt r pos
    if last < pos then (s, true)
    else
      let q := s.ringRead c r pos 1
      if q.2.isNone then (q.1, false) else q.1.readHeads c r last fuel (pos + max h.lines 1)

/-- The COMMITs among `ps` whose steps can be read. -/
def State.readSteps (s : State) (c : Nat) (r : Nat × Nat) : List Nat → State × List Nat
  | [] => (s, [])
  | p :: ps =>
    let n := (s.logAt r p).count
    let q := s.readHeads c r p n (p + 1 - n)
    let t := q.1.readSteps c r ps
    (t.1, if q.2 then p :: t.2 else t.2)

/-! ## Records (R199, R200) -/

/-- The page of a position is open for writing on a mast: it is opened, or copied when it is shared (R160, R167). False when
the units run out. -/
def State.holderPage (s : State) (c m i page : Nat) (k : KvRec) : State × Bool :=
  match s.ctx? c, s.session? i with
  | some x, some y =>
    let p := x.pool m
    match walkNeeds y p m { slot := 0, session := i, start := 256 * page, count := 1 } with
    | [] => (s, true)
    | n :: _ => match freeUnits k p with
      | a :: b :: _ => (s.openPage c m i k (n.1, n.2, a, b), true)
      | _ => (s, false)
  | _, _ => (s, false)

/-- One query of a KV record: its key and value go into the session's page, which is opened when the mast does not hold it.
DESIGN CHOICE (log entry 97): a page of a session in RESYNC may thus be opened before its copy arrives; the copied page is then
present and is acknowledged without being written (R197, R204). -/
def State.holdKv (s : State) (c : Nat) (h : LogRec) (k : KvRec) (b : Bytes) : State :=
  let src := u64 b 0 % 2 ^ 14
  let pos := bits (u64 b 0) 14 22
  match s.ownSession c src with
  | none => s
  | some i =>
    let q := s.holderPage c h.mast i (pos / 256) k
    if !q.2 then q.1.holderLoses c src
    else match (q.1.session? i).bind fun y => y.frame h.mast (pos / 256), q.1.ctx? c with
      | some u, some x =>
        let upper := (tget (x.pool h.mast).frames u).bind fun f => f.upper
        let e : KvEntry := { elems := sub b 8 (2 * k.dh), scales := sub b (8 + 2 * k.dh) (2 * k.dh / 32) }
        let w := q.1.kvWrite h.mast (stream c 0x18) k u upper h.layer (pos % 256) h.head e
        match w.2 with
        | some e => w.1.ioFail c h.mast noUnit e
        | none => w.1
      | _, _ => q.1

/-- A session command of the source (R199, R200): its bytes, and what it does here. -/
def State.holdCmd (s : State) (c : Nat) (b : Bytes) : State :=
  let a := u64 b 8
  let own := s.ownSession c (a % 2 ^ 14)
  match u16 b 0, own with
  | 0x0510, _ =>
    let s := match own with | some i => s.closeSession i | none => s
    let s := s.modHolder c fun k => { k with sessions := tdel k.sessions (a % 2 ^ 14), entries := tdel k.entries (a % 2 ^ 14) }
    let q := s.mirrorSession c (a % 2 ^ 14) (u64 b 16)
    if q.2.isNone then s.holderLoses c (a % 2 ^ 14) else q.1
  | 0x0511, some i => (s.closeSession i).modHolder c fun k =>
      { k with sessions := tdel k.sessions (a % 2 ^ 14), entries := tdel k.entries (a % 2 ^ 14) }
  | 0x0512, some i => (match s.ownSession c (bits a 16 14) with | some j => s.sharePages i j (u64 b 16) | none => s)
  | 0x0513, some i =>
    if (s.session? i).any fun x => x.length == u64 b 16 then s
    else (s.releasePages i (pagesFor (u64 b 16))).modSession i fun x => { x with length := u64 b 16 }
  | 0x0514, some i => s.modSession i fun x => { x with globals := (List.range (u64 b 16)).map fun j => u32 b (24 + 4 * j) }
  | _, _ => s

/-- Bytes of a session command in the log. -/
def cmdLen (b : Bytes) : Nat := if u16 b 0 = 0x0510 then 88 else if u16 b 0 = 0x0514 then 24 + 4 * u64 b 16 else 24

/-- The session commands of a SESSION record, in order; `n` of them at most. -/
def State.holdCmds (s : State) (c : Nat) : Nat → Bytes → State
  | 0, _ => s
  | n + 1, b => (s.holdCmd c b).holdCmds c n (b.drop (cmdLen b))

/-- A request that a holder would present: it can still run, or its pages are still to be handed over (R183, R205; log
entry 34). -/
def mirrored (e : Request) : Bool := decide (1 ≤ e.state ∧ e.state ≤ 4) || (e.state == rDraining && bit e.stop 4)

/-- An entry image: it is kept while its request is one to present, and the session's LENGTH follows that of a request which
is bound to it (R179). -/
def State.holdEntry (s : State) (c : Nat) (b : Bytes) : State :=
  let e := parseEntry b
  match s.ownSession c e.session with
  | none => s
  | some i => (if activeState e.state then s.modSession i fun x => { x with length := e.length } else s).modHolder c fun k =>
      { k with entries := if mirrored e then tset k.entries e.session b else tdel k.entries e.session }

/-- The entries of a record: those of ended requests first, since a session may have its next request already. -/
def State.holdEntries (s : State) (c : Nat) (es : List Bytes) : State :=
  let live := fun b => mirrored (parseEntry b)
  ((es.filter fun b => !live b) ++ es.filter live).foldl (fun (s : State) e => s.holdEntry c e) s

/-! ## Seals of mirror sessions (R51, R169) -/

/-- A seal is completed at once: its image goes into the lower unit and the upper unit is freed (log entry 34). -/
def State.sealNow (s : State) (c m u : Nat) (k : KvRec) (f : Frame) : State :=
  match s.readRuns m (sealReader c) (pageRegions k u f) with
  | (s, .error x) => s.ioFail c m noUnit x
  | (s, .ok img) => match convertPage k.geom f.fmt 2 img with
    | .error b => (s.aeErr m 8).contained { mkRec 0x1203 clsUC m noUnit c with addr := u, info0 := b }
    | .ok out =>
      let s := ((s.sealCounts m c f.fmt k.geom img).writeDram m (sealReader c) (k.unitAddr u) out).1
      let s := s.modMast m fun z =>
        let jobs := z.ae.sealJobs.filter fun j => !(j.ctx == c && j.frame == u)
        { z with ae := { z.ae with sealJobs := jobs, building := z.ae.building && !jobs.isEmpty } }
      match s.ctx? c with
      | none => s
      | some x =>
        let p := x.pool m
        s.setPool c m { p with
          frames := tset p.frames u { f with st := fSealed, upper := none, fmt := 2, stage := none, image := false },
          waiting := p.waiting.filter (· != u) }

/-- The sealing pages of a context on a mast that a rule selects are completed. -/
def State.sealThose (s : State) (c m : Nat) (k : KvRec) (sel : Frame → Bool) : State :=
  match s.ctx? c with
  | none => s
  | some x => ((x.pool m).frames.filter fun e => e.2.st == fSealing && sel e.2).foldl
      (fun (s : State) e => s.sealNow c m e.1 k e.2) s

/-- The page changes of step `n` on a holder: pages fill, seals due are completed, triggers are taken (R167 to R169, R200). -/
def State.holderBoundary (s : State) (c n : Nat) (touched : List Nat) : State :=
  match s.ctx? c with
  | none => s
  | some x => x.kv.foldl (fun (s : State) (e : Nat × KvRec) =>
      if !s.mastUp e.1 then s
      else
        let ys := touched.filterMap fun i => s.session? i
        let pool := fun (s : State) => match s.ctx? c with | some x => x.pool e.1 | none => x.pool e.1
        let s := s.setPool c e.1 (ys.foldl (fun p y => fillPages y e.1 y.length p) (pool s))
        let s := s.sealThose c e.1 e.2 fun f => f.sealDue == n % 2 ^ 32
        s.setPool c e.1 (ys.foldl (fun p y => triggerSession e.2 n y e.1 p) (pool s))) s

/-! ## Steps -/

/-- One record of a step takes effect; the result lists the own sessions its entries name. -/
def State.holdRec (s : State) (c : Nat) (h : LogRec) (b : Bytes) : State × List Nat :=
  match h.typ with
  | 1 =>
    (match if s.mastUp h.mast then (s.ctx? c).bind fun x => tget x.kv h.mast else none with
     | none => (s, [])
     | some k =>
       let n := 8 + 2 * k.dh + 2 * k.dh / 32
       ((chunksOf n h.count b).foldl (fun (s : State) e => s.holdKv c h k e) s, []))
  | 2 =>
    let es := chunksOf 64 h.count b
    (s.holdEntries c es, es.filterMap fun e => s.ownSession c (parseEntry e).session)
  | 3 => (s.holdCmds c h.count b, [])
  | _ => (s, [])

/-- The records from `pos` to the COMMIT at `last`: the SESSION records (`sess`) or the others; `fuel` of them at most. The result
lists the own sessions that entries name; none after a record that cannot be read (R219). -/
def State.holdRecs (s : State) (c : Nat) (r : Nat × Nat) (sess : Bool) (last : Nat) :
    Nat → Nat → List Nat → State × Option (List Nat)
  | 0, _, touched => (s, some touched)
  | fuel + 1, pos, touched =>
    let h := s.logAt r pos
    if last ≤ pos then (s, some touched)
    else if (h.typ == 3) != sess then s.holdRecs c r sess last fuel (pos + h.lines) touched
    else
      let b := s.ringRead c r pos h.lines
      match b.2 with
      | none => (b.1, none)
      | some b' =>
        let q := b.1.holdRec c h ((b'.drop 32).take h.bytes)
        q.1.holdRecs c r sess last fuel (pos + h.lines) (touched ++ q.2)

/-- The step whose COMMIT stands at `p` is applied: the session commands of the boundary that opened it, then its entries and
its key-value records, then its page changes (R200). -/
def State.applyStep (s : State) (c : Nat) (r : Nat × Nat) (p : Nat) : State :=
  let h := s.logAt r p
  let a := s.holdRecs c r true p h.count (p + 1 - h.count) []
  let b := match a.2 with
    | some t => a.1.holdRecs c r false p h.count (p + 1 - h.count) t
    | none => a
  (match b.2 with
   | some t => b.1.holderBoundary c h.step t
   | none => b.1).modHolder c fun k =>
    { k with applied := p + 1, got := k.got.filter fun q => decide (p < q), acked := k.acked.filter fun q => decide (p < q) }

/-- Acknowledged steps are applied as far as no line before them is missing; `fuel` steps at most. -/
def State.applyReady (s : State) (c : Nat) (r : Nat × Nat) : Nat → State
  | 0 => s
  | fuel + 1 =>
    match s.ctx? c with
    | none => s
    | some x => match x.holder.acked with
      | p :: _ => if p + 1 = x.holder.applied + (s.logAt r p).count then (s.applyStep c r p).applyReady c r fuel else s
      | [] => s

/-- The acknowledgement of the step whose COMMIT stood at `p` goes to the source (R199, R201). -/
def State.ackStep (s : State) (c : Nat) (step : Nat) : State :=
  match s.ctx? c with
  | none => s
  | some x =>
    let to_ := match x.config with | some g => (g.partnerPkg, g.partnerCtx) | none => (0, 0)
    (s.emitFab to_.1 (.mirrorAck to_.1 to_.2 step x.holder.applied x.holder.lost)).modHolder c fun k => { k with lost := [] }

/-- Line `i` of a context's ring has been written (R201). A promoted holder takes no more log lines (R205). -/
def State.ringLine (s : State) (c i : Nat) : State :=
  match s.ctx? c with
  | none => s
  | some x => match x.ring with
    | none => s
    | some r =>
      if x.holder.promoted then s
      else
        let a := x.holder.applied
        let s := s.modHolder c fun k => { k with got := insAsc (a + (i + r.2 - a % r.2) % r.2) k.got }
        match s.ctx? c with
        | none => s
        | some x =>
          let k := x.holder
          let q := s.readSteps c r (k.got.filter fun p => !k.acked.contains p && (s.stepAt r k p).isSome)
          let s := q.1
          let ps := q.2
          let steps := ps.map fun p => (s.logAt r p).step
          let s := s.modHolder c fun k => { k with acked := ps.foldl (fun l p => insAsc p l) k.acked }
          let s := s.applyReady c r (k.acked.length + ps.length)
          (steps.foldl (fun (s : State) n => s.ackStep c n) s).raiseMet c

/-! ## MIRROR_PROMOTE (R205) -/

/-- The least free request slot. -/
def State.freeSlot (s : State) : Option Nat := (List.range 32768).find? fun i => !thas s.reqs i

/-- A mirrored request appears as `parked` (R205; log entry 34). -/
def State.parkMirrored (s : State) (c : Nat) (e : Nat × Bytes) : State :=
  match s.ownSession c e.1, s.freeSlot with
  | some i, some slot =>
    let q := parseEntry e.2
    { s with reqs := tset s.reqs slot { q with
        state := rParked, partner := mNone, ctx := c, session := i, cause := 0, wLength := q.length, wStop := q.stop,
        wCounter := q.counter, wLastToken := q.lastToken, serial := s.st.current } }
  | _, _ => s

/-- The promotion of a holder: acknowledged steps are applied, other lines discarded, seals completed, and every mirrored
request appears (R205). In a coolant stop DRAM serves no access, and the promotion waits for its end (R222; log entry 104). -/
def State.promoteHolder (s : State) (c : Nat) : State :=
  match s.ctx? c with
  | none => s
  | some x =>
    if s.pwr.coolstop then s
    else
    let s := match x.ring with
      | some r => x.holder.acked.foldl (fun (s : State) p => s.applyStep c r p) s
      | none => s
    let s := x.kv.foldl (fun (s : State) (e : Nat × KvRec) => if s.mastUp e.1 then s.sealThose c e.1 e.2 fun _ => true else s) s
    match s.ctx? c with
    | none => s
    | some y =>
      let s := y.holder.entries.foldl (fun (s : State) e => s.parkMirrored c e) s
      let s := s.modHolder c fun k => { k with promoted := true, got := [], acked := [], entries := [] }
      (s.completeOf c .promote (ans stDone)).idle c

/-- The promotions that waited for the end of a coolant stop (R205, R222). -/
def State.promoteOwed (s : State) : State :=
  (s.ctxs.filter fun e => s.st.outstanding.any fun o => o.ctx == e.1 && o.what == .promote).foldl (fun (s : State) e => s.promoteHolder e.1) s

def mirrorPromoteAct (r : Req) (s : State) : State × Ans :=
  guardAct [argRsv r 0 0, noCtx s r, ctxStateCheck s r, (!s.isHolder r.ctx.toNat, ans stState)] s
    (s.owe 0x0531 r .promote, ans stAccepted)

def mirrorPromoteCmd : Cmd :=
  { opcode := 0x0531, device := false, lenOk := noPayload, act := mirrorPromoteAct,
    after := fun r a s => if a.status = stAccepted then s.promoteHolder r.ctx.toNat else s }

/-- MIRROR_PROMOTE: a holder presents its mirrored requests as parked (R205). -/
def execMirrorPromote (r : Req) (s : State) : Host.Outcome State Fault Refusal := stauc mirrorPromoteCmd r s

end Sys2Proof.Machine
end

