-- ==== Sys2Proof/Machine/RegRead.lean ====
section
/-! DEFINITION. Device register space as it reads: the address map of R18 and the register tables of every block. An offset
that no table assigns reads zero. -/
namespace Sys2Proof.Machine

/-- The value at an offset of a register table. -/
def regAt (o : Nat) (l : Tab Nat) : Nat := (tget l o).getD 0

/-- The field number `k` of `w` bits, saturating. -/
def sat (w k : Nat) : Nat := min k (2 ^ w - 1)

/-- Low and high halves of a 64-bit value. -/
def lo32 (x : Nat) : Nat := x % 2 ^ 32
def hi32 (x : Nat) : Nat := x / 2 ^ 32 % 2 ^ 32

/-- A context that is neither furled nor unfurling: the one that "unfurled" means in R112, R143 and R210. DEDUCED (log entry 92): a
furling one counts until it is furled. -/
def State.unfurledCtx (s : State) (c : Nat) : Option Ctx :=
  match s.ctx? c with | some x => if countsReef x.state then some x else none | none => none

/-- Masts that are fenced (R424). -/
def State.fencedMask (s : State) : Nat := maskOf ((List.range 8).filter fun m => s.present m && s.fencedMast m)

/-! ## Hub blocks -/

/-- R471, R472. -/
def readId (s : State) (o : Nat) : Nat :=
  let i := s.id
  regAt o [
    (0x00, packFields [(24, 4, 1), (16, 8, 0x41), (0, 16, i.part)]),
    (0x04, packFields [(8, 4, i.disabledMast), (4, 4, i.hostDie), (0, 4, i.variant)]),
    (0x08, lo32 i.unitId), (0x0C, hi32 i.unitId),
    (0x10, packFields [(16, 8, i.fencedCal), (8, 8, i.present), (0, 4, popCount i.present 8)]),
    (0x14, packFields [(24, 8, i.failStep), (16, 8, i.failMasts), (0, 16, sat 16 i.calMs)])]

/-- PWR_CTX_REEF and PWR_CTX_AGREE of the selected context (R401). -/
def readReef (s : State) : Nat × Nat :=
  match s.ctx? s.pwr.ctxSel with
  | none => (0, 0)
  | some x => (packFields [(31, 1, b2n x.reefValid), (0, 12, x.reefGroup)],
               packFields [(29, 3, x.reefTarget), (0, 29, x.reefSeq)])

/-- R397 to R402. -/
def readPwr (s : State) (o : Nat) : Nat :=
  let p := s.pwr
  let reef := readReef s
  let level := fun k => packFields [(20, 12, p.akMhz.getD k 0), (0, 10, p.dyn.getD k 0)]
  regAt o [
    (0x00, packFields [(25, 3, 5), (13, 12, 450), (0, 13, 2000)]),
    (0x04, packFields [(29, 3, p.applied), (26, 3, p.localReq), (23, 3, p.thermal), (20, 3, p.governor),
                       (16, 4, 16 - p.edges), (8, 1, b2n (p.target.isSome || p.window)), (7, 1, b2n p.coolstop),
                       (6, 1, b2n p.brownout), (5, 1, b2n (p.floorCap || p.floorMgmt)), (4, 1, b2n (p.hbLost && p.hbEn)),
                       (3, 1, b2n (decide (0 < p.thermal))), (2, 1, b2n (decide (1680 < p.tj)))]),
    (0x08, packFields [(16, 1, b2n p.capLow), (0, 16, p.cap)]),
    (0x0C, packFields [(16, 1, b2n p.mgmtLow), (0, 16, p.capMgmt)]),
    (0x10, packFields [(31, 1, b2n p.hbEn), (0, 16, p.capSafe)]),
    (0x14, p.capEff % 65536), (0x18, p.reefLimit % 8),
    (0x1C, packFields [(16, 16, p.hbCount), (0, 16, sat 16 (p.hbAge / 1000))]),
    (0x20, packFields [(16, 16, sat 16 p.peakW), (0, 16, sat 16 p.avgW)]),
    (0x24, p.staticW % 65536),
    (0x28, packFields [(20, 12, sat 12 p.tj), (12, 8, p.hotDie), (0, 12, sat 12 p.tjDram)]),
    (0x2C, packFields [(30, 2, p.pair), (0, 16, sat 16 p.stops)]),
    (0x30, sat 16 p.vin), (0x40, p.ctxSel), (0x44, reef.1), (0x48, reef.2),
    (0x50, level 0), (0x54, level 1), (0x58, level 2), (0x5C, level 3), (0x60, level 4), (0x70, p.err.toNat)]

/-- FLT_LOG_DATA_k (R425). -/
def readLogWord (s : State) (k : Nat) : Nat :=
  match tget s.flt.log s.flt.logSel with | some r => u32 r.image (4 * k) | none => 0

/-- R423 to R426. -/
def readFlt (s : State) (o : Nat) : Nat :=
  let f := s.flt
  let holder := fun c => match tget f.holders c with | some m => m.activity | none => 0
  if 0x100 ≤ o && o < 0x140 then readLogWord s ((o - 0x100) / 4)
  else regAt o [
    (0x00, packFields [(24, 4, 4), (20, 4, 0xA), (16, 4, 6), (12, 4, 0xA)]),
    (0x04, packFields [(31, 1, b2n f.fatal), (30, 1, b2n f.faultOut), (8, 16, f.fatalCause), (0, 8, s.fencedMask)]),
    (0x08, packFields [(8, 8, f.mergeMs), (0, 1, b2n f.logCe)]), (0x0C, f.seq),
    (0x10, packFields [(16, 16, sat 16 f.wires), (12, 4, f.wireMast), (0, 8, f.wireUnit)]),
    (0x14, packFields [(0, 8, holder 0), (8, 8, holder 1), (16, 8, holder 2), (24, 8, holder 3)]),
    (0x18, f.logNext), (0x1C, packFields [(24, 8, 64 - f.sectors.length), (16, 8, f.logQueue.length), (0, 16, sat 16 f.logTorn)]),
    (0x20, f.logSel), (0x30, f.err.toNat)]

/-- A word of the record window (R408, R423). -/
def readRing (s : State) (o : Nat) : Nat :=
  match tget s.flt.ring (o / 64) with | some r => u32 r.image (o % 64) | none => 0

/-- R441 to R444. -/
def readBtb (s : State) (o : Nat) : Nat :=
  let b := s.btb
  if 0x10 ≤ o && o < 0x40 then u32 b.measure (o - 0x10)
  else regAt o [
    (0x00, packFields [(24, 4, 4), (19, 5, 0x10), (13, 6, 0x3F), (12, 1, 1), (11, 1, 1), (10, 1, 1)]),
    (0x04, packFields [(29, 3, b.stage), (28, 1, b2n b.aliasSlh), (27, 1, b2n b.aliasRsa), (25, 2, b.fwKey),
                       (19, 6, b.fwSvn), (14, 5, b.annexCount)]),
    (0x08, packFields [(24, 8, b.rejectReason), (16, 8, sat 8 b.rejectCount)]),
    (0x0C, packFields [(26, 6, b.fusedSvn), (25, 1, b2n b.commitBusy), (19, 6, b.commitTarget)]), (0x40, b.err.toNat)]

/-- R469, R470. -/
def readCn (s : State) (o : Nat) : Nat :=
  let c := s.cn
  regAt o [
    (0x00, lo32 s.time), (0x04, match c.timeHi with | some w => w.toNat | none => hi32 s.time),
    (0x08, packFields [(28, 4, c.stage), (27, 1, b2n c.inputValid), (26, 1, b2n c.flowWait)]),
    (0x0C, packFields [(30, 2, b2n c.rail), (0, 16, sat 16 c.restarts)]), (0x10, lo32 c.readyTime), (0x14, lo32 c.operTime),
    (0x20, c.err.toNat)]

/-- A port's four registers (R348). -/
def readPort (s : State) (p k : Nat) : Nat :=
  let x := s.port p
  let q := x.peer
  let id := (q.map (·.unitId)).getD 0
  if k = 0 then packFields [(28, 4, x.state), (25, 3, x.cause), (24, 1, b2n (s.encOn p)), (23, 1, x.txSlot),
      (21, 2, (q.map (·.kind)).getD 0), (8, 8, (q.map (·.port)).getD 0),
      (0, 8, if 36 ≤ p then (q.map (·.index)).getD 0 else 0)]
  else if k = 1 then lo32 id else if k = 2 then hi32 id
  else packFields [(16, 16, sat 16 x.replays), (8, 8, sat 8 x.retrains), (0, 8, sat 8 x.gcmFail)]

/-- Ports in a state, as a mask. -/
def State.portMask (s : State) (st : Nat) : Nat := maskOf ((List.range 42).filter fun p => (s.port p).state == st)

/-- R346 to R349. -/
def readNlc (s : State) (o : Nat) : Nat :=
  let n := s.nlc
  if 0x100 ≤ o && o < 0x100 + 16 * 42 then readPort s ((o - 0x100) / 16) ((o - 0x100) % 16 / 4)
  else if 0x20 ≤ o && o < 0x40 then maskOf (n.dead.filterMap fun d => if d / 32 = (o - 0x20) / 4 then some (d % 32) else none)
  else regAt o [
    (0x00, packFields [(22, 6, 36), (18, 4, 6), (10, 8, 0xFF), (5, 5, 0x10), (4, 1, 1), (0, 4, 1)]),
    (0x04, packFields [(16, 16, n.partId), (8, 8, n.ownIndex), (7, 1, b2n n.plan.isSome),
                       (5, 2, (n.plan.map (·.traySlot)).getD 0)]),
    (0x08, packFields [(16, 16, n.timeout), (12, 4, n.attempts)]), (0x0C, (n.plan.map (·.id)).getD 0),
    (0x10, lo32 (s.portMask pUp)), (0x14, hi32 (s.portMask pUp)), (0x18, lo32 (s.portMask pHeld)),
    (0x1C, hi32 (s.portMask pHeld)), (0x40, sat 32 n.partDrop), (0x44, sat 32 n.staleDrop), (0x50, n.err.toNat)]

/-- The lowest rank of a group on this package. -/
def State.firstRank (s : State) (g : Group) : Nat :=
  ((enum g.members).find? fun e => e.2.pkg == s.nlc.ownIndex).elim 0 (·.1)

/-- COL_GROUP_INFO, COL_GROUP_SEQ and COL_GROUP_LAST (R373). -/
def readGroup (s : State) : Nat × Nat × Nat :=
  match s.group? s.col.sel with
  | none => (0, 0, 0)
  | some g =>
    (packFields [(31, 1, 1), (24, 7, g.ctx), (15, 9, g.members.length), (7, 8, s.firstRank g),
                 (6, 1, b2n (s.col.calls.any fun c => c.group == s.col.sel))],
     maxD (g.next.map (·.2)) 0 % 2 ^ 32, packFields [(16, 16, g.crc), (12, 4, g.method), (8, 4, g.outcome)])

/-- R371 to R374. -/
def readCol (s : State) (o : Nat) : Nat :=
  let c := s.col
  let g := readGroup s
  regAt o [
    (0x00, packFields [(24, 4, 0xC), (20, 4, 8), (12, 8, 0xFF), (7, 5, 0x1F), (6, 1, 1)]),
    (0x04, packFields [(19, 13, c.groups.length), (9, 10, sat 10 c.calls.length), (0, 6, s.stayUp.length)]),
    (0x08, packFields [(16, 16, c.timeoutMs), (8, 6, c.minPlanes), (0, 5, c.smallLog2)]), (0x10, c.sel),
    (0x14, g.1), (0x18, g.2.1), (0x1C, g.2.2), (0x20, c.err.toNat)]

/-- HIF_BOOT (R254). -/
def HostIf.boot (h : HostIf) : Nat :=
  packFields [(4, 1, b2n h.oper), (3, 1, b2n h.rejected), (2, 1, b2n h.verifying), (1, 1, b2n h.fwDone), (0, 1, b2n h.ready)]

/-- R253 to R256. -/
def readHif (s : State) (o : Nat) : Nat :=
  let m := fun k => s.hmod k
  let status := fun k => packFields [(30, 2, (m k).state), (16, 8, (m k).rate), (8, 8, (m k).lanes), (4, 4, (m k).repaired)]
  let errs := fun k => packFields [(16, 16, sat 16 (m k).replays), (0, 16, sat 16 (m k).retrains)]
  regAt o [
    (0x00, packFields [(24, 4, 4), (16, 8, 0x20), (8, 8, 8), (0, 8, 0x16)]), (0x04, s.hif.boot),
    (0x08, packFields ((List.range 8).map fun c => (2 * c, 2, (s.chan c).module))),
    (0x10, status 0), (0x14, status 1), (0x18, status 2), (0x1C, status 3),
    (0x20, errs 0), (0x24, errs 1), (0x28, errs 2), (0x2C, errs 3), (0x30, s.hif.err.toNat)]

/-- Chunks that the hash engines have before them. -/
def State.hashing (s : State) : Nat :=
  s.hal.shards.foldl (fun n e => n + (if e.2.state = 1 then e.2.ready.length else if e.2.state = 3 then 1 else 0)) 0

/-- R320 to R323. -/
def readHal (s : State) (o : Nat) : Nat :=
  let h := s.hal
  let x := tget h.shards h.sel
  regAt o [
    (0x00, packFields [(24, 4, 8), (18, 6, 0x24), (13, 5, 0x14), (9, 4, 8), (5, 4, 0xC), (0, 5, 6)]),
    (0x04, packFields [(19, 13, h.shards.length), (12, 7, (h.shards.filter fun e => e.2.state == 1).length),
                       (0, 4, min 8 s.hashing)]),
    (0x08, h.period % 256), (0x10, h.sel),
    (0x14, match x with | some y => packFields [(28, 4, y.state), (21, 7, y.ctx), (0, 16, y.reason)] | none => 0),
    (0x18, match x with | some y => packFields [(15, 17, y.leaves.length), (0, 8, sat 8 y.rechecks)] | none => 0),
    (0x1C, match x with | some y => lo32 y.faultLine | none => 0), (0x30, h.err.toNat)]

/-- Words of the counter blocks that the hub and the masts share (R461, R462). -/
def readCounters (b : PmcBlk) (o : Nat) : Option Nat :=
  if 0x100 ≤ o && o < 0x200 then some (match tget b.progs ((o - 0x100) / 4) with | some p => p.val | none => 0)
  else if 0x1000 ≤ o && o < 0x1800 then
    some (match tget b.progs ((o - 0x1000) / 32) with | some p => u32 p.sel (o % 32) | none => 0)
  else if 0x4000 ≤ o && o < 0x6000 then
    let v := tgetD b.fixed ((o - 0x4000) / 8) 0
    some (if o % 8 = 0 then lo32 v else hi32 v)
  else none

/-- The hub's counter block (R461, R462). -/
def readPmcHub (s : State) (o : Nat) : Nat :=
  let b := s.pmc
  let x := s.ctx? b.ctxSel
  match readCounters b o with
  | some v => v
  | none =>
    if 0x40 ≤ o && o < 0x80 then (match x with | some y => tgetD y.shsel ((o - 0x40) / 4) 0 | none => 0)
    else regAt o [
      (0x00, packFields [(24, 4, 5), (20, 4, 9)]), (0x04, lo32 b.ovf.toNat), (0x10, b.ctxSel),
      (0x18, match x with | some y => packFields [(1, 1, b2n y.compat), (0, 1, b2n y.counterRead)] | none => 0)]

/-- R208 to R210: requests of a context in a state. -/
def State.countReqs (s : State) (c st : Nat) : Nat :=
  sat 16 (s.reqs.filter fun e => e.2.ctx == c && e.2.state == st).length

/-- R208 to R211. -/
def readSrv (s : State) (o : Nat) : Nat :=
  if 0x40000 ≤ o then
    match s.req? ((o - 0x40000) / 64) with | some r => u32 r.shown (o % 64) | none => 0
  else
    let c := s.srvSel
    let x := s.unfurledCtx c
    let of_ := fun (f : Ctx → Nat) => match x with | some y => f y | none => 0
    let two := fun a b => of_ fun _ => packFields [(16, 16, s.countReqs c a), (0, 16, s.countReqs c b)]
    regAt o [
      (0x00, packFields [(24, 4, 0xF), (20, 4, 0xE), (13, 7, 0x40), (8, 5, 2), (4, 4, 4)]),
      (0x04, packFields [(16, 16, 32768 - s.reqs.length), (0, 15, 16384 - s.sess.length)]), (0x10, c),
      (0x14, of_ fun y => lo32 (y.stepNext - 1)), (0x18, of_ fun y => hi32 (y.stepNext - 1)),
      (0x1C, two rQueued rPrefill), (0x20, two rDecode rParked), (0x24, two rDraining rDone),
      (0x28, of_ fun y => packFields [(16, 16, s.countReqs c rFaulted), (0, 16, sat 16 y.heldLast)]),
      (0x2C, of_ fun y => packFields [(31, 1, b2n y.mirror.en), (30, 1, b2n y.mirror.policy),
        (29, 1, b2n ((y.config.map (·.holder)).getD false)), (28, 1, b2n y.mirror.lost), (16, 8, y.mirror.pkg),
        (9, 7, y.mirror.ctx), (0, 2, sat 2 y.mirror.unacked.length)]),
      (0x30, of_ fun y => lo32 y.mirror.acked), (0x40, s.srvErr.toNat)]

/-! ## Mast blocks -/

/-- Some call of a collective holds a context's units on a mast (R360). -/
def Mast.inPhase (z : Mast) (c : Nat) : Bool := z.calls.any fun r => r.ctx == c && r.kind == .collective

/-- ME_STATUS_n and ME_GRP_POS_n (R86) at a package time: while a call runs its engines wait for a weight, stream or drain. -/
def readEngine (time : Nat) (z : Mast) (n : Nat) (pos : Bool) : Nat :=
  match tget z.me.engines n with
  | some e =>
    if pos then packFields [(11, 10, Config.engineEntry e.draw time % e.count), (0, 11, e.count)]
    else packFields [(25, 7, e.ctx), (13, 12, e.layer), (3, 1, b2n e.wide),
                     (0, 3, if z.fenced then 5 else 1 + Config.engineState e.draw time % 3)]
  | none =>
    if pos then 0
    else if z.fenced then 5
    else match tget z.me.holders n with | some c => if z.inPhase c then 4 else 0 | none => 0

/-- R82 to R86. -/
def readMe (time : Nat) (z : Mast) (o : Nat) : Nat :=
  if 0x100 ≤ o && o < 0x140 then readEngine time z ((o - 0x100) / 4) false
  else if 0x140 ≤ o && o < 0x180 then readEngine time z ((o - 0x140) / 4) true
  else regAt o [
    (0x00, packFields [(24, 4, 0xF), (20, 4, 8), (16, 4, 0xA), (5, 5, 0x11), (0, 5, 0x10)]),
    (0x04, packFields [(31, 1, b2n z.me.spareUsed), (30, 1, b2n z.me.bistFenced), (16, 5, z.me.fencedPhys), (0, 5, z.me.spareFor)]),
    (0x08, z.me.bistFail.toNat), (0x10, z.me.err.toNat)]

/-- AE_STATUS_n (R172). Both seal paths build one image together (R169). -/
def readAeStatus (z : Mast) (n : Nat) : Nat :=
  let e := tgetD z.ae.engines n { ctx := 0, layer := 0, sealBusy := false, state := 0 }
  let st := if z.fenced then 4 else if e.state = 0 && z.calls.any (fun r => r.kind == .collective) then 3 else e.state
  packFields [(25, 7, e.ctx), (13, 12, e.layer), (3, 1, b2n z.ae.building), (0, 3, st)]

/-- The pool registers of the selected context (R173). -/
def readPool (s : State) (m : Nat) (o : Nat) : Nat :=
  match s.ctx? (s.mast m).ae.ctxSel with
  | none => 0
  | some x => match tget x.kv m with
    | none => 0
    | some k =>
      let p := x.pool m
      let n := fun st => (p.frames.filter fun e => e.2.st == st).length
      regAt o [
        (0x14, k.units), (0x18, (freeUnits k p).length), (0x1C, n fOpen), (0x20, n fFull), (0x24, n fSealing),
        (0x28, n fSealed), (0x2C, n fShipping),
        (0x30, packFields [(16, 16, sat 16 p.held), (0, 16, sat 16 (ceilDiv p.emitted 1024))]),
        (0x34, packFields [(16, 16, p.stalls), (0, 16, sat 16 p.commits)])]

/-- R171 to R174. -/
def readAe (s : State) (m o : Nat) : Nat :=
  let z := s.mast m
  if 0x14 ≤ o && o < 0x38 then readPool s m o
  else regAt o [
    (0x00, packFields [(26, 3, 7), (21, 5, 0x12), (17, 4, 0xF), (13, 4, 0xA), (6, 7, 0x40), (0, 6, 0xE)]),
    (0x04, readAeStatus z 0), (0x08, readAeStatus z 1), (0x10, z.ae.ctxSel), (0x40, z.ae.err.toNat)]

/-- R141 to R144. -/
def readRtu (s : State) (m o : Nat) : Nat :=
  let r := (s.mast m).rtu
  let l := (s.unfurledCtx r.ctxSel).bind fun _ => tget r.last r.ctxSel
  let of_ := fun (f : RtuLast → Nat) => match l with | some y => f y | none => 0
  regAt o [
    (0x00, packFields [(25, 3, 7), (21, 4, 8), (17, 4, 0xF), (13, 4, 0xA), (10, 3, 4), (5, 5, 0x10)]),
    (0x04, packFields [(25, 7, r.ctx), (13, 12, r.layer), (0, 3, if (s.mast m).fenced then 4 else r.state)]),
    (0x10, r.ctxSel), (0x14, of_ fun y => packFields [(31, 1, 1), (0, 12, y.layer)]), (0x18, of_ (·.shed)),
    (0x1C, of_ (·.fallback)), (0x20, of_ fun y => sat 16 y.allShed), (0x30, r.err.toNat)]

/-- A selection of TT_LAYER_SEL or TT_LAYER_CMD names a record (R112, R113): the safeguard entry. DEDUCED (log entry 92): a context
that is not unfurled is no such context for TT_LAYER_CMD, as R112 has it for TT_LAYER_SEL. -/
def State.layerNamed (s : State) (c layer : Nat) : Option Safeguard :=
  match s.unfurledCtx c with | some _ => s.guardOf c layer | none => none

/-- R110 to R114. -/
def readTt (s : State) (m o : Nat) : Nat :=
  let t := (s.mast m).tt
  let r := t.rec? t.selCtx t.selLayer
  let of_ := fun (f : Safeguard → Nat) => match s.layerNamed t.selCtx t.selLayer with | some g => f g | none => 0
  regAt o [
    (0x00, packFields [(24, 4, 8), (20, 4, 2), (16, 4, 9), (14, 2, 2), (8, 5, 0x14), (0, 7, 0x40)]),
    (0x04, packFields [(1, 1, b2n t.autoEn), (0, 1, b2n t.sampleEn)]), (0x08, t.seed),
    (0x10, packFields [(16, 7, t.selCtx), (0, 12, t.selLayer)]),
    (0x14, of_ fun g => packFields [(30, 2, r.state), (28, 2, r.cmd), (27, 1, 1), (20, 7, r.exceeds g.ttN), (0, 16, r.relaxLeft)]),
    (0x18, of_ fun _ => lo32 r.hist.toNat), (0x1C, of_ fun _ => hi32 r.hist.toNat),
    (0x20, of_ fun _ => packFields [(16, 7, r.histLen), (0, 16, r.widenCount)]), (0x28, t.cmdStatus), (0x30, t.err.toNat)]

/-- The refresh rate that is applied: the larger of the request and the automatic doubling (R222). -/
def McBlk.refresh (c : McBlk) : Nat := max c.refreshReq (b2n c.auto2x)

/-- The regions of a mast that are being zeroed: a destroyed context's, released grants, and what a furl owes since a coolant
stop (R223, R293, R491). -/
def State.zeroingRegions (s : State) (m : Nat) : List (Nat × Nat) :=
  let at_ := fun (rs : List (Nat × Nat × Nat)) => (rs.filter fun r => r.1 == m).map fun r => (r.2.1, r.2.2)
  (s.zeroing.flatMap fun e => at_ e.2)
  ++ s.ctxs.flatMap fun e => ((e.2.grants.filter fun g => g.mast == m && g.releasing).map fun g => (g.base, g.size))
       ++ if e.2.owesZero then at_ e.2.zeroList else []

/-- The bands of a mast that are changing or being zeroed (R216, R235). -/
def State.busyBands (s : State) (m : Nat) : Nat :=
  maskOf ((List.range 12).filter fun b => thas (s.mast m).mc.bandPending b
    || (s.zeroingRegions m).any fun r => overlap r.1 r.2 (b * 2 ^ 32) (2 ^ 32))

/-- A zeroing is in progress on a mast: of a released grant, a destroyed context's regions or a band (R216, R223). -/
def State.zeroingOn (s : State) (m : Nat) : Bool :=
  !(s.mast m).mc.bandPending.isEmpty || !(s.zeroingRegions m).isEmpty

/-- R234 to R239. SET_LOG2 shows the value last written, also while its change is PENDING (R10, R236). -/
def readMc (s : State) (m o : Nat) : Nat :=
  let z := s.mast m
  let c := z.mc
  let busy := s.busyBands m
  let x := s.ctx? c.ctxSel
  let w := tgetD c.ctxs c.ctxSel McCtx.new
  let of_ := fun (f : Ctx → Nat) => match x with | some y => f y | none => 0
  if 0x10 ≤ o && o < 0x40 then
    let b := (o - 0x10) / 4
    packFields [(3, 1, b2n (thas c.bandPending b)), (0, 2, tgetD c.bandPending b (c.band b))]
  else regAt o [
    (0x00, packFields [(24, 4, 0xC), (20, 4, 3), (16, 4, 4), (12, 4, 8), (8, 4, 4), (0, 8, 0xC)]),
    (0x04, packFields [(31, 1, b2n c.selfRefresh), (30, 1, b2n (s.zeroingOn m)),
                       (28, 2, c.refresh), (27, 1, b2n c.auto2x), (0, 12, busy)]),
    (0x40, c.scrubPeriod), (0x44, packFields [(16, 16, sat 16 c.passes), (0, 8, c.chunk)]), (0x50, c.ctxSel),
    (0x54, of_ fun y => packFields [(31, 1, b2n y.confined), (2, 3, y.base), (0, 2, y.setLog2)]),
    (0x58, of_ fun _ => w.ways), (0x5C, of_ fun _ => packFields [(16, 16, w.ratio), (8, 8, sat 8 w.highRun)]),
    (0x60, of_ fun _ => (z.lc.lines.filter fun l => l.ctx == c.ctxSel).length), (0x64, of_ fun _ => sat 32 w.xevict),
    (0x68, packFields [(16, 16, c.thr), (0, 8, c.windows)]), (0x70, if c.errValid then lo32 c.errAddr else 0),
    (0x74, if c.errValid then packFields [(31, 1, 1), (24, 7, c.errCtx), (0, 4, hi32 c.errAddr)] else 0), (0x80, c.err.toNat)]

/-- A mast's counter block (R461, R462). -/
def readPmcMast (s : State) (m o : Nat) : Nat :=
  let b := (s.mast m).pmc
  let c := b.ctxSel
  let live := (s.ctx? c).isSome
  match readCounters b o with
  | some v => v
  | none =>
    if 0x8000 ≤ o && o < 0x8040 then
      let k := (o - 0x8000) / 4
      if !live then 0
      else if b.served = c then (match tget b.progs k with | some p => p.val | none => 0)
      else tgetD b.shadows (c * 16 + k) 0
    else regAt o [
      (0x00, packFields [(24, 4, 6), (20, 4, 0xA), (16, 4, 4)]), (0x04, lo32 b.ovf.toNat), (0x08, hi32 b.ovf.toNat), (0x10, c),
      (0x14, if live then packFields [(31, 1, b2n (b.served == c)), (30, 1, b2n (s.holds c m && b.served != c))] else 0)]

/-! ## The address map (R18) -/

/-- The mast whose span holds an offset. -/
def mastAt (off : Nat) : Option Nat :=
  if 0x1000000 ≤ off && off < 0x1800000 then some ((off - 0x1000000) / 0x100000) else none

/-- An offset in the span of a mast that the package does not have (R4, R18). -/
def State.regAbsent (s : State) (off : Nat) : Bool :=
  match mastAt off with | some n => !s.present n | none => false

/-- One 32-bit register read (R18). MST_ and MH_ read as zero. -/
def readReg (s : State) (off : Nat) : Nat :=
  match mastAt off with
  | some n =>
    let o := off % 0x10000
    match off % 0x100000 / 0x10000 with
    | 1 => readMe s.time (s.mast n) o
    | 2 => readAe s n o
    | 3 => readRtu s n o
    | 4 => readTt s n o
    | 5 => readMc s n o
    | 6 => readPmcMast s n o
    | _ => 0
  | none =>
    if off < 0x10000 then readId s off
    else if off < 0x20000 then readPwr s (off - 0x10000)
    else if off < 0x30000 then readFlt s (off - 0x20000)
    else if off < 0x40000 then readBtb s (off - 0x30000)
    else if off < 0x50000 then readCn s (off - 0x40000)
    else if off < 0x60000 then readRing s (off - 0x50000)
    else if off < 0x80000 then 0
    else if off < 0xC0000 then readNlc s (off - 0x80000)
    else if off < 0x100000 then readCol s (off - 0xC0000)
    else if off < 0x140000 then readHif s (off - 0x100000)
    else if off < 0x180000 then readHal s (off - 0x140000)
    else if off < 0x1C0000 then readPmcHub s (off - 0x180000)
    else if off < 0x400000 then readSrv s (off - 0x1C0000)
    else 0

/-- A host read of CN_TIME_LO ends the latch of a sideband read before it (R469). -/
def State.unlatch (s : State) (off : Nat) : State :=
  if off = 0x40000 then { s with cn := { s.cn with timeHi := none } } else s

end Sys2Proof.Machine
end

