-- ==== Sys2Proof/Machine/RegWrite.lean ====
section
/-! DEFINITION. Device register space as it is written (R10, R18, R273): what each register stores, clears or starts. The
Boolean of a write says whether the register took it; a refused write leaves the register as it was. -/
namespace Sys2Proof.Machine

/-- A write of 1 clears (R10). -/
def w1c (old : Word) (val : Nat) : Word := old &&& ~~~(BitVec.ofNat 32 val)

/-! ## Power (R384, R385, R399 to R402) -/

/-- A cap is written by its source: 1 the host, 2 the rack manager (R384, R385). -/
def State.writeCap (s : State) (source w : Nat) : State :=
  let low := decide (w < 450)
  let wasBlocked := s.pwr.floorCap || s.pwr.floorMgmt
  let p := s.pwr
  let p := if source = 1 then { p with cap := clampCap w, capLow := low, floorCap := low }
           else { p with capMgmt := clampCap w, mgmtLow := low, floorMgmt := low }
  let s := { s with pwr := { p with err := if low then p.err ||| 0x100 else p.err } }
  if low then s.raise { mkRec 0x0205 clsCE hubMast noUnit 0 with info0 := source }
  else if wasBlocked && !s.pwr.floorCap && !s.pwr.floorMgmt then s.idleAll else s

/-- PWR_REEF_LIMIT takes a level (R380, R400). -/
def State.writeReefLimit (s : State) (l : Nat) : State :=
  State.retarget { s with pwr := { s.pwr with reefLimit := min 4 (l % 8) } }

/-- R397 to R402. -/
def writePwr (s : State) (o v : Nat) : State :=
  let p := s.pwr
  if o = 0x08 then s.writeCap 1 (v % 65536)
  else if o = 0x10 then { s with pwr := { p with hbEn := bit v 31, capSafe := clampCap (v % 65536) } }
  else if o = 0x18 then s.writeReefLimit v
  else if o = 0x40 then { s with pwr := { p with ctxSel := v % 128 } }
  else if o = 0x44 then
    (s.modCtx p.ctxSel fun x => { x with reefValid := bit v 31, reefGroup := v % 4096 }).retarget
  else if o = 0x70 then { s with pwr := { p with err := w1c p.err v } }
  else s

/-- R423 to R426. -/
def writeFlt (s : State) (o v : Nat) : State :=
  let f := s.flt
  if o = 0x08 then { s with flt := { f with mergeMs := bits v 8 8, logCe := bit v 0 } }
  else if o = 0x20 then { s with flt := { f with logSel := v } }
  else if o = 0x30 then { s with flt := { f with err := w1c f.err v } }
  else s

/-! ## Fabric (R339, R347, R349) -/

/-- Dead targets whose bits are written in NLC_DEAD_k are cleared, and the epoch toward each advances (R337, R339). -/
def State.clearDead (s : State) (k v : Nat) : State :=
  ((s.nlc.dead.filter fun d => d / 32 == k && bit v (d % 32))).foldl (fun (s : State) d =>
    s.modNlc fun n => { n with
      dead := n.dead.filter (· != d), epochs := tset n.epochs d ((tgetD n.epochs d 0 + 1) % 256),
      nextWrite := tset n.nextWrite d 0 }) s

def writeNlc (s : State) (o v : Nat) : State :=
  if 0x20 ≤ o && o < 0x40 then s.clearDead ((o - 0x20) / 4) v
  else if o = 0x08 then s.modNlc fun n => { n with timeout := bits v 16 16, attempts := bits v 12 4 }
  else if o = 0x50 then s.modNlc fun n => { n with err := w1c n.err v }
  else s

def writeCol (s : State) (o v : Nat) : State :=
  if o = 0x08 then s.modCol fun c => { c with timeoutMs := bits v 16 16, minPlanes := bits v 8 6, smallLog2 := bits v 0 5 }
  else if o = 0x10 then s.modCol fun c => { c with sel := v % 4096 }
  else if o = 0x20 then s.modCol fun c => { c with err := w1c c.err v }
  else s

/-- HIF_MOD_CTRL and HIF_ERR (R249, R250, R255, R256). -/
def writeHif (s : State) (o v : Nat) : State :=
  if o = 0x0C then
    let s := if bit v 4 then s.flush else s
    s.retryModules (v % 16)
  else if o = 0x30 then { s with hif := { s.hif with err := w1c s.hif.err v } }
  else s

def writeHal (s : State) (o v : Nat) : State :=
  let h := s.hal
  if o = 0x08 then { s with hal := { h with period := v % 256 } }
  else if o = 0x10 then { s with hal := { h with sel := v } }
  else if o = 0x30 then { s with hal := { h with err := w1c h.err v } }
  else s

/-! ## Counters (R454, R461, R462) -/

/-- What a write of COMPAT does to a mast: the values of a furl that a coolant stop holds are saved; enabling clears the shadows, and
counters 0 to 15 carry them. The counters of a fenced mast are frozen (R454, R455, R460; DEDUCED, log entry 108). -/
def Mast.compatSet (c : Nat) (enable : Bool) (z : Mast) : Mast :=
  let b := z.pmc.unserve c
  if z.fenced then z
  else if enable then
    { z with pmc := { b with shadows := b.shadows.filter fun e => e.1 / 16 != c,
                             progs := if b.served = 0 then b.progs.filter fun e => decide (16 ≤ e.1) else b.progs } }
  else { z with pmc := b }

/-- COMPAT of a context is written: refused unless the context is furled (R454). -/
def State.writeCompat (s : State) (c : Nat) (on : Bool) : State × Bool :=
  match s.ctx? c with
  | none => (s, true)
  | some x =>
    if x.state != .furled then (s, false)
    else
      let s := s.modCtx c fun x => { x with compat := on }
      (x.masts.foldl (fun (s : State) m => s.modMast m (Mast.compatSet c (on && !x.compat))) s, true)

/-- PMC_CTX_SHSEL_k takes an event; counters that serve the context count it from now on, but for a fenced mast's (R454,
R460; DEDUCED, log entry 108). -/
def State.writeShsel (s : State) (c k v : Nat) : State :=
  let w := packFields [(15, 1, b2n (bit v 15)), (0, 10, v)]
  let s := s.modCtx c fun x => { x with shsel := tset x.shsel k w }
  if (s.ctx? c).isNone then s
  else s.mapMasts fun _ z =>
    if z.pmc.served = c && !z.fenced then
      { z with pmc := { z.pmc with progs := tmod z.pmc.progs k fun p => { p with sel := shadowSel c w } } }
    else z

def writePmcHub (s : State) (o v : Nat) : State × Bool :=
  let b := s.pmc
  if o = 0x18 then s.writeCompat b.ctxSel (bit v 1)
  else if 0x40 ≤ o && o < 0x80 then (s.writeShsel b.ctxSel ((o - 0x40) / 4) v, true)
  else if o = 0x04 then ({ s with pmc := { b with ovf := b.ovf &&& ~~~(BitVec.ofNat 64 (v % 2 ^ 32)) } }, true)
  else if o = 0x10 then ({ s with pmc := { b with ctxSel := v % 128 } }, true)
  else (s, true)

def writeSrv (s : State) (o v : Nat) : State :=
  if o = 0x10 then { s with srvSel := v % 128 }
  else if o = 0x40 then { s with srvErr := w1c s.srvErr v }
  else s

/-! ## Masts -/

/-- TT_LAYER_CMD (R107, R113). -/
def State.layerCmd (s : State) (m v : Nat) : State :=
  let cmd := bits v 30 2
  let c := bits v 16 7
  let l := bits v 0 12
  if cmd = 0 then s
  else if cmd = 3 || bits v 23 7 != 0 || bits v 12 4 != 0 || (s.layerNamed c l).isNone then
    s.modMast m fun z => { z with tt := { z.tt with cmdStatus := 2 } }
  else s.modMast m fun z => { z with tt := { z.tt with
    cmdStatus := 1, recs := tset z.tt.recs (recKey c l) { z.tt.rec? c l with cmd } } }

def writeTt (s : State) (m o v : Nat) : State :=
  let mod := fun (f : TtBlk → TtBlk) => s.modMast m fun z => { z with tt := f z.tt }
  if o = 0x04 then mod fun t => { t with autoEn := bit v 1, sampleEn := bit v 0 }
  else if o = 0x08 then mod fun t => { t with seed := v }
  else if o = 0x10 then mod fun t => { t with selCtx := bits v 16 7, selLayer := bits v 0 12 }
  else if o = 0x24 then s.layerCmd m v
  else if o = 0x30 then mod fun t => { t with err := w1c t.err v }
  else s

/-- MC_BAND_b: refused while a context holds memory in the band or the band is changing or being zeroed; otherwise the
change starts (R216). -/
def State.writeBand (s : State) (m b v : Nat) : State × Bool :=
  let z := s.mast m
  if thas z.mc.bandPending b || s.taken m (b * 2 ^ 32) (2 ^ 32) then
    (s.modMast m fun z => { z with mc := { z.mc with err := z.mc.err ||| 0x40 } }, false)
  else (s.modMast m fun z => { z with mc := { z.mc with bandPending := tset z.mc.bandPending b (v % 4) } }, true)

def writeMc (s : State) (m o v : Nat) : State × Bool :=
  let mod := fun (f : McBlk → McBlk) => (s.modMast m fun z => { z with mc := f z.mc }, true)
  if 0x10 ≤ o && o < 0x40 then s.writeBand m ((o - 0x10) / 4) v
  else if o = 0x40 then mod fun c => { c with scrubPeriod := v % 256 }
  else if o = 0x50 then mod fun c => { c with ctxSel := v % 128 }
  else if o = 0x58 then
    if (s.ctx? (s.mast m).mc.ctxSel).isNone then (s, true)
    else mod fun c => { c with ctxs := tset c.ctxs c.ctxSel { tgetD c.ctxs c.ctxSel McCtx.new with ways := v % 65536 } }
  else if o = 0x68 then mod fun c => { c with thr := bits v 16 16, windows := v % 256 }
  else if o = 0x80 then mod fun c => { c with err := w1c c.err v, errValid := c.errValid && !bit v 1 }
  else (s, true)

def writePmcMast (s : State) (m o v : Nat) : State :=
  let mod := fun (f : PmcBlk → PmcBlk) => s.modMast m fun z => { z with pmc := f z.pmc }
  if o = 0x04 then mod fun b => { b with ovf := b.ovf &&& ~~~(BitVec.ofNat 64 (v % 2 ^ 32)) }
  else if o = 0x08 then mod fun b => { b with ovf := b.ovf &&& ~~~(BitVec.ofNat 64 (v % 2 ^ 32 * 2 ^ 32)) }
  else if o = 0x10 then mod fun b => { b with ctxSel := v % 128 }
  else s

/-- One register of a mast is written: its sub-block and the offset within it (R18). -/
def writeMast (s : State) (m blk o v : Nat) : State × Bool :=
  let mod := fun (f : Mast → Mast) => (s.modMast m f, true)
  match blk with
  | 1 => if o = 0x10 then mod fun z => { z with me := { z.me with err := w1c z.me.err v } } else (s, true)
  | 2 =>
    if o = 0x10 then mod fun z => { z with ae := { z.ae with ctxSel := v % 128 } }
    else if o = 0x40 then mod fun z => { z with ae := { z.ae with err := w1c z.ae.err v } }
    else (s, true)
  | 3 =>
    if o = 0x10 then mod fun z => { z with rtu := { z.rtu with ctxSel := v % 128 } }
    else if o = 0x30 then mod fun z => { z with rtu := { z.rtu with err := w1c z.rtu.err v } }
    else (s, true)
  | 4 => (writeTt s m o v, true)
  | 5 => writeMc s m o v
  | 6 => (writePmcMast s m o v, true)
  | _ => (s, true)

/-- One 32-bit register write (R18, R273). Offsets that no table assigns, and read-only registers, ignore it. -/
def writeReg (s : State) (off v : Nat) : State × Bool :=
  match mastAt off with
  | some n => writeMast s n (off % 0x100000 / 0x10000) (off % 0x10000) v
  | none =>
    if off < 0x10000 then (s, true)
    else if off < 0x20000 then (writePwr s (off - 0x10000) v, true)
    else if off < 0x30000 then (writeFlt s (off - 0x20000) v, true)
    else if off < 0x40000 then
      (if off = 0x30040 then { s with btb := { s.btb with err := w1c s.btb.err v } } else s, true)
    else if off < 0x50000 then (if off = 0x40020 then { s with cn := { s.cn with err := w1c s.cn.err v } } else s, true)
    else if off < 0x80000 then (s, true)
    else if off < 0xC0000 then (writeNlc s (off - 0x80000) v, true)
    else if off < 0x100000 then (writeCol s (off - 0xC0000) v, true)
    else if off < 0x140000 then (writeHif s (off - 0x100000) v, true)
    else if off < 0x180000 then (writeHal s (off - 0x140000) v, true)
    else if off < 0x1C0000 then writePmcHub s (off - 0x180000) v
    else if off < 0x400000 then (writeSrv s (off - 0x1C0000) v, true)
    else (s, true)

/-- Whether the sidebands serve an offset: once the boot ROM runs, and in the fatal state, whenever it began, only the FLT_, CN_ and
ID_ blocks and HIF_BOOT, until the input falls (R251, R376, R414, R463, R468, R471). -/
def State.served (s : State) (off : Nat) : Bool :=
  if s.flt.fatal then
    s.cn.powered && s.cn.inputValid && !s.cn.held
    && (decide (off < 0x10000) || decide (0x20000 ≤ off ∧ off < 0x30000) || decide (0x40000 ≤ off ∧ off < 0x60000)
        || off == 0x100004)
  else s.bootRom

/-- One register write by the host on either path: an absent block or an offset that is no register's takes none (R4,
R273). In the fatal state every one is ignored (R414). -/
def State.hostWrite (s : State) (off v : Nat) : State :=
  if off % 4 != 0 || s.regAbsent off || !s.served off || s.flt.fatal then s else (writeReg s off v).1

/-! ## Host access over Stauc (R273) -/

/-- The words of a REG_READ, ascending. -/
def State.readWords (s : State) (off : Nat) : Nat → State × Bytes
  | 0 => (s, [])
  | n + 1 =>
    let v := readReg s off
    let r := (s.unlatch off).readWords (off + 4) n
    (r.1, natLe 4 v ++ r.2)

/-- The words of a REG_WRITE are applied in ascending offset until a register refuses one; the result is how many were
applied, and whether all were. -/
def State.writeWords (s : State) (off : Nat) : List Nat → State × Nat × Bool
  | [] => (s, 0, true)
  | v :: vs =>
    let r := writeReg s off v
    if r.2 then
      let q := r.1.writeWords (off + 4) vs
      (q.1, q.2.1 + 1, q.2.2)
    else (r.1, 0, false)

end Sys2Proof.Machine
end

