-- ==== Sys2Proof/Machine/RegisterCmds.lean ====
section
/-! DEFINITION. Register accesses with a behaviour of their own, on either path, and the register messages of the sideband
(R107, R216, R249 to R251, R339, R385, R454, R469). -/
namespace Sys2Proof.Machine

/-! ## Writes -/

/-- PWR_CAP takes a value; below 450 W step starts block (R384, R385). -/
def execPwrCapWrite (val : Word) (s : State) : Host.Outcome State Fault Refusal :=
  settle s (s.hostWrite 0x10008 val.toNat)

/-- The register offset of a mast's sub-block. -/
def mastReg (mast blk o : Nat) : Nat := 0x1000000 + mast * 0x100000 + blk * 0x10000 + o

/-- MC_BAND_b takes a mode, unless the band is in use or changing (R216). -/
def execMcBandWrite (mast band : Nat) (val : Word) (s : State) : Host.Outcome State Fault Refusal :=
  onMast mast s (if band < 12 then s.hostWrite (mastReg mast 5 (0x10 + 4 * band)) val.toNat else s)

/-- A band's zeroing ends: the new mode applies and PENDING clears (R216). -/
def State.bandDone (s : State) (m b : Nat) : State :=
  match tget (s.mast m).mc.bandPending b with
  | none => s
  | some j =>
    if s.pwr.coolstop || !s.mastUp m then s
    else s.modMast m fun z =>
      let z := z.zeroDram (b * 2 ^ 32) (2 ^ 32)
      { z with mc := { z.mc with bandPending := tdel z.mc.bandPending b,
                                 setLog2 := if j = 3 then tdel z.mc.setLog2 b else tset z.mc.setLog2 b j } }

/-- A change of a band's mode ends (R216). -/
def execBandChangeComplete (mast band : Nat) (s : State) : Host.Outcome State Fault Refusal :=
  onMast mast s (s.whenAlive (s.bandDone mast band))

/-- Dead targets are cleared through NLC_DEAD_k (R339). -/
def execNlcDeadClear (k : Nat) (val : Word) (s : State) : Host.Outcome State Fault Refusal :=
  settle s (if k < 8 then s.hostWrite (0x80020 + 4 * k) val.toNat else s)

/-- HIF_MOD_CTRL.FLUSH: a fresh link-up (R249). -/
def execHifFlush (s : State) : Host.Outcome State Fault Refusal := settle s (s.hostWrite 0x10000C 16)

/-- HIF_MOD_CTRL.RETRY: modules that are down train (R250). -/
def execHifRetry (mask : Nat) (s : State) : Host.Outcome State Fault Refusal := settle s (s.hostWrite 0x10000C (mask % 16))

/-- TT_LAYER_CMD with a command for a layer (R107, R113). -/
def ttCmdWord (cmd ctx layer : Nat) : Nat := packFields [(30, 2, cmd), (16, 7, ctx), (0, 12, layer)]

/-- CLEAR of a layer is recorded for the context's next boundary (R107). -/
def execTtClear (mast ctx layer : Nat) (s : State) : Host.Outcome State Fault Refusal :=
  onMast mast s (s.hostWrite (mastReg mast 4 0x24) (ttCmdWord 1 ctx layer))

/-- PIN of a layer is recorded for the context's next boundary (R107). -/
def execTtPin (mast ctx layer : Nat) (s : State) : Host.Outcome State Fault Refusal :=
  onMast mast s (s.hostWrite (mastReg mast 4 0x24) (ttCmdWord 2 ctx layer))

/-- PMC_CTX_GRANT with COMPAT for the selected context (R454). -/
def execPmcCompatWrite (val : Word) (s : State) : Host.Outcome State Fault Refusal :=
  settle s (s.hostWrite 0x180018 val.toNat)

/-! ## Sideband messages (R251, R469) -/

/-- A sideband read of CN_TIME_LO latches the upper half of package time (R469). -/
def State.latchTime (s : State) (off : Nat) : State :=
  if off = 0x40000 then { s with cn := { s.cn with timeHi := some (BitVec.ofNat 32 (hi32 s.time)) } } else s

/-- A sideband read of a register: its value goes back (R251). DESIGN CHOICE (log entry 91): a read in the span of an absent mast
gives no data; the status of R4 is that of a Stauc request. -/
def State.sidebandRead (s : State) (off : Nat) : State :=
  if off % 4 != 0 || s.regAbsent off || !s.served off then s
  else (s.latchTime off).emit (.sbData off (BitVec.ofNat 32 (readReg s off)))

/-- A sideband read message (R251). -/
def execSbMemRead (off : Nat) (s : State) : Host.Outcome State Fault Refusal := settle s (s.sidebandRead off)

/-- A sideband read of CN_TIME_LO (R469). -/
def execCnTimeLoRead (s : State) : Host.Outcome State Fault Refusal := settle s (s.sidebandRead 0x40000)

/-- A sideband write message (R251). -/
def execSbMemWrite (off : Nat) (val : Word) (s : State) : Host.Outcome State Fault Refusal :=
  settle s (s.hostWrite off val.toNat)

end Sys2Proof.Machine
end

