-- ==== Sys2Proof/Machine/PowerCmds.lean ====
section
/-! DEFINITION. The commands of class 0x07, power (R279, R380, R384, R389, R395). -/
namespace Sys2Proof.Machine

/-! ## Caps and limits -/

/-- CAP_SET (R279, R384). -/
def capSetAct (r : Req) (s : State) : State × Ans :=
  let t := s.writeCap 1 (a0 r % 65536)
  guardAct [argRsv r (lowMask 16) 0] s (t, done1 t.pwr.cap)

def capSetCmd : Cmd := { opcode := 0x0701, device := true, lenOk := noPayload, act := capSetAct }

/-- CAP_SET: PWR_CAP is stored within 450 W to 2,000 W, and the answer reports it (R279, R384, R385). -/
def execCapSet (r : Req) (s : State) : Host.Outcome State Fault Refusal := stauc capSetCmd r s

/-- REEF_LIMIT (R279, R380). -/
def reefLimitAct (r : Req) (s : State) : State × Ans :=
  guardAct [argRsv r 7 0, (decide (4 < a0 r % 8), refuse stBadArgument 16)] s (s.writeReefLimit (a0 r), ans stDone)

def reefLimitCmd : Cmd := { opcode := 0x0703, device := true, lenOk := noPayload, act := reefLimitAct }

/-- REEF_LIMIT: the fastest level the package may run at (R279, R380). -/
def execReefLimit (r : Req) (s : State) : Host.Outcome State Fault Refusal := stauc reefLimitCmd r s

/-! ## Hints (R389) -/

/-- POWER_HINT (R279, R389). -/
def powerHintAct (r : Req) (s : State) : State × Ans :=
  guardAct [argRsv r (lowMask 48) (lowMask 32)] s
    (s.hint (bits (a0 r) 0 16) (bits (a0 r) 16 32) (bits (a1 r) 0 32), ans stDone)

def powerHintCmd : Cmd := { opcode := 0x0702, device := true, lenOk := noPayload, act := powerHintAct }

/-- POWER_HINT: power that is expected to arrive (R279, R389). -/
def execPowerHint (r : Req) (s : State) : Host.Outcome State Fault Refusal := stauc powerHintCmd r s

/-! ## The end of a coolant stop (R395) -/

/-- A mast's DRAM leaves self-refresh, and copies that were held back may start (R303, R395). -/
def Mast.restart (z : Mast) : Mast :=
  { z with mc := { z.mc with selfRefresh := false }, bulk := z.bulk.map fun j => { j with frozen := false } }

/-- The package leaves the coolant stop: DRAM leaves self-refresh, AK restarts at the applied level, table writes that
waited are made, waiting copies may start, and a queued scrub chunk may too (R222, R303, R395, R420). -/
def State.endCoolstop (s : State) : State :=
  if !s.pwr.coolstop then s
  else
    let p := { s.pwr with coolstop := false, applied := s.levelWanted, target := none }
    let s := State.mapMasts { s with pwr := p } fun _ z => z.restart
    (s.ctxs.foldl (fun (s : State) e => s.writeLate e.1) s).startQueued 0

/-- A context leaves `coolstop` for the state it held; one that was unfurling takes its engines now, and one
whose spill ended in the coolant stop releases its engines (R289, R299, R395). -/
def State.resumeCtx (s : State) (c : Nat) : State :=
  match s.ctx? c with
  | none => s
  | some x =>
    let s := match x.before with
      | .unfurling => (s.modCtx c fun y => { y with state := .displaced }).claimEngines c
      | .unfurled => s.modCtx c fun y => { y with state := .unfurled }
      | _ => let s := s.modCtx c fun y => { y with state := .displaced }
        if x.spilled.isEmpty then s.promote c else s
    let s := x.spilled.foldl (fun (s : State) m => s.freeEngines c m) (s.modCtx c fun y => { y with spilled := [] })
    let s := ((s.reevalAll false).retarget).idle c
    (s.col.calls.filter fun k => k.ctx == c).foldl (fun (s : State) k => (s.launchChunks k.group k.mast).checkDone k.group k.mast) s

/-- What refuses COOL_RESUME: STATE while flow is absent or a logic die is at 85 °C or above, or outside `coolstop`. -/
def coolResumeChecks (r : Req) (s : State) : List (Bool × Ans) :=
  let st := ctxState s r.ctx.toNat
  [argRsv r 0 0, noCtx s r,
   (st == some .furling, ans stContextFurled), (st == some .torn, ans stContextTorn), (st != some .coolstop, ans stState),
   (s.pwr.pair != 0 || decide (1360 ≤ s.pwr.tj), ans stState)]

/-- COOL_RESUME (R279, R395). -/
def coolResumeAct (r : Req) (s : State) : State × Ans :=
  guardAct (coolResumeChecks r s) s (s.endCoolstop.resumeCtx r.ctx.toNat, ans stDone)

def coolResumeCmd : Cmd :=
  { opcode := 0x0704, device := false, lenOk := noPayload, act := coolResumeAct,
    after := fun _ a s => if a.status = stDone then s.promoteOwed else s }

/-- COOL_RESUME: the coolant stop ends, and the named context returns to its earlier state (R289, R395). -/
def execCoolResume (r : Req) (s : State) : Host.Outcome State Fault Refusal := stauc coolResumeCmd r s

end Sys2Proof.Machine
end

