-- ==== Sys2Proof/Machine/CounterCmds.lean ====
section
/-! DEFINITION. The counter commands and the telemetry snapshot (R280, R445, R448, R451 to R454, R458). -/
namespace Sys2Proof.Machine

/-! ## Units and counter values -/

/-- The counter block of a unit: a mast, or the hub at 8 (R280). -/
def State.pmcOf (s : State) (u : Nat) : PmcBlk := if u = 8 then s.pmc else (s.mast u).pmc

/-- Counters of a unit: fixed ones, and programmable ones (R445, R448). -/
def fixedCount (u : Nat) : Nat := if u = 8 then 512 else 1024
def progCount (u : Nat) : Nat := if u = 8 then 32 else 64

/-- The value of a counter; a 32-bit one has a zero upper half (R280). -/
def PmcBlk.value (b : PmcBlk) (prog : Bool) (n : Nat) : Nat :=
  if prog then (match tget b.progs n with | some p => p.val | none => 0) else tgetD b.fixed n 0

/-- A unit that the package has. -/
def State.unitBad (s : State) (u : Nat) : Bool := decide (8 < u) || (u != 8 && !s.present u)

/-- A mast unit that is fenced (R445, R460). -/
def State.unitFenced (s : State) (u : Nat) : Bool := u != 8 && s.fencedMast u

/-! ## CTR_READ -/

def crUnit (r : Req) : Nat := bits (a0 r) 0 4
def crProg (r : Req) : Bool := bit (a0 r) 4
def crFirst (r : Req) : Nat := bits (a0 r) 16 10
def crCount (r : Req) : Nat := bits (a1 r) 0 10

/-- Checks 10 to 14 of CTR_READ (R280, R445). -/
def ctrReadChecks (r : Req) (s : State) : List (Bool × Ans) :=
  let u := crUnit r
  [argRsv r 0x3FF001F 0x3FF, (s.unitBad u, refuse stBadArgument 16),
            (crCount r == 0 || decide (512 < crCount r), refuse stBadArgument 24),
            (decide ((if crProg r then progCount u else fixedCount u) < crFirst r + crCount r), refuse stBadArgument 18),
            (s.unitFenced u, ans stFenced)]

/-- CTR_READ (R280, R445). -/
def ctrReadAct (r : Req) (s : State) : State × Ans :=
  let u := crUnit r
  guardAct (ctrReadChecks r s) s
    (s, { status := stDone, hi := 0, arg1 := 0,
          parts := [(List.range (crCount r)).flatMap fun i => natLe 8 ((s.pmcOf u).value (crProg r) (crFirst r + i))] })

def ctrReadCmd : Cmd := { opcode := 0x0801, device := true, lenOk := noPayload, act := ctrReadAct }

/-- CTR_READ: the values of consecutive counters of one unit (R280, R445). -/
def execCtrRead (r : Req) (s : State) : Host.Outcome State Fault Refusal := stauc ctrReadCmd r s

/-! ## CTR_PROGRAM -/

def cpIndex (r : Req) : Nat := bits (a0 r) 16 6

/-- Master codes that R450 gives to a mast's units and to the hub's, and the code for any. -/
def masterOk (u m : Nat) : Bool := m == 0x1F || (if u = 8 then decide (m ≤ 5) else decide (m ≤ 0x1C))

/-- The first reserved field of a selector that is not zero (R448). -/
def selRsv (b : Bytes) : Option Nat :=
  firstTrue [(1, decide (4 ≤ u8 b 1)), (2, decide (8 ≤ u8 b 2)), (3, decide (128 ≤ u8 b 3)), (4, decide (32 ≤ u8 b 4)),
    (5, decide (32 ≤ u8 b 5)), (6, decide (8 ≤ u8 b 6)), (7, u8 b 7 != 0), (24, !allZero (sub b 24 8))]

/-- The first value of a selector for counter `n` of unit `u` that fails R448 or R451. -/
def selBad (u n : Nat) (b : Bytes) : Option Nat :=
  firstTrue [(0, decide (fixedCount u ≤ u16 b 0 % 1024)), (2, u8 b 2 == 0), (3, decide (64 < u8 b 3)),
    (4, !masterOk u (u8 b 4)), (5, u8 b 5 == 0), (6, bit (u8 b 6) 1 && n % 2 == 0), (8, u64 b 8 % 128 != 0),
    (16, decide (u64 b 16 ≤ u64 b 8) || decide (dramSize < u64 b 16))]

/-- Counter `n` takes a selector: an enabled one starts from zero, a disabled one stops and keeps its value (R448); a chained
partner is set to zero (R451). -/
def PmcBlk.program (b : PmcBlk) (n : Nat) (sel : Bytes) : PmcBlk :=
  let on := bit (u8 sel 6) 0
  let v := if on then 0 else b.value true n
  let progs := tset b.progs n { sel, val := v, dead := false }
  let partner := n % 2 == 0 && (match tget progs (n + 1) with | some p => chained (n + 1) p.sel | none => false)
  { b with progs := if partner then tmod progs (n + 1) fun p => { p with val := 0 } else progs }

/-- The counter block of a unit is changed. -/
def State.modPmc (s : State) (u : Nat) (f : PmcBlk → PmcBlk) : State :=
  if u = 8 then { s with pmc := f s.pmc } else s.modMast u fun z => { z with pmc := f z.pmc }

/-- Checks 10 to 14 of CTR_PROGRAM (R280, R448, R451, R454). -/
def ctrProgramChecks (r : Req) (s : State) : List (Bool × Ans) :=
  let u := crUnit r
  let rsv := selRsv r.payload
  let bad := selBad u (cpIndex r) r.payload
  [argRsv r 0x3F000F 0, (rsv.isSome, refuse stReserved (32 + rsv.getD 0)),
            (s.unitBad u, refuse stBadArgument 16), (decide (progCount u ≤ cpIndex r), refuse stBadArgument 18),
            (bad.isSome, refuse stBadArgument (32 + bad.getD 0)), (s.unitFenced u, ans stFenced),
            (u != 8 && decide (cpIndex r < 16) && s.compatOn u, ans stState)]

/-- CTR_PROGRAM (R280, R448, R451, R454). -/
def ctrProgramAct (r : Req) (s : State) : State × Ans :=
  let u := crUnit r
  guardAct (ctrProgramChecks r s) s
    (s.modPmc u fun b => b.program (cpIndex r) r.payload, ans stDone)

def ctrProgramCmd : Cmd := { opcode := 0x0802, device := true, lenOk := payloadIs 32, act := ctrProgramAct }

/-- CTR_PROGRAM: loads a selector into one programmable counter (R280, R448). -/
def execCtrProgram (r : Req) (s : State) : Host.Outcome State Fault Refusal := stauc ctrProgramCmd r s

/-! ## CTR_GRANT -/

/-- CTR_GRANT (R280, R452). -/
def ctrGrantAct (r : Req) (s : State) : State × Ans :=
  guardAct [argRsv r 1 0, noCtx s r, ctxStateCheck s r] s
    (s.modCtx r.ctx.toNat fun c => { c with counterRead := bit (a0 r) 0 }, ans stDone)

def ctrGrantCmd : Cmd := { opcode := 0x0803, device := false, lenOk := noPayload, act := ctrGrantAct }

/-- CTR_GRANT: lets a context read counters from its own program, or withdraws the right (R452). -/
def execCtrGrant (r : Req) (s : State) : Host.Outcome State Fault Refusal := stauc ctrGrantCmd r s

/-! ## Telemetry (R458) -/

/-- The snapshot of R458. In the fatal state the levels and the power fields are zero (R460). -/
def State.telemetry (s : State) : Bytes :=
  let p := s.pwr
  let live := fun (x : Nat) => if s.flt.fatal then 0 else x
  let two := fun (x : Nat) => natLe 2 (sat 16 x)
  let per := fun (f : Mast → Nat) => (List.range 8).flatMap fun m => two (if s.present m then f (s.mast m) else 0)
  let b := natLe 8 s.time ++ two (live p.avgW) ++ two (live p.peakW) ++ two (live p.effCap)
    ++ natLe 1 (live (packFields [(0, 3, p.applied), (3, 3, p.thermal)])) ++ natLe 1 (live (16 - p.edges))
    ++ two p.tj ++ two p.tjDram ++ two p.vin ++ natLe 1 p.pair ++ natLe 1 s.fencedMask ++ natLe 4 s.flt.seq
    ++ natLe 4 (packFields [(0, 1, b2n p.brownout), (1, 1, b2n p.coolstop), (2, 1, b2n (p.floorCap || p.floorMgmt)),
                            (3, 1, b2n (p.hbLost && p.hbEn)), (4, 1, b2n (decide (0 < p.thermal))),
                            (5, 1, b2n (decide (1680 < p.tj)))])
    ++ per (·.tj) ++ two p.tjHub ++ zeros 14 ++ per (fun z => live z.railW) ++ two (live p.hubW) ++ zeros 14
    ++ per (·.dramGbs) ++ zeros 16 ++ natLe 8 (tgetD s.pmc.fixed 0x010 0)
  fitTo b 256

/-- TELEMETRY (R280, R458). -/
def telemetryAct (r : Req) (s : State) : State × Ans :=
  guardAct [argRsv r 0 0] s (s, { status := stDone, hi := 0, arg1 := 0, parts := [s.telemetry] })

def telemetryCmd : Cmd := { opcode := 0x0804, device := true, lenOk := noPayload, act := telemetryAct }

/-- TELEMETRY: the snapshot of R458. -/
def execTelemetry (r : Req) (s : State) : Host.Outcome State Fault Refusal := stauc telemetryCmd r s

end Sys2Proof.Machine
end

