-- ==== Sys2Proof/Machine/DeviceCmds.lean ====
section
/-! DEFINITION. The device commands: negotiation, configuration, MARK, ECHO and register access (R270, R272, R273, R457). -/
namespace Sys2Proof.Machine

/-- HELLO (R270). -/
def helloAct (r : Req) (s : State) : State × Ans :=
  guardAct [argRsv r 0 0, (s.st.negotiated, ans stState),
            (decide (r.version.toNat / 16 < 3), refuse stVersion 0x30)] s
    (State.pumpAll { s with st := { s.st with negotiated := true } }, done1 0x130)

def helloCmd : Cmd := { opcode := 0x0101, hello := true, device := true, lenOk := noPayload, act := helloAct }

/-- HELLO: an offer of 3.0 or higher is negotiated as 3.0 (R270). -/
def execHello (r : Req) (s : State) : Host.Outcome State Fault Refusal := stauc helloCmd r s

/-- DEV_CONFIG (R272). -/
def devConfigAct (r : Req) (s : State) : State × Ans :=
  guardAct [argRsv r 0x307 0, (bits (a0 r) 8 2 == 3, refuse stBadArgument 17)] s
    ({ s with st := { s.st with eventCh := a0 r % 8, eventMin := bits (a0 r) 8 2 } }, ans stDone)

def devConfigCmd : Cmd := { opcode := 0x0102, device := true, lenOk := noPayload, act := devConfigAct }

/-- DEV_CONFIG: sets the channel of event notices and the least class offered (R272). -/
def execDevConfig (r : Req) (s : State) : Host.Outcome State Fault Refusal := stauc devConfigCmd r s

/-- MARK (R457). -/
def markAct (r : Req) (s : State) : State × Ans :=
  guardAct [argRsv r (lowMask 64) 0] s
    (s.raise { mkRec 0x1601 clsNOTE hubMast noUnit 0 with info0 := a0 r }, done1 s.time)

def markCmd : Cmd := { opcode := 0x0103, device := true, lenOk := noPayload, act := markAct }

/-- MARK: a NOTE record with the host value and the package time, which the answer returns (R272, R457). -/
def execMark (r : Req) (s : State) : Host.Outcome State Fault Refusal := stauc markCmd r s

/-- ECHO (R272). -/
def echoAct (r : Req) (s : State) : State × Ans :=
  guardAct [argRsv r 0 0] s (s, { status := stDone, hi := 0, arg1 := 0, parts := [r.payload] })

def echoCmd : Cmd := { opcode := 0x0104, device := true, lenOk := payloadIn 0 4096, act := echoAct }

/-- ECHO: the payload comes back unchanged (R272). -/
def execEcho (r : Req) (s : State) : Host.Outcome State Fault Refusal := stauc echoCmd r s

/-- Offset and count of REG_READ and REG_WRITE (R272). -/
def regOff (r : Req) : Nat := bits (a0 r) 0 32
def regCount (r : Req) : Nat := bits (a0 r) 32 10 + 1

/-- Some word of a range lies in an absent block (R273). -/
def State.anyAbsent (s : State) (off n : Nat) : Bool := (List.range n).any fun i => s.regAbsent (off + 4 * i)

/-- What refuses a register access before it starts (R265, R273). -/
def regChecks (r : Req) (s : State) : List (Bool × Ans) :=
  [argRsv r (lowMask 42) 0, (regOff r % 4 != 0, refuse stRegAlign 16),
   (decide (2 ^ 32 < regOff r + 4 * regCount r), refuse stBadArgument 16),
   (s.anyAbsent (regOff r) (regCount r), refuse stRegAbsent 16)]

/-- REG_READ (R272, R273). -/
def regReadAct (r : Req) (s : State) : State × Ans :=
  guardAct (regChecks r s) s
    (let q := s.readWords (regOff r) (regCount r)
     (q.1, { status := stDone, hi := 0, arg1 := 0, parts := [q.2] }))

def regReadCmd : Cmd := { opcode := 0x0110, device := true, lenOk := noPayload, act := regReadAct }

/-- REG_READ: reads a range of register words (R272, R273). -/
def execRegRead (r : Req) (s : State) : Host.Outcome State Fault Refusal := stauc regReadCmd r s

/-- REG_WRITE (R272, R273). -/
def regWriteAct (r : Req) (s : State) : State × Ans :=
  guardAct (regChecks r s) s
    (let q := s.writeWords (regOff r) ((List.range (regCount r)).map fun i => u32 r.payload (4 * i))
     (q.1, if q.2.2 then done1 q.2.1 else refuse stState q.2.1))

def regWriteCmd : Cmd :=
  { opcode := 0x0111, device := true, lenOk := fun r => r.payload.length == 4 * regCount r, act := regWriteAct }

/-- REG_WRITE: applies words in ascending offset until a register refuses one (R273). -/
def execRegWrite (r : Req) (s : State) : Host.Outcome State Fault Refusal := stauc regWriteCmd r s

/-- A write that reaches a register on either path: it is stored, ignored or clears bits by the register's access code
(R10). -/
def execRegisterWrite (off : Nat) (val : Word) (s : State) : Host.Outcome State Fault Refusal :=
  settle s (s.hostWrite off val.toNat)

end Sys2Proof.Machine
end

