-- ==== Sys2Proof/Machine/FabFail.lean ====
section
/-! DEFINITION. What happens when the fabric fails: attempts, dead targets, and chunks and requests that leave again (R339, R341,
R345, R366). -/
namespace Sys2Proof.Machine

/-- How an operation failed (R341). -/
inductive FabFailure where
  | denied
  | dead
  | poison
  deriving DecidableEq, Repr

/-- A fabric operation fails, with the reaction of its issuer (R341). -/
def State.failReq (s : State) (key : Nat) (why : FabFailure) : State :=
  match tget s.nlc.reqs key with
  | none => s
  | some r =>
    let s := s.endReq key
    match r.issuer with
    | .copy c m =>
      let cause := match why with | .denied => 0x0607 | .dead => 0x0608 | .poison => 0x0609
      s.contained { mkRec cause clsUC m noUnit c with info1 := r.pkg }
    | .halyard i line => s.quarantine i 3 (some (line * 128))
    | .mirror _ => s
    | .mailbox => s.modNlc fun n => { n with err := n.err ||| 0x40 }

/-- The contexts that a dead target tears down. -/
def State.deadVictims (s : State) (pkg : Nat) : List Nat :=
  (s.nlc.reqs.filterMap fun e => if e.2.pkg = pkg then (match e.2.issuer with | .copy c _ => some c | _ => none) else none)
  ++ (s.col.calls.filterMap fun c => match s.group? c.group with
       | some g => if g.members.any (fun x => x.pkg == pkg) then some c.ctx else none
       | none => none)

/-- A package is declared dead (R339): every operation to it fails at once, calls with a member there end, and the fabric
manager is told (R341, R342). -/
def State.declareDead (s : State) (pkg : Nat) : State :=
  if s.isDead pkg then s
  else
    let victim := (s.deadVictims pkg).headD 0
    let s := s.modNlc fun n => { n with dead := insAsc pkg n.dead, err := n.err ||| 0x20 }
    let keys := (s.nlc.reqs.filter fun e => e.2.pkg == pkg).map (·.1)
    let s := keys.foldl (fun (s : State) k => s.failReq k .dead) s
    (s.failDead pkg).mail 1 0xFF pkg victim 0

/-- An attempt of a request went unanswered: the next one leaves, or the target is dead (R339). -/
def State.retryReq (s : State) (key : Nat) : State :=
  match tget s.nlc.reqs key with
  | none => s
  | some r =>
    if !r.sent then s
    else if r.tries ≤ r.attempt + 1 then
      (if r.issuer == .mailbox then (s.failReq key .dead).declareDead r.pkg else s.declareDead r.pkg)
    else (s.modNlc fun n => { n with reqs := tmod n.reqs key fun r => { r with attempt := r.attempt + 1 } }).launch key

/-- The port of a request's last attempt went down: it is resent at once with the next attempt number, the last one again
where it was the last (R339, R345; log entry 76). -/
def State.rerouteReq (s : State) (key : Nat) : State :=
  (s.modNlc fun n => { n with reqs := tmod n.reqs key fun r => { r with attempt := min (r.attempt + 1) (r.tries - 1) } }).launchAs
    key true

/-- The package a chunk is meant for. -/
def State.chunkPkg (s : State) (grp to_ : Nat) : Nat :=
  match s.group? grp with
  | some g => (g.member (if to_ = switchRank then 0 else to_)).pkg
  | none => 0

/-- The bytes of a chunk that leaves again: no copy is kept of one that stands in the source region (R365). -/
def State.rereadChunk (s : State) (c : ColCall) (x : ColChunk) : State × Except (Nat × Nat) Bytes :=
  match x.src with
  | some a => s.fetch c.mast (stream c.ctx 0x1A) a 128
  | none => (s, .ok x.data)

/-- A chunk of a call leaves again, read anew from the member's source; a read that fails ends the call (R365, R366, R368). -/
def State.resendAs (s : State) (c : ColCall) (g : Group) (x : ColChunk) (attempt : Nat) : State :=
  match s.rereadChunk c x with
  | (s, .error e) => s.failIo c.group c.mast e
  | (s, .ok data) =>
    let x := { x with attempt, data }
    let q := s.sendChunk c g x
    q.1.modCall c.group c.mast fun c => { c with sent := c.sent.map fun y =>
      if y.dest = x.dest && y.id = x.id then { x with port := q.2 } else y }

/-- One chunk of a call is resent; `count` says whether the attempt counts (R362, R366). A frozen call sends nothing (R396). -/
def State.resendChunk (s : State) (grp m to_ id : Nat) (count : Bool) : State :=
  match s.colCall? grp m, s.group? grp with
  | some c, some g =>
    match c.sent.find? fun x => x.dest == to_ && x.id == id && x.port != notSent with
    | none => s
    | some x =>
      if s.frozen c.ctx then s
      else if count && decide (c.tries ≤ x.attempt + 1) then s.declareDead (s.chunkPkg grp to_)
      else if count then (s.countH (occ 0x031 1 1 c.ctx 0x01)).resendAs c g x (x.attempt + 1)
      else s.resendAs c g x x.attempt
  | _, _ => s

/-- The port that carried a chunk left `up`: the chunk is resent at once with the next attempt number, the last one again where
it was the last (R366; log entry 76). -/
def State.rerouteChunk (s : State) (grp m : Nat) (x : ColChunk) : State :=
  match s.colCall? grp m, s.group? grp with
  | some c, some g => (s.countH (occ 0x031 1 1 c.ctx 0x01)).resendAs c g x (min (x.attempt + 1) (c.tries - 1))
  | _, _ => s

end Sys2Proof.Machine
end

