-- ==== Sys2Proof/Machine/FabricCalls.lean ====
section
/-! DEFINITION. Fabric copy calls and counter read calls: FABRIC_COPY_CALL, COUNTER_READ_CALL (R340, R341, R452 to
R455). -/
namespace Sys2Proof.Machine

/-! ## FABRIC_COPY_CALL (R334, R340) -/

/-- A fabric copy descriptor (R340). Its reserved bits are ignored: the rule lists no check of them (R8). -/
structure CopyDesc where
  loc   : Nat
  fab   : Nat
  len   : Nat
  write : Bool

def parseCopy (b : Bytes) : CopyDesc :=
  { loc := ptrAt b 0, fab := u64 b 8, len := u32 b 16, write := bit (u8 b 20) 0 }

/-- The descriptor is as R340 has it, and a local region in DRAM is the context's. -/
def State.copyDescOk (s : State) (c m : Nat) (d : CopyDesc) : Bool :=
  d.fab % 128 == 0 && d.len % 128 == 0 && decide (128 ≤ d.len ∧ d.len ≤ 67108864) && ptrOk d.loc
  && (ptrSpace d.loc == 1 || s.inMem c m d.loc d.len)

/-- A window that refuses the access: contained error FABRIC_WINDOW (R334). -/
def State.windowFail (s : State) (c m addr : Nat) : State :=
  s.contained { mkRec 0x0605 clsUC m noUnit c with addr }

/-- One line of a fabric copy is issued; a dead target ends the call with FABRIC_DEAD (R339, R341). Nothing more is issued
once the call has ended. -/
def State.copyLine (s : State) (c m : Nat) (d : CopyDesc) (t : Nat × Nat × Nat) (i : Nat) : State :=
  if !((s.mast m).calls.any fun r => r.ctx == c && r.kind == .fabricCopy) then s
  else
    let off := ptrOff d.loc + 128 * i
    let x := d.loc + 128 * i
    let go := fun (s : State) data =>
      let q := s.issue (.copy c m) d.write t.1 t.2.1 (t.2.2 + 128 * i) (ptrSpace d.loc) m off data
      if q.2 then q.1
      else q.1.contained { mkRec 0x0608 clsUC m noUnit c with info1 := t.1 }
    if d.write then s.withRead c m noUnit ((stream c 0x1A).cls' 2) x 128 go else go s []

/-- A fabric copy whose descriptor has been read: a local region outside the context's slices is SPAD_RANGE (R224), the window
maps the call once, at its start (R345), and its lines leave. -/
def State.copyRun (s : State) (c m desc : Nat) (d : CopyDesc) : State :=
  if !s.copyDescOk c m d then s.containedAt 0x0606 m noUnit c
  else if !s.inMem c m d.loc d.len then s.spadRange c m noUnit (ptrOff d.loc)
  else match s.window c d.write d.fab d.len with
    | none => s.windowFail c m d.fab
    | some t =>
      let s := s.modMast m fun z => { z with calls := z.calls ++
        [{ ctx := c, kind := .fabricCopy, layer := 0, mask := 0, left := d.len / 128, desc }] }
      (List.range (d.len / 128)).foldl (fun (s : State) i => s.copyLine c m d t i) s

/-- FABRIC_COPY_CALL. A second fabric copy of the context on the mast waits for the first (R115, R340). -/
def execFabricCopyCall (c m desc : Nat) (s : State) : Host.Outcome State Fault Refusal :=
  onMast m s (s.whenAlive (
    if !s.canStart c m desc || (s.mast m).calls.any (fun r => r.ctx == c && r.kind == .fabricCopy) then s
    else s.withDesc c m 0x0606 desc 32 fun s b => s.copyRun c m desc (parseCopy b)))

/-! ## COUNTER_READ_CALL (R452 to R455) -/

/-- A selector counts the calls of one context alone (R453). -/
def ownSel (c : Nat) (sel : Bytes) : Bool := u8 sel 2 == 2 && u8 sel 3 % 128 == c

/-- Programmable counter `n` shows in a context's window. -/
def PmcBlk.visible (b : PmcBlk) (c n : Nat) : Bool :=
  match tget b.progs n with
  | none => false
  | some p =>
    if chained n p.sel then (match tget b.progs (n - 1) with | some q => ownSel c q.sel | none => false)
    else ownSel c p.sel

/-- Shadow counter `k` of a context (R455). -/
def PmcBlk.shadow (b : PmcBlk) (c k : Nat) : Nat :=
  if b.served = c then (match tget b.progs k with | some p => p.val | none => 0) else tgetD b.shadows (c * 16 + k) 0

/-- Entry `n` of the counter window (R453). -/
def counterEntry (b : PmcBlk) (x : Ctx) (c n : Nat) : Nat :=
  if !x.counterRead then 0
  else if x.compat && decide (n < 16) then b.shadow c n
  else if b.visible c n then (match tget b.progs n with | some p => p.val | none => 0)
  else 0

def counterWindow (b : PmcBlk) (x : Ctx) (c : Nat) : Bytes := (List.range 64).flatMap fun n => natLe 8 (counterEntry b x c n)

/-- A counter read call whose descriptor has been read. -/
def State.counterRun (s : State) (c m : Nat) (b : Bytes) : State :=
  let dst := u64 b 0
  if !allZero (sub b 8 24) || ptrSpace dst != 1 || !s.ptrIn c m dst 512 then s.spadRange c m noUnit (ptrOff dst)
  else match s.ctx? c with
    | none => s
    | some x => s.withWrite c m noUnit (control c 0x18) dst (counterWindow (s.mast m).pmc x c) fun s => s

/-- COUNTER_READ_CALL. -/
def execCounterReadCall (c m desc : Nat) (s : State) : Host.Outcome State Fault Refusal :=
  onMast m s (s.whenAlive (
    if !s.canStart c m desc then s else s.atOnce c m 0x1303 desc 32 fun s b => s.counterRun c m b))

end Sys2Proof.Machine
end

