-- ==== Sys2Proof/Machine/NlcEvents.lean ====
section
/-! DEFINITION. Fabric memory operations as target and as requester: NLC_READ_RECEIVE, NLC_WRITE_RECEIVE,
NLC_READ_DATA_RECEIVE, NLC_WRITE_ACK_RECEIVE, FABRIC_REQUEST_TIMEOUT, FABRIC_RETRY_RESEND (R332, R335 to R341). -/
namespace Sys2Proof.Machine

/-! ## Packets that arrive (R331, R332, R336) -/

/-- A port that carries transport packets to this package: one that is up, or a `cut` one, whose packets R332 drops. -/
def State.hears (s : State) (p : Nat) : Bool := (s.port p).state == pUp || (s.port p).state == pCut

/-- A packet of another partition is dropped, counted, and reported once for its port (R332, R342). -/
def State.partDropped (s : State) (p : Nat) : State :=
  let first := !(s.port p).partDrop
  let s := (s.modNlc fun n => { n with partDrop := min (n.partDrop + 1) 0xFFFFFFFF, err := n.err ||| 8 }).countH
    (occ (0x040 + p) 1 0 0 0x04)
  if first then (s.modPort p fun x => { x with partDrop := true }).mail 4 p 0xFF 0 0 else s

/-- A packet that orders 2 and 3 of R336, or the window of R337, drop. -/
def State.staleDropped (s : State) : State :=
  s.modNlc fun n => { n with staleDrop := min (n.staleDrop + 1) 0xFFFFFFFF, err := n.err ||| 0x10 }

/-- A packet that arrives on a port: what does not belong to the partition is dropped, and an unassigned package accepts
none (R331, R332). -/
def State.withPacket (s : State) (p : TPkt) (f : State → State) : State :=
  if !s.hears p.port then s
  else if p.partId != s.nlc.partId then s.partDropped p.port
  else if s.nlc.partId = 0 then s
  else f s

/-- The reserved fields of a transport header, of its ADDR, and of a collective header (R333, R335, R361). -/
def reservedPkt (p : TPkt) : Bool := p.rsv != 0 || bits p.addr 39 13 != 0 || p.col.any fun h => h.rsv != 0

/-- A request for this package passes order 2 of R336. -/
def State.forUs (s : State) (p : TPkt) : Bool :=
  bits p.addr 60 4 == 1 && bits p.addr 52 8 == s.nlc.ownIndex && !reservedPkt p

/-! ## The target (R336, R337) -/

/-- A response: the requester's index replaces PKG, and the request's BOOT, EPOCH and REQ_ID are echoed (R335, R338). -/
def response (own part : Nat) (p : TPkt) (op status : Nat) (data : Bytes) : TPkt :=
  { p with op, status, resend := false, partId := part, srcPkg := own, addr := 2 ^ 60 + p.srcPkg % 256 * 2 ^ 52 + p.addr % 2 ^ 52,
           rsv := 0, col := none, data }

/-- A response leaves by R338 with d set to the requester's index. -/
def State.answerFab (s : State) (p : TPkt) (op status : Nat) (data : Bytes) : State :=
  match s.route (p.addr % 2 ^ 52) p.srcPkg 0 with
  | some q => s.sendOn q (response s.nlc.ownIndex s.nlc.partId p op status data)
  | none => s

/-- The mast and the line offset that a request names (R333). -/
def reqMast (p : TPkt) : Nat := bits p.addr 36 3
def reqOff (p : TPkt) : Nat := bits p.addr 0 36 / 128 * 128

/-- Order 4 of R336. -/
def State.fabDenied (s : State) (p : TPkt) (write : Bool) : Bool :=
  let m := reqMast p
  let o := reqOff p
  match s.ctx? p.targetCtx with
  | none => true
  | some x => x.state == .torn || !x.granted m o 128 || !s.mastUp m
      || (s.ctxs.any fun e => match tget e.2.saves m with | some a => overlap o 128 a.1 a.2 | none => false)
      || (write && s.meetsShard m o 128)

/-- A READ for this package (R336). -/
def State.serveRead (s : State) (p : TPkt) : State :=
  if !s.forUs p then s.staleDropped
  else if s.fabDenied p false then s.answerFab p 2 2 (zeros 128)
  else if s.pwr.coolstop then s.answerFab p 2 4 (zeros 128)
  else
    let q := s.readDram (reqMast p) (fabricReader p.targetCtx) (reqOff p) 128
    match q.2.2 with
    | some _ => q.1.answerFab p 2 1 (zeros 128)
    | none => q.1.answerFab p 2 0 q.2.1

/-- NLC_READ_RECEIVE. -/
def execNlcReadReceive (p : TPkt) (s : State) : Host.Outcome State Fault Refusal :=
  onPort p.port s (s.whenAlive (if p.op != 1 then s else s.withPacket p fun s => s.serveRead p))

/-- What order 3 of R336 makes of a WRITE: dropped, or the state of its source after it (R335 to R337). -/
def FabSrc.takeIn (t : Option FabSrc) (boot epoch : Nat) : Option FabSrc :=
  match t with
  | none => some { boot, epoch, low := 0, bits := [] }
  | some x =>
    if boot != x.boot then none
    else if epoch = x.epoch then some x
    else if epoch = (x.epoch + 1) % 256 then some { boot, epoch, low := 0, bits := [] }
    else none

/-- How far an id lies above the low mark, modulo 2^32. -/
def FabSrc.ahead (t : FabSrc) (id : Nat) : Nat := (id + 2 ^ 32 - t.low) % 2 ^ 32

/-- A WRITE below the low mark, or one whose bit is set, has been applied (R337). -/
def FabSrc.seen (t : FabSrc) (id : Nat) : Bool := decide (2 ^ 31 ≤ t.ahead id) || t.bits.contains id

/-- The low mark advances past the set bits; `fuel` of them at most. -/
def FabSrc.advance (t : FabSrc) : Nat → FabSrc
  | 0 => t
  | fuel + 1 =>
    if t.bits.contains t.low then ({ t with low := (t.low + 1) % 2 ^ 32, bits := t.bits.erase t.low }).advance fuel else t

/-- The bit of an id is set (R337). -/
def FabSrc.mark (t : FabSrc) (id : Nat) : FabSrc := ({ t with bits := t.bits ++ [id] }).advance (t.bits.length + 1)

/-- The ring line that a write into a context's memory is, when it is one (R200). -/
def State.ringIndex (s : State) (c m off : Nat) : Option Nat :=
  match (s.ctx? c).bind Ctx.ring with
  | some r => if m = 0 && decide (r.1 ≤ off ∧ off < r.1 + 128 * r.2) then some ((off - r.1) / 128) else none
  | none => none

/-- A WRITE is applied to memory, acknowledged, and looked at as a line of a mirror log (R200, R336). -/
def State.applyWrite (s : State) (p : TPkt) (t : FabSrc) : State :=
  let w := s.writeDram (reqMast p) (fabricReader p.targetCtx) (reqOff p) p.data
  let s := w.1.modNlc fun n => { n with sources := tset n.sources p.srcPkg (t.mark p.reqId) }
  let s := s.answerFab p 4 0 []
  match s.ringIndex p.targetCtx (reqMast p) (reqOff p) with
  | some i => s.ringLine p.targetCtx i
  | none => s

/-- A WRITE for this package (R336, R337). -/
def State.serveWrite (s : State) (p : TPkt) : State :=
  if !s.forUs p then s.staleDropped
  else match FabSrc.takeIn (tget s.nlc.sources p.srcPkg) p.boot p.epoch with
    | none => s.staleDropped
    | some t =>
      let s := s.modNlc fun n => { n with sources := tset n.sources p.srcPkg t }
      if s.fabDenied p true then s.answerFab p 4 2 []
      else if s.pwr.coolstop then s.answerFab p 4 4 []
      else if t.seen p.reqId then s.answerFab p 4 0 []
      else if 65536 ≤ t.ahead p.reqId then s.staleDropped
      else s.applyWrite p t

/-- NLC_WRITE_RECEIVE. A WRITE carries 128 bytes (R335). -/
def execNlcWriteReceive (p : TPkt) (s : State) : Host.Outcome State Fault Refusal :=
  onPort p.port s (s.whenAlive (
    if p.op != 3 || p.data.length != 128 then s else s.withPacket p fun s => s.serveWrite p))

/-! ## The requester (R337, R339, R341) -/

/-- A request that waits for 100 µs after a RETRY answer stands on no port (R339). -/
def retryPort : Nat := 253

/-- The outstanding request that a response answers. A switch's UNREACH is the request's own header (R335). -/
def State.answered (s : State) (p : TPkt) (write : Bool) : Option (Nat × FabReq) :=
  let pkg := if p.status = 3 && p.srcPkg = s.nlc.ownIndex then bits p.addr 52 8 else p.srcPkg
  if p.boot != s.bootNo then none
  else s.nlc.reqs.find? fun e => e.2.sent && e.2.write == write && e.2.pkg == pkg && e.2.reqId == p.reqId
    && e.2.addr == p.addr % 2 ^ 52 && e.2.epoch == p.epoch

/-- One line of a fabric copy is done; the call completes with the last (R340). -/
def State.copyDone (s : State) (c m : Nat) : State :=
  let last := (s.mast m).calls.filter fun r => r.ctx == c && r.kind == .fabricCopy && decide (r.left ≤ 1)
  (last.foldl (fun (s : State) r => s.callEnded c m r.desc) s).modMast m fun z => { z with calls := z.calls.filterMap fun r =>
    if r.ctx == c && r.kind == .fabricCopy then (if r.left ≤ 1 then none else some { r with left := r.left - 1 }) else some r }

/-- A line of a shard arrives from its source (R311, R314). -/
def State.ingestLine (s : State) (i line : Nat) (r : FabReq) (data : Bytes) : State :=
  let w := s.writeDram r.lmast (bulkReader (match s.shard? i with | some h => h.ctx | none => 0)) r.loff data
  w.1.modShard i fun h => h.take line 1

/-- A request succeeds: a read's line is placed (R311, R340), and its issuer goes on. -/
def State.reqDone (s : State) (key : Nat) (r : FabReq) (data : Bytes) : State :=
  let s := s.endReq key
  match r.issuer with
  | .copy c m =>
    if r.write then s.copyDone c m
    else s.withWrite c m noUnit ((stream c 0x1A).cls' 2) (r.lspace * 2 ^ 48 + r.loff) data fun s => s.copyDone c m
  | .halyard i line => s.ingestLine i line r data
  | .mirror _ => s
  | .mailbox => s

/-- A coolant stop holds the issuer of a request: a load of Halyard, or a call of a context (R319, R394). -/
def State.issuerFrozen (s : State) (r : FabReq) : Bool :=
  match r.issuer with
  | .copy c _ => s.frozen c
  | .halyard _ _ => s.pwr.coolstop
  | _ => false

/-- A response has come (R339, R341). One whose issuer a coolant stop holds is not taken: the request is sent again after the
stop, as after a RETRY (DESIGN CHOICE, log entry 50). -/
def State.response (s : State) (p : TPkt) (write : Bool) : State :=
  match s.answered p write with
  | none => s
  | some (key, r) =>
    let again := s.modNlc fun n => { n with reqs := tmod n.reqs key fun r => { r with port := retryPort } }
    match p.status with
    | 0 => if s.issuerFrozen r then again else if write || p.data.length = 128 then s.reqDone key r p.data else s
    | 1 => if write then s else if s.issuerFrozen r then again else s.failReq key .poison
    | 2 => if s.issuerFrozen r then again else s.failReq key .denied
    | 3 => if r.issuer == .mailbox then (s.failReq key .dead).declareDead r.pkg else s.declareDead r.pkg
    | 4 => again
    | _ => s

/-- A response is for this package: the requester's index is its own, or it is a switch's copy of the request. The other checks
of R336 are those of a request. -/
def State.responseOk (s : State) (p : TPkt) : Bool :=
  bits p.addr 52 8 == s.nlc.ownIndex || (p.status == 3 && p.srcPkg == s.nlc.ownIndex)

/-- NLC_READ_DATA_RECEIVE. -/
def execNlcReadDataReceive (p : TPkt) (s : State) : Host.Outcome State Fault Refusal :=
  onPort p.port s (s.whenAlive (
    if p.op != 2 then s else s.withPacket p fun s => if s.responseOk p then s.response p false else s))

/-- NLC_WRITE_ACK_RECEIVE. -/
def execNlcWriteAckReceive (p : TPkt) (s : State) : Host.Outcome State Fault Refusal :=
  onPort p.port s (s.whenAlive (
    if p.op != 4 then s else s.withPacket p fun s => if s.responseOk p then s.response p true else s))

/-- FABRIC_REQUEST_TIMEOUT: an attempt went unanswered for FAB_TIMEOUT (R339). -/
def execFabricRequestTimeout (reqKey : Nat) (s : State) : Host.Outcome State Fault Refusal :=
  settle s (s.whenAlive (match tget s.nlc.reqs reqKey with
    | some r => if r.sent && r.port != retryPort then s.retryReq reqKey else s
    | none => s))

/-- FABRIC_RETRY_RESEND: 100 µs after a RETRY answer the request leaves again, and no attempt is counted (R339). -/
def execFabricRetryResend (reqKey : Nat) (s : State) : Host.Outcome State Fault Refusal :=
  settle s (s.whenAlive (match tget s.nlc.reqs reqKey with
    | some r => if r.sent && r.port = retryPort && !s.issuerFrozen r then s.launchAs reqKey true else s
    | none => s))

end Sys2Proof.Machine
end

