-- ==== Sys2Proof/Machine/ColRecv.lean ====
section
/-! DEFINITION. Collective packets as a member receives them: answers, the early buffer, chunks, markers and notices
(R352, R357, R361 to R370). -/
namespace Sys2Proof.Machine

/-! ## What a packet says (R361) -/

def colMast (p : TPkt) : Nat := bits p.addr 36 3
def colGroup (p : TPkt) : Nat := bits p.addr 24 12
def colSeq (p : TPkt) : Nat := p.reqId

/-- The chunk id of a packet. -/
def chunkOf (p : TPkt) (h : ColHdr) : Nat := h.chunkHi % 256 * 2 ^ 24 + p.addr % 2 ^ 24

/-- The rank a packet's data count as: the switch's under its method, else the sender's. -/
def fromRank (h : ColHdr) : Nat := if h.method = mSwitch then switchRank else h.srcRank

/-- The rank of the member that sent an ACK: the switch's, or that of its package and mast. -/
def ackRank (g : Group) (p : TPkt) (h : ColHdr) : Nat :=
  if h.method = mSwitch then switchRank
  else match (enum g.members).find? fun e => e.2.pkg == p.srcPkg && e.2.mast == h.srcMast with
    | some e => e.1
    | none => h.srcRank

/-! ## Answers (R362, R365, R368; log entry 16) -/

/-- The largest REEF_REQ of a call on a mast, in flight or not (R382). -/
def State.reefSeen (s : State) (g m seq : Nat) : Nat :=
  match (s.colCall? g m).filter fun c => c.seq == seq with
  | some c => c.reefMax
  | none => s.col.reefOf g m seq

/-- A packet is not of the member's call with its SEQ (R352). -/
def ColCall.differs (c : ColCall) (k : Group) (h : ColHdr) : Bool := h.listCrc != k.crc || h.op != c.op || h.dtype != c.dtype

/-- REEF_REQ of a packet counts for its call, whether the call is in flight, is still to start or has ended (R382). -/
def State.noteReef (s : State) (p : TPkt) (h : ColHdr) : State :=
  let g := colGroup p
  let m := colMast p
  match (s.colCall? g m).filter fun c => c.seq == colSeq p, s.group? g with
  | some c, some k => if c.differs k h then s else s.modCall g m fun c => { c with reefMax := max c.reefMax h.reefReq }
  | _, _ => s.modCol fun c => c.reefTo g m (colSeq p) h.reefReq

/-- The member that an answer goes to: the sender of a packet, whose CTX the group names. The CTX of a member of a group that is
not loaded is not known here, and the packet's own stands for it (log entry 16). -/
def State.senderOf (s : State) (p : TPkt) (h : ColHdr) : Member :=
  let m : Member := { ctx := p.targetCtx, mast := h.srcMast, pkg := p.srcPkg }
  match s.group? (colGroup p) with
  | some g => if h.method = mSwitch then g.member 0
      else (g.members.find? fun x => x.pkg == p.srcPkg && x.mast == h.srcMast).getD m
  | none => m

/-- An answer to a chunk goes back to its sender: an ACK packet with STATUS, the low mark and a bitmap. A switch hears it on the
port that the chunk came in on. -/
def State.colAnswer (s : State) (p : TPkt) (h : ColHdr) (status low : Nat) (data : Bytes) : State :=
  let rank := match s.group? (colGroup p) with
    | some g => (match (enum g.members).find? fun e => e.2.pkg == s.nlc.ownIndex && e.2.mast == colMast p with
        | some e => e.1
        | none => 0)
    | none => 0
  let to_ := s.senderOf p h
  let k : TPkt := { p with
    status, resend := false, rsv := 0, data, targetCtx := to_.ctx,
    addr := 2 ^ 60 + to_.pkg % 256 * 2 ^ 52 + to_.mast % 8 * 2 ^ 36 + p.addr % 2 ^ 36,
    col := some { h with kind := kAck, srcRank := rank, srcMast := colMast p, info := low, rsv := 0,
                         reefReq := s.reefSeen (colGroup p) (colMast p) (colSeq p) } }
  if h.method = mSwitch then s.sendPlane k p.port else (s.sendCol to_ 0 k).1

/-! ## The early buffer (R362) -/

/-- Bytes of data in the early buffer. -/
def Collectives.earlyBytes (c : Collectives) : Nat := (c.early.map fun p => p.data.length).foldl (· + ·) 0

/-- Two packets carry the same chunk or notice. -/
def samePacket (a b : TPkt) : Bool :=
  a.addr == b.addr && a.reqId == b.reqId && a.srcPkg == b.srcPkg &&
  match a.col, b.col with
  | some x, some y => x.kind == y.kind && x.method == y.method && x.srcRank == y.srcRank && x.chunkHi == y.chunkHi
  | _, _ => false

/-- A duplicate is dropped (R365). -/
def State.dupDropped (s : State) (c : Nat) : State := (s.countH (occ 0x032 1 1 c 0x01)).colErr 1

/-- The ids of a sender's chunks in the early buffer. -/
def earlyIds (early : List TPkt) (p : TPkt) (h : ColHdr) : List Nat :=
  early.filterMap fun q => match q.col with
    | some x => if q.reqId == p.reqId && colGroup q == colGroup p && colMast q == colMast p && x.kind == kData
                    && x.method == h.method && x.srcRank == h.srcRank then some (chunkOf q x) else none
    | none => none

/-- The chunks of a sender in the early buffer are acknowledged (R365). -/
def State.ackEarly (s : State) (p : TPkt) (h : ColHdr) : State :=
  let ids := earlyIds s.col.early p h
  s.colAnswer p h 0 (lowMark ids) (ackBitmap ids (lowMark ids))

/-- A chunk that comes before its SEQ has started is held and acknowledged, or answered RETRY; a duplicate is dropped and
acknowledged again (R362, R365, R369). -/
def State.holdEarly (s : State) (p : TPkt) (h : ColHdr) : State :=
  if h.kind != kData then s.modCol fun c => { c with early := c.early ++ [p] }
  else if s.col.early.any (samePacket p) then (s.dupDropped p.targetCtx).ackEarly p h
  else if 0x100000 < s.col.earlyBytes + p.data.length then s.colAnswer p h 4 0 []
  else (s.modCol fun c => { c with early := c.early ++ [p] }).ackEarly p h

/-! ## A call in flight -/

/-- A packet of a call in flight is compared with the call (R352). -/
def State.withColCall (s : State) (p : TPkt) (h : ColHdr) (f : State → ColCall → Group → State) : State :=
  let g := colGroup p
  let m := colMast p
  match s.colCall? g m, s.group? g with
  | some c, some k =>
    if c.seq != colSeq p then s
    else if c.differs k h then s.failCall g m 0x0702
    else f s c k
  | _, _ => s

/-- The SEQ that a mast's next call of a group takes (R352). -/
def State.nextSeq (s : State) (g m : Nat) : Nat := match s.group? g with | some k => tgetD k.next m 0 | none => 0

/-- Every member on this package has started a SEQ: rows of an A2A_RETURN wait for that, because the key ranges are known
only then (R358; log entry 16). -/
def State.allStarted (s : State) (g seq : Nat) : Bool :=
  match s.group? g with
  | some k => (k.members.filter fun x => x.pkg == s.nlc.ownIndex).all fun x => decide (seq < s.nextSeq g x.mast)
  | none => true

/-- A chunk of the running call is accepted (R359, R365). -/
def State.takeChunk (s : State) (p : TPkt) (h : ColHdr) (c : ColCall) (k : Group) : State :=
  let g := c.group
  let m := c.mast
  let r := fromRank h
  let i := chunkOf p h
  let ids := c.idsFrom r
  let owe := fun (s : State) => s.modCall g m fun c =>
    { c with owedAcks := if c.owedAcks.contains r then c.owedAcks else c.owedAcks ++ [r],
             ackPorts := if r = switchRank then insAsc p.port c.ackPorts else c.ackPorts }
  if c.method = mSwitch && h.method != mSwitch then s.holdEarly p h
  else if h.method != c.method then s
  else if ids.contains i then owe (s.dupDropped c.ctx)
  else if lowMark ids + 65536 ≤ i then s
  else if c.op = opRET && !s.allStarted g c.seq then s.holdEarly p h
  else
    let s := owe (s.modCall g m fun c => { c with got := c.got ++ [(r, i, p.data)] })
    let s := match s.colCall? g m with
      | some c => s.addChunks g m (c.forward k.members.length i p.data)
      | none => s
    (s.rowChunk g m r i h.info).checkGroup g

/-- Whether the member a packet is for cannot take it, for R368: its context is not created or torn, or its mast fenced. -/
def State.colDenied (s : State) (p : TPkt) : Bool :=
  !s.mastUp (colMast p) || (match s.ctx? p.targetCtx with | none => true | some x => x.state == .torn)

/-- A chained phase of a context is open on a mast: its next call belongs to the phase (R302, R360). -/
def State.chained (s : State) (c m : Nat) : Bool := (s.mast m).calls.any fun r => r.ctx == c && r.kind == .collective

/-- A member that answers RETRY: in coolant stop, or displaced and without the call in flight or a phase that it continues (R302,
R369). -/
def State.colStalled (s : State) (p : TPkt) (running : Bool) : Bool :=
  s.frozen p.targetCtx || (s.isDisplaced p.targetCtx && !running && !s.chained p.targetCtx (colMast p))

/-- A DATA chunk arrives (R362, R365, R368, R369). -/
def State.colData (s : State) (p : TPkt) (h : ColHdr) : State :=
  let g := colGroup p
  let m := colMast p
  let running := (s.colCall? g m).any fun c => c.seq == colSeq p
  if s.colDenied p then s.colAnswer p h 2 0 []
  else if !running && decide (colSeq p < s.nextSeq g m) then (s.dupDropped p.targetCtx).colAnswer p h 0 (chunkOf p h + 1) []
  else if s.colStalled p running then s.colAnswer p h 4 0 []
  else if running then s.withColCall p h fun s c k => s.takeChunk p h c k
  else s.holdEarly p h

/-! ## Acknowledgements (R365) -/

/-- Whether an ACK covers a chunk id. -/
def ackCovers (p : TPkt) (h : ColHdr) (i : Nat) : Bool :=
  let low := h.info % 2 ^ 32
  decide (i < low) || (decide (low < i ∧ i ≤ low + 1024) && bit (u8 p.data ((i - low - 1) / 8)) ((i - low - 1) % 8))

/-- A chunk that a RETRY holds back (R362). -/
def holdChunk (r i : Nat) (x : ColChunk) : ColChunk :=
  if x.dest == r && x.id == i && x.port != notSent then { x with port := retried } else x

/-- An ACK of the running call (R362, R365, R368). A frozen call makes no progress: the chunks stay, and are acknowledged
again when they are resent (R396; log entry 50). -/
def State.takeAck (s : State) (p : TPkt) (h : ColHdr) (c : ColCall) (k : Group) : State :=
  let r := ackRank k p h
  match p.status with
  | 0 =>
    if h.method != c.method || s.frozen c.ctx then s
    else
      let s := s.modCall c.group c.mast fun c =>
        { c with acked := tset c.acked r (max (tgetD c.acked r 0) (h.info % 2 ^ 32)),
                 sent := c.sent.filter fun x => !(x.dest == r && x.port != notSent && ackCovers p h x.id) }
      (s.launchChunks c.group c.mast).checkGroup c.group
  | 2 => s.failCall c.group c.mast 0x0706
  | 4 => s.modCall c.group c.mast fun c => { c with sent := c.sent.map (holdChunk r (chunkOf p h)) }
  | _ => s

/-! ## Markers and notices (R357, R363, R368) -/

/-- A marker or notice for a SEQ that has not started waits with the early chunks. One for a member that cannot take it is answered
DENIED (R370). -/
def State.orEarly (s : State) (p : TPkt) (h : ColHdr) (f : State → ColCall → Group → State) : State :=
  let g := colGroup p
  let m := colMast p
  if s.colDenied p then s.colAnswer p h 2 0 []
  else if (s.colCall? g m).any (fun c => c.seq == colSeq p) then s.withColCall p h f
  else if colSeq p < s.nextSeq g m then s
  else s.holdEarly p h

/-- A collective packet comes back with STATUS UNREACH: its target is dead (R335, R366). The target is the package that ADDR names,
or, where that is this package as in a response, the sender (log entry 16). -/
def State.colUnreach (s : State) (p : TPkt) : State :=
  let d := if bits p.addr 52 8 = s.nlc.ownIndex then p.srcPkg else bits p.addr 52 8
  if d = s.nlc.ownIndex then s else s.declareDead d

/-- A collective packet that has passed orders 1 and 2 of R336. -/
def State.colPacket (s : State) (p : TPkt) : State :=
  match p.col with
  | none => s
  | some h =>
    if p.status = 3 then s.colUnreach p
    else
    let s := s.noteReef p h
    match h.kind with
    | 1 => s.colData p h
    | 2 => s.withColCall p h fun s c k => s.takeAck p h c k
    | 3 => s.orEarly p h fun s c _ => s.failCall c.group c.mast 0x0708
    | 4 => s.orEarly p h fun s c _ => s.failCall c.group c.mast 0x0709
    | 5 => s.orEarly p h fun s c _ => s.fallBack c.group c.mast
    | 6 => s.orEarly p h fun s c _ => s.fallBack c.group c.mast
    | 7 => s.orEarly p h fun s c _ =>
        (s.modCall c.group c.mast fun c => { c with ends := tset c.ends h.srcRank (h.info % 2 ^ 32) }).checkGroup c.group
    | _ => s

/-- Early packets of a SEQ of a mast's group are taken out and received again: when its call starts, and when it runs again
by another method (R362, R363). -/
def State.replayEarly (s : State) (g m seq : Nat) : State :=
  let mine := fun (p : TPkt) => colGroup p == g && colMast p == m && colSeq p == seq
  let ps := s.col.early.filter mine
  let s := s.modCol fun c => { c with early := c.early.filter fun p => !mine p }
  ps.foldl (fun (s : State) p => s.colPacket p) s

/-- Early packets of every call in flight in a group are received again. -/
def State.replayGroup (s : State) (g : Nat) : State :=
  (s.col.calls.filter fun c => c.group == g).foldl (fun (s : State) c => s.replayEarly g c.mast c.seq) s

/-- Packets between members of this package cross the hub network, oldest first; `fuel` of them at most (R359). -/
def State.hubDrain (s : State) : Nat → State
  | 0 => s
  | fuel + 1 =>
    match s.col.hubNet with
    | [] => s
    | p :: ps => ((s.modCol fun c => { c with hubNet := ps }).colPacket p).hubDrain fuel

/-- What one command sets off on the hub network (log entry 16). -/
def State.hubSettle (s : State) : State := s.hubDrain 1000000

/-- A call that has fallen back from its switch attempt receives the packets of its new method that waited (R363). -/
def State.replayFallen (s : State) (g : Nat) : State :=
  if s.col.calls.any fun c => c.group == g && c.fallback then s.replayGroup g else s

/-- A collective packet arrives on a port: orders 1 and 2 of R336, then the packet (R361). -/
def State.colArrives (s : State) (p : TPkt) : State :=
  s.withPacket p fun s =>
    if !s.forUs p && p.status != 3 then s.staleDropped
    else ((s.colPacket p).replayFallen (colGroup p)).hubSettle

end Sys2Proof.Machine
end

