-- ==== Sys2Proof/Machine/PortLeft.lean ====
section
/-! DEFINITION. What follows when a Nalec port leaves `up`: calls, requests and keys (R327, R339, R342, R344, R363, R366, R367). -/
namespace Sys2Proof.Machine

/-- A call meets a port that left `up`: its chunks there are resent, a switch attempt falls back, and too few planes end
it (R363, R366, R367). -/
def State.callPortLeft (s : State) (p grp m : Nat) : State :=
  match s.colCall? grp m, s.group? grp with
  | some c, some g =>
    if s.groupAbroad g && decide (s.stayUp.length < c.planesMin) then s.failCall grp m 0x0704
    else if c.method = mSwitch && decide (p < 36) then s.fallBack grp m
    else
      let xs := c.sent.filter fun x => x.port == p
      let s := if xs.isEmpty || c.planeLoss then s
        else ((s.modCall grp m fun c => { c with planeLoss := true }).colErr 4).raise (mkRec 0x070A clsCE m noUnit c.ctx)
      if s.frozen c.ctx then s else xs.foldl (fun (s : State) x => s.rerouteChunk grp m x) s
  | _, _ => s

/-- A port has left `up`, for retraining or for good: every call looks at its chunks and planes, and one that falls back receives
what waited for its new method (R363). -/
def State.portLeft (s : State) (p : Nat) : State :=
  let cs := s.col.calls
  let s := cs.foldl (fun (s : State) c => s.callPortLeft p c.group c.mast) s
  (cs.foldl (fun (s : State) c => s.replayFallen c.group) s).hubSettle

/-- A key that R344 permits the port to use stands in a slot. -/
def Port.usable (x : Port) (slot : Nat) : Bool := match tget x.slots slot with | some k => !k.retired | none => false

/-- A port that has no key it may use in its current slot, but one in the other, comes to use that one, and so does its peer
(R344, R440, log entry 27). -/
def Port.settled (x : Port) : Port :=
  if !x.usable x.txSlot && x.usable (1 - x.txSlot) then { x with txSlot := 1 - x.txSlot, rxSlot := 1 - x.txSlot } else x

/-- Key slots that a port has used are retired when it goes down; a key that stands unused is the one it uses next (R344, R440). -/
def Port.retire (x : Port) : Port :=
  Port.settled { x with slots := tmap x.slots fun _ k => if 0 < k.txCtr || 0 < k.rxCtr then { k with retired := true } else k,
                        syncOwed := false }

/-- Traffic of a port that stops for good is given up: its requests are resent at once on other ports (R339, R345). -/
def State.rerouteReqs (s : State) (p : Nat) : State :=
  ((s.nlc.reqs.filter fun e => e.2.sent && e.2.port == p).map (·.1)).foldl (fun (s : State) k => s.rerouteReq k) s

/-- A port leaves `up` for a state in which it carries no traffic; a held or cut one stays trained and keeps its link-level
frames (R330). A RETRAIN of it ends without success (R420). -/
def State.portOut (s : State) (p st cause : Nat) : State :=
  let was := s.portUp p
  let s := s.modPort p fun x =>
    { x with state := st, cause, replay := if st = pHeld || st = pCut then x.replay else [],
                              waits := if st = pHeld || st = pCut then x.waits else [], queue := [] }
  (if was then (s.portLeft p).rerouteReqs p else s.rerouteReqs p).retrainEnds p false

/-- A port goes down (R327, R342, R344). -/
def State.portDown (s : State) (p : Nat) : State :=
  let s := (s.portOut p pDown 0).modPort p fun x => { x.retire with failRun := 0 }
  let s := s.modNlc fun n => { n with err := n.err ||| 2 }
  let s := s.notify (.portEvent p 2)
  let s := s.raise (mkRec 0x0603 clsCE hubMast p 0)
  s.mail 3 p 0xFF 0 0

/-- A port starts to retrain (R327). -/
def State.portRetrain (s : State) (p : Nat) : State :=
  let was := s.portUp p
  let s := s.modPort p fun x => { x with state := pRetraining, retrains := min (x.retrains + 1) 255 }
  let s := s.raise (mkRec 0x060B clsCE hubMast p 0)
  if was then s.portLeft p else s

end Sys2Proof.Machine
end

