-- ==== Sys2Proof/Machine/PortOps.lean ====
section
/-! DEFINITION. The check of a Nalec port against the plan, its IDENT and KEYSYNC frames, and the installation of keys
(R328 to R331, R343, R344). -/
namespace Sys2Proof.Machine

/-- The plan's entry for a port (R329). -/
def State.planPort (s : State) (p : Nat) : Option PlanPort := s.nlc.plan.bind fun pl => pl.ports[p]?

/-- A port stays trained in these states (R330). -/
def Port.trained (x : Port) : Bool := x.state == pIdent || x.state == pUp || x.state == pHeld || x.state == pCut

/-! ## IDENT (R328) -/

/-- The payload of this package's IDENT frame on a port (R328). -/
def State.identBody (s : State) (p : Nat) : Bytes :=
  natLe 1 1 ++ zeros 7 ++ natLe 8 s.id.unitId ++ natLe 1 p ++ zeros 1 ++ natLe 2 s.nlc.partId ++ natLe 1 s.nlc.ownIndex
  ++ natLe 1 1 ++ zeros 10

/-- An IDENT frame goes out (R328, R331). -/
def State.sendIdent (s : State) (p : Nat) : State := (s.linkFrame p 2 0 (s.identBody p)).emit (.ident p (s.identBody p))

/-! ## Keys (R343, R344) -/

/-- The slot that is not in use: the current one while it holds no usable key, else the other (log entry 27). -/
def Port.unusedSlot (x : Port) : Nat := if x.usable x.txSlot then 1 - x.txSlot else x.txSlot

/-- A key enters the unused slot with its counters at 0. A trained port changes to it with KEYSYNC; another uses it when it
comes up, as its peer does (R330, R343, R344, R440, log entry 27). -/
def State.installKey (s : State) (p : Nat) (key salt : Bytes) : State :=
  let x := s.port p
  let n := x.unusedSlot
  let change := n != x.txSlot && (x.trained || x.state == pRetraining)
  let s := s.modPort p fun x => { x with
    slots := tset x.slots n { key, salt, txCtr := 0, rxCtr := 0, retired := false, rxDone := false },
    txSlot := if change then x.txSlot else n, rxSlot := if change then x.rxSlot else n, syncOwed := x.syncOwed || change }
  if change then (s.linkFrame p 3 n (zeros 16)).emit (.keysync p n) else s

/-! ## The check against the plan (R330) -/

/-- The state and held cause that R330 gives a port whose peer has been observed. -/
def State.portVerdict (s : State) (p : Nat) (q : Peer) (e : PlanPort) : Nat × Nat :=
  if q.kind != (if p < 36 then 2 else 1) || q.unitId != e.peerId || q.port != e.peerPort then (pHeld, 1)
  else if e.encReq && (!q.enc || !((s.port p).usable 0 || (s.port p).usable 1)) then (pHeld, 2)
  else if decide (36 ≤ p) && q.part != s.nlc.partId then (pCut, 0)
  else (pUp, 0)

/-- What the verdict reports (R330, R342). -/
def State.reportVerdict (s : State) (p : Nat) (q : Peer) (v : Nat × Nat) : State :=
  if v.1 = pHeld then
    if v.2 = 1 then
      let s := s.modNlc fun n => { n with err := n.err ||| 4 }
      let s := (s.notify (.portEvent p 3)).raise (mkRec 0x0601 clsCE hubMast p 0)
      s.mail 2 p (if q.kind = 1 then q.index else 0xFF) 0 q.unitId
    else s.raise (mkRec 0x0602 clsCE hubMast p 0)
  else s.notify (.portEvent p 1)

/-- A trained port is compared with the plan and takes the state of R330; a port whose state stands is left alone. -/
def State.checkPort (s : State) (p : Nat) : State :=
  let x := s.port p
  match x.peer, s.planPort p with
  | some q, some e =>
    let v := s.portVerdict p q e
    if !x.trained || (x.state == v.1 && x.cause == v.2) then s
    else
      let s := if v.1 = pUp then s.modPort p fun x => { x with state := pUp, cause := 0 } else s.portOut p v.1 v.2
      let s := s.reportVerdict p q v
      if v.1 = pUp then s.launchWaiting.retrainEnds p true else s
  | _, _ => s

/-- Every trained port is checked again. -/
def State.checkPorts (s : State) : State := (List.range 42).foldl (fun (s : State) p => s.checkPort p) s

end Sys2Proof.Machine
end

