-- ==== Sys2Proof/Machine/FabricCmds.lean ====
section
/-! DEFINITION. The commands of class 0x06, fabric and collectives (R278, R328 to R334, R350, R351). -/
namespace Sys2Proof.Machine

/-! ## Ports -/

/-- The ports of a mask. -/
def portsOf (mask : Nat) : List Nat := bitsSet mask 42

/-- A port that LINK_TRAIN trains: cabled, not broken, and off or down (R327, R329, R403). -/
def State.trains (s : State) (p : Nat) : Bool :=
  let x := s.port p
  !x.broken && (x.state == pOff || x.state == pDown) && (match s.planPort p with | some e => e.used | none => false)

/-- Training of a port starts: its link starts afresh. -/
def State.startTraining (s : State) (p : Nat) : State :=
  s.modPort p fun x => { x with
    state := pTraining, cause := 0, peer := none, replay := [], waits := [], queue := [], txSeq := 0, rxLast := 4095, credits := 64,
    failRun := 0, syncOwed := false }

/-- LINK_TRAIN (R278, R330). -/
def linkTrainAct (r : Req) (s : State) : State × Ans :=
  let mask := a0 r % 2 ^ 42
  guardAct [argRsv r (lowMask 42) 0, (s.nlc.plan.isNone, ans stState)] s
    ((((portsOf mask).filter s.trains).foldl (fun (s : State) p => s.startTraining p) s).owe 0x0601 r (.linkTrain mask),
     ans stAccepted)

def linkTrainCmd : Cmd := { opcode := 0x0601, device := true, lenOk := noPayload, act := linkTrainAct }

/-- LINK_TRAIN: the ports of a mask start to train (R278, R330). -/
def execLinkTrain (r : Req) (s : State) : Host.Outcome State Fault Refusal := stauc linkTrainCmd r s

/-- The mask of the oldest LINK_TRAIN that has not completed. -/
def State.trainMask (s : State) : Option Nat :=
  s.st.outstanding.findSome? fun o => match o.what with | .linkTrain m => some m | _ => none

/-- Training of a mask ends: ports still training stay down, and the completion reports the ports up (R278). -/
def State.trainingEnds (s : State) : State :=
  match s.trainMask with
  | none => s
  | some m =>
    let s := ((portsOf m).filter fun p => (s.port p).state == pTraining).foldl (fun (s : State) p =>
      (s.modPort p fun x => { x.retire with state := pDown }).retrainEnds p false) s
    s.complete (.linkTrain m) (done1 (s.portMask pUp))

/-- LINK_TRAIN_COMPLETE (R278). -/
def execLinkTrainComplete (s : State) : Host.Outcome State Fault Refusal := settle s (s.whenAlive s.trainingEnds)

/-- A port stops: its traffic leaves it, and keys that it used are retired (R278, R344). -/
def State.stopPort (s : State) (p : Nat) : State :=
  (s.portOut p pOff 0).modPort p fun x => { x.retire with peer := none }

/-- LINK_STOP (R278). -/
def linkStopAct (r : Req) (s : State) : State × Ans :=
  guardAct [argRsv r (lowMask 42) 0] s
    (((portsOf (a0 r % 2 ^ 42)).foldl (fun (s : State) p => s.stopPort p) s), ans stDone)

def linkStopCmd : Cmd := { opcode := 0x0602, device := true, lenOk := noPayload, act := linkStopAct }

/-- LINK_STOP: the ports of a mask stop (R278). -/
def execLinkStop (r : Req) (s : State) : Host.Outcome State Fault Refusal := stauc linkStopCmd r s

/-! ## The plan and the partition (R329 to R331) -/

def planEntryOff (p : Nat) : Nat := 64 + 16 * p

/-- The plan that a payload spells (R329). -/
def parsePlan (b : Bytes) : Plan :=
  { id := u32 b 4, traySlot := u8 b 8 % 4, slotPkg := (List.range 4).map fun i => u8 b (12 + i), mailbox := u64 b 16,
    fmCtx := u8 b 24 % 128, fmSlots := u16 b 28,
    ports := (List.range 42).map fun p =>
      let o := planEntryOff p
      { peerId := u64 b o, peerPort := u8 b (o + 8), used := bit (u8 b (o + 9)) 0, encReq := bit (u8 b (o + 9)) 1 } }

/-- The first reserved field of a plan that is not zero, those of FM_MAILBOX as a global address among them (R329, R333). -/
def planRsv (b : Bytes) : Option Nat :=
  firstTrue ([(2, u16 b 2 != 0), (8, decide (4 ≤ u8 b 8)), (9, !allZero (sub b 9 3)), (20, bits (u64 b 16) 39 13 != 0),
      (24, decide (128 ≤ u8 b 24)),
      (25, !allZero (sub b 25 3)), (30, !allZero (sub b 30 34))]
    ++ (List.range 42).flatMap fun p =>
        [(planEntryOff p + 9, decide (4 ≤ u8 b (planEntryOff p + 9))), (planEntryOff p + 10, !allZero (sub b (planEntryOff p + 10) 6))])

/-- The first value of a plan that is out of range; FM_MAILBOX is a global address of FORMAT 1 within a mast's DRAM (R329, R333). -/
def planBad (b : Bytes) : Option Nat :=
  firstTrue [(0, u16 b 0 != 1), (16, bits (u64 b 16) 60 4 != 1 || decide (dramSize ≤ u64 b 16 % 2 ^ 36)),
             (28, decide (u16 b 28 < 1 ∨ 1024 < u16 b 28))]

/-- A plan takes effect: dead bits and stored epochs are cleared, and every trained port is checked (R330). -/
def State.takePlan (s : State) (p : Plan) : State :=
  (s.modNlc fun n => { n with
    plan := some p, dead := [], sources := [], ports := tmap n.ports fun _ x => { x with partDrop := false } }).checkPorts

/-- Checks 10 to 14 of PLAN_LOAD (R278, R329). -/
def planLoadChecks (r : Req) (s : State) : List (Bool × Ans) :=
  let b := r.payload
  [argRsv r 0 0, ((planRsv b).isSome, refuse stReserved (32 + (planRsv b).getD 0)),
      ((planBad b).isSome, refuse stBadArgument (32 + (planBad b).getD 0))]

/-- PLAN_LOAD (R278, R329, R330). -/
def planLoadAct (r : Req) (s : State) : State × Ans :=
  let b := r.payload
  guardAct (planLoadChecks r s) s
    (s.takePlan (parsePlan b), ans stDone)

def planLoadCmd : Cmd := { opcode := 0x0603, device := true, lenOk := payloadIs 736, act := planLoadAct }

/-- PLAN_LOAD: a cabling plan (R278, R329, R330). -/
def execPlanLoad (r : Req) (s : State) : Host.Outcome State Fault Refusal := stauc planLoadCmd r s

/-- A partition id and index take effect, and are announced on every trained port (R331). -/
def State.takePartition (s : State) (part index : Nat) : State :=
  let s := s.modNlc fun n => { n with partId := part, ownIndex := index }
  (((List.range 42).filter fun p => (s.port p).trained).foldl (fun (s : State) p => s.sendIdent p) s).checkPorts

/-- Checks 10 to 14 of PARTITION_SET (R278, R331). -/
def partitionSetChecks (r : Req) (s : State) : List (Bool × Ans) :=
  [argRsv r (lowMask 24) 0, (s.ctxs.any fun e => countsReef e.2.state, ans stState)]

/-- PARTITION_SET (R278, R331). -/
def partitionSetAct (r : Req) (s : State) : State × Ans :=
  guardAct (partitionSetChecks r s) s
    (s.takePartition (bits (a0 r) 0 16) (bits (a0 r) 16 8), ans stDone)

def partitionSetCmd : Cmd := { opcode := 0x0604, device := true, lenOk := noPayload, act := partitionSetAct }

/-- PARTITION_SET: the partition id and the package index (R278, R331). -/
def execPartitionSet (r : Req) (s : State) : Host.Outcome State Fault Refusal := stauc partitionSetCmd r s

/-! ## Windows (R334) -/

/-- The window that a payload maps. -/
def parseWindow (b : Bytes) : Window :=
  { read := bit (u8 b 0) 1, write := bit (u8 b 0) 2, owner := u8 b 1 % 128, pkg := u8 b 2, ctx := u8 b 3 % 128,
    base := u64 b 8, size := u64 b 16 }

/-- The first reserved field of a mapping that is not zero; TARGET_BASE is a local offset, whose bits [51:39] are reserved (R333,
R334). -/
def windowRsv (b : Bytes) : Option Nat :=
  firstTrue [(0, decide (8 ≤ u8 b 0)), (1, decide (128 ≤ u8 b 1)), (3, decide (128 ≤ u8 b 3)), (4, u32 b 4 != 0),
    (12, bits (u64 b 8) 39 13 != 0), (24, !allZero (sub b 24 8))]

/-- A context id from 1 to 64. -/
def ctxId (c : Nat) : Bool := decide (1 ≤ c ∧ c ≤ 64)

/-- The first value of a mapping that is out of range or misaligned. -/
def windowBad (b : Bytes) : Option Nat :=
  let w := parseWindow b
  firstTrue [(1, !ctxId w.owner), (3, !ctxId w.ctx),
    (8, w.base % 4096 != 0 || decide (2 ^ 52 ≤ w.base) || decide (dramSize ≤ w.base % 2 ^ 36)),
    (16, w.size % 4096 != 0 || decide (w.size < 4096) || decide (dramSize < w.base % 2 ^ 36 + w.size))]

/-- Checks 10 to 14 of WINDOW_MAP (R278, R334). -/
def windowMapChecks (r : Req) (s : State) : List (Bool × Ans) :=
  let b := r.payload
  let i := a0 r % 256
  let valid := bit (u8 b 0) 0
  let bad := if valid then windowBad b else none
  [argRsv r 0xFF 0, ((windowRsv b).isSome, refuse stReserved (32 + (windowRsv b).getD 0)),
      (i == 0, refuse stBadArgument 16), (bad.isSome, refuse stBadArgument (32 + bad.getD 0))]

/-- WINDOW_MAP (R278, R334). -/
def windowMapAct (r : Req) (s : State) : State × Ans :=
  let b := r.payload
  let i := a0 r % 256
  let valid := bit (u8 b 0) 0
  guardAct (windowMapChecks r s) s
    (s.modNlc fun n => { n with windows := if valid then tset n.windows i (parseWindow b) else tdel n.windows i }, ans stDone)

def windowMapCmd : Cmd := { opcode := 0x0605, device := true, lenOk := payloadIs 32, act := windowMapAct }

/-- WINDOW_MAP: a fabric window is mapped or unmapped (R278, R334). -/
def execWindowMap (r : Req) (s : State) : Host.Outcome State Fault Refusal := stauc windowMapCmd r s

/-! ## Groups (R350 to R352) -/

def groupCount (b : Bytes) : Nat := u16 b 2
def memberOff (i : Nat) : Nat := 32 + 4 * i
def memberWord (b : Bytes) (i : Nat) : Nat := u32 b (memberOff i)

/-- The members of a list. -/
def parseMembers (b : Bytes) : List Member :=
  (List.range (groupCount b)).map fun i =>
    { ctx := bits (memberWord b i) 16 7, mast := bits (memberWord b i) 8 3, pkg := bits (memberWord b i) 0 8 }

def groupLenOk (r : Req) : Bool := decide (32 ≤ r.payload.length) && r.payload.length == memberOff (groupCount r.payload)

def groupRsv (b : Bytes) : Option Nat :=
  firstTrue ((4, !allZero (sub b 4 28)) :: (List.range (groupCount b)).flatMap fun i =>
    [(memberOff i + 1, bits (memberWord b i) 11 5 != 0), (memberOff i + 2, bits (memberWord b i) 23 9 != 0)])

/-- Member `i` names the same package and mast as one before it. -/
def memberTwice (ms : List Member) (i : Nat) (x : Member) : Bool := (ms.take i).any fun y => y.pkg == x.pkg && y.mast == x.mast

/-- The first value of a member list that R351 refuses; `mask`: the masts of context `c`. -/
def groupBad (own c mask : Nat) (b : Bytes) : Option Nat :=
  let n := groupCount b
  let ms := parseMembers b
  firstTrue ([(0, u16 b 0 != 1), (2, decide (n < 1 ∨ 256 < n))]
    ++ ((enum ms).flatMap fun e =>
        [(memberOff e.1, memberTwice ms e.1 e.2),
         (memberOff e.1 + 1, e.2.pkg == own && !bit mask e.2.mast), (memberOff e.1 + 2, e.2.pkg == own && e.2.ctx != c)])
    ++ [(32, ms.all fun x => x.pkg != own)])

/-- A member lies on a tray peer whose shroud ports are both cut (R351). -/
def State.groupCut (s : State) (ms : List Member) : Bool :=
  ms.any fun x => match s.nlc.plan with
    | some p => (match p.slotOf x.pkg with
        | some t => let ps := p.shroudTo t
                    !ps.isEmpty && ps.all fun q => (s.port q).state == pCut
        | none => false)
    | none => false

/-- The group that a list loads. -/
def newGroup (c : Nat) (b : Bytes) : Group :=
  { ctx := c, members := parseMembers b, crc := crc16 b, next := [], method := 0, outcome := 0 }

/-- Checks 10 to 14 of GROUP_LOAD (R350, R351). -/
def groupLoadChecks (r : Req) (s : State) : List (Bool × Ans) :=
  let b := r.payload
  let c := r.ctx.toNat
  let g := a0 r % 4096
  let mask := match s.ctx? c with | some x => x.mastMask | none => 0xFF
  let bad := groupBad s.nlc.ownIndex c mask b
  [argRsv r (lowMask 12) 0, ((groupRsv b).isSome, refuse stReserved (32 + (groupRsv b).getD 0)),
      (bad.isSome, refuse stBadArgument (32 + bad.getD 0)), noCtx s r, ctxStateCheck s r,
      ((s.group? g).isSome, ans stState), (s.groupCut (parseMembers b), ans stGroupCut),
      (decide (4096 ≤ s.col.groups.length), ans stTableFull)]

/-- GROUP_LOAD (R278, R350, R351). -/
def groupLoadAct (r : Req) (s : State) : State × Ans :=
  let b := r.payload
  let c := r.ctx.toNat
  let g := a0 r % 4096
  guardAct (groupLoadChecks r s) s
    (s.modCol fun k => { k with groups := tset k.groups g (newGroup c b) }, ans stDone)

def groupLoadCmd : Cmd := { opcode := 0x0610, device := false, lenOk := groupLenOk, act := groupLoadAct }

/-- GROUP_LOAD: a collective group of a context (R278, R350, R351). -/
def execGroupLoad (r : Req) (s : State) : Host.Outcome State Fault Refusal := stauc groupLoadCmd r s

/-- A group's entry is freed, and early packets of it are gone. -/
def Collectives.unload (k : Collectives) (g : Nat) : Collectives :=
  let early := k.early.filter fun p => bits p.addr 24 12 != g
  { k.reefDrop (· == g) with groups := tdel k.groups g, early }

/-- Checks 10 to 14 of GROUP_UNLOAD (R278, R352). -/
def groupUnloadChecks (r : Req) (s : State) : List (Bool × Ans) :=
  let g := a0 r % 4096
  [argRsv r (lowMask 12) 0, noCtx s r,
      ((match s.group? g with | some x => x.ctx != r.ctx.toNat | none => false), ans stNotPermitted), ctxStateCheck s r,
      ((s.group? g).isNone || s.col.calls.any fun c => c.group == g, ans stState)]

/-- GROUP_UNLOAD (R278, R352). -/
def groupUnloadAct (r : Req) (s : State) : State × Ans :=
  let g := a0 r % 4096
  guardAct (groupUnloadChecks r s) s
    (s.modCol fun k => k.unload g, ans stDone)

def groupUnloadCmd : Cmd := { opcode := 0x0611, device := false, lenOk := noPayload, act := groupUnloadAct }

/-- GROUP_UNLOAD: a group without a call in flight is removed (R278, R352). -/
def execGroupUnload (r : Req) (s : State) : Host.Outcome State Fault Refusal := stauc groupUnloadCmd r s

end Sys2Proof.Machine
end

