-- ==== Sys2Proof/Machine/LogOps.lean ====
section
/-! DEFINITION. The event log in the NOR: its sectors, the places that records take, and the scan at power-up
(R416, R417). -/
namespace Sys2Proof.Machine

/-- What stands for a record whose write was interrupted. -/
def tornMark : Nat := 2 ^ 32

/-- A place is taken: the next of the newest sector, or the first of a new one. -/
def takePlace (ss : List (List Nat)) (i : Nat) : List (List Nat) :=
  match ss.getLast? with
  | some l => if l.length < 1024 then ss.dropLast ++ [l ++ [i]] else ss ++ [[i]]
  | none => [[i]]

/-- The record that is being written: records are programmed in the order in which they found their places (R416). -/
def Faults.writing (f : Faults) : Option Record := f.logWrites.head?

/-- The record in writing is programmed (R416). -/
def Faults.written (f : Faults) : Faults :=
  match f.logWrites with
  | [] => f
  | r :: rs =>
    let i := r.logIndex.getD 0
    { f with logWrites := rs, log := tset f.log i r, sectors := takePlace f.sectors i }

/-- Records of the queue that now find a place leave it, in order (R417). -/
def Faults.takeQueued (f : Faults) : Faults :=
  f.logQueue.foldl (fun (f : Faults) r =>
    if f.finds r then { f with logWrites := f.logWrites ++ [r], logQueue := f.logQueue.erase r } else f) f

/-- The oldest sector is erased, the records in it are lost, and records that waited find places (R417). -/
def Faults.compact (f : Faults) : Faults :=
  match f.sectors with
  | l :: ls => { f with sectors := ls, log := tfilter f.log fun i _ => !l.contains i }.takeQueued
  | [] => f

/-- Power is lost: a write in progress leaves a torn place, and what waits is gone (R416, R422). -/
def Faults.cutWrite (f : Faults) : Faults :=
  match f.logWrites with
  | _ :: _ => { f with logWrites := [], logQueue := [], sectors := takePlace f.sectors tornMark }
  | [] => { f with logQueue := [] }

/-- The scan at power-up (R417). -/
def Faults.scan (f : Faults) : Faults :=
  let torn := ((f.sectors.map fun l => (l.filter (· == tornMark)).length)).foldl (· + ·) 0
  { f with logTorn := torn, logNext := maxD ((tkeys f.log).map (· + 1)) 0 % 2 ^ 32,
           err := if torn = 0 then f.err else f.err ||| 0x40 }

end Sys2Proof.Machine
end

