-- ==== Sys2Proof/Machine/Sha.lean ====
section
/-! DEFINITION. SHA-384 as FIPS 180-4 defines it, which R313 names. PRESUMED (log entry 20): the standard's own constants and
functions are not in the spec. -/
namespace Sys2Proof.Machine

abbrev W64 := BitVec 64

/-- The integer `e`-th root of `n`, the largest number whose `e`-th power is at most `n`, found place by place from `2 ^ (bits - 1)`
down; `lo` holds the places already found. -/
def rootFrom (e n : Nat) : Nat → Nat → Nat
  | 0, lo => lo
  | bits + 1, lo =>
    let mid := lo + 2 ^ bits
    rootFrom e n bits (if mid ^ e ≤ n then mid else lo)

/-- The first 64 bits of the fractional part of the `e`-th root of `p`: FIPS 180-4 takes its constants from roots of primes. -/
def rootFraction (e p : Nat) : W64 := BitVec.ofNat 64 (rootFrom e (p * 2 ^ (64 * e)) 70 0)

/-- Whether no number of 2 to n + 1 divides p. -/
def noDivisor (p : Nat) : Nat → Bool
  | 0 => true
  | n + 1 => p % (n + 2) != 0 && noDivisor p n

/-- The primes below 410, which are the first eighty. -/
def primes80 : List Nat := (List.range 410).filter fun p => 2 ≤ p && noDivisor p (min 19 (p - 2))

/-- The round constants: cube roots of the first eighty primes. -/
def shaK : List W64 := primes80.map (rootFraction 3)

/-- The eight working words. -/
structure ShaState where
  a : W64
  b : W64
  c : W64
  d : W64
  e : W64
  f : W64
  g : W64
  h : W64

/-- The initial value of SHA-384: square roots of the ninth to the sixteenth prime. -/
def shaInit : ShaState :=
  let r (i : Nat) : W64 := rootFraction 2 (primes80.getD (8 + i) 0)
  { a := r 0, b := r 1, c := r 2, d := r 3, e := r 4, f := r 5, g := r 6, h := r 7 }

def shaCh (x y z : W64) : W64 := (x &&& y) ^^^ (~~~x &&& z)
def shaMaj (x y z : W64) : W64 := (x &&& y) ^^^ (x &&& z) ^^^ (y &&& z)
def shaBig0 (x : W64) : W64 := x.rotateRight 28 ^^^ x.rotateRight 34 ^^^ x.rotateRight 39
def shaBig1 (x : W64) : W64 := x.rotateRight 14 ^^^ x.rotateRight 18 ^^^ x.rotateRight 41
def shaSmall0 (x : W64) : W64 := x.rotateRight 1 ^^^ x.rotateRight 8 ^^^ (x >>> 7)
def shaSmall1 (x : W64) : W64 := x.rotateRight 19 ^^^ x.rotateRight 61 ^^^ (x >>> 6)

/-- The message schedule, newest word first: `n` more words. -/
def shaSchedule : Nat → List W64 → List W64
  | 0, w => w
  | n + 1, w => shaSchedule n
      ((shaSmall1 (w.getD 1 0) + w.getD 6 0 + shaSmall0 (w.getD 14 0) + w.getD 15 0) :: w)

def shaRound (x : ShaState) (k w : W64) : ShaState :=
  let t1 := x.h + shaBig1 x.e + shaCh x.e x.f x.g + k + w
  let t2 := shaBig0 x.a + shaMaj x.a x.b x.c
  { a := t1 + t2, b := x.a, c := x.b, d := x.c, e := x.d + t1, f := x.e, g := x.f, h := x.g }

/-- One block of 128 bytes. -/
def shaBlock (x : ShaState) (blk : Bytes) : ShaState :=
  let w := (List.range 16).map fun i => BitVec.ofNat 64 (beNat (sub blk (8 * i) 8))
  let y := (shaK.zip (shaSchedule 64 w.reverse).reverse).foldl (fun x kw => shaRound x kw.1 kw.2) x
  { a := x.a + y.a, b := x.b + y.b, c := x.c + y.c, d := x.d + y.d, e := x.e + y.e, f := x.f + y.f, g := x.g + y.g,
    h := x.h + y.h }

/-- The padded message. -/
def shaPad (m : Bytes) : Bytes :=
  let n := m.length
  m ++ [0x80#8] ++ zeros (roundUp (n + 17) 128 - (n + 17)) ++ natBe 16 (8 * n)

/-- SHA-384 of a byte string: 48 bytes. -/
def sha384 (m : Bytes) : Bytes :=
  let p := shaPad m
  let x := (chunksOf 128 (p.length / 128) p).foldl shaBlock shaInit
  [x.a, x.b, x.c, x.d, x.e, x.f].flatMap fun w => natBe 8 w.toNat

end Sys2Proof.Machine
end

