-- ==== Sys2Proof/Machine/Identity.lean ====
section
/-! DEFINITION. The keys and certificates of the Trust Block: key-pair records, identity and alias keys, wrapped link keys
(R309, R429, R434 to R436, R439). HMAC, HMAC_DRBG, the parts of an SLH-DSA key and the outer form of a certificate are those of
the standards that the rules name (PRESUMED, log entry 20). -/
namespace Sys2Proof.Machine

/-! ## Key-pair records (R429) -/

def recModulus (b : Bytes) : Bytes := sub b 0 384
def recExponent (b : Bytes) : Bytes := sub b 384 4
def recSlhKey (b : Bytes) : Bytes := sub b 388 48

/-- A key-pair record that R429 accepts. -/
def keyRecordOk (b : Bytes) : Bool := leNat (recExponent b) == 65537 && allZero (sub b 436 76)

/-- The two signatures of a signature block over a message, under a key-pair record (R309, R428). -/
def rsaOk (key msg block : Bytes) : Bool := Config.rsaVerify (recModulus key) (recExponent key) msg (sub block 0 384)
def slhOk (key msg block : Bytes) : Bool := Config.slhVerify (recSlhKey key) msg (sub block 384 16224)

/-! ## Derivation (R435) -/

/-- HMAC-SHA-384. -/
def hmac384 (key msg : Bytes) : Bytes :=
  let k := fitTo (if 128 < key.length then sha384 key else key) 128
  sha384 (k.map (· ^^^ 0x5C) ++ sha384 (k.map (· ^^^ 0x36) ++ msg))

/-- An HMAC_DRBG with SHA-384 as a seed instantiates it: K and V. -/
def drbgStart (seed : Bytes) : Bytes × Bytes :=
  let v := List.replicate 48 1
  let k := hmac384 (zeros 48) (v ++ [0] ++ seed)
  let v := hmac384 k v
  let k := hmac384 k (v ++ [1] ++ seed)
  (k, hmac384 k v)

/-- CDI of an image: its measure and security version under UDS. -/
def cdi (measure : Bytes) (svn : Nat) : Bytes := hmac384 Config.uds (measure ++ natLe 1 svn)

/-- A seed of the SLH-DSA alias key: 24 bytes by an ASCII label. -/
def aliasSeed (id label : Bytes) : Bytes := (hmac384 id label).take 24

/-- The labels "slh-sk", "slh-prf" and "slh-pk". -/
def labelSk : Bytes := [0x73, 0x6C, 0x68, 0x2D, 0x73, 0x6B]
def labelPrf : Bytes := [0x73, 0x6C, 0x68, 0x2D, 0x70, 0x72, 0x66]
def labelPk : Bytes := [0x73, 0x6C, 0x68, 0x2D, 0x70, 0x6B]

/-- The SLH-DSA alias key pair of a CDI. -/
def aliasSlhPair (id : Bytes) : Config.KeyPair :=
  let pub := aliasSeed id labelPk ++ Config.slhRoot (aliasSeed id labelSk) (aliasSeed id labelPk)
  { priv := aliasSeed id labelSk ++ aliasSeed id labelPrf ++ pub, pub }

/-- The RSA alias key pair of a CDI. -/
def aliasRsaPair (id : Bytes) : Config.KeyPair := let d := drbgStart id
  Config.rsaGenerate d.1 d.2

/-- CDI of the running image. -/
def Trust.cdi (b : Trust) : Bytes := Machine.cdi b.measure b.fwSvn

/-- The signatures of the alias keys over a message, with the draw of those that are not deterministic (R437, R438). -/
def Trust.aliasRsaSign (b : Trust) (msg : Bytes) (draw : Nat) : Bytes := Config.rsaSign (aliasRsaPair b.cdi).priv msg draw
def Trust.aliasSlhSign (b : Trust) (msg : Bytes) (draw : Nat) : Bytes := Config.slhSign (aliasSlhPair b.cdi).priv msg draw

/-! ## Certificates (R434, R436) -/

/-- A private identity key as only the Trust Block reads it. -/
def identityPriv (slh : Bool) : Bytes :=
  let w := if slh then Config.identitySlh else Config.identityRsa
  (Config.gcmOpen Config.identityWrapKey w.iv w.aad w.body w.tag).getD []

/-- A DER item: tag, length and content. -/
def derItem (tag : BitVec 8) (b : Bytes) : Bytes :=
  let n := b.length
  [tag] ++ (if n < 128 then natBe 1 n else if n < 256 then [0x81] ++ natBe 1 n else if n < 65536 then [0x82] ++ natBe 2 n
            else [0x83] ++ natBe 3 n) ++ b

/-- An alias certificate: the alias key of the running image, issued by the identity certificate of its kind. -/
def Trust.aliasBody (b : Trust) (slh : Bool) : Config.AliasBody :=
  { slh, issuer := Config.norCertificate (if slh then 3 else 2),
    subject := (if slh then aliasSlhPair b.cdi else aliasRsaPair b.cdi).pub, measure := b.measure, svn := b.fwSvn, fwKey := b.fwKey }

/-- The signature of an identity key over an alias certificate, made when the image is verified. -/
def Trust.aliasSigned (b : Trust) (slh : Bool) : Bytes :=
  let tbs := Config.aliasTbs (b.aliasBody slh)
  if slh then Config.slhSign (identityPriv true) tbs b.certDraw else Config.rsaSign (identityPriv false) tbs b.certDraw

/-- An X.509 certificate: the signed part, the signature's algorithm and the signature. -/
def Trust.aliasCertificate (b : Trust) (slh : Bool) : Bytes :=
  derItem 0x30 (Config.aliasTbs (b.aliasBody slh) ++ Config.signatureAlgorithm slh ++ derItem 0x03 ([0] ++ b.aliasSigned slh))

/-- A certificate by its index. -/
def Trust.certificate (b : Trust) (i : Nat) : Bytes :=
  if i = 4 then b.aliasCertificate false else if i = 5 then b.aliasCertificate true else Config.norCertificate i

/-! ## Link keys (R439) -/

/-- The link key that a LINK_KEY payload wraps for a port of the package under LWK; none where its tag fails. -/
def unwrapLinkKey (unitId port : Nat) (b : Bytes) : Option Bytes :=
  Config.gcmOpen Config.linkWrapKey (sub b 8 12) (sub b 0 8 ++ natLe 8 unitId ++ natLe 1 port) (sub b 20 32) (sub b 52 16)

end Sys2Proof.Machine
end

