-- ==== Sys2Proof/Machine/SecurityCmds.lean ====
section
/-! DEFINITION. The security commands: attestation reports, certificates, link keys and the security version
(R281, R432 to R440). -/
namespace Sys2Proof.Machine

def State.modBtb (s : State) (f : Trust → Trust) : State := { s with btb := f s.btb }

/-! ## Reports (R437, R438) -/

/-- A shard entry of a report. -/
def shardEntry (id : Nat) (h : Shard) : Bytes :=
  natLe 4 id ++ natLe 1 h.ctx ++ natLe 1 h.svn ++ natLe 1 h.keyIndex ++ natLe 1 h.state ++ natLe 8 h.len
  ++ fitTo h.root 48 ++ fitTo h.modelId 32

/-- The shards that are `loaded` or `rechecking`, ascending. -/
def State.reported (s : State) : Tab Shard := tfilter s.hal.shards fun _ h => h.state == 2 || h.state == 3

/-- A report before its signature block, as captured now. -/
def State.reportContent (s : State) (nonce : Bytes) : Bytes :=
  let b := s.btb
  natLe 2 1 ++ natLe 1 1 ++ natLe 1 s.id.variant ++ natLe 1 s.id.hostDie ++ natLe 1 0x41 ++ natLe 1 s.fencedMask ++ zeros 1
  ++ natLe 8 s.id.unitId ++ natLe 8 s.time ++ fitTo nonce 48 ++ fitTo b.measure 48 ++ natLe 1 b.fwSvn ++ natLe 1 b.fusedSvn
  ++ natLe 1 b.fwKey ++ natLe 1 b.annexCount ++ natLe 4 s.reported.length ++ fitTo b.annexDigest 48 ++ natLe 2 s.nlc.partId
  ++ natLe 1 s.nlc.ownIndex ++ zeros 1 ++ natLe 6 (maskOf ((List.range 42).filter s.encOn)) ++ zeros 70
  ++ s.reported.flatMap fun e => shardEntry e.1 e.2

/-- The request for a report is captured, to be produced in its turn. -/
def State.captureReport (s : State) (nonce : Bytes) (endpoint : Bool) : State :=
  s.modBtb fun b => { b with reports := b.reports ++ [{ content := s.reportContent nonce, nonce, endpoint }] }

/-- A report with its signature block (R428, R438); the signatures are those of the alias keys. -/
def State.signed (s : State) (content : Bytes) : Bytes :=
  content ++ fitTo (s.btb.aliasRsaSign content s.free) 384
  ++ fitTo (s.btb.aliasSlhSign content s.free) 16224

/-- Bytes in consecutive parts of `n` bytes, the last one shorter. -/
def partsOf (n : Nat) (b : Bytes) : List Bytes := (List.range (ceilDiv b.length n)).map fun i => sub b (n * i) n

/-- The answer of the management endpoint that carries part `i` of `b`: its total length and at most 1,024 bytes (R459). -/
def endpointPart (cmd : Nat) (b : Bytes) (i : Nat) : Out :=
  if 1024 * i < b.length || (i = 0 && b.isEmpty) then .mgmt cmd 0 (natLe 4 b.length ++ sub b (1024 * i) 1024) else .mgmt cmd 2 []

/-- The oldest command that owes a report completes (R437). -/
def State.completeOldest (s : State) (w : Owed) (a : Ans) : State :=
  match s.st.outstanding.find? fun o => o.what == w with
  | none => s
  | some o =>
    ({ s with st := { s.st with outstanding := s.st.outstanding.erase o } }).queueAnswers o.ch
      (pktsOf 2 o.opcode o.tag o.ctx o.ch false false a)

/-- ATTEST (R281, R437). -/
def attestAct (r : Req) (s : State) : State × Ans :=
  guardAct [argRsv r 0 0] s ((s.captureReport r.payload false).owe 0x0901 r .attest, ans stAccepted)

def attestCmd : Cmd := { opcode := 0x0901, device := true, lenOk := payloadIs 48, act := attestAct }

/-- ATTEST: captures a report, which its completion carries (R437). -/
def execAttest (r : Req) (s : State) : Host.Outcome State Fault Refusal := stauc attestCmd r s

/-- The report in production is complete and goes to whom it answers. -/
def State.reportDone (s : State) : State :=
  match s.btb.reports with
  | [] => s
  | x :: xs =>
    let b := s.signed x.content
    let s := (s.modBtb fun t => { t with reports := xs }).drawn
    if x.endpoint then (s.modBtb fun t => { t with held := some (x.nonce, b) }).emit (endpointPart 5 b 0)
    else s.completeOldest .attest { status := stDone, hi := 0, arg1 := b.length, parts := partsOf 4096 b, rise := 2 ^ 32 }

/-- ATTEST_REPORT_COMPLETE: reports are produced one at a time, once the RSA alias key is ready (R437). -/
def execAttestReportComplete (s : State) : Host.Outcome State Fault Refusal :=
  settle s (s.whenAlive (if s.btb.aliasRsa then s.reportDone else s))

/-! ## Certificates (R436) -/

def State.cert (s : State) (i : Nat) : Bytes := s.btb.certificate i

/-- CERT_READ (R281, R436). -/
def certReadAct (r : Req) (s : State) : State × Ans :=
  let i := a0 r % 256
  guardAct [argRsv r 0xFF 0, (decide (5 < i), refuse stBadArgument 16), (i == 4 && !s.btb.aliasRsa, ans stState)] s
    (s, { status := stDone, hi := 0, arg1 := (s.cert i).length % 2 ^ 24, parts := partsOf 4096 (s.cert i), rise := 2 ^ 24 })

def certReadCmd : Cmd := { opcode := 0x0902, device := true, lenOk := noPayload, act := certReadAct }

/-- CERT_READ: a certificate of R436 in parts. -/
def execCertRead (r : Req) (s : State) : Host.Outcome State Fault Refusal := stauc certReadCmd r s

/-! ## Link keys (R439) -/

def lkPort (r : Req) : Nat := a0 r % 64

/-- LINK_KEY is answered KEY_INVALID (R439). -/
def State.keyBad (s : State) (p : Nat) (b : Bytes) : Bool :=
  (unwrapLinkKey s.id.unitId p b).isNone || decide (u32 b 0 < tgetD s.btb.keySeq p 0)
  || !(match s.planPort p with | some e => e.encReq | none => false)

/-- An accepted key enters the port's unused slot, and the port is checked again (R330, R343, R439). -/
def State.acceptKey (s : State) (p : Nat) (b : Bytes) : State :=
  let s := s.modBtb fun t => { t with keySeq := tset t.keySeq p (u32 b 0 + 1) }
  (s.installKey p ((unwrapLinkKey s.id.unitId p b).getD []) (sub b 4 4)).checkPort p

/-- LINK_KEY (R281, R439). -/
def linkKeyAct (r : Req) (s : State) : State × Ans :=
  let p := lkPort r
  match firstErr [argRsv r 0x3F 0, (decide (42 ≤ p), refuse stBadArgument 16)] with
  | some a => (s, a)
  | none =>
    if s.keyBad p r.payload then (s.modBtb fun t => { t with err := t.err ||| 0x10 }, ans stKeyInvalid)
    else if (s.port p).syncOwed then (s, ans stState)
    else (s.acceptKey p r.payload, ans stDone)

def linkKeyCmd : Cmd := { opcode := 0x0903, device := true, lenOk := payloadIs 68, act := linkKeyAct }

/-- LINK_KEY: installs a wrapped key for a port (R439). -/
def execLinkKey (r : Req) (s : State) : Host.Outcome State Fault Refusal := stauc linkKeyCmd r s

/-! ## The security version (R432, R433) -/

/-- A commit is accepted: programming starts unless brownout holds (R421, R433). -/
def State.startCommit (s : State) (v : Nat) : State :=
  let busy := decide (s.btb.fusedSvn < v)
  s.modBtb fun b => { b with commitBusy := busy, commitTarget := v, fuseOn := busy && !s.pwr.brownout }

/-- SVN_COMMIT (R281, R433). -/
def svnCommitAct (r : Req) (s : State) : State × Ans :=
  let v := a0 r % 64
  match firstErr [argRsv r 0x3F 0] with
  | some a => (s, a)
  | none =>
    if v < s.btb.fusedSvn then (s.modBtb fun b => { b with err := b.err ||| 4 }, ans stRollback)
    else if s.btb.fwSvn < v then (s, ans stState)
    else if s.btb.commitBusy then (s, ans stAlreadyPending)
    else ((s.startCommit v).owe 0x0904 r .svn, ans stAccepted)

/-- A commit of the value that is fused already completes at once (R433). -/
def svnCommitAfter (_ : Req) (a : Ans) (s : State) : State :=
  if a.status = stAccepted && !s.btb.commitBusy then s.complete .svn (ans stDone) else s

def svnCommitCmd : Cmd :=
  { opcode := 0x0904, device := true, lenOk := noPayload, act := svnCommitAct, after := svnCommitAfter }

/-- SVN_COMMIT: raises the fused security version (R433). -/
def execSvnCommit (r : Req) (s : State) : Host.Outcome State Fault Refusal := stauc svnCommitCmd r s

/-- The fuse in programming is programmed: the value rises by one, and the next fuse starts or the commit completes.
Neither brownout nor a fatal error stops a fuse that has started (R421, R432, R433, R440). -/
def State.fuseDone (s : State) : State :=
  let v := s.btb.fusedSvn + 1
  let more := decide (v < s.btb.commitTarget)
  let s := s.modBtb fun b => { b with fusedSvn := v, err := b.err ||| 8,
                                      fuseOn := more && !s.pwr.brownout && !s.flt.fatal, commitBusy := more || s.flt.fatal }
  if more || s.flt.fatal then s else s.complete .svn (ans stDone)

/-- FUSE_PROGRAMMED: one fuse of a commit (R432, R433). -/
def execFuseProgrammed (s : State) : Host.Outcome State Fault Refusal :=
  settle s (if s.btb.fuseOn && s.cn.hubRails then s.fuseDone else s)

end Sys2Proof.Machine
end

