-- ==== Sys2Proof/Machine/MaintCmds.lean ====
section
/-! DEFINITION. Maintenance: the activities that MAINT_START and the device start, their ends, MAINT_QUERY and LOG_READ
(R221, R222, R282, R317, R327, R416 to R420). -/
namespace Sys2Proof.Machine

/-! ## MAINT_START (R282, R419, R420) -/

def maActivity (r : Req) : Nat := a0 r % 256

/-- The bits of ARG1 that an activity uses (R282). -/
def maintArgMask (a : Nat) : Nat := if a = 2 then lowMask 32 else if a = 3 then lowMask 6 else if a = 4 then 3 else 0

/-- A port that a RETRAIN can act on: cabled, not broken, and not `off`, since such a port trains only on LINK_TRAIN (R329, R403,
R464). -/
def State.retrainable (s : State) (p : Nat) : Bool :=
  !(s.port p).broken && (s.port p).state != pOff && (match s.planPort p with | some e => e.used | none => false)

/-- What the state of an activity's object refuses (R317, R222; log entry 28). -/
def State.maintStateBad (s : State) (a arg : Nat) : Bool :=
  if a = actRecheck then (match tget s.hal.shards arg with | some h => h.state != 2 | none => true)
  else if a = actScrub then s.pwr.coolstop
  else if a = actRetrain then !s.retrainable arg
  else false

/-- A RETRAIN starts: a port that is `up`, `cut` or `held` retrains, a down one trains again (R327, R420). -/
def State.startRetrain (s : State) (p : Nat) : State :=
  let st := (s.port p).state
  if st = pUp || st = pCut || st = pHeld then s.portRetrain p
  else if st = pRetraining || st = pTraining || st = pIdent then s
  else s.startTraining p

/-- Checks 10 to 14 of MAINT_START but for BUSY_MAINT (R282, R317, R222). -/
def maintStartChecks (r : Req) (s : State) : List (Bool × Ans) :=
  let a := maActivity r
  let arg := a1 r
  [argRsv r 0xFF (if 1 ≤ a && a ≤ 5 then maintArgMask a else lowMask 64), (decide (a < 1 ∨ 5 < a), refuse stBadArgument 16),
   (a == 3 && decide (42 ≤ arg), refuse stBadArgument 24), (a == 4 && arg == 3, refuse stBadArgument 24),
   (s.maintStateBad a arg, ans stState)]

/-- MAINT_START of any activity (R282, R419). -/
def maintStartAct (r : Req) (s : State) : State × Ans :=
  let a := maActivity r
  let arg := a1 r
  match firstErr (maintStartChecks r s) with
  | some e => (s, e)
  | none =>
    match s.holder? (maintClass a) with
    | some m => ({ s with flt := { s.flt with err := s.flt.err ||| 0x80 } },
                 { status := stBusyMaint, hi := 0, arg1 := m.busyArg, parts := [] })
    | none =>
      let s := (s.holdClass { activity := a, arg, tag := r.tag.toNat, ch := r.flitCh, device := false }).owe 0x0A01 r (.maint a)
      (if a = actRetrain then s.startRetrain arg else s, ans stAccepted)

def maintStartCmd : Cmd := { opcode := 0x0A01, device := true, lenOk := noPayload, act := maintStartAct }

/-- MAINT_START of SCRUB_CHUNK: sweeps the next chunk at once (R221, R419). -/
def execScrubChunk (r : Req) (s : State) : Host.Outcome State Fault Refusal := stauc maintStartCmd r s

/-- MAINT_START of DIGEST_RECHECK: rechecks a loaded shard (R317). -/
def execDigestRecheck (r : Req) (s : State) : Host.Outcome State Fault Refusal := stauc maintStartCmd r s

/-- MAINT_START of RETRAIN: a port retrains, or trains again (R327, R420). -/
def execRetrain (r : Req) (s : State) : Host.Outcome State Fault Refusal := stauc maintStartCmd r s

/-- MAINT_START of REFRESH_MODE: requests a refresh rate (R222). -/
def execRefreshMode (r : Req) (s : State) : Host.Outcome State Fault Refusal := stauc maintStartCmd r s

/-- MAINT_START of LOG_COMPACT: erases the oldest sector of the event log (R417). -/
def execLogCompact (r : Req) (s : State) : Host.Outcome State Fault Refusal := stauc maintStartCmd r s

/-! ## MAINT_QUERY and LOG_READ (R282, R416) -/

/-- MAINT_QUERY (R282). -/
def maintQueryAct (r : Req) (s : State) : State × Ans :=
  let code := fun c => match s.holder? c with | some m => m.activity | none => 0
  guardAct [argRsv r 0 0] s (s, done1 (packFields [(0, 8, code 0), (8, 8, code 1), (16, 8, code 2), (24, 8, code 3)]))

def maintQueryCmd : Cmd := { opcode := 0x0A02, device := true, lenOk := noPayload, act := maintQueryAct }

/-- MAINT_QUERY: the activity that holds each class (R282). -/
def execMaintQuery (r : Req) (s : State) : Host.Outcome State Fault Refusal := stauc maintQueryCmd r s

/-- The records of the event log from index `i` on that are still held, ascending, `n` at most (R416). -/
def Faults.logFrom (f : Faults) (i n : Nat) : List Record := ((f.log.filter fun e => decide (i ≤ e.1)).map (·.2)).take n

/-- LOG_READ (R282, R416). -/
def logReadAct (r : Req) (s : State) : State × Ans :=
  let n := bits (a1 r) 0 6
  guardAct [argRsv r (lowMask 32) 0x3F, (n == 0, refuse stBadArgument 24)] s
    (s, { status := stDone, hi := 0, arg1 := 0, parts := [(s.flt.logFrom (a0 r % 2 ^ 32) n).flatMap Record.image] })

def logReadCmd : Cmd := { opcode := 0x0A03, device := true, lenOk := noPayload, act := logReadAct }

/-- LOG_READ: records of the event log (R282, R416). -/
def execLogRead (r : Req) (s : State) : Host.Outcome State Fault Refusal := stauc logReadCmd r s

/-! ## Patrol scrub (R221, R222) -/

/-- SCRUB_SCHEDULE: the next chunk's time has come (R221, R236). -/
def execScrubSchedule (s : State) : Host.Outcome State Fault Refusal :=
  settle s (s.whenAlive (if s.scrubMasts.isEmpty then s else s.deviceMaint (.dev actScrub 0)))

/-- The running chunk has been read, with the errors that it found (R218, R219, R221). -/
def State.scrubEnd (s : State) (found : List Upset) : State :=
  match s.holder? 0 with
  | none => s
  | some m =>
    if m.activity != actScrub then s
    else
      let s := s.strikeAll found
      if !s.alive then s
      else (s.sweep ((if m.device then bitsSet m.arg 8 else List.range 8).filter s.mastUp)).endMaint actScrub (ans stDone)

/-- SCRUB_CHUNK_COMPLETE (R221). -/
def execScrubChunkComplete (found : List Upset) (s : State) : Host.Outcome State Fault Refusal :=
  settle s (s.whenAlive (s.scrubEnd found))

/-! ## Scheduled rechecks (R317) -/

/-- The next shard of the round of rechecks: the least loaded id that the round has not reached, else the least. -/
def State.nextRecheck (s : State) : Option Nat :=
  let ids := (s.hal.shards.filter fun e => e.2.state == 2).map (·.1)
  match ids.find? fun i => decide (s.hal.nextScan ≤ i) with
  | some i => some i
  | none => ids.head?

/-- RECHECK_SCHEDULE: the device rechecks the next loaded shard (R317, R419). -/
def execRecheckSchedule (s : State) : Host.Outcome State Fault Refusal :=
  settle s (s.whenAlive (match s.nextRecheck with
    | some i => if s.hal.period = 0 then s
                else ({ s with hal := { s.hal with nextScan := i + 1 } }).deviceMaint (.dev actRecheck i)
    | none => s))

/-! ## Refresh mode (R222) -/

/-- The requested rate takes effect on every mast, unless self-refresh holds it back (R222, R420). -/
def State.refreshEnd (s : State) : State :=
  match s.holder? 2 with
  | none => s
  | some m =>
    if s.pwr.coolstop then s
    else (s.mapMasts fun _ z => { z with mc := { z.mc with refreshReq := m.arg % 4 } }).endMaint actRefresh (ans stDone)

/-- REFRESH_MODE_COMPLETE (R222). -/
def execRefreshModeComplete (s : State) : Host.Outcome State Fault Refusal := settle s (s.whenAlive s.refreshEnd)

/-! ## The event log (R416, R417) -/

/-- LOG_COMPACT_AUTO: fewer than two sectors are erased, and no compaction of the device waits yet (R417). -/
def execLogCompactAuto (s : State) : Host.Outcome State Fault Refusal :=
  settle s (s.whenAlive (
    if decide (64 < s.flt.sectors.length + 2) && (tgetD s.flt.queues 3 []).isEmpty then s.deviceMaint (.dev actCompact 0) else s))

/-- LOG_COMPACT_COMPLETE: the oldest sector is erased (R417). -/
def execLogCompactComplete (s : State) : Host.Outcome State Fault Refusal :=
  settle s (s.whenAlive (if (s.holder? 3).isSome then
    ({ s with flt := s.flt.compact }).endMaint actCompact (ans stDone) else s))

/-- LOG_RECORD_WRITTEN: the record in writing is in the log (R416). The collector and the NOR work in the fatal state too
(R414). -/
def execLogRecordWritten (s : State) : Host.Outcome State Fault Refusal :=
  settle s (if s.cn.hubRails || s.flt.fatal then { s with flt := s.flt.written } else s)

end Sys2Proof.Machine
end

