-- ==== Sys2Proof/Machine/ShardCmds.lean ====
section
/-! DEFINITION. Shards: the load request and its checks, ingest, hashing, the scan of residual lists, rechecks and drops
(R306 to R319). -/
namespace Sys2Proof.Machine

/-! ## The load request (R308, R309) -/

def slPieces (p : Bytes) : Nat := u8 p 9
def slFabric (p : Bytes) : Bool := u8 p 8 == 1
def slLen (p : Bytes) : Nat := u64 p 0
def slSrc (p : Bytes) : Nat := u64 p 16
def slSig (p : Bytes) : Dptr := dptr (u64 p 24)
def slPiece (p : Bytes) (i : Nat) : Dptr := dptr (u64 p (64 + 16 * i))
def slPieceLen (p : Bytes) (i : Nat) : Nat := u64 p (72 + 16 * i)
/-- The manifest statement, and where it starts in the payload. -/
def slManOff (p : Bytes) : Nat := 64 + 16 * slPieces p
def slMan (p : Bytes) : Bytes := sub p (slManOff p) 128
/-- The pieces as (mast, offset, length). -/
def slPieceList (p : Bytes) : List (Nat × Nat × Nat) :=
  (List.range (slPieces p)).map fun i => ((slPiece p i).mast, (slPiece p i).off, slPieceLen p i)

def shardLoadLenOk (r : Req) : Bool :=
  r.payload.length == 192 + 16 * slPieces r.payload

/-- The first reserved field of the payload that is not zero, as a payload offset (R308, R309). -/
def slRsv (p : Bytes) : Option Nat :=
  let m := slManOff p
  firstTrue ([(12, !allZero (sub p 12 4)), (20, bits (slSrc p) 39 13 != 0 && slFabric p), (31, (slSig p).rsv != 0),
      (32, !allZero (sub p 32 32))]
    ++ ((List.range (slPieces p)).map fun i => (71 + 16 * i, (slPiece p i).rsv != 0))
    ++ [(m + 2, decide (64 ≤ u8 p (m + 2))), (m + 108, !allZero (sub p (m + 108) 20))])

/-- Whether pieces of a list overlap one another. -/
def piecesOverlap : List (Nat × Nat × Nat) → Bool
  | [] => false
  | a :: l => (l.any fun b => a.1 == b.1 && overlap a.2.1 a.2.2 b.2.1 b.2.2) || piecesOverlap l

/-- The first value of the payload that is out of range or misaligned, as a payload offset (R306, R308 to R310). -/
def State.slBad (s : State) (p : Bytes) (id : Nat) : Option Nat :=
  let m := slManOff p
  let n := slPieces p
  let total := (slPieceList p).foldl (fun a q => a + q.2.2) 0
  firstTrue ([(0, slLen p % 128 != 0 || decide (slLen p < 128 ∨ 2 ^ 36 < slLen p) || (decide (1 ≤ n ∧ n ≤ 8) && total != slLen p)),
      (8, decide (1 < u8 p 8)), (9, decide (n < 1 ∨ 8 < n)),
      (16, if slFabric p then slSrc p % 128 != 0 || bits (slSrc p) 60 4 != 1 else slSrc p != 0),
      (24, (slSig p).space == 0 && decide (dramSize < (slSig p).off + 16608)), (30, decide (1 < (slSig p).space)),
      (31, !s.present (slSig p).mast)]
    ++ ((List.range n).flatMap fun i =>
        [(64 + 16 * i, (slPiece p i).off % 128 != 0 || decide (dramSize < (slPiece p i).off + slPieceLen p i)
            || piecesOverlap ((slPieceList p).take (i + 1))),
         (70 + 16 * i, (slPiece p i).space != 0), (71 + 16 * i, !s.present (slPiece p i).mast),
         (72 + 16 * i, slPieceLen p i % 128 != 0)])
    ++ [(m, u16 p m != 1), (m + 4, u32 p (m + 4) != id), (m + 8, u64 p (m + 8) != slLen p),
        (m + 96, u64 p (m + 96) % 128 != 0 || decide (slLen p < u64 p (m + 96) + 32 * u32 p (m + 104))),
        (m + 104, decide (65535 < u32 p (m + 104)))])

/-- Every piece and the signature block lie in the context's grants, pieces on masts of its placement (R308, R310, R490). -/
def Ctx.slGranted (x : Ctx) (p : Bytes) : Bool :=
  (slPieceList p).all (fun q => x.masts.contains q.1 && x.granted q.1 q.2.1 q.2.2)
  && (slSig p).space == 0 && x.granted (slSig p).mast (slSig p).off 16608

/-- The manifest key pair that KEY_INDEX names (R429). -/
def Trust.manifestKey (t : Trust) (i : Nat) : Option Bytes := if i < t.annexCount then some (sub t.annex (512 * i) 512) else none

/-- Both signatures over the statement verify (R309, R429). The signature block is read as a command of the host reads; one
that meets a poisoned half-line fails (log entry 21). -/
def State.slSigned (s : State) (c : Nat) (p : Bytes) : State × Bool :=
  match s.btb.manifestKey (u8 (slMan p) 3) with
  | none => (s, false)
  | some k =>
    let q := s.readDram (slSig p).mast (hostReader c) (slSig p).off 16608
    match q.2.2 with
    | some b => (q.1.hostPoison c (slSig p).mast b, false)
    | none => (q.1, rsaOk k (slMan p) q.2.1 && slhOk k (slMan p) q.2.1)

/-- Checks of R310 that stand before the signatures. -/
def shardLoadPre (r : Req) (s : State) : List (Bool × Ans) :=
  let p := r.payload
  let id := a0 r
  let bad := s.slBad p id
  let rsv := slRsv p
  [argRsv r (lowMask 32) 0, (rsv.isSome, refuse stReserved (32 + rsv.getD 0)), (bad.isSome, refuse stBadArgument (32 + bad.getD 0)),
   noCtx s r,
   (match s.ctx? r.ctx.toNat with | some x => !x.slGranted p | none => false, ans stNotPermitted),
   (match s.shard? id with | some h => h.ctx != r.ctx.toNat | none => false, ans stNotPermitted),
   ((slPieceList p).any (fun q => s.fencedMast q.1) || s.fencedMast (slSig p).mast, ans stFenced), coolCheck s]

/-- The package of SRC_ADDR is in the partition, as far as the package knows, and a stay port is up: a tray peer whose shroud
ports are cut lies in another partition (R310, R330; DEDUCED, log entry 78). -/
def State.sourceUp (s : State) (pkg : Nat) : Bool :=
  s.nlc.partId != 0 && !s.stayUp.isEmpty
  && (match s.nlc.plan with
      | some p => (match p.slotOf pkg with
          | some t => !((p.shroudTo t).any fun q => (s.port q).state == pCut)
          | none => true)
      | none => true)

/-- Checks of R310 that stand after the signatures. -/
def shardLoadPost (r : Req) (s : State) : List (Bool × Ans) :=
  let p := r.payload
  [ctxStateCheck s r,
   ((s.shard? (a0 r)).isSome, ans stState),
   (decide (4096 ≤ s.hal.shards.length) || decide (64 ≤ (s.hal.shards.filter fun e => e.2.state == 1).length), ans stTableFull),
   ((slPieceList p).any (fun q => s.meetsShard q.1 q.2.1 q.2.2 || (s.mast q.1).mc.bandBusy q.2.1 q.2.2), ans stNoMemory),
   (slFabric p && !s.sourceUp (bits (slSrc p) 52 8), ans stUnreachable)]

/-- The shard that a load request starts (R306 to R309). -/
def newShard (c : Nat) (p : Bytes) : Shard :=
  let m := slMan p
  { ctx := c, state := 1, reason := 0, faultLine := 0, len := slLen p, fabric := slFabric p, srcAddr := slSrc p,
    timeout := if u16 p 10 = 0 then 1000 else u16 p 10, pieces := slPieceList p, svn := u8 m 2, keyIndex := u8 m 3,
    root := sub m 16 48, modelId := sub m 64 32, dirOff := u64 m 96, dirCount := u32 m 104, lines := [], ready := [],
    leaves := [], rechecks := 0, scanning := false }

def shardLoadAct (r : Req) (s : State) : State × Ans :=
  guardAct (shardLoadPre r s) s
    (let q := s.slSigned r.ctx.toNat r.payload
     let flag := fun (w : Word) => { q.1 with btb := { q.1.btb with err := q.1.btb.err ||| w } }
     if !q.2 then (flag 2, ans stSignature)
     else if u8 (slMan r.payload) 2 < s.btb.fusedSvn then (flag 4, ans stRollback)
     else guardAct (shardLoadPost r q.1) q.1
       ((State.owe { q.1 with hal := { q.1.hal with shards := tset q.1.hal.shards (a0 r) (newShard r.ctx.toNat r.payload) } }
           0x0305 r (.shard (a0 r))), ans stAccepted))

/-- The pieces of a shard range on its masts: (mast, offset, length, shard offset). -/
def Shard.segments (h : Shard) (o n : Nat) : List (Nat × Nat × Nat × Nat) :=
  (pieceStarts h.pieces 0).filterMap fun p =>
    let lo := max o p.1
    let hi := min (o + n) (p.1 + p.2.2.2)
    if lo < hi then some (p.2.1, p.2.2.1 + (lo - p.1), hi - lo, lo) else none

/-- The reads of a fabric load leave, on the stay planes (R311); a dead source fails at once (R339). They carry the id of the
loading context (log entry 22). -/
def State.startIngest (s : State) (id : Nat) : State :=
  match s.shard? id with
  | none => s
  | some h =>
    if !h.fabric || h.state != 1 then s
    else (List.range (h.len / 128)).foldl (fun (s : State) l =>
      match (h.segments (128 * l) 128).head? with
      | none => s
      | some g =>
        if (s.shard? id).map (·.state) != some 1 then s
        else
          let a := h.srcAddr + 128 * l
          let x := s.issue (.halyard id l) false (bits h.srcAddr 52 8) h.ctx (a % 2 ^ 52) 0 g.1 g.2.1 []
          if x.2 then x.1 else x.1.quarantine id 3 (some (128 * l))) s

def shardLoadCmd : Cmd :=
  { opcode := 0x0305, device := false, lenOk := shardLoadLenOk, act := shardLoadAct,
    after := fun r a s => if a.status = stAccepted then s.startIngest (a0 r) else s }

/-- SHARD_LOAD: the request and both signatures are checked, the regions are reserved, and the load starts (R308 to R311). -/
def execShardLoad (r : Req) (s : State) : Host.Outcome State Fault Refusal := stauc shardLoadCmd r s

/-! ## SHARD_DROP and SHARD_QUERY (R306, R307) -/

/-- A shard of another context is named. -/
def otherShard (r : Req) (s : State) : Bool × Ans :=
  (match s.shard? (a0 r) with | some h => h.ctx != r.ctx.toNat | none => false, ans stNotPermitted)

/-- Checks 10 to 14 of SHARD_DROP (R306, R307). -/
def shardDropChecks (r : Req) (s : State) : List (Bool × Ans) :=
  [argRsv r (lowMask 32) 0, noCtx s r, otherShard r s, ctxStateCheck s r,
   ((s.shard? (a0 r)).isNone || s.listsShard r.ctx.toNat (a0 r), ans stState)]

def shardDropAct (r : Req) (s : State) : State × Ans :=
  guardAct (shardDropChecks r s) s
    (s.removeShard (a0 r), ans stDone)

def shardDropCmd : Cmd :=
  { opcode := 0x0306, device := false, lenOk := noPayload, act := shardDropAct }

/-- SHARD_DROP: the entry is freed, and a load or a recheck of it ends with STATE (R307, R319). -/
def execShardDrop (r : Req) (s : State) : Host.Outcome State Fault Refusal := stauc shardDropCmd r s

/-- Checks 10 to 14 of SHARD_QUERY (R306, R307). -/
def shardQueryChecks (r : Req) (s : State) : List (Bool × Ans) :=
  [argRsv r (lowMask 32) 0, noCtx s r, otherShard r s, ctxStateCheck s r]

def shardQueryAct (r : Req) (s : State) : State × Ans :=
  guardAct (shardQueryChecks r s) s
    (s, match s.shard? (a0 r) with
        | some h => done1 (h.state + h.reason * 65536)
        | none => done1 0)

def shardQueryCmd : Cmd := { opcode := 0x0307, device := false, lenOk := noPayload, act := shardQueryAct }

/-- SHARD_QUERY: the state code and the quarantine reason (R307). -/
def execShardQuery (r : Req) (s : State) : Host.Outcome State Fault Refusal := stauc shardQueryCmd r s

/-! ## Hashing (R313 to R315) -/

/-- Pairs of a level of the tree are joined; an odd node is carried up. -/
def merklePairs : List Bytes → List Bytes
  | [] => []
  | [a] => [a]
  | a :: b :: l => sha384 ([1#8] ++ a ++ b) :: merklePairs l

/-- The root of a list of leaves (R313); `fuel` levels at most. -/
def merkleRoot : Nat → List Bytes → Bytes
  | 0, l => l.headD []
  | fuel + 1, l => match l with
    | [] => []
    | [a] => a
    | _ => merkleRoot fuel (merklePairs l)

/-- A range of a shard is read back from its pieces (R314): the bytes, and the shard offset of the first poisoned half-line. -/
def State.readShard (s : State) (h : Shard) (r : Reader) (o n : Nat) : State × Bytes × Option Nat :=
  (h.segments o n).foldl (fun (a : State × Bytes × Option Nat) g =>
    let q := a.1.readDram g.1 r g.2.1 g.2.2.1
    (q.1, a.2.1 ++ q.2.1,
     match a.2.2, q.2.2 with
     | some x, _ => some x
     | none, some b => some (g.2.2.2 + (b.1 * 64 - g.2.1))
     | none, none => none)) (s, [], none)

/-- One chunk is read back and hashed: its leaf, or quarantine with POISON (R314, R315). -/
def State.hashChunk (s : State) (id k : Nat) (r : Reader) : State :=
  match s.shard? id with
  | none => s
  | some h =>
    let n := min 0x100000 (h.len - k * 0x100000)
    let q := s.readShard h r (k * 0x100000) n
    match q.2.2 with
    | some o => q.1.quarantine id 2 (some o)
    | none => q.1.modShard id fun h => { h with leaves := tset h.leaves k (sha384 ([0#8] ++ q.2.1)),
                                                ready := h.ready.filter fun j => j != k }

/-- Every chunk has its leaf. -/
def Shard.allHashed (h : Shard) : Bool := h.leaves.length == h.chunks

/-- The leaves hash to ROOT. -/
def Shard.rootOk (h : Shard) : Bool := merkleRoot 17 (h.leaves.map (·.2)) == h.root

/-- After the last leaf of a load the root is compared: a match starts the scan of the residual lists, anything else is
quarantine with DIGEST (R314, R315). -/
def State.checkRoot (s : State) (id : Nat) : State :=
  match s.shard? id with
  | none => s
  | some h =>
    if h.state != 1 || !h.allHashed then s
    else if h.rootOk then s.modShard id fun h => { h with scanning := true }
    else s.quarantine id 1 none

/-- A hash engine takes the next complete chunk of a load, or the next chunk of a recheck (R314, R317). -/
def State.chunkHashed (s : State) (id : Nat) : State :=
  match s.shard? id with
  | none => s
  | some h =>
    if s.pwr.coolstop then s
    else if h.state = 1 then
      match h.ready with
      | k :: _ => (s.hashChunk id k (bulkReader h.ctx)).checkRoot id
      | [] => s
    else if h.state = 3 && h.leaves.length < h.chunks then s.hashChunk id h.leaves.length maintReader
    else s

/-- One complete chunk of a shard is hashed; after the last leaf the root is compared (R313, R314). -/
def execShardChunkHashed (shard : Nat) (s : State) : Host.Outcome State Fault Refusal :=
  settle s (s.whenAlive (s.chunkHashed shard))

/-! ## The scan of the tensor directory (R95, R314) -/

/-- FLAGS.RESIDUAL of a directory entry; its reserved fields are ignored (R8, R314). -/
def dirResidual (e : Bytes) : Bool := bit (u8 e 17) 0

/-- A directory entry is malformed or its tensor extends past LENGTH (R314). -/
def dirBad (len : Nat) (e : Bytes) : Bool :=
  let off := u64 e 0
  let k := u32 e 8
  let n := u32 e 12
  let f := u8 e 16
  off % 128 != 0 || decide (k < 1 ∨ 262144 < k) || decide (n < 1 ∨ 262144 < n) || !knownWfmt f
  || (dirResidual e && !hasTail f)
  || decide (len < off + wBytes f k n) || (dirResidual e && decide (len < off + wBytes f k n + 128))

/-- A residual list extends past LENGTH (R314). -/
def listBad (len off f k n count : Nat) : Bool := decide (count ≤ 1048576) && decide (len < off + wBytes f k n + 128 + 4 * count)

/-- The first fault of one directory entry: reason and shard offset. `rd`: the shard's bytes. DESIGN CHOICE (log entry 105): the bursts
of a tensor without residuals are not looked at (R95). -/
def dirFault (len : Nat) (rd : Nat → Nat → Bytes) (at_ : Nat) : Option (Nat × Nat) :=
  let e := rd at_ 32
  if dirBad len e then some (5, at_)
  else if !dirResidual e then none
  else
    let off := u64 e 0
    let k := u32 e 8
    let n := u32 e 12
    let f := u8 e 16
    if listBad len off f k n (u32 (rd (off + wBytes f k n) 4) 0) then some (5, at_)
    else (residualFault f k n fun o m => rd (off + o) m).map fun o => (4, off + o)

/-- The range of a shard that the scan reads for one directory entry: its tensor, and the residual list behind it (R314). -/
def dirRange (e : Bytes) (count : Nat) : Nat × Nat :=
  let n := wBytes (u8 e 16) (u32 e 8) (u32 e 12)
  (u64 e 0, if dirResidual e then n + 128 + 4 * count else n)

/-- One directory entry is scanned: the state, and its fault as reason and shard offset. The entry and the count of its list are
read first, then the tensor with its list (R314, R315; log entry 21). -/
def State.scanEntry (s : State) (h : Shard) (i : Nat) : State × Option (Nat × Nat) :=
  let r := bulkReader h.ctx
  let at_ := h.dirOff + 32 * i
  let q := s.readShard h r at_ 32
  match q.2.2 with
  | some o => (q.1, some (2, o))
  | none =>
    let e := q.2.1
    if dirBad h.len e then (q.1, some (5, at_))
    else
      let n := wBytes (u8 e 16) (u32 e 8) (u32 e 12)
      let k := if dirResidual e then q.1.readShard h r (u64 e 0 + n) 4 else (q.1, [], none)
      match k.2.2 with
      | some o => (k.1, some (2, o))
      | none =>
        let g := dirRange e (min (u32 k.2.1 0) 1048576)
        let len := min g.2 (h.len - g.1)
        let t := k.1.readShard h r g.1 len
        match t.2.2 with
        | some o => (t.1, some (2, o))
        | none => (t.1, dirFault h.len (fun o m => if at_ ≤ o && o + m ≤ at_ + 32 then sub e (o - at_) m else sub t.2.1 (o - g.1) m) at_)

/-- The entries of a directory in turn; the first fault ends the scan. -/
def State.scanDir (s : State) (h : Shard) : List Nat → State × Option (Nat × Nat)
  | [] => (s, none)
  | i :: is => match s.scanEntry h i with
    | (s, none) => s.scanDir h is
    | q => q

/-- The scan ends: the shard is loaded, or quarantined with DIRECTORY, RESIDUAL or, where it met poison, POISON (R314, R315;
log entry 21). -/
def State.scanEnd (s : State) (id : Nat) : State :=
  match s.shard? id with
  | none => s
  | some h =>
    if s.pwr.coolstop || h.state != 1 || !h.scanning then s
    else match s.scanDir h (List.range h.dirCount) with
      | (s, some f) => s.quarantine id f.1 (some f.2)
      | (s, none) =>
        ((s.modShard id fun h => { h with state := 2, scanning := false, lines := [], ready := [] }).complete (.shard id)
          (ans stDone)).idle h.ctx

/-- The directory scan and the residual checks of a shard end (R95, R314). -/
def execResidualScanComplete (shard : Nat) (s : State) : Host.Outcome State Fault Refusal :=
  settle s (s.whenAlive (s.scanEnd shard))

/-- LOAD_TIMEOUT passed without a completed chunk of a host load (R308, R315); it does not run in a coolant stop (R319). -/
def execShardLoadTimeout (shard : Nat) (s : State) : Host.Outcome State Fault Refusal :=
  settle s (s.whenAlive (match s.shard? shard with
    | some h => if h.hostLoad && !h.scanning && !s.pwr.coolstop then (s.quarantine shard 6 none).idle h.ctx else s
    | none => s))

/-! ## Rechecks (R317) -/

/-- The chunks of a recheck that are not hashed yet; `fuel` at most. -/
def State.hashRest (s : State) (id : Nat) : Nat → State
  | 0 => s
  | fuel + 1 => match s.shard? id with
    | some h => if h.state = 3 && h.leaves.length < h.chunks then (s.hashChunk id h.leaves.length maintReader).hashRest id fuel else s
    | none => s

/-- The verdict of a recheck whose last chunk is hashed (R315, R317). -/
def State.recheckVerdict (s : State) (id : Nat) : State :=
  match s.shard? id with
  | none => s
  | some h =>
    if h.state != 3 then s
    else if h.rootOk then
      (s.modShard id fun h => { h with state := 2, rechecks := min 255 (h.rechecks + 1) }).endMaint actRecheck (ans stDone)
    else s.quarantine id 1 none

/-- A recheck ends: the root matches and the shard stays usable, or it is quarantined; the class is released (R315, R317). -/
def State.recheckEnd (s : State) : State :=
  match s.holder? 0 with
  | none => s
  | some m =>
    if m.activity != actRecheck || s.pwr.coolstop then s
    else
      match s.shard? m.arg with
      | none => s.endMaint actRecheck (ans stState)
      | some h => (s.hashRest m.arg h.chunks).recheckVerdict m.arg

/-- A digest recheck ends (R317, R419). -/
def execRecheckComplete (s : State) : Host.Outcome State Fault Refusal := settle s (s.whenAlive s.recheckEnd)

end Sys2Proof.Machine
end

