-- ==== Sys2Proof/Machine/ProgramCmds.lean ====
section
/-! DEFINITION. Programs: the load, the checks of an image in their fixed order, and the query (R27, R73, R97, R98, R145,
R276, R298). -/
namespace Sys2Proof.Machine

/-! ## Tables of an image -/

/-- A layer safeguard entry, with DEFAULTS resolved (R97, R98). -/
def parseGuard (b : Bytes) : Safeguard :=
  let f := u8 b 7
  if bit f 0 then
    { outGap := 4, ttK := 8, outBudget := 50, ttThr := 6, ttM := 2, ttN := 16, ttEnable := true, autoWiden := true,
      wideRows := bit f 3, relaxSteps := 4096 }
  else
    { outGap := u8 b 0, ttK := u8 b 1, outBudget := u16 b 2, ttThr := u8 b 4, ttM := u8 b 5, ttN := u8 b 6,
      ttEnable := bit f 1, autoWiden := bit f 2, wideRows := bit f 3, relaxSteps := u16 b 8 }

/-- A layer safeguard entry that R97 or R98 refuses. -/
def guardBad (b : Bytes) : Bool :=
  let f := u8 b 7
  decide (16 ≤ f) || !allZero (sub b 10 6) ||
  (if bit f 0 then !allZero (b.take 7) || bits f 1 2 != 0 || u16 b 8 != 0
   else decide (u8 b 0 < 1 ∨ 15 < u8 b 0) || decide (20 < u8 b 1) || decide (10000 < u16 b 2)
     || decide (u8 b 4 < 1 ∨ 24 < u8 b 4) || decide (u8 b 5 < 1 ∨ 64 < u8 b 5)
     || decide (u8 b 6 < u8 b 5 ∨ 64 < u8 b 6))

/-- A layer attention entry (R145). -/
def parseAttn (b : Bytes) : LayerAttn :=
  { attn := bit (u8 b 6) 0, window := u16 b 0, sink := u16 b 2, pageLayer := u16 b 4, globalEn := bit (u8 b 6) 1,
    exclSelf := bit (u8 b 6) 2, hg := u8 b 7, scale := BitVec.ofNat 32 (u32 b 8) }

/-- A layer attention entry that R145 refuses on its own. -/
def attnBad (b : Bytes) : Bool :=
  let e := parseAttn b
  decide (8 ≤ u8 b 6) || !allZero (sub b 12 4) ||
  (if e.attn then decide (32768 < e.window) || decide (1024 < e.sink) || decide (e.hg < 1 ∨ 16 < e.hg)
      || !fpIsFinite e.scale || !fpLt fpZero e.scale
   else !allZero (b.take 12))

/-! ## Reasons of PROGRAM_INVALID, each the lowest offset of a fault (R276) -/

/-- The least offset of the items that are faulty. -/
def leastBad (l : List (Nat × Bool)) : Option Nat :=
  match (l.filter (·.2)).map (·.1) with
  | [] => none
  | x :: xs => some (xs.foldl min x)

/-- The scratchpad regions of a live list; the reserved bits of an entry are ignored (R8, R298). -/
def liveRegions (l : Config.ImageLive) : List (Nat × Nat) := l.entries.map fun e => (u32 e 0 % 2 ^ 27, u32 e 4 % 2 ^ 24)

/-- A live list that R298 refuses for a reason other than the placement. -/
def liveBad (preemptible : Bool) (l : Config.ImageLive) : Bool :=
  ((liveRegions l).any fun r => r.1 % 128 != 0 || r.2 % 128 != 0 || r.2 == 0 || decide (sliceSize < r.1 % sliceSize + r.2))
  || anyOverlap (liveRegions l) || decide (256 < l.entries.length)
  || (!preemptible && l.boundary && !l.entries.isEmpty)

/-- FORMAT (R27). -/
def imgFormat (p : Config.ImageParts) : Option Nat := leastBad (p.formats.map fun f => (f.1, !f.2))

/-- LAYER_TABLE (R97, R98): an entry is refused, LAYER_COUNT is out of range, or a call's LAYER is not below it. -/
def imgLayers (p : Config.ImageParts) : Option Nat :=
  let n := p.guards.length
  leastBad ((p.guards.map fun g => (g.1, guardBad g.2 || decide (4096 < n)))
    ++ (if n = 0 then [(0, true)] else [])
    ++ p.calls.map fun c => (c.off, match c.layer with | some l => decide (n ≤ l) | none => false))

/-- An attention layer has its page layer in the record of every mast it runs on (R145). -/
def pageLayerOk (x : Ctx) (m l : Nat) : Bool := match tget x.kv m with | some k => decide (l < k.layers) | none => false

/-- ATTN_TABLE (R145). -/
def imgAttn (x : Ctx) (p : Config.ImageParts) : Option Nat :=
  let es := p.attn.map fun a => parseAttn a.2
  leastBad ((enum p.attn).map fun a =>
    let e := parseAttn a.2.2
    (a.2.1, attnBad a.2.2 || p.attn.length != p.guards.length
      || (e.attn && ((es.take a.1).any (fun d => d.attn && d.pageLayer == e.pageLayer)
            || p.calls.any (fun c => c.unit == 4 && c.layer == some a.1 && !pageLayerOk x c.mast e.pageLayer)))))

/-- FENCED_MAST (R73). -/
def imgFenced (s : State) (p : Config.ImageParts) : Option Nat := leastBad (p.calls.map fun c => (c.off, s.fencedMast c.mast))

/-- PLACEMENT: work outside the context's placement, or a live region outside it (R276, R286, R298). -/
def imgPlace (x : Ctx) (p : Config.ImageParts) : Option Nat :=
  let out := fun (a b : Nat) => a &&& b != a
  leastBad ((p.calls.map fun c => (c.off, match tget x.places c.mast with
      | none => true
      | some q => out c.me q.me || out c.ae q.ae || out c.vu q.vu || out c.units q.units))
    ++ p.live.map fun l => (l.off, (liveRegions l).any fun r => !x.sliceOk l.mast r.1 r.2))

/-- IMAGE beyond the structure: the live lists (R298). -/
def imgLive (x : Ctx) (p : Config.ImageParts) : Option Nat := leastBad (p.live.map fun l => (l.off, liveBad x.preemptible l))

/-- The first of a list of (reason, offset of its first fault). -/
def firstReason : List (Nat × Option Nat) → Option (Nat × Nat)
  | [] => none
  | (r, some o) :: _ => some (r, o)
  | (_, none) :: l => firstReason l

/-- The first reason for which an image is refused, in the order of R276: IMAGE, then FORMAT to PLACEMENT. -/
def State.imageFault (s : State) (x : Ctx) (p : Config.ImageParts) : Option (Nat × Nat) :=
  firstReason [(6, imgLive x p), (1, imgFormat p), (2, imgLayers p), (3, imgAttn x p), (4, imgFenced s p), (5, imgPlace x p)]

/-- The program that an accepted image is. -/
def progOf (p : Config.ImageParts) : Prog :=
  { guards := p.guards.map fun g => parseGuard g.2, attn := p.attn.map fun a => parseAttn a.2,
    live := p.live.map fun l => { cleat := l.cleat, mast := l.mast, regions := liveRegions l }, shards := p.shards,
    attnOn := (p.calls.filterMap fun c => if c.unit = 4 then c.layer.map fun l => (c.mast, l) else none).eraseDups }

/-! ## PROG_LOAD -/

/-- Checks 10 to 14 of PROG_LOAD (R271, R276). -/
def progLoadChecks (r : Req) (s : State) : List (Bool × Ans) :=
  let p := dptr (a0 r)
  let n := a1 r
  dptrChecks s r (lowMask 64) 1 1 ++
     [(n == 0 || decide (2 ^ 32 ≤ n), refuse stBadArgument 24),
      (p.space == 0 && decide (dramSize < p.off + n), refuse stBadArgument 16), noCtx s r,
      (!s.ptrGranted r n, ans stNotPermitted), ctxStateCheck s r, fencedPtr s r]

def progLoadAct (r : Req) (s : State) : State × Ans :=
  guardAct (progLoadChecks r s) s (s.owe 0x0401 r (.prog (a0 r) (a1 r)), ans stAccepted)

def progLoadCmd : Cmd := { opcode := 0x0401, device := false, lenOk := noPayload, act := progLoadAct }

/-- PROG_LOAD: an image in the context's memory is accepted for its checks (R276). -/
def execProgLoad (r : Req) (s : State) : Host.Outcome State Fault Refusal := stauc progLoadCmd r s

/-- The image that a context's first outstanding PROG_LOAD names. -/
def State.progOwed (s : State) (c : Nat) : Option (Nat × Nat) :=
  s.st.outstanding.findSome? fun o => if o.ctx = c then (match o.what with | .prog a n => some (a, n) | _ => none) else none

/-- An image that has passed becomes the program that takes effect at the next step boundary or unfurl; any other is
refused (R276). -/
def State.progTake (s : State) (c a n : Nat) (img : Bytes) : State :=
  let done := fun (s : State) r => s.completeOf c (.prog a n) r
  let invalid := fun (reason off : Nat) => { status := stProgramInvalid, hi := 0, arg1 := reason + off % 2 ^ 32 * 65536, parts := [] }
  match s.ctx? c with
  | none => s
  | some x =>
    match Config.parseImage img with
    | .error o => done s (invalid 6 o)
    | .ok p =>
      match s.imageFault x p with
      | some f => done s (invalid f.1 f.2)
      | none => (done (s.modCtx c fun x => { x with nextProg := some (progOf p) }) (ans stDone)).idle c

/-- An image that has been read is taken, or refused for its first undeliverable byte (R219, R276). -/
def State.progRead (c a n : Nat) (p : Dptr) (q : State × Bytes × Option (Nat × Nat)) : State :=
  match q.2.2 with
  | none => q.1.progTake c a n q.2.1
  | some e =>
    (if p.space = 0 then q.1.hostPoison c p.mast (e.2 / 64, e.1) else q.1.ioFail c p.mast noUnit e).completeOf c (.prog a n)
      { status := stPoison, hi := 0, arg1 := lostAt (e.2 / 64) p.off % 2 ^ 32 * 65536, parts := [] }

/-- The checks of an image end (R276): it is read as a command of the host reads. -/
def State.progChecked (s : State) (c : Nat) : State :=
  match s.progOwed c with
  | none => s
  | some (a, n) =>
    let p := dptr a
    if s.fencedMast p.mast then s.completeOf c (.prog a n) (ans stFenced)
    else if s.pwr.coolstop then s
    else State.progRead c a n p (s.readAt p.mast (hostReader c) (p.space * 2 ^ 48 + p.off) n)

/-- The checks of a program image end (R276). -/
def execProgCheckComplete (ctx : Nat) (s : State) : Host.Outcome State Fault Refusal :=
  settle s (s.whenAlive (s.progChecked ctx))

/-! ## PROG_QUERY -/

/-- The program a context has loaded: the one that is about to take effect, else the running one (R276). -/
def Ctx.loaded (x : Ctx) : Option Prog := match x.nextProg with | some p => some p | none => x.prog

def progQueryAct (r : Req) (s : State) : State × Ans :=
  guardAct [argRsv r 0 0, noCtx s r, ctxStateCheck s r] s
    (s, match (s.ctx? r.ctx.toNat).bind Ctx.loaded with
        | some p => done1 (p.guards.length + 8192)
        | none => done1 0)

def progQueryCmd : Cmd := { opcode := 0x0402, device := false, lenOk := noPayload, act := progQueryAct }

/-- PROG_QUERY: LAYER_COUNT and LOADED (R276). -/
def execProgQuery (r : Req) (s : State) : Host.Outcome State Fault Refusal := stauc progQueryCmd r s

end Sys2Proof.Machine
end

