-- ==== Sys2Proof/Machine/Requests.lean ====
section
/-! DEFINITION. Requests by their opcode: the table of all commands, the requests that wait on a channel, and what leaves a
channel when credits allow (R263, R265, R268, R283). -/
namespace Sys2Proof.Machine

/-- The commands of R272 to R282. -/
def allCmds : List Cmd :=
  [helloCmd, devConfigCmd, markCmd, echoCmd, regReadCmd, regWriteCmd]
  ++ [ctxCreateCmd, ctxUnfurlCmd, ctxFurlCmd, ctxDestroyCmd, ctxQueryCmd, ctxPriorityCmd]
  ++ [memGrantCmd, memReleaseCmd, memWriteCmd, memReadCmd, shardLoadCmd, shardDropCmd, shardQueryCmd]
  ++ [progLoadCmd, progQueryCmd]
  ++ [reqSubmitCmd, reqCancelCmd, reqParkCmd, reqResumeCmd, reqReleaseCmd]
  ++ [sessionOpenCmd, sessionCloseCmd, sessionShareCmd, sessionTruncateCmd, sessionGlobalsCmd, sessionQueryCmd]
  ++ [kvExportCmd, mirrorSetCmd, mirrorPromoteCmd, serveConfigCmd]
  ++ [linkTrainCmd, linkStopCmd, planLoadCmd, partitionSetCmd, windowMapCmd, groupLoadCmd, groupUnloadCmd]
  ++ [capSetCmd, powerHintCmd, reefLimitCmd, coolResumeCmd]
  ++ [ctrReadCmd, ctrProgramCmd, ctrGrantCmd, telemetryCmd]
  ++ [attestCmd, certReadCmd, linkKeyCmd, svnCommitCmd]
  ++ [maintStartCmd, maintQueryCmd, logReadCmd]

/-- The command of an opcode; none where no table defines it (R265 check 6). -/
def cmdOf (opcode : Nat) : Option Cmd := allCmds.find? fun k => k.opcode == opcode

/-- A request of any opcode is examined. -/
def State.examineOp (s : State) (opcode : Nat) (r : Req) : State :=
  match cmdOf opcode with
  | some k => examine k r s
  | none => examineUnknown opcode r s

/-- A reassembled request of any opcode arrives on its channel: it is examined at once, or waits (R263, R268). -/
def State.receiveOp (s : State) (opcode : Nat) (r : Req) : State :=
  let s := s.arrive r
  if !(s.chan r.flitCh).waiting.isEmpty || s.blocked r then
    s.modChan r.flitCh fun c => { c with waiting := c.waiting ++ [(opcode, r, s.st.current)] }
  else s.examineOp opcode r

/-- The requests that wait on channel `c` are examined in their order until one must wait on; `fuel` at most
(R263, R268). -/
def State.drainWaiting (s : State) (c : Nat) : Nat → State
  | 0 => s
  | fuel + 1 =>
    match (s.chan c).waiting with
    | [] => s
    | e :: rest =>
      if s.blocked e.2.1 then s
      else
        let s := s.modChan c fun x => { x with waiting := rest }
        (State.examineOp { s with st := { s.st with current := e.2.2 } } e.1 e.2.1).drainWaiting c fuel

/-- Every channel's waiting requests are looked at (log entry 35). -/
def State.drainAll (s : State) : State :=
  (List.range 8).foldl (fun (s : State) c => s.drainWaiting c (s.chan c).waiting.length) s

/-! ## What leaves a channel (R268, R283) -/

/-- The oldest answer of a channel that may go out does so. -/
def State.sendAnswer (s : State) (c : Nat) : State :=
  let s := s.pump c 1
  s.drainWaiting c (s.chan c).waiting.length

/-- ANSWER_SEND: an answer that waited for host credits is sent on its channel (R261, R268). -/
def execAnswerSend (ch : Nat) (s : State) : Host.Outcome State Fault Refusal :=
  onChannel ch s (s.whenAlive (s.sendAnswer ch))

/-- The packet of a queued notice (R283); `dropped` is what EVENT reports. -/
def Notice.packet (n : Notice) (ch dropped : Nat) : Pkt :=
  match n with
  | .event r =>
    { kind := 2, silent := false, keepTag := false, opcode := 0x0181, tag := 0, ctx := 0, channel := ch, more := false,
      arg0 := dropped, arg1 := 0, payload := r.image }
  | .ctxTorn c cause step =>
    { kind := 2, silent := false, keepTag := false, opcode := 0x0281, tag := 0, ctx := c, channel := ch, more := false,
      arg0 := cause, arg1 := step, payload := [] }
  | .portEvent p ev =>
    { kind := 2, silent := false, keepTag := false, opcode := 0x0681, tag := 0, ctx := 0, channel := ch, more := false,
      arg0 := p + ev * 256, arg1 := 0, payload := [] }

/-- The count of dropped notices starts anew once an EVENT has reported it (R283). -/
def Notice.reported (n : Notice) (dropped : Nat) : Nat := match n with | .event _ => 0 | _ => dropped

/-- The oldest queued notice goes out on EVENT_CH as that stands now; before negotiation it waits (R270, R283). -/
def State.sendNotice (s : State) : State :=
  match s.st.notices with
  | [] => s
  | n :: rest =>
    let c := s.st.eventCh
    let p := n.packet c s.st.dropped
    if s.st.negotiated && !s.bundleBusy c && !s.answerBusy c && s.canSend c p.payload.length then
      State.transmit { s with st := { s.st with notices := rest, dropped := n.reported s.st.dropped } } p
    else s

/-- EVENT_NOTICE_SEND: a queued EVENT, CTX_TORN or PORT_EVENT notice goes out (R283). -/
def execEventNoticeSend (s : State) : Host.Outcome State Fault Refusal := settle s (s.whenAlive s.sendNotice)

end Sys2Proof.Machine
end

