-- ==== Sys2Proof/Machine/Clock.lean ====
section
/-! DEFINITION. The clock: what one microsecond of package time does when no command waits. -/
namespace Sys2Proof.Machine

/-- TIME rises and the heartbeat grows older while the Crow's Nest has power (R386, R400, R456). -/
def State.microsecond (s : State) : State :=
  if s.cn.powered then { s with time := (s.time + 1) % 2 ^ 64, pwr := { s.pwr with hbAge := s.pwr.hbAge + 1 } } else s

/-! ## Clock edges and cycles of waiting (R378, R387, R446, R447)

How many edges fall in a microsecond, and how many of them a unit spends waiting, is timing: each count is a free value
(DESIGN CHOICE, log entry 68). -/

/-- A free number of occurrences on a mast. -/
def State.cyclesM (s : State) (m : Nat) (o : Nat → Occ) : State := (s.countM m (o s.freeNat)).drawn

/-- A free number of occurrences on the hub. -/
def State.cyclesH (s : State) (o : Nat → Occ) : State := (s.countH (o s.freeNat)).drawn

/-- The cycles a context's units wait on a mast: its engines under a grouped call, its attention engines, and the routing unit
where its placement has it (R54, R140, R154). A context that cannot run there, because it holds no engines or is at its cleat,
and frozen calls wait for nothing (R295, R297, R394). -/
def State.waitM (m : Nat) (s : State) (e : Nat × Ctx) : State :=
  if !s.canRun e.1 m || s.frozen e.1 then s
  else
    let busy := (s.mast m).calls.filter fun r => r.ctx == e.1 && r.kind == .grouped
    let s := (busy.flatMap fun r => bitsSet r.mask 16).foldl (fun (s : State) i => s.cyclesM m fun n => occ 0x012 n 1 e.1 i) s
    let s := (bitsSet (e.2.aePlace m) 2).foldl (fun (s : State) i => s.cyclesM m fun n => occ 0x041 n 1 e.1 (0x10 + i)) s
    if (tget e.2.places m).any fun p => bit p.units 0 then s.cyclesM m fun n => occ 0x037 n 1 e.1 0x16 else s

/-- A mast's AK edges, of which a coolant stop has none (R394): those delivered, those suppressed while fewer than sixteen
sixteenths are, and those waited. -/
def State.edgesM (s : State) (m : Nat) : State :=
  if !s.present m || s.pwr.coolstop then s
  else
    let s := s.cyclesM m fun n => occ 0x000 n 0 0 0x18
    let s := if s.pwr.edges < 16 then s.cyclesM m fun n => occ 0x001 n 0 0 0x18 else s
    s.ctxs.foldl (State.waitM m) s

/-- The cycles a context's step that is due waits for its transmit queue of four, and its mirror for room in the ring (R194,
R201). -/
def State.waitH (s : State) (e : Nat × Ctx) : State :=
  let s := if s.stepDue e.1 e.2 && decide (4 ≤ e.2.txq.length) then s.cyclesH fun n => occ 0x011 n 0 e.1 0x00 else s
  if e.2.mirror.backlog.isEmpty then s else s.cyclesH fun n => occ 0x012 n 0 e.1 0x00

/-- The cycles of a microsecond, while the masts are powered. -/
def State.cycles (s : State) : State :=
  if s.cn.mastRails && !s.flt.fatal then s.ctxs.foldl State.waitH ((List.range 8).foldl State.edgesM s) else s

/-- One microsecond with no command (DESIGN CHOICE, log entry 1): time passes, clocks run, requests that may be examined by
now are (R263), and contexts with no step in progress run their boundary again (R489). -/
def tick (s : State) : State :=
  let t := s.microsecond.cycles
  { t.whenAlive t.drainAll.idleAll with pending := s.pending }

end Sys2Proof.Machine
end

