-- ==== Sys2Proof/Machine/RoutingCalls.lean ====
section
/-! DEFINITION. Routing, intake and combine calls (R115 to R138). Each is atomic at its issue. -/
namespace Sys2Proof.Machine

/-! ## Shared -/

def State.rtuErr (s : State) (m : Nat) (w : Word) : State :=
  s.modMast m fun z => { z with rtu := { z.rtu with err := z.rtu.err ||| w } }

/-- An occurrence of the routing unit. -/
def rtuOcc (ev n c : Nat) : Occ := occ ev n 1 c 0x16

/-- Flags of RTU_ERR by cause (R144). -/
def rtuFlag (cause : Nat) : Word :=
  if cause = 0x1101 ∨ cause = 0x1108 then 1 else if cause = 0x1102 then 2 else if cause = 0x1103 then 4
  else if cause = 0x1104 ∨ cause = 0x1105 then 0x20 else if cause = 0x1107 then 0x80 else 0

/-- A call of the routing unit fails. -/
def State.rtuFail (s : State) (m : Nat) (r : Record) : State := (s.rtuErr m (rtuFlag r.cause)).contained { r with cls := clsUC }

/-- The regions of a call lie in the context's memory. -/
def State.allIn (s : State) (c m : Nat) (rs : List (Nat × Nat)) : Bool := rs.all fun r => s.ptrIn c m r.1 r.2

/-- The routing unit takes a call of a context now: it can start, and the unit is in the context's placement on the mast.
One whose placement has no routing unit there is not taken (R286; log entry 79). -/
def State.rtuTakes (s : State) (c m desc : Nat) : Bool :=
  s.canStart c m desc && (match s.ctx? c with
    | none => false
    | some x => match tget x.places m with | some p => p.units == 1 | none => false)

/-- A descriptor of the routing unit is read; a fault of its place is the descriptor cause. -/
def State.rtuDesc (s : State) (c m cause desc len : Nat) (f : State → Bytes → State) : State :=
  let s := if s.descFault c m desc len then s.rtuErr m (rtuFlag cause) else s
  s.atOnce c m cause desc len f

/-! ## Scores, gates and placement (R121 to R127): pure -/

/-- R121: the logit that is used, and whether it was substituted. -/
def cleanLogit (w : Word) : Word × Bool :=
  match ofFp w with
  | .nan => (fpNegInf, true)
  | .inf false => (0x7F7FFFFF#32, true)
  | .inf true => (fpNegInf, false)
  | _ => (w, false)

/-- An expert's parameters (R118). -/
structure ExpertPar where
  bias : Word
  cap  : Nat
  deriving DecidableEq, Repr

/-- The eligible experts of a token with their selection scores, in index order (R122). -/
def eligible (ps : List ExpertPar) (ls : List Word) : List (Nat × Word) :=
  ((enum (ps.zip ls)).map fun e => (e.1, e.2.1.cap, fpAdd e.2.2 e.2.1.bias)).filterMap fun e =>
    if 0 < e.2.1 ∧ e.2.2 ≠ fpNegInf then some (e.1, e.2.2) else none

/-- The preference list (R122). -/
def preference (el : List (Nat × Word)) : List Nat :=
  (sortBy (fun (a b : Nat × Word) => decide (fpKey b.2 ≤ fpKey a.2)) el).map (·.1)

/-- The base gate value of every expert of a token (R123). `l`: logits; `el`: eligible experts ascending. -/
def baseGate (fn : Nat) (l : Nat → Word) (el : List Nat) (e : Nat) : Word :=
  let m := match el with | [] => fpZero | x :: xs => xs.foldl (fun a j => fpMax a (l j)) (l x)
  let ex := fun j => fpExp (fpSub (l j) m)
  if fn = 1 then fpDiv fpOne (fpAdd fpOne (fpExp (l e ^^^ 0x80000000#32)))
  else if fn = 2 then ex e
  else fpDiv (ex e) (el.foldl (fun a j => fpAdd a (ex j)) fpZero)

/-- A slot while it is placed: its expert and STATUS 0 primary, 1 fallback, 2 shed (R124). -/
structure Placed where
  expert : Nat
  status : Nat
  deriving DecidableEq, Repr

/-- The search for a fallback: the candidate with room within `tries`, and the cursor after it (R124, R125). -/
def fallbackFor (room : Nat → Bool) (p : List Nat) : Nat → Nat → Option Nat × Nat
  | 0, cur => (none, cur)
  | tries + 1, cur => match p[cur]? with
    | none => (none, cur)
    | some e => if room e then (some e, cur + 1) else fallbackFor room p tries (cur + 1)

/-- Placement of slots `r` to `k - 1` of a token (R124). `n`: the counts. -/
def placeSlots (cap : Nat → Nat) (p : List Nat) (d : Nat) : List Nat → Nat → Tab Nat → List Placed × Tab Nat
  | [], _, n => ([], n)
  | r :: rs, cur, n =>
    let room := fun e => decide (tgetD n e 0 < cap e)
    let take := fun (e st cur : Nat) =>
      let q := placeSlots cap p d rs cur (tset n e (tgetD n e 0 + 1))
      (({ expert := e, status := st } : Placed) :: q.1, q.2)
    match (match p[r]? with | some e => if room e then some e else none | none => none) with
    | some e => take e 0 cur
    | none => match fallbackFor room p d cur with
      | (some e, cur) => take e 1 cur
      | (none, cur) =>
        let q := placeSlots cap p d rs cur n
        ({ expert := 0, status := 2 } :: q.1, q.2)

/-- Sum of FP32 values in their order. -/
def fpSum (l : List Word) : Word := l.foldl fpAdd fpZero

/-- The gate weights of a token's slots (R123, R127). -/
def gates (mode : Nat) (scale : Word) (g : Nat → Word) (prim : List Nat) (ps : List Placed) : List Word :=
  let sb := fpSum (prim.map g)
  let w := fun e => if bit mode 2 then fpDiv (g e) sb else g e
  let ws := ps.map fun x => if x.status = 2 then none else some (w x.expert)
  let ratio := fpDiv (fpSum (prim.map w)) (fpSum (ws.filterMap id))
  let re := bit mode 3 && ps.any fun x => x.status == 2
  ws.map fun x => match x with
    | none => fpZero
    | some v => fpMul (if re then fpMul v ratio else v) scale

/-- What a routing call forms, token by token: slots with their weights, final counts, tokens with a substitution. -/
structure Routed where
  slots : List Slot
  n     : Tab Nat
  subst : Nat
  all   : Nat       -- tokens with every slot shed

/-- One token (R121 to R127). -/
def routeToken (d : RouteDesc) (ps : List ExpertPar) (r : Routed) (raw : List Word) : Routed :=
  let cl := raw.map cleanLogit
  let ls := cl.map (·.1)
  let el := eligible ps ls
  let p := preference el
  let cap := fun e => match ps[e]? with | some x => x.cap | none => 0
  let q := placeSlots cap p d.depth (List.range d.topK) d.topK r.n
  let g := baseGate (d.mode % 4) (fun j => ls.getD j fpZero) (el.map (·.1))
  let ws := gates d.mode d.scale g (p.take d.topK) q.1
  let slots := (q.1.zip ws).map fun x => ({ gate := x.2, expert := x.1.expert, status := x.1.status, arrived := false } : Slot)
  { slots := r.slots ++ slots, n := q.2, subst := r.subst + b2n (cl.any (·.2)),
    all := r.all + b2n (slots.all fun x => x.status == 2) }

/-! ## The routing call (R116 to R129) -/

/-- The descriptor check of R120 and R98. -/
def State.routeOk (s : State) (c m : Nat) (d : RouteDesc) : Bool :=
  !d.rsv && (s.guardOf c d.layer).isSome && decide (1 ≤ d.count ∧ d.count ≤ 32768) && decide (1 ≤ d.experts ∧ d.experts ≤ 1024)
  && decide (1 ≤ d.topK ∧ d.topK ≤ 16 ∧ d.topK ≤ d.experts) && decide (d.depth ≤ 4) && d.mode % 4 != 3
  && fpIsFinite d.scale && fpLt fpZero d.scale
  && s.allIn c m [(d.tokens, 8 * d.count), (d.logits, 4 * d.count * d.rowLen), (d.params, 8 * d.experts),
       (d.map, 4 * d.experts), (d.assign, d.assignLen)]

/-- The order check of R120. -/
def orderOk (es : List Nat) : Bool := es.all (fun e => e / 2 ^ 37 == 0) && ascending (es.map keyOf)

/-- Expert `i`'s entry of the parameter table and of the map pass R120. DESIGN CHOICE (log entry 80): a fenced or absent mast
fails the check where the entry names this package; the masts of another package are not known here, and an entry that names
one passes. -/
def State.paramOk (s : State) (pb mb : Bytes) (i : Nat) : Bool :=
  let cap := u16 pb (8 * i + 4)
  let w := u32 mb (4 * i)
  fpIsFinite (BitVec.ofNat 32 (u32 pb (8 * i))) && decide (cap ≤ 32768) && u16 pb (8 * i + 6) == 0
  && (cap == 0 || (bits w 24 8 == 0 && bits w 3 13 == 0 && (mapPkg w != s.nlc.ownIndex || s.mastUp (mapMast w))))

/-- The record and count array, and what the call reports (R126, R128, R143). `keys`: of the token list. -/
def State.routeWrite (s : State) (c m : Nat) (d : RouteDesc) (keys : List Nat) (r : Routed) : State :=
  let rd := control c 0x16
  s.withWrite c m noUnit rd d.assign (r.slots.flatMap Slot.image) fun s =>
  s.withWrite c m noUnit rd (d.assign + d.countOff) ((List.range d.experts).flatMap fun e => natLe 2 (tgetD r.n e 0)) fun s =>
    let shed := (r.slots.filter fun x => x.status == 2).length
    let fb := (r.slots.filter fun x => x.status == 1).length
    let s := (((s.countM m (rtuOcc 0x030 r.subst c)).countM m (rtuOcc 0x031 shed c)).countM m (rtuOcc 0x032 fb c)).countM m
      (rtuOcc 0x033 r.all c)
    let s := s.rtuErr m ((if r.subst = 0 then 0 else 8) ||| (if shed = 0 then 0 else 0x10))
    let s := if r.subst = 0 then s else s.limitRec c m noUnit d.layer 0x1109 .routeNonfinite
    s.modMast m fun z => { z with rtu := { z.rtu with
      last := tset z.rtu.last c { layer := d.layer, shed, fallback := fb, allShed := r.all },
      lists := (z.rtu.lists.filter fun l => !(l.ctx == c && l.assign == d.assign)) ++ [{ ctx := c, assign := d.assign, keys }] } }

/-- A routing call whose descriptor has been read. DESIGN CHOICE (log entry 106): the whole location map is copied, entries of disabled
experts among them (R118, R119). -/
def State.routeRun (s : State) (c m : Nat) (d : RouteDesc) : State :=
  let fail := fun (s : State) cause => s.rtuFail m { mkRec cause clsUC m noUnit c with layer := d.layer }
  let rd := control c 0x16
  if !s.routeOk c m d then fail s 0x1101
  else
    s.withRead c m noUnit rd d.tokens (8 * d.count) fun s tb =>
    if !orderOk (tokenList tb d.count) then fail s 0x1102
    else
      s.withRead c m noUnit rd d.params (8 * d.experts) fun s pb =>
      s.withRead c m noUnit rd d.map (4 * d.experts) fun s mb =>
      if !(List.range d.experts).all (s.paramOk pb mb) then fail s 0x1103
      else
        s.withRead c m noUnit (stream c 0x16) d.logits (4 * d.count * d.rowLen) fun s lb =>
        let ps := (List.range d.experts).map fun i =>
          ({ bias := BitVec.ofNat 32 (u32 pb (8 * i)), cap := u16 pb (8 * i + 4) } : ExpertPar)
        let rows := (List.range d.count).map fun i => (List.range d.experts).map fun e =>
          BitVec.ofNat 32 (u32 lb (4 * (i * d.rowLen + e)))
        s.routeWrite c m d ((tokenList tb d.count).map keyOf) (rows.foldl (routeToken d ps) { slots := [], n := [], subst := 0, all := 0 })

/-- ROUTING_CALL. -/
def execRoutingCall (c m desc : Nat) (s : State) : Host.Outcome State Fault Refusal :=
  onMast m s (s.whenAlive (
    if !s.rtuTakes c m desc then s
    else s.rtuDesc c m 0x1101 desc 64 fun s b => s.routeRun c m (parseRoute b)))

/-! ## The intake call (R132 to R134) -/

/-- Bytes of a row image of a dispatch: the smallest COUNT that holds it (R357). -/
def rowImageLen (fmt k : Nat) : Nat := if fmt = 0 then 2 * pad128 k else roundUp (pad128 k + pad128 k / 32) 128

/-- A received row: its record's number and its tag. -/
structure RecvRow where
  idx : Nat
  tag : Nat
  deriving DecidableEq, Repr

/-- The rows for an expert in the order of R133. -/
def rowsFor (rs : List RecvRow) (e : Nat) : List RecvRow :=
  sortBy (fun (a b : RecvRow) => decide (bits a.tag 0 59 ≤ bits b.tag 0 59)) (rs.filter fun r => tagExpert r.tag == e)

/-- A stray row (R134). -/
def strayIn (emap : Nat → Nat) (r : RecvRow) : Bool := emapIdx (emap (tagExpert r.tag)) == 0xFFFF || bits r.tag 61 3 != 0

/-- Check of an entry map (R132): indices within a table of 1,024 entries, ROWS_MAX from 1 to 32,768. -/
def emapOk (emap : Nat → Nat) : Bool :=
  (List.range 1024).all fun e => emapIdx (emap e) == 0xFFFF
    || (decide (emapIdx (emap e) < 1024) && decide (1 ≤ emapMax (emap e) ∧ emapMax (emap e) ≤ 32768))

/-- The rows of one expert, the first ROWS_MAX of them, go into its entry's region, with their tags and TOKENS (R133, R134). DESIGN
CHOICE (log entry 63): where two experts name one entry, the later one's rows stand. -/
def State.intakeExpert (c m : Nat) (d : IntakeDesc) (emap : Nat → Nat) (rs : List RecvRow) (a : State × Bool) (e : Nat) :
    State × Bool :=
  if !a.2 || emapIdx (emap e) == 0xFFFF then a
  else
    let s := a.1
    let rows := (rowsFor rs e).take (emapMax (emap e))
    let at_ := d.table + 32 * emapIdx (emap e)
    let rd := stream c 0x16
    let img := rowImageLen d.fmt d.k
    let kp := pad128 d.k
    let stop := fun (q : State × (Nat × Nat)) => (q.1.ioFail c m noUnit q.2, false)
    let out := fun (s : State) x =>
      (s.regionFail c m x fun s => s.rtuFail m { mkRec 0x1104 clsUC m noUnit c with layer := d.layer }, false)
    if !s.inMem c m at_ 32 then out s at_
    else match s.fetch m (control c 0x16) at_ 32 with
    | (s, .error x) => stop (s, x)
    | (s, .ok eb) =>
      let act := u64 eb 8
      let tags := tagArrayOff d.fmt d.k (emapMax (emap e))
      if rows.length ≠ 0 ∧ !s.ptrIn c m act (tags + 8 * emapMax (emap e)) then out s act
      else
        let got := rows.foldl (fun (b : State × Except (Nat × Nat) (List Bytes)) r => match b.2 with
          | .error _ => b
          | .ok l => match b.1.fetch m rd (d.recv + 128 + r.idx * (128 + img) + 128) img with
            | (s, .error x) => (s, .error x)
            | (s, .ok x) => (s, .ok (l ++ [x]))) (s, .ok [])
        match got with
        | (s, .error x) => stop (s, x)
        | (s, .ok imgs) =>
          let elems := imgs.flatMap fun x => x.take (if d.fmt = 0 then 2 * kp else kp)
          let scales := if d.fmt = 0 then [] else imgs.flatMap fun x => sub x kp (kp / 32)
          match s.writeAt m rd act elems with
          | (s, some x) => stop (s, x)
          | (s, none) => match s.writeAt m rd (act + roundUp (rows.length * kp) 128) scales with
            | (s, some x) => stop (s, x)
            | (s, none) => match s.writeAt m rd (act + tags) (rows.flatMap fun r => natLe 8 r.tag) with
              | (s, some x) => stop (s, x)
              | (s, none) => match s.writeAt m (control c 0x16) (at_ + 2) (natLe 2 rows.length) with
                | (s, some x) => stop (s, x)
                | (s, none) => (s, true)

/-- The received rows are taken in: those that are neither stray nor beyond ROWS_MAX are placed, and where some are, the call fails
(R133, R134). -/
def State.intakeRows (s : State) (c m : Nat) (d : IntakeDesc) (emap : Nat → Nat) (rs : List RecvRow) : State :=
  let live := rs.filter fun r => !tagPad r.tag
  let s := s.countM m (rtuOcc 0x034 (rs.length - live.length) c)
  let stray := live.filter (strayIn emap)
  let good := live.filter fun r => !strayIn emap r
  let surplus := (List.range 1024).flatMap fun e => (rowsFor good e).drop (emapMax (emap e))
  let lost := stray ++ surplus
  let s := s.countM m (rtuOcc 0x035 lost.length c)
  let q := (List.range 1024).foldl (State.intakeExpert c m d emap good) (s, true)
  if lost.isEmpty || !q.2 then q.1
  else
    q.1.rtuFail m { mkRec 0x1105 clsUC m noUnit c with
      layer := d.layer, info0 := minD (lost.map fun r => tagExpert r.tag) 0, info1 := maxD (lost.map fun r => tagPkg r.tag) 0 }

/-- An intake call whose descriptor has been read. DESIGN CHOICE (log entry 106): a K outside its range is a fault of the descriptor
(R132). -/
def State.intakeRun (s : State) (c m : Nat) (d : IntakeDesc) : State :=
  let bad := fun (s : State) => s.rtuFail m { mkRec 0x1104 clsUC m noUnit c with layer := d.layer }
  if d.rsv || decide (1 < d.fmt) || d.k = 0 || decide (262144 < d.k) || (s.guardOf c d.layer).isNone
      || !ptrOk d.table then bad s
  else s.withRegions c m [(d.recv, 128), (d.emap, 4096)] bad fun s =>
    s.withRead c m noUnit (control c 0x16) d.emap 4096 fun s eb =>
    let emap := fun e => u32 eb (4 * e)
    if !emapOk emap then bad s
    else
      s.withRead c m noUnit (stream c 0x16) d.recv 128 fun s hb =>
      let n := u32 hb 0
      let img := rowImageLen d.fmt d.k
      if !s.inMem c m d.recv (128 + n * (128 + img)) then s.regionFail c m d.recv bad
      else
        let tags := (List.range n).foldl (fun (a : State × Except (Nat × Nat) (List RecvRow)) i => match a.2 with
          | .error _ => a
          | .ok l => match a.1.fetch m (stream c 0x16) (d.recv + 128 + i * (128 + img)) 8 with
            | (s, .error x) => (s, .error x)
            | (s, .ok b) => (s, .ok (l ++ [{ idx := i, tag := u64 b 0 }]))) (s, .ok [])
        match tags with
        | (s, .error x) => s.ioFail c m noUnit x
        | (s, .ok rs) => s.intakeRows c m d emap rs

/-- INTAKE_CALL. -/
def execIntakeCall (c m desc : Nat) (s : State) : Host.Outcome State Fault Refusal :=
  onMast m s (s.whenAlive (
    if !s.rtuTakes c m desc then s
    else s.rtuDesc c m 0x1104 desc 32 fun s b => s.intakeRun c m (parseIntake b)))

/-! ## The combine call (R135 to R138) -/

/-- A combine call descriptor (R137). Its reserved bits are ignored: the rule lists no check of them (R8). -/
structure CombineDesc where
  assign : Nat
  ret    : Nat
  out    : Nat
  n      : Nat
  count  : Nat
  topK   : Nat
  inBf   : Bool
  outBf  : Bool
  accum  : Bool
  deriving DecidableEq, Repr

/-- R137. DESIGN CHOICE (log entry 105): the descriptor has no LAYER, so none is checked (R98). -/
def parseCombine (b : Bytes) : CombineDesc :=
  { assign := ptrAt b 0, ret := ptrAt b 8, out := ptrAt b 16, n := u32 b 24, count := u16 b 28, topK := u8 b 30 % 32,
    inBf := bit (u8 b 31) 0, outBf := bit (u8 b 31) 1, accum := bit (u8 b 31) 2 }

/-- Bytes of a result row and of an output row. -/
def CombineDesc.inRow (d : CombineDesc) : Nat := pad128 d.n * (if d.inBf then 2 else 4)
def CombineDesc.outRow (d : CombineDesc) : Nat := pad128 d.n * (if d.outBf then 2 else 4)

/-- The fields of a combine call are in their ranges (R137). -/
def CombineDesc.ok (d : CombineDesc) : Bool :=
  !(d.accum && d.outBf) && decide (1 ≤ d.n ∧ d.n ≤ 262144) && decide (1 ≤ d.count ∧ d.count ≤ 32768)
  && decide (1 ≤ d.topK ∧ d.topK ≤ 16)

/-- The regions of a combine call. -/
def CombineDesc.regions (d : CombineDesc) : List (Nat × Nat) :=
  [(d.assign, 8 * d.count * d.topK), (d.ret, d.count * d.topK * d.inRow), (d.out, d.count * d.outRow)]

/-- An element of a row of words. -/
def rowElem (bf : Bool) (b : Bytes) (j : Nat) : Word :=
  if bf then BitVec.ofNat 32 (u16 b (2 * j) * 65536) else BitVec.ofNat 32 (u32 b (4 * j))

/-- One output element (R138): `start`, then GATE × o for every slot that is not shed. -/
def combineElem (start : Word) (terms : List (Word × Word)) : Word :=
  terms.foldl (fun y t => fpAdd y (fpMul t.1 t.2)) start

/-- The output row of a token: gates with result rows, ascending rank, and the existing row (R138). -/
def combineRow (d : CombineDesc) (old : Bytes) (parts : List (Word × Bytes)) : Bytes :=
  (List.range (pad128 d.n)).flatMap fun j =>
    let y := if j < d.n then combineElem (if d.accum then rowElem false old j else fpZero)
        (parts.map fun p => (p.1, rowElem d.inBf p.2 j))
      else fpZero
    if d.outBf then natLe 2 (toBf (ofFp y)) else natLe 4 y.toNat

/-- The result rows of a token's slots. -/
def State.resultRows (s : State) (c m : Nat) (d : CombineDesc) (i : Nat) : List (Nat × Slot) →
    State × Except (Nat × Nat) (List (Word × Bytes))
  | [] => (s, .ok [])
  | (r, sl) :: rest =>
    if sl.status = 2 then s.resultRows c m d i rest
    else match s.fetch m (stream c 0x16) (d.ret + (i * d.topK + r) * d.inRow) d.inRow with
      | (s, .error x) => (s, .error x)
      | (s, .ok b) => match s.resultRows c m d i rest with
        | (s, .error x) => (s, .error x)
        | (s, .ok l) => (s, .ok ((sl.gate, b) :: l))

/-- One token's row is formed and written. -/
def State.combineToken (c m : Nat) (d : CombineDesc) (slots : List Slot) (a : State × IoErr) (i : Nat) : State × IoErr :=
  match a.2 with
  | some _ => a
  | none =>
    let own := enum ((slots.drop (i * d.topK)).take d.topK)
    match a.1.resultRows c m d i own with
    | (s, .error x) => (s, some x)
    | (s, .ok parts) =>
      let old : State × Except (Nat × Nat) Bytes :=
        if d.accum then s.fetch m (stream c 0x16) (d.out + i * d.outRow) d.outRow else (s, .ok [])
      match old with
      | (s, .error x) => (s, some x)
      | (s, .ok o) => s.writeAt m (stream c 0x16) (d.out + i * d.outRow) (combineRow d o parts)

/-- The key of token `i` of an assignment record of a context: the routing call that wrote the record named it (R117, R137). -/
def State.tokenKey? (s : State) (c m assign i : Nat) : Option Nat :=
  ((s.mast m).rtu.lists.find? fun l => l.ctx == c && l.assign == assign).bind fun l => l.keys[i]?

/-- COMBINE_MISSING names the token's key and the rank (R137). A record that no routing call of the context has written there
has no key: the field is a free value (log entry 81). `i`: the slot's number in the record. -/
def State.combineMissing (s : State) (c m : Nat) (d : CombineDesc) (i : Nat) : State :=
  let fail := fun (s : State) addr => s.rtuFail m { mkRec 0x1107 clsUC m noUnit c with addr, info0 := i % d.topK }
  match s.tokenKey? c m d.assign (i / d.topK) with
  | some key => fail s key
  | none => fail s.drawn (s.freeNat % 2 ^ 37)

/-- A combine call whose descriptor has been read. DESIGN CHOICE (log entry 81): of several missing rows, one record names the
first in the order of the assignment record. -/
def State.combineRun (s : State) (c m : Nat) (d : CombineDesc) : State :=
  let bad := fun (s : State) => s.rtuFail m (mkRec 0x1108 clsUC m noUnit c)
  if !d.ok then bad s
  else s.withRegions c m d.regions bad fun s =>
    s.withRead c m noUnit (control c 0x16) d.assign (8 * d.count * d.topK) fun s ab =>
    let slots := (List.range (d.count * d.topK)).map (parseSlot ab)
    match (enum slots).find? fun e => decide (e.2.status ≤ 1) && !e.2.arrived with
    | some e => s.combineMissing c m d e.1
    | none =>
      let a := (List.range d.count).foldl (State.combineToken c m d slots) (s, none)
      match a.2 with
      | some x => a.1.ioFail c m noUnit x
      | none => a.1

/-- COMBINE_CALL. -/
def execCombineCall (c m desc : Nat) (s : State) : Host.Outcome State Fault Refusal :=
  onMast m s (s.whenAlive (
    if !s.rtuTakes c m desc then s
    else s.rtuDesc c m 0x1108 desc 32 fun s b => s.combineRun c m (parseCombine b)))

end Sys2Proof.Machine
end

