-- ==== Sys2Proof/Machine/CollectiveCall.lean ====
section
/-! DEFINITION. Collective calls and the events of the collective engine (R352 to R369). -/
namespace Sys2Proof.Machine

/-! ## The descriptor (R355, R356) -/

/-- A collective call descriptor (R355). -/
structure ColDesc where
  op    : Nat
  dtype : Nat
  group : Nat
  alg   : Nat
  sw    : Bool
  chain : Bool
  root  : Nat
  src   : Nat
  dst   : Nat
  count : Nat
  aux0  : Nat
  aux1  : Nat
  cap   : Nat
  rsv   : Bool

def parseColDesc (b : Bytes) : ColDesc :=
  { op := u8 b 0 % 16, dtype := u8 b 1 % 16, group := u16 b 2 % 4096, alg := u8 b 4 % 4, sw := bit (u8 b 4) 2,
    chain := bit (u8 b 4) 3, root := u8 b 6, src := u64 b 8, dst := u64 b 16, count := u64 b 24, aux0 := u64 b 32,
    aux1 := u64 b 40, cap := u32 b 60,
    rsv := 16 ≤ u8 b 0 || 16 ≤ u8 b 1 || 4096 ≤ u16 b 2 || 16 ≤ u8 b 4 || u8 b 5 != 0 || u8 b 7 != 0 || !allZero (sub b 48 12) }

/-- DTYPE codes that an operation allows, COUNT included (R353, R355). -/
def ColDesc.shapeOk (d : ColDesc) : Bool :=
  decide (1 ≤ d.op ∧ d.op ≤ 8) && d.alg != 3
  && (if isReduction d.op then decide (1 ≤ d.dtype ∧ d.dtype ≤ 4) else d.dtype == 0)
  && (if d.op = opBAR then d.count == 0 else decide (128 ≤ d.count ∧ d.count ≤ 2 ^ 31) && d.count % 128 == 0)

/-- IN_SWITCH is for reductions of groups with one member on each package (R356). -/
def ColDesc.switchOk (d : ColDesc) (g : Group) : Bool :=
  !d.sw || (isReduction d.op && (dedup (g.members.map (·.pkg))).length == g.members.length)

/-- Bytes of the source region that the call itself names (R353). -/
def ColDesc.srcLen (d : ColDesc) (g rank : Nat) : Nat :=
  if d.op = opRS || d.op = opPLAIN then g * d.count
  else if d.op = opBC then (if rank = d.root then d.count else 0)
  else if d.op = opAR || d.op = opAG then d.count
  else 0

/-- Bytes of the destination region (R353, R357). -/
def ColDesc.dstLen (d : ColDesc) (g : Nat) : Nat :=
  if d.op = opAG || d.op = opPLAIN then g * d.count
  else if d.op = opDISP then 128 + d.cap * (128 + d.count)
  else if d.op = opBAR || d.op = opRET then 0
  else d.count

/-- A region that the call uses lies in the context's memory; one of no bytes is not looked at. -/
def State.colRegion (s : State) (c m x len : Nat) : Bool := len == 0 || s.ptrIn c m x len

/-- Every region that the descriptor itself names is the context's (R356). -/
def State.colRegions (s : State) (c m g rank : Nat) (d : ColDesc) : Bool :=
  s.colRegion c m d.src (d.srcLen g rank) && s.colRegion c m d.dst (d.dstLen g)
  && s.colRegion c m d.aux0 (if d.op = opDISP then 64 else if d.op = opRET then 32 else 0)
  && s.colRegion c m d.aux1 (if d.op = opRET then 64 else 0)

/-- The rank of a mast of this package in a group, when it is a member (R350). -/
def State.rankOf (s : State) (g : Group) (m : Nat) : Option Nat :=
  ((enum g.members).find? fun e => e.2.pkg == s.nlc.ownIndex && e.2.mast == m).map (·.1)

/-- The checks of R356. -/
def State.colDescOk (s : State) (c m : Nat) (d : ColDesc) (g : Group) (rank : Nat) : Bool :=
  !d.rsv && d.shapeOk && g.ctx == c && (g.member rank).ctx == c && decide (d.root < g.members.length) && d.switchOk g
  && s.colRegions c m g.members.length rank d

/-! ## Rows of A2A_DISPATCH (R131, R357) -/

/-- A row to send: receiver's rank, tag, row image, and where it stands in the source. -/
structure SendRow where
  to_ : Nat
  tag : Nat
  row : Bytes
  src : Nat

/-- The rank of the member on a package and mast. -/
def Group.rankAt (g : Group) (pkg mast : Nat) : Option Nat :=
  ((enum g.members).find? fun e => e.2.pkg == pkg && e.2.mast == mast).map (·.1)

/-- One row of the dispatch: slot `j` of the assignment record. -/
def dispatchRow (own : Nat) (g : Group) (d : RouteDesc) (count at_ : Nat) (toks : List Nat) (map_ src : Bytes) (j : Nat)
    (sl : Slot) : Option SendRow :=
  let w := u32 map_ (4 * sl.expert)
  (g.rankAt (mapPkg w) (mapMast w)).map fun r =>
    { to_ := r, tag := mkTag (sl.status == 1) own sl.expert (j % d.topK) (toks.getD (j / d.topK) 0 % 2 ^ 37),
      row := sub src (j / d.topK * count) count, src := at_ + j / d.topK * count }

/-- What the rows of a call came to: the rows, an access that failed, or a fault of a descriptor. -/
inductive Rows where
  | rows (l : List SendRow)
  | io (e : Nat × Nat)
  | desc

/-- Reads in turn; the first that fails ends them. -/
def State.fetchAll (s : State) (m : Nat) : List (Reader × Nat × Nat) → State × Except (Nat × Nat) (List Bytes)
  | [] => (s, .ok [])
  | (r, x, n) :: rest => match s.fetch m r x n with
    | (s, .error e) => (s, .error e)
    | (s, .ok b) => match s.fetchAll m rest with
      | (s, .error e) => (s, .error e)
      | (s, .ok bs) => (s, .ok (b :: bs))

/-- The send list of a dispatch (R357). -/
def State.dispatchRows (s : State) (c m : Nat) (g : Group) (k : ColCall) : State × Rows :=
  let ctl := control c 0x1A
  match s.fetch m ctl k.aux0 64 with
  | (s, .error e) => (s, .io e)
  | (s, .ok b) =>
    let d := parseRoute b
    let n := d.count * d.topK
    if d.rsv || !s.ptrIn c m d.tokens (8 * d.count) || !s.ptrIn c m d.assign (8 * n) || !s.ptrIn c m d.map (4 * d.experts)
        || !s.ptrIn c m k.src (d.count * k.count) then (s, .desc)
    else match s.fetchAll m [(ctl, d.tokens, 8 * d.count), (ctl, d.assign, 8 * n), (ctl, d.map, 4 * d.experts),
                             (stream c 0x1A, k.src, d.count * k.count)] with
      | (s, .error e) => (s, .io e)
      | (s, .ok [tb, ab, mb, sb]) =>
        let slots := (enum ((List.range n).map (parseSlot ab))).filter fun e => decide (e.2.status ≤ 1)
        let rows := slots.map fun e => dispatchRow s.nlc.ownIndex g d k.count k.src (tokenList tb d.count) mb sb e.1 e.2
        (s, if rows.any Option.isNone then .desc else .rows (rows.filterMap fun r => r))
      | (s, .ok _) => (s, .desc)

/-! ## Rows of A2A_RETURN (R358) -/

/-- The table entries that an entry map names, ascending, each with its ROWS_MAX. -/
def returnEntries (emap : Nat → Nat) : List (Nat × Nat) :=
  let es := (List.range 1024).filter fun e => emapIdx (emap e) != 0xFFFF
  let byIdx := sortBy (fun (a b : Nat) => decide (emapIdx (emap a) ≤ emapIdx (emap b))) es
  byIdx.foldl (fun l e => if l.any fun x => x.1 == emapIdx (emap e) then l else l ++ [(emapIdx (emap e), emapMax (emap e))]) []

/-- The rows of one table entry, with their tags. -/
def State.returnEntry (s : State) (c m : Nat) (g : Group) (k : ColCall) (d : IntakeDesc) (idx rowsMax : Nat) : State × Rows :=
  let ctl := control c 0x1A
  let at_ := d.table + 32 * idx
  if !s.inMem c m at_ 32 then (s, .desc)
  else match s.fetch m ctl at_ 32 with
  | (s, .error e) => (s, .io e)
  | (s, .ok eb) =>
    let e := parseEntry77 eb
    let tags := e.act + tagArrayOff d.fmt d.k rowsMax
    if e.tokens = 0 then (s, .rows [])
    else if !s.ptrIn c m e.out (e.tokens * k.count) || !s.inMem c m tags (8 * e.tokens) then (s, .desc)
    else match s.fetchAll m [(ctl, tags, 8 * e.tokens), (stream c 0x1A, e.out, e.tokens * k.count)] with
      | (s, .error e) => (s, .io e)
      | (s, .ok [tb, ob]) =>
        let rows := (List.range e.tokens).map fun i =>
          let tag := u64 tb (8 * i)
          ((enum g.members).find? fun x => x.2.pkg == tagPkg tag).map fun x =>
            ({ to_ := x.1, tag, row := sub ob (i * k.count) k.count, src := e.out + i * k.count } : SendRow)
        (s, if rows.any Option.isNone then .desc else .rows (rows.filterMap fun r => r))
      | (s, .ok _) => (s, .desc)

/-- The rows of every entry, in order. -/
def State.returnAll (s : State) (c m : Nat) (g : Group) (k : ColCall) (d : IntakeDesc) : List (Nat × Nat) → State × Rows
  | [] => (s, .rows [])
  | e :: es => match s.returnEntry c m g k d e.1 e.2 with
    | (s, .rows l) => (match s.returnAll c m g k d es with
      | (s, .rows l') => (s, .rows (l ++ l'))
      | q => q)
    | q => q

/-- The send list of a return (R358). -/
def State.returnRows (s : State) (c m : Nat) (g : Group) (k : ColCall) : State × Rows :=
  let ctl := control c 0x1A
  match s.fetch m ctl k.aux0 32 with
  | (s, .error e) => (s, .io e)
  | (s, .ok b) =>
    let d := parseIntake b
    if d.rsv || decide (1 < d.fmt) || d.k = 0 || !s.ptrIn c m d.emap 4096 || !ptrOk d.table then (s, .desc)
    else match s.fetch m ctl d.emap 4096 with
      | (s, .error e) => (s, .io e)
      | (s, .ok eb) =>
        let emap := fun e => u32 eb (4 * e)
        if emapOk emap then s.returnAll c m g k d (returnEntries emap) else (s, .desc)

/-- The range of keys that a return registers: the first and last key of its token list (R117, R358); none where its
descriptor or a region of it is at fault. -/
def State.returnKeys (s : State) (c m : Nat) (k : ColCall) : State × Except (Option (Nat × Nat)) (Nat × Nat) :=
  let ctl := control c 0x1A
  match s.fetch m ctl k.aux1 64 with
  | (s, .error e) => (s, .error (some e))
  | (s, .ok b) =>
    let d := parseRoute b
    if d.rsv || d.count = 0 || !s.ptrIn c m d.tokens (8 * d.count) || !s.ptrIn c m d.assign (8 * d.count * d.topK)
        || !s.ptrIn c m k.dst (d.count * d.topK * k.count) then (s, .error none)
    else match s.fetch m ctl d.tokens (8 * d.count) with
      | (s, .error e) => (s, .error (some e))
      | (s, .ok tb) =>
        let ks := (tokenList tb d.count).map keyOf
        (s, .ok (minD ks 0, maxD ks 0))

/-- Another mast's range overlaps in the same SEQ (R358): both calls fail. -/
def State.rangeClash (s : State) (k : ColCall) : Option ColCall :=
  s.col.calls.find? fun d => d.group == k.group && d.seq == k.seq && d.op == opRET && d.mast != k.mast
    && decide (d.keyLo ≤ k.keyHi ∧ k.keyLo ≤ d.keyHi)

/-! ## Sending rows -/

/-- The chunks of rows for other members: ids count the rows of one receiver (R361). -/
def rowChunks (self per : Nat) : List SendRow → Tab Nat → List ColChunk × Tab Nat
  | [], n => ([], n)
  | r :: rs, n =>
    let o := tgetD n r.to_ 0
    let q := rowChunks self per rs (tset n r.to_ (o + 1))
    (if r.to_ = self then q.1
     else ((List.range per).map fun i =>
       newChunk r.to_ (o * per + i) r.tag (sub r.row (128 * i) 128) (some (r.src + 128 * i))) ++ q.1, q.2)

/-- Rows of a member for itself take their place: those of a dispatch at once, those of a return once every member on this
package has started the SEQ, because the key ranges are known only then (R131, R135, R358). -/
def State.releaseRows (s : State) (grp : Nat) : State :=
  (s.col.calls.filter fun c => c.group == grp && (c.op == opDISP || s.allStarted grp c.seq)).foldl (fun (s : State) c =>
    c.held.foldl (fun (s : State) r => s.rowArrived grp c.mast c.seq r.1 r.2)
      (s.modCall grp c.mast fun c => { c with held := [] })) s

/-- The rows of a call leave: those for the member itself are placed, the others are sent, and END follows the last row to
every other member with how many there were (R357). -/
def State.sendRows (s : State) (grp m : Nat) (g : Group) (k : ColCall) (l : List SendRow) : State :=
  let q := rowChunks k.rank k.per l []
  let ends := ((List.range g.members.length).filter (· != k.rank)).map fun j => (j, tgetD q.2 j 0)
  let own := (l.filter fun r => r.to_ == k.rank).map fun r => (r.tag, r.row)
  ((s.modCall grp m fun c => { c with endsOwed := ends, held := own }).addChunks grp m q.1).releaseRows grp

/-- A call that started sends its rows, or ends as R357 and R358 have it. -/
def State.launchRows (s : State) (grp m : Nat) (g : Group) (k : ColCall) (q : State → State × Rows) : State :=
  match q s with
  | (s, .rows l) => s.sendRows grp m g k l
  | (s, .io e) => s.failIo grp m e
  | (s, .desc) => s.failCall grp m 0x0701

/-- A return registers its range of keys, then sends its rows (R358). -/
def State.startReturn (s : State) (grp m : Nat) (g : Group) (k : ColCall) : State :=
  match s.returnKeys k.ctx m k with
  | (s, .error (some e)) => s.failIo grp m e
  | (s, .error none) => s.failCall grp m 0x0701
  | (s, .ok r) =>
    let s := s.modCall grp m fun c => { c with keyLo := r.1, keyHi := r.2 }
    let k := { k with keyLo := r.1, keyHi := r.2 }
    match s.rangeClash k with
    | some d => (s.failCall grp m 0x0701).raise (mkRec 0x0701 clsUC d.mast noUnit d.ctx)
    | none => s.launchRows grp m g k fun s => s.returnRows k.ctx m g k

/-! ## COLLECTIVE_CALL -/

/-- The call as it starts (R347, R352, R355, R359, R372, R382, R401). -/
def State.newCall (s : State) (c m rank seq : Nat) (d : ColDesc) : ColCall :=
  let reef := s.pwr.request
  { group := d.group, seq, ctx := c, mast := m, rank, op := d.op, dtype := d.dtype, alg := d.alg, inSwitch := d.sw,
    chain := d.chain, root := d.root, src := d.src, dst := d.dst, count := d.count, aux0 := d.aux0, aux1 := d.aux1,
    cap := d.cap, method := if d.sw then mSwitch else algMethod s.col.smallLog d.op d.alg d.count, fallback := false,
    latched := reef, reefMax := max reef (s.col.reefOf d.group m seq),
    agrees := (s.ctx? c).any fun x => x.reefValid && x.reefGroup == d.group,
    planesMin := s.col.planesMin, smallLog := s.col.smallLog, tries := s.nlc.maxAttempts,
    got := [], tagsGot := [], sent := [], acked := [], endsOwed := [], held := [],
    prod := [], ends := [], owedAcks := [], ackPorts := [], rows := 0, dropped := 0, keyLo := 0, keyHi := 0, planeLoss := false }

/-- The call takes the next SEQ and its collective phase begins, or goes on where it is chained (R352, R360). -/
def State.beginCall (s : State) (c m desc : Nat) (k : ColCall) : State :=
  let s := s.modCol fun x => { x with calls := x.calls ++ [k] }
  let s := s.modGroup k.group fun g => { g with next := tset g.next m ((k.seq + 1) % 2 ^ 32) }
  s.modMast m fun z => if z.calls.any fun r => r.ctx == c && r.kind == .collective then
      { z with calls := z.calls.map fun r => if r.ctx == c && r.kind == .collective then { r with desc } else r }
    else { z with calls := z.calls ++ [{ ctx := c, kind := .collective, layer := 0, mask := 0, left := 0, desc }] }

/-- What a call can meet at once: too few planes (R367), a dead member (R366), or a source that cannot be read (R368). -/
def State.callGoes (s : State) (m : Nat) (g : Group) (k : ColCall) (srcLen : Nat) : State :=
  let grp := k.group
  if s.groupAbroad g && decide (s.stayUp.length < k.planesMin) then s.failCall grp m 0x0704
  else if g.members.any fun x => s.isDead x.pkg then s.failCall grp m 0x0705
  else
    let q := if srcLen = 0 then (s, .ok []) else s.fetch m (stream k.ctx 0x1A) k.src srcLen
    match q.2 with
    | .error e => q.1.failIo grp m e
    | .ok b =>
      let s := q.1.modCall grp m fun c => { c with prod := b }
      let s := if k.op = opDISP then s.launchRows grp m g k fun s => s.dispatchRows k.ctx m g k
        else if k.op = opRET then s.startReturn grp m g k
        else s.runMethod grp m k.method
      (((s.releaseRows grp).replayGroup grp).replayFallen grp).checkGroup grp

/-- A collective call that fails under R356: OUTCOME of the context's own group (R373), and ABORT to the other members where the
group names them (R368; log entry 16). -/
def State.colRefused (s : State) (c m : Nat) (d : ColDesc) : State :=
  let s := s.colErr 0x40
  let s := match s.group? d.group with
    | none => s
    | some g =>
      let s := if g.ctx = c then s.modGroup d.group fun g => { g with outcome := 3 } else s
      match s.rankOf g m with
      | none => s
      | some rank => if g.ctx = c then s.colTellAll (s.newCall c m rank (tgetD g.next m 0) d) kAbort 0x0701 else s
  s.containedAt 0x0701 m noUnit c

/-- A collective call whose descriptor has been read (R356). -/
def State.collective (s : State) (c m desc : Nat) (d : ColDesc) : State :=
  match s.group? d.group with
  | none => s.colRefused c m d
  | some g => match s.rankOf g m with
    | none => s.colRefused c m d
    | some rank =>
      if !s.colDescOk c m d g rank then s.colRefused c m d
      else
        let k := s.newCall c m rank (tgetD g.next m 0) d
        ((s.beginCall c m desc k).callGoes m g k (d.srcLen g.members.length rank)).hubSettle

/-- Whether a collective call can start: nothing holds the context back, it is not displaced on any mast (R302), the calls it
depends on have ended (R25), and no other call of it, a collective in flight among them, runs on the mast (R360). -/
def State.canCollect (s : State) (c m x : Nat) : Bool :=
  s.canRun c m && ((s.mayIssue c m && !s.isDisplaced c) || s.chained c m) && s.depsMet c m x &&
    !(s.col.calls.any fun k => k.ctx == c && k.mast == m) &&
    !((s.mast m).calls.any fun r => r.ctx == c && r.kind != .collective)

/-- COLLECTIVE_CALL. -/
def execCollectiveCall (c m desc : Nat) (s : State) : Host.Outcome State Fault Refusal :=
  onMast m s (s.whenAlive (
    if !s.canCollect c m desc then s
    else
      let s := if s.descFault c m desc 64 then s.colErr 0x40 else s
      s.withDesc c m 0x0701 desc 64 fun s b => s.collective c m desc (parseColDesc b)))

/-! ## Packets -/

/-- The KIND of a collective packet. -/
def kindOf (p : TPkt) : Nat := match p.col with | some h => h.kind | none => 0

/-- A collective packet of one KIND arrives on a port. -/
def State.colKind (s : State) (k : Nat) (p : TPkt) : State := if p.op = 8 && kindOf p = k then s.colArrives p else s

/-- COL_DATA_RECEIVE (R362, R365). -/
def execColDataReceive (p : TPkt) (s : State) : Host.Outcome State Fault Refusal :=
  onPort p.port s (s.whenAlive (s.colKind kData p))

/-- COL_ACK_RECEIVE (R362, R365). -/
def execColAckReceive (p : TPkt) (s : State) : Host.Outcome State Fault Refusal :=
  onPort p.port s (s.whenAlive (s.colKind kAck p))

/-- COL_ACK_SEND: the chunks of one sender are acknowledged (R365). -/
def execColAckSend (group mast srcRank : Nat) (s : State) : Host.Outcome State Fault Refusal :=
  onMast mast s (s.whenAlive (s.sendAck group mast srcRank).hubSettle)

/-- COL_END_RECEIVE (R357). -/
def execColEndReceive (p : TPkt) (s : State) : Host.Outcome State Fault Refusal :=
  onPort p.port s (s.whenAlive (s.colKind kEnd p))

/-- COL_ABORT_RECEIVE (R368). -/
def execColAbortReceive (p : TPkt) (s : State) : Host.Outcome State Fault Refusal :=
  onPort p.port s (s.whenAlive (s.colKind kAbort p))

/-- COL_WITHDRAW_RECEIVE (R368). -/
def execColWithdrawReceive (p : TPkt) (s : State) : Host.Outcome State Fault Refusal :=
  onPort p.port s (s.whenAlive (s.colKind kWithdraw p))

/-- COL_SW_REFUSE_RECEIVE (R363). -/
def execColSwRefuseReceive (p : TPkt) (s : State) : Host.Outcome State Fault Refusal :=
  onPort p.port s (s.whenAlive (s.colKind kSwRefuse p))

/-- COL_SW_EVICT_RECEIVE (R363). -/
def execColSwEvictReceive (p : TPkt) (s : State) : Host.Outcome State Fault Refusal :=
  onPort p.port s (s.whenAlive (s.colKind kSwEvict p))

/-! ## Time (R362, R366, R369) -/

/-- A chunk that a call has sent, when it is outstanding. -/
def State.chunkAt (s : State) (group mast dstRank chunk : Nat) : Option ColChunk :=
  (s.colCall? group mast).bind fun c => c.sent.find? fun x => x.dest == dstRank && x.id == chunk && x.port != notSent

/-- COL_CHUNK_TIMEOUT: FAB_TIMEOUT passed without an acknowledgement (R366). Rank 0xFFFF stands for the switch. -/
def execColChunkTimeout (group mast dstRank chunk : Nat) (s : State) : Host.Outcome State Fault Refusal :=
  onMast mast s (s.whenAlive (match s.chunkAt group mast dstRank chunk with
    | some x => if x.port = retried then s else (s.resendChunk group mast dstRank chunk true).hubSettle
    | none => s))

/-- COL_RETRY_RESEND: 5 µs after a RETRY answer the chunk leaves again, and no attempt is counted (R362). -/
def execColRetryResend (group mast dstRank chunk : Nat) (s : State) : Host.Outcome State Fault Refusal :=
  onMast mast s (s.whenAlive (match s.chunkAt group mast dstRank chunk with
    | some x => if x.port = retried then (s.resendChunk group mast dstRank chunk false).hubSettle else s
    | none => s))

/-- COL_TIMEOUT: a call made no progress for COL_TIMEOUT (R369). -/
def execColTimeout (group mast : Nat) (s : State) : Host.Outcome State Fault Refusal :=
  onMast mast s (s.whenAlive (s.failCall group mast 0x0703))

end Sys2Proof.Machine
end

