-- ==== Sys2Proof/Machine/Firmware.lean ====
section
/-! DEFINITION. Firmware delivery over the sideband, its verification, and the alias keys (R250 to R254, R427 to R431,
R435, R463). -/
namespace Sys2Proof.Machine

/-- HIF_BOOT changed: once READY has been sent, each change sends it again (R251). -/
def State.bootChanged (s : State) : State :=
  if s.hif.ready then s.emit (.sbReady (BitVec.ofNat 32 s.hif.boot)) else s

/-- An image chunk arrives (R251, R252). -/
def State.fwChunk (s : State) (off : Nat) (data : Bytes) : State :=
  if !s.bootRom || data.length != 8 || off % 8 != 0 then s
  else if s.hif.fwDone then { s with hif := { s.hif with err := s.hif.err ||| 0x10 } }
  else if 4194304 ≤ off then s
  else { s with hif := { s.hif with chunks := tset s.hif.chunks (off / 8) data } }

/-- FW_CHUNK: 8 image bytes at an offset, or nothing after FW_DONE (R252). -/
def execFwChunk (off : Nat) (data : Bytes) (s : State) : Host.Outcome State Fault Refusal := settle s (s.fwChunk off data)

/-- Verification starts at the later of FW_DONE and READY (R252, R430); where step 8 has to wait for the end of brownout, then
(R468). -/
def State.startVerify (s : State) : State :=
  if s.hif.fwDone && s.hif.ready && !s.hif.oper && !s.hif.verifying && !s.cn.paused then
    State.bootChanged { s with hif := { s.hif with verifying := true }, btb := { s.btb with stage := 2 } }
  else s

/-- FW_DONE gives the image length (R251, R252). -/
def State.fwDone (s : State) (len : Nat) : State :=
  if !s.bootRom || s.hif.fwDone then s
  else (State.bootChanged { s with hif := { s.hif with fwDone := true, imageLen := len } }).startVerify

/-- FW_DONE: the image is complete (R252). -/
def execFwDone (len : Nat) (s : State) : Host.Outcome State Fault Refusal := settle s (s.fwDone len)

/-! ## Verification (R428 to R431) -/

/-- The bytes of the delivered image. -/
def HostIf.image (h : HostIf) : Bytes := ((List.range (ceilDiv h.imageLen 8)).flatMap fun i => tgetD h.chunks i (zeros 8)).take h.imageLen

/-- FORMAT of R430: the header's fields and lengths. -/
def fwFormatBad (img : Bytes) (len : Nat) : Bool :=
  u16 img 0 != 1 || decide (64 ≤ u8 img 2) || decide (4 ≤ u8 img 3) || u32 img 4 != len
  || decide (u32 img 8 < 1 ∨ 4096000 < u32 img 8) || u32 img 8 % 8 != 0 || decide (16 < u8 img 12)
  || !allZero (sub img 13 3) || !allZero (sub img 112 400) || len != 1024 + 512 * u8 img 12 + u32 img 8 + 16608
  || decide (4194304 < len)

def fwKeyBlock (img : Bytes) : Bytes := sub img 512 512
def fwAnnex (img : Bytes) : Bytes := sub img 1024 (512 * u8 img 12)
def fwBody (img : Bytes) : Bytes := sub img (1024 + 512 * u8 img 12) (u32 img 8)

/-- KEY of R430. -/
def fwKeyBad (img : Bytes) : Bool :=
  sha384 (fwKeyBlock img) != Config.slotDigest (u8 img 3 % 4) || !keyRecordOk (fwKeyBlock img)
  || (List.range (u8 img 12)).any fun i => !keyRecordOk (sub (fwAnnex img) (512 * i) 512)

/-- The reason for which an image is rejected: the first check of R430 that fails. -/
def State.fwReason (s : State) : Option Nat :=
  let h := s.hif
  let img := h.image
  let sig := img.drop (h.imageLen - 16608)
  if (List.range (ceilDiv h.imageLen 8)).any fun i => !thas h.chunks i then some 1
  else if fwFormatBad img h.imageLen then some 2
  else if fwKeyBad img then some 3
  else if u8 img 2 < s.btb.fusedSvn then some 4
  else if sha384 (fwBody img) != sub img 16 48 || sha384 (fwAnnex img) != sub img 64 48 then some 5
  else if !rsaOk (fwKeyBlock img) (img.take 512) sig then some 6
  else if !slhOk (fwKeyBlock img) (img.take 512) sig then some 7
  else none

/-- An image is rejected: it is discarded, and a new delivery is accepted (R252, R430). -/
def State.fwRejected (s : State) (reason : Nat) : State :=
  let s := { s with
    hif := { s.hif with verifying := false, rejected := true, fwDone := false, chunks := [], imageLen := 0 },
    btb := { s.btb with stage := 3, rejectReason := reason, rejectCount := min 255 (s.btb.rejectCount + 1),
                        err := s.btb.err ||| 1 } }
  (s.raise { mkRec 0x0303 clsCE hubMast noUnit 0 with info0 := reason }).bootChanged

/-- An image runs: it is measured, the SLH-DSA alias key is ready, the device becomes operational, credits are granted and
the heartbeat timer starts (R250, R268, R386, R431, R435, R463). -/
def State.fwRuns (s : State) : State :=
  let img := s.hif.image
  let s := { s with
    hif := { s.hif with verifying := false, rejected := false, oper := true },
    btb := { s.btb with stage := 4, aliasSlh := true, aliasRsa := false, certDraw := s.free, fwKey := u8 img 3 % 4, fwSvn := u8 img 2,
                        annexCount := u8 img 12, measure := sha384 (img.take 1024), annexDigest := sub img 64 48,
                        annex := fwAnnex img },
    cn := { s.cn with stage := 7, operTime := s.time },
    pwr := { s.pwr with hbAge := 0, hbLost := false } }
  s.drawn.bootChanged.grantAll

/-- Verification ends (R430, R431), in brownout too (R468). -/
def State.fwVerify (s : State) : State :=
  if !s.hif.verifying || s.flt.fatal then s
  else match s.fwReason with
    | some r => s.fwRejected r
    | none => s.fwRuns

/-- The image is checked, then run or rejected (R430). -/
def execFwVerify (s : State) : Host.Outcome State Fault Refusal := settle s s.fwVerify

/-- The RSA alias key is ready (R435). -/
def execAliasRsaReady (s : State) : Host.Outcome State Fault Refusal :=
  settle s (s.whenAlive { s with btb := { s.btb with aliasRsa := true } })

end Sys2Proof.Machine
end

