-- ==== Sys2Proof/Machine/MatrixMath.lean ====
section
/-! DEFINITION. The arithmetic of a matrix engine: extraction at the edge converter (R87 to R91), narrow runs and wide
products (R58 to R63, R69, R70), the order of accumulation (R64, R65) and the reference of a check tile (R101). Pure
functions of activations, weights and residual entries. -/
namespace Sys2Proof.Machine

/-! ## Extraction (R87 to R90) -/

/-- exp(x) of R87; zero and non-finite elements have none. -/
def expOf : Num → Option Int
  | .fin _ m e => if m = 0 then none else some (e + bitLen m - 1)
  | _ => none

/-- One round of R88: the first live element with the largest exponent, where the gap to the next one suffices. -/
def candRound (gap : Int) (live : List (Nat × Int)) : Option Nat :=
  match live with
  | a :: b :: t =>
    let top := (b :: t).foldl (fun (x y : Nat × Int) => if x.2 < y.2 then y else x) a
    match live.filter fun x => x.1 != top.1 with
    | [] => none
    | c :: cs =>
      let e2 := cs.foldl (fun (x : Int) (y : Nat × Int) => max x y.2) c.2
      if top.2 - e2 < gap then none else some top.1
  | _ => none

/-- The candidates of a block, in order (R88). -/
def candidates (gap : Int) (xs : List Num) : List Nat :=
  let live := (enum xs).filterMap fun e => (expOf e.2).map fun x => (e.1, x)
  match candRound gap live with
  | none => []
  | some i => match candRound gap (live.filter fun x => x.1 != i) with
    | none => [i]
    | some j => [i, j]

/-- The lane credit, the budget left, and the refusals so far (R89). -/
structure Lane where
  c   : Nat
  u   : Nat
  ovf : Nat
  deriving DecidableEq, Repr

/-- Candidates are admitted or refused one after the other (R89). -/
def Lane.takeIn (l : Lane) : List Nat → Lane × List Nat
  | [] => (l, [])
  | i :: is =>
    if 1 ≤ l.c ∧ 1 ≤ l.u then
      let q := Lane.takeIn { l with c := l.c - 1, u := l.u - 1 } is
      (q.1, i :: q.2)
    else Lane.takeIn { l with ovf := l.ovf + 1 } is

/-- The blocks of one vector. -/
def Lane.blocks (l : Lane) : List (List Nat) → Lane × List (List Nat)
  | [] => (l, [])
  | b :: bs =>
    let q := l.takeIn b
    let r := Lane.blocks q.1 bs
    (r.1, q.2 :: r.2)

/-- The vectors of a stream, each with the candidates of its four blocks; `passes` per vector. The result lists what is
extracted, block by block in stream order (R89). -/
def Lane.stream (passes : Nat) (l : Lane) : List (List (List Nat)) → Lane × List (List Nat)
  | [] => (l, [])
  | v :: vs =>
    let q := Lane.blocks { l with c := min 512 (l.c + 1) } v
    let r := Lane.stream passes { q.1 with c := min 512 (q.1.c + (passes - 1)) } vs
    (r.1, q.2 ++ r.2)

/-! ## Activation blocks (R48, R49, R56, R69, R70) -/

/-- One activation block as the array and the lanes take it: its codes and scale code on the narrow path or from an
MXINT8 row, its values on the wide path of a BF16 row, the values a residual term meets (R65), the input elements of
R101, and the extracted elements in ascending index. -/
structure ActBlk where
  codes : List Int
  scale : Nat
  wide  : Option (List Num)
  av    : List Num
  inp   : List Num
  ext   : List (Nat × Num)
  subst : Bool
  deriving DecidableEq, Repr

/-- R70: an infinity enters as the largest finite BF16 value of its sign, a NaN as zero. -/
def finiteBf : Num → Num
  | .nan => .fin false 0 0
  | .inf neg => ofBf (if neg then 0xFF7F else 0x7F7F)
  | x => x

/-- A block of a BF16 row whose elements `ex` were extracted. -/
def bfBlock (wide : Bool) (xs : List Num) (ex : List Nat) : ActBlk :=
  let ext := (enum xs).filter fun e => ex.contains e.1
  let kept := (enum xs).map fun e => if ex.contains e.1 then .fin false 0 0 else e.2
  let inp := xs.map finiteBf
  if wide then
    { codes := [], scale := 0, wide := some (kept.map finiteBf), av := inp, inp, ext, subst := xs.any fun x => !x.isFinite }
  else
    let q := mxEncode .mxint8 kept
    { codes := q.codes.map signed8, scale := q.scale, wide := none, inp, ext, subst := q.subst,
      av := (enum xs).map fun e =>
        if ex.contains e.1 then e.2 else int8Val true (q.codes.getD e.1 0) q.scale }

/-- A block of an MXINT8 row; 0x80 is read as -127 (R30). -/
def mxBlock (codes : List Nat) (scale : Nat) : ActBlk :=
  let vals := codes.map fun c => int8Val true c scale
  { codes := codes.map fun c => if c = 0x80 then -127 else signed8 c, scale, wide := none, av := vals, inp := vals, ext := [],
    subst := false }

/-! ## Weight tiles -/

/-- A decoded tile: its format, the first block, the first burst, codebook, bursts or elements, scale bytes of a plain
tile, and its residual entries (row, column, correction) in list order. -/
structure WTile where
  f      : Nat
  block0 : Nat
  cb     : Bytes
  bursts : List Bytes
  elems  : Bytes
  scales : Bytes
  res    : List (Nat × Nat × Nat)
  deriving DecidableEq, Repr

/-- The first burst of a tile. -/
def WTile.burst0 (t : WTile) : Nat := t.block0 / perBurst t.f

/-- The burst that holds a block of the tile, and the block's slot in it. -/
def WTile.slot (t : WTile) (blk : Nat) : Bytes × Nat :=
  let b := t.block0 + blk
  (t.bursts.getD (b / perBurst t.f - t.burst0) [], b % perBurst t.f)

/-- The weight of a row and column in the units of R58. -/
def WTile.weight (t : WTile) (row col : Nat) : Int :=
  let blk := col * 4 + row / 32
  if t.f = wINT8 then
    let c := byteAt t.elems (blk * 32 + row % 32)
    if c = 0x80 then -127 else signed8 c
  else
    let p := t.slot blk
    burstWeight t.f t.cb p.1 (p.2 * 32 + row % 32)

/-- The scale code of a column's block in quarter `kb`. -/
def WTile.scale (t : WTile) (col kb : Nat) : Nat :=
  let blk := col * 4 + kb
  if t.f = wINT8 then byteAt t.scales blk
  else let p := t.slot blk; burstScale t.f p.1 p.2

/-- The weight unit exponent u of R62. -/
def unitExp (f : Nat) : Int := if f = wINT8 then 6 else if f = wW4F then 1 else 0

/-- Passes of a vector in narrow mode (R58). -/
def digitPasses (f : Nat) : Nat := if f = wINT8 then 4 else if f = wW4F then 2 else 1

/-- Rows of a run (R60). -/
def runRows (f : Nat) : Nat := if f = wINT8 then 8 else 32

/-- The decoded weight w_v of R65. -/
def WTile.value (t : WTile) (row col : Nat) : Num :=
  ofInt (t.weight row col) ((t.scale col (row / 32) : Int) - 127 - unitExp t.f) false

/-! ## Promotion and accumulation (R62 to R65) -/

/-- Whether two numbers have one value. -/
def Num.same : Num → Num → Bool
  | .fin n m e, .fin n' m' e' => signedAt n m e (min e e') == signedAt n' m' e' (min e e')
  | .inf a, .inf b => a == b
  | _, _ => false

/-- An accumulator and the inexact promotions it has received (R63). -/
structure Acc where
  v    : Word
  inex : Nat
  deriving DecidableEq, Repr

/-- The promoted value S × 2^E is added (R62, R63). -/
def Acc.promote (a : Acc) (x : Num) : Acc :=
  let p := toFp x
  { v := fpAdd a.v p, inex := a.inex + (if (ofFp p).same x then 0 else 1) }

/-- A term of the outlier lane or of a residual correction is added: its exact product, rounded once (R65). -/
def Acc.term (a : Acc) (x y : Num) : Acc := { a with v := fpAdd a.v (toFp (x.mul y)) }

/-- The products of a block's rows with a column of weights, in the units of R58. -/
def WTile.products (t : WTile) (col kb : Nat) (b : ActBlk) : List Int :=
  (((List.range 32).map fun i => t.weight (32 * kb + i) col).zip b.codes).map fun p => p.1 * p.2

/-- The products of run `r`, of `n` rows (R60). -/
def runOf (n : Nat) (ps : List Int) (r : Nat) : List Int := (ps.drop (r * n)).take n

/-- The narrow adder over a run (R60). -/
def narrowSum (ps : List Int) : Int := ps.foldl (· + ·) 0

/-- Step 1 of R64 for one block and column: runs in narrow mode, single products in wide mode. -/
def Acc.runs (wide : Bool) (t : WTile) (col kb : Nat) (b : ActBlk) (a : Acc) : Acc :=
  let ew : Int := (t.scale col kb : Int) - 127 - unitExp t.f
  match b.wide with
  | some xs =>
    (((List.range 32).map fun i => t.weight (32 * kb + i) col).zip xs).foldl (fun (a : Acc) p => match p.2 with
      | .fin n m e => a.promote (ofInt (p.1 * (if n then -(m : Int) else m)) (ew + e) false)
      | _ => a) a
  | none =>
    let n := if wide then 1 else runRows t.f
    (List.range (32 / n)).foldl (fun (a : Acc) r =>
      a.promote (ofInt (narrowSum (runOf n (t.products col kb b) r)) (ew + ((b.scale : Int) - 127) - 6) false)) a

/-- One block's terms in the order of R64. -/
def Acc.block (wide : Bool) (t : WTile) (col kb : Nat) (a : Acc) (b : ActBlk) : Acc :=
  let a := a.runs wide t col kb b
  let a := b.ext.foldl (fun (a : Acc) e => a.term e.2 (t.value (32 * kb + e.1) col)) a
  (t.res.filter fun r => r.2.1 == col && r.1 / 32 == kb).foldl (fun (a : Acc) r =>
    a.term (ofBf r.2.2) (b.av.getD (r.1 % 32) .nan)) a

/-- One tile's contribution to a token's element: `blocks` are the token's activation blocks (R64). -/
def Acc.tile (wide : Bool) (col : Nat) (blocks : List ActBlk) (a : Acc) (kt : Nat) (t : WTile) : Acc :=
  (List.range 4).foldl (fun (a : Acc) kb => match blocks[4 * kt + kb]? with
    | some b => a.block wide t col kb b
    | none => a) a

/-- One output element: every reduction tile in ascending order (R57, R64). -/
def accElem (wide : Bool) (tiles : List WTile) (blocks : List ActBlk) (col : Nat) (start : Word) : Acc :=
  (enum tiles).foldl (fun (a : Acc) e => a.tile wide col blocks e.1 e.2) { v := start, inex := 0 }

/-- The reference of one element (R101). -/
def refElem (tiles : List WTile) (blocks : List ActBlk) (col : Nat) (start : Word) : Word :=
  (enum tiles).foldl (fun (r : Word) e =>
    (List.range 128).foldl (fun (r : Word) row => match blocks[4 * e.1 + row / 32]? with
      | none => r
      | some b =>
        let x := b.inp.getD (row % 32) .nan
        let r := fpAdd r (toFp (x.mul (e.2.value row col)))
        (e.2.res.filter fun q => q.1 == row && q.2.1 == col).foldl (fun (r : Word) q =>
          fpAdd r (toFp (x.mul (ofBf q.2.2)))) r) r) start

end Sys2Proof.Machine
end

