-- ==== Sys2Proof/Machine/GroupedCall.lean ====
section
/-! DEFINITION. Grouped calls of the matrix engines (R53 to R81, R87 to R104). A call is atomic at its issue: its outputs,
counts and samples appear then, and its engines stay held until its completion. -/
namespace Sys2Proof.Machine

/-! ## Descriptor and call -/

/-- A grouped call descriptor (R76). -/
structure GrpDesc where
  table  : Nat
  count  : Nat
  mask   : Nat
  k      : Nat
  n      : Nat
  layer  : Nat
  outFmt : Nat
  accum  : Bool
  actMx  : Bool
  rsv    : Bool
  deriving DecidableEq, Repr

def parseGrp (b : Bytes) : GrpDesc :=
  { table := u64 b 0, count := u16 b 8, mask := u16 b 10, k := u32 b 12, n := u32 b 16, layer := u16 b 20 % 4096,
    outFmt := u8 b 22, accum := bit (u8 b 23) 0, actMx := bit (u8 b 23) 1,
    rsv := u16 b 20 / 4096 != 0 || u8 b 23 / 4 != 0 || !allZero (sub b 24 8) }

/-- The descriptor check of R78 and R98. -/
def State.grpDescOk (s : State) (c m : Nat) (d : GrpDesc) : Bool :=
  let place := match s.ctx? c with | some x => x.mePlace m | none => 0
  !d.rsv && decide (d.outFmt ≤ 2) && (s.guardOf c d.layer).isSome && decide (1 ≤ d.count ∧ d.count ≤ 1024)
  && d.mask != 0 && d.mask &&& place == d.mask && decide (1 ≤ d.k ∧ d.k ≤ 262144) && decide (1 ≤ d.n ∧ d.n ≤ 262144)
  && (!d.accum || d.outFmt == 0) && ptrOk d.table

/-- A running grouped call. -/
structure GrpCall where
  c     : Nat
  m     : Nat
  desc  : Nat
  d     : GrpDesc
  g     : Safeguard
  wide  : Bool
  step  : Nat

/-- KT of R34. -/
def GrpCall.kt (q : GrpCall) : Nat := ceilDiv q.d.k 128
/-- The logical engines of the mask, ascending (R79). -/
def GrpCall.engines (q : GrpCall) : List Nat := bitsSet q.d.mask 16
/-- Column tile u runs on this engine (R79). -/
def GrpCall.engineOf (q : GrpCall) (u : Nat) : Nat := q.engines.getD (u % q.engines.length) 0
/-- Whether activation rows are read as BF16 (R76, R104). -/
def GrpCall.bf (q : GrpCall) : Bool := !q.d.actMx || (q.wide && q.g.wideRows)
/-- The effective OUT_GAP (R103). -/
def GrpCall.gap (q : GrpCall) : Nat := if q.wide then max 1 (q.g.outGap / 2) else q.g.outGap
/-- Passes per vector (R58, R69). -/
def GrpCall.passes (q : GrpCall) (f : Nat) : Nat := digitPasses f * (if q.wide then 2 else 1)

/-- Flags of ME_ERR (R85). -/
def State.meErr (s : State) (m : Nat) (w : Word) : State :=
  s.modMast m fun z => { z with me := { z.me with err := z.me.err ||| w } }
def meFmt : Word := 0x01
def meGrp : Word := 0x02
def meParity : Word := 0x04
def meAccCe : Word := 0x08
def meAccUc : Word := 0x10
def meNonfinite : Word := 0x20
def meInexact : Word := 0x40
def State.ttErr (s : State) (m : Nat) (w : Word) : State :=
  s.modMast m fun z => { z with tt := { z.tt with err := z.tt.err ||| w } }

/-! ## What a call leaves behind while it walks -/

/-- ME_ERR of a failure that an engine meets (R85). -/
def failFlag (cause : Nat) : Word :=
  if 0x1001 ≤ cause ∧ cause ≤ 0x1005 then meFmt else if cause = 0x1008 ∨ cause = 0x1009 then meGrp
  else if cause = 0x1006 then meParity else if cause = 0x1007 then meAccUc else 0

/-- Why a call stops: cause, unit, address, INFO1, its flag in ME_ERR, the records that other engines raise beside (R46, R56:
engine, cause, address), and how many of the column tiles that follow run beside the failed one and may add such a record. -/
structure CallFail where
  cause : Nat
  unit  : Nat
  addr  : Nat
  info1 : Nat
  flag  : Word
  also  : List (Nat × Nat × Nat)
  near  : Nat
  deriving DecidableEq, Repr

def failAt (unit : Nat) (e : Nat × Nat) : CallFail :=
  { cause := e.1, unit, addr := e.2, info1 := 0, flag := failFlag e.1, also := [], near := 0 }

/-- A fault of table entry `idx` (R78). -/
def entryFail (idx : Nat) : CallFail :=
  { cause := 0x1009, unit := noUnit, addr := 0, info1 := idx, flag := meGrp, also := [], near := 0 }

/-- Whether a cause is a format fault of the edge decoder (R45). -/
def isFmt (cause : Nat) : Bool := decide (0x1001 ≤ cause ∧ cause ≤ 0x1005)

/-- Engine `g` meets the fault `x` in a weight tile of entry `idx` (R45, R46): the engines beside it may meet one in the same
cycle. -/
def weightFail (q : GrpCall) (g idx : Nat) (x : Nat × Nat) : CallFail :=
  if x.1 = 0x1009 then entryFail idx
  else { failAt g x with near := if isFmt x.1 then q.engines.length - 1 else 0 }

/-- Engine `g` meets the fault `x` in an activation row. A scale of 0xFF is met by every engine that streams the row, and is no
check of R45 (R56, R85). -/
def rowFail (streams : List Nat) (g : Nat) (x : Nat × Nat) : CallFail :=
  { failAt g x with
    flag := 0, also := if x.1 = fmtScale then (streams.filter (· != g)).map fun g => (g, x.1, x.2) else [] }

/-- A run of output bytes: entry, engine, pointer. -/
structure Piece where
  entry  : Nat
  engine : Nat
  ptr    : Nat
  data   : Bytes
  deriving DecidableEq, Repr

/-- A call on its walk: the state, the next column tile, the outputs of the finished groups, the output regions (entry,
pointer, length) of the entries reached, the sampled tiles met, and why it stopped. -/
structure GrpRun where
  s       : State
  u       : Nat
  done    : List Piece
  regions : List (Nat × Nat × Nat)
  taken   : List TtSample
  fail    : Option CallFail

def GrpRun.start (s : State) : GrpRun := { s, u := 0, done := [], regions := [], taken := [], fail := none }

/-! ## Weight tiles (R45, R46, R55, R94 to R96) -/

/-- The residual entries that a burst names: all checked, those of the tile kept (R45 order 6, R488). `n`: entries kept
from earlier bursts of the tile. -/
def State.burstResiduals (s : State) (q : GrpCall) (e : GrpEntry) (g burst block0 n : Nat) (b : Bytes) :
    State × Except (Nat × Nat) (List (Nat × Nat × Nat)) :=
  let cnt := resCount b
  if !hasTail e.wfmt || cnt = 0 then (s, .ok [])
  else
    let at_ := e.w + resEntryOff e.wfmt q.d.k q.d.n (resFirst b)
    if !s.inMem q.c q.m at_ (4 * cnt) then (s, .error (0x1009, 0))
    else
      let r := s.fetch q.m (stream q.c g) at_ (4 * cnt)
      match r.2 with
      | .error x => (r.1, .error x)
      | .ok raw =>
        let es := (List.range cnt).map fun i => u32 raw (4 * i)
        let blocks := wBlocks q.d.k q.d.n
        let bad := es.any (resBad e.wfmt blocks burst) || !ascending (es.map resJ)
        let own := es.filter fun x => tileOf (resBlock e.wfmt burst x) == block0 / 512
        if bad || decide (256 < n + own.length) then (r.1, .error (fmtTail, e.w + burstOff e.wfmt burst))
        else (r.1, .ok (own.map fun x =>
          let blk := resBlock e.wfmt burst x % 512
          (blk % 4 * 32 + resJ x % 32, blk / 4, resCorr x)))

/-- One burst of a tile is read and checked (R45). -/
def State.tileBurst (s : State) (q : GrpCall) (e : GrpEntry) (g : Nat) (t : WTile) (burst : Nat) :
    State × Except (Nat × Nat) WTile :=
  let at_ := e.w + burstOff e.wfmt burst
  let r := s.fetch q.m (stream q.c g) at_ 128
  match r.2 with
  | .error x => (r.1, .error x)
  | .ok b => match burstFault e.wfmt b with
    | some cause => (r.1, .error (cause, at_))
    | none =>
      let p := r.1.burstResiduals q e g burst t.block0 t.res.length b
      (p.1, match p.2 with
        | .error x => .error x
        | .ok res => .ok { t with bursts := t.bursts ++ [b], res := t.res ++ res })

/-- The bursts of a tile in order; the first failure ends the walk. -/
def State.tileBursts (s : State) (q : GrpCall) (e : GrpEntry) (g : Nat) (t : WTile) : List Nat → State × Except (Nat × Nat) WTile
  | [] => (s, .ok t)
  | b :: bs => match s.tileBurst q e g t b with
    | (s, .error x) => (s, .error x)
    | (s, .ok t) => s.tileBursts q e g t bs

/-- A packed tile: a W2C tensor's codebook line first (R40, R46), then the bursts that hold its blocks (R35, R55). DESIGN CHOICE
(log entry 62): the codebook line is read with every tile that the engine loads; no rule says how often. -/
def State.packedTile (s : State) (q : GrpCall) (e : GrpEntry) (g tile : Nat) : State × Except (Nat × Nat) WTile :=
  let per := perBurst e.wfmt
  let q0 := 512 * tile / per
  let qs := (List.range ((512 * tile + 511) / per - q0 + 1)).map (· + q0)
  let cb : State × Except (Nat × Nat) Bytes :=
    if e.wfmt = wW2C then
      (match s.fetch q.m (stream q.c g) e.w 128 with
       | (s, .error x) => (s, .error x)
       | (s, .ok b) => (s, match codebookFault b with | some cause => .error (cause, e.w) | none => .ok b))
    else (s, .ok [])
  match cb with
  | (s, .error x) => (s, .error x)
  | (s, .ok b) => s.tileBursts q e g
      { f := e.wfmt, block0 := 512 * tile, cb := b, bursts := [], elems := [], scales := [], res := [] } qs

/-- A tile of a plain tensor: the scale check and the substitution of R30 (R46, R47). -/
def State.plainTile (s : State) (q : GrpCall) (e : GrpEntry) (g tile : Nat) : State × Except (Nat × Nat) WTile :=
  let sc := e.w + roundUp (wBlocks q.d.k q.d.n * 32) 128 + 512 * tile
  match s.fetch q.m (stream q.c g) (e.w + 16384 * tile) 16384 with
  | (s, .error x) => (s, .error x)
  | (s, .ok els) => match s.fetch q.m (stream q.c g) sc 512 with
    | (s, .error x) => (s, .error x)
    | (s, .ok scs) => match (enum scs).find? fun x => x.2 == 0xFF#8 with
      | some x => (s, .error (fmtScale, sc + x.1))
      | none =>
        let s := s.countM q.m (occ 0x010 (els.filter (· == 0x80#8)).length 1 q.c g)
        (s, .ok { f := e.wfmt, block0 := 512 * tile, cb := [], bursts := [], elems := els, scales := scs, res := [] })

/-- One tile of an entry's weight tensor is read. -/
def State.weightTile (s : State) (q : GrpCall) (e : GrpEntry) (g tile : Nat) : State × Except (Nat × Nat) WTile :=
  if e.wfmt = wINT8 then s.plainTile q e g tile else s.packedTile q e g tile

/-- The reduction tiles of a column tile, in ascending k_t (R57). -/
def State.columnTiles (s : State) (q : GrpCall) (e : GrpEntry) (g nt : Nat) : List Nat → State × Except (Nat × Nat) (List WTile)
  | [] => (s, .ok [])
  | kt :: kts =>
    match s.weightTile q e g (nt * q.kt + kt) with
    | (s, .error x) => (s, .error x)
    | (s, .ok t) => match s.columnTiles q e g nt kts with
      | (s, .error x) => (s, .error x)
      | (s, .ok ts) => (s, .ok (t :: ts))

/-! ## Activations (R56, R89 to R91) -/

/-- A token row as it was read: BF16 elements, or MXINT8 codes with scale codes; padding reads as zero (R56). -/
structure ActRow where
  elems  : List Num
  codes  : List Nat
  scales : List Nat
  deriving DecidableEq, Repr

/-- The part of a row that lies in reduction tile `kt`. -/
def ActRow.join (a b : ActRow) : ActRow :=
  { elems := a.elems ++ b.elems, codes := a.codes ++ b.codes, scales := a.scales ++ b.scales }

/-- The elements below K of row `t` that lie in reduction tile `kt` are read. The error of an MXINT8 scale of 0xFF is FMT_SCALE
at the scale's address. An ACT_PTR may name DRAM, which R75 allows and R78 does not fail; the rows are then read there (DESIGN
CHOICE, log entry 90; R56). -/
def State.actPart (s : State) (q : GrpCall) (e : GrpEntry) (g t kt : Nat) : State × Except (Nat × Nat) ActRow :=
  let at_ := t * (128 * q.kt) + 128 * kt
  let n := min 128 (q.d.k - 128 * kt)
  if q.bf then
    match s.fetch q.m (stream q.c g) (e.act + 2 * at_) (2 * n) with
    | (s, .error x) => (s, .error x)
    | (s, .ok b) => (s, .ok { elems := (List.range 128).map fun i => if i < n then ofBf (u16 b (2 * i)) else .fin false 0 0,
                              codes := [], scales := [] })
  else
    let sc := e.act + roundUp (e.tokens * (128 * q.kt)) 128 + at_ / 32
    match s.fetch q.m (stream q.c g) (e.act + at_) n with
    | (s, .error x) => (s, .error x)
    | (s, .ok b) => match s.fetch q.m (stream q.c g) sc (ceilDiv n 32) with
      | (s, .error x) => (s, .error x)
      | (s, .ok scs) => match (enum scs).find? fun x => x.2 == 0xFF#8 with
        | some x => (s, .error (fmtScale, sc + x.1))
        | none => (s, .ok { elems := [], codes := (List.range 128).map (byteAt b), scales := scs.map (·.toNat) })

/-- The vectors of a token group that stream through reduction tile `kt`. -/
def State.actParts (s : State) (q : GrpCall) (e : GrpEntry) (g kt : Nat) : List Nat → State × Except (Nat × Nat) (List ActRow)
  | [] => (s, .ok [])
  | t :: ts => match s.actPart q e g t kt with
    | (s, .error x) => (s, .error x)
    | (s, .ok r) => match s.actParts q e g kt ts with
      | (s, .error x) => (s, .error x)
      | (s, .ok rs) => (s, .ok (r :: rs))

/-- A stream's walk over k_t: each tile, then the vectors of the group that go through it (R57). `idx`: the entry's index;
`streams`: the engines that stream the entry's rows. -/
def State.ktWalk (s : State) (q : GrpCall) (e : GrpEntry) (idx g nt : Nat) (streams toks : List Nat) :
    List Nat → State × Except CallFail (List (WTile × List ActRow))
  | [] => (s, .ok [])
  | kt :: kts => match s.weightTile q e g (nt * q.kt + kt) with
    | (s, .error x) => (s, .error (weightFail q g idx x))
    | (s, .ok t) => match s.actParts q e g kt toks with
      | (s, .error x) => (s, .error (rowFail streams g x))
      | (s, .ok rs) => match s.ktWalk q e idx g nt streams toks kts with
        | (s, .error x) => (s, .error x)
        | (s, .ok l) => (s, .ok ((t, rs) :: l))

/-- The rows of a group of `n` tokens, put together from the vectors read. -/
def rowsOf (n : Nat) (l : List (WTile × List ActRow)) : List ActRow :=
  (List.range n).map fun i => l.foldl (fun a x => a.join (x.2.getD i { elems := [], codes := [], scales := [] }))
    { elems := [], codes := [], scales := [] }

/-- The blocks of a stream, token by token, with the refusals, substituted blocks and clamped codes it counts. -/
structure StreamActs where
  blocks : List (List ActBlk)
  ovf    : Nat
  nf     : Nat
  clamps : Nat

/-- The 32 elements of block `b`. -/
def ActRow.elems32 (r : ActRow) (b : Nat) : List Num := (r.elems.drop (32 * b)).take 32

/-- The activation side of a stream (R89): extraction runs over the vectors in stream order, reduction tile by reduction
tile and token by token. -/
def streamActs (q : GrpCall) (f : Nat) (rows : List ActRow) : StreamActs :=
  let n := rows.length
  let nb := 4 * q.kt
  if q.bf then
    let vecs := (List.range q.kt).flatMap fun kt => rows.map fun r =>
      (List.range 4).map fun j => candidates q.gap (r.elems32 (4 * kt + j))
    let lane := Lane.stream (q.passes f) { c := 0, u := q.kt * n * 128 * q.g.outBudget / 10000, ovf := 0 } vecs
    let blocks := (enum rows).map fun e => (List.range nb).map fun b =>
      bfBlock q.wide (e.2.elems32 b) (lane.2.getD ((b / 4 * n + e.1) * 4 + b % 4) [])
    { blocks, ovf := lane.1.ovf, clamps := 0,
      nf := (blocks.map fun bs => (bs.filter (·.subst)).length).foldl (· + ·) 0 }
  else
    { blocks := rows.map fun r => (List.range nb).map fun b =>
        mxBlock ((r.codes.drop (32 * b)).take 32) (r.scales.getD b 0),
      ovf := 0, nf := 0, clamps := (rows.map fun r => (r.codes.filter (· == 0x80)).length).foldl (· + ·) 0 }

/-! ## Sampling (R99, R100) -/

/-- The parameters that govern a context's sampling on a mast (R111). -/
def TtBlk.latchOf (t : TtBlk) (c : Nat) : TtLatch :=
  (tget t.latch c).getD { sampleEn := t.sampleEn, autoEn := t.autoEn, seed := t.seed }

/-- Whether check tile `g` is sampled (R99). -/
def sampled (q : GrpCall) (l : TtLatch) (g : Nat) : Bool :=
  q.g.ttEnable && l.sampleEn && (g + (l.seed + q.step * 0x9E3779B9) % 2 ^ 32) % 2 ^ q.g.ttK == 0

/-- The next check tile of the call's layer takes its number; the number of a sampled one is answered (R99). DESIGN CHOICE (log entry
105): the order of a layer's calls is the one in which they are issued. -/
def GrpRun.tileNo (r : GrpRun) (q : GrpCall) : GrpRun × Option Nat :=
  let t := (r.s.mast q.m).tt
  let key := recKey q.c q.d.layer
  let no := tgetD t.tiles key 0
  let s := r.s.modMast q.m fun z => { z with tt := { z.tt with tiles := tset z.tt.tiles key (no + 1) } }
  ({ r with s }, if sampled q (t.latchOf q.c) no then some no else none)

/-- The check tiles of a stream: chunk and tile number of those that are sampled. -/
def GrpRun.tileNos (r : GrpRun) (q : GrpCall) : List Nat → GrpRun × List (Nat × Nat)
  | [] => (r, [])
  | ch :: chs =>
    let a := r.tileNo q
    let b := GrpRun.tileNos a.1 q chs
    (b.1, match a.2 with | some no => (ch, no) :: b.2 | none => b.2)

/-- How many channels sampled tiles of an engine can hold at once: one for tiles of streams with one reduction tile, which follow
each other, else as many as lie in one stream (R100). -/
def engineHold (xs : List TtSample) (g : Nat) : Nat :=
  let own := xs.filter fun y => y.engine == g
  if own.all fun y => !y.multi then min 1 own.length
  else maxD (own.map fun y => (own.filter fun z => z.stream == y.stream).length) 0

/-- How many channels the tiles of every other engine can hold while a tile of engine `g` begins. -/
def holdBeside (xs : List TtSample) (g : Nat) : Nat :=
  (((List.range 16).filter (· != g)).map (engineHold xs)).foldl (· + ·) 0

/-- The sampled tiles of a mast's running calls take a channel of the verification unit or are skipped (R100). A tile of its own
stream, met before it, holds a channel all through the stream when that has more than one reduction tile; with one, the tiles of
a stream follow each other. Tiles of other engines may hold a channel at that time or not: where they can leave none free, a
free value says whether they do (log entry 61). `kept`: the tiles followed so far. -/
def State.pickTiles (m : Nat) : List TtSample → State → List TtSample → State × List TtSample
  | [], s, kept => (s, kept)
  | x :: xs, s, kept =>
    let own := if x.multi then (kept.filter fun y => y.engine == x.engine && y.stream == x.stream).length else 0
    let open_ := decide (own < 2 ∧ 2 ≤ own + holdBeside (kept ++ xs) x.engine)
    let skip := decide (2 ≤ own) || (open_ && bit s.freeNat 0)
    let s := if open_ then s.drawn else s
    if skip then State.pickTiles m xs ((s.countM m (occ 0x023 1 1 x.ctx 0x17)).ttErr m 2) kept
    else State.pickTiles m xs s (kept ++ [x])

/-- A walk that has ended settles which sampled tiles are followed, and those wait for their comparison (R100, R102). Tiles of the
mast's other running calls that have not been compared may yet be met by this call's and skipped. -/
def GrpRun.settle (q : GrpCall) (r : GrpRun) : GrpRun :=
  let all := (r.s.mast q.m).tt.samples
  if r.taken.isEmpty then r
  else
    let p := State.pickTiles q.m (all.filter (·.live) ++ r.taken) r.s []
    { r with s := p.1.modMast q.m fun z => { z with tt := { z.tt with samples := all.filter (fun x => !x.live) ++ p.2 } } }

/-! ## Output (R67, R81) -/

/-- Bytes of an output of `rows` rows of N_p elements. -/
def GrpDesc.outBytes (d : GrpDesc) (rows : Nat) : Nat :=
  let n := rows * pad128 d.n
  if d.outFmt = 0 then 4 * n else if d.outFmt = 1 then 2 * n else roundUp n 128 + n / 32

/-- The pieces of one token's 128 columns of column tile `nt`, and the blocks with a substitution (R67, R49). -/
def outPieces (q : GrpCall) (e : GrpEntry) (idx g t nt : Nat) (vals : List Word) : List Piece × Nat :=
  let at_ := t * pad128 q.d.n + 128 * nt
  let piece := fun off data => ({ entry := idx, engine := g, ptr := e.out + off, data } : Piece)
  if q.d.outFmt = 0 then ([piece (4 * at_) (vals.flatMap fun v => natLe 4 v.toNat)], 0)
  else if q.d.outFmt = 1 then ([piece (2 * at_) (vals.flatMap fun v => natLe 2 (toBf (ofFp v)))], 0)
  else
    let bs := (List.range 4).map fun b => mxEncode .mxint8 (((vals.drop (32 * b)).take 32).map ofFp)
    ([piece at_ (bs.flatMap fun b => packBlock 0 b.codes),
      piece (roundUp (e.tokens * pad128 q.d.n) 128 + at_ / 32) (bs.map fun b => BitVec.ofNat 8 b.scale)],
     (bs.filter (·.subst)).length)

/-- Writes the pieces in order; the first that fails ends it. -/
def State.writePieces (s : State) (q : GrpCall) : List Piece → State × Option CallFail
  | [] => (s, none)
  | p :: ps =>
    match s.writeAt q.m (stream q.c p.engine) p.ptr p.data with
    | (s, some e) => (s, some (failAt p.engine e))
    | (s, none) => s.writePieces q ps

/-- The part of a piece that lies in a 128-byte line. -/
def Piece.clip (p : Piece) (line : Nat) : Option Piece :=
  let lo := max p.ptr (128 * line)
  let hi := min (p.ptr + p.data.length) (128 * line + 128)
  if lo < hi then some { p with ptr := lo, data := sub p.data (lo - p.ptr) (hi - lo) } else none

/-- The lines in which two entries' outputs overlap (R81). -/
def sharedLines (rs : List (Nat × Nat × Nat)) : List Nat :=
  dedup (rs.flatMap fun a => rs.flatMap fun b =>
    if a.1 < b.1 && overlap a.2.1 a.2.2 b.2.1 b.2.2 then
      let lo := max a.2.1 b.2.1 / 128
      let hi := (min (a.2.1 + a.2.2) (b.2.1 + b.2.2) + 127) / 128
      (List.range (hi - lo)).map (· + lo)
    else [])

/-- A shared line holds what one of its writers wrote: a free value names it (R81). -/
def State.settleLine (s : State) (q : GrpCall) (ps : List Piece) (line : Nat) : State × Option CallFail :=
  let own := ps.filterMap fun p => p.clip line
  let writers := dedup (own.map (·.entry))
  let w := writers.getD (s.freeNat % writers.length) 0
  s.drawn.writePieces q (own.filter fun p => p.entry == w)

/-- The outputs of a call are written. -/
def State.writeOutputs (s : State) (q : GrpCall) (ps : List Piece) (rs : List (Nat × Nat × Nat)) : State × Option CallFail :=
  (sharedLines rs).foldl (fun (a : State × Option CallFail) l => match a.2 with
    | some _ => a
    | none => a.1.settleLine q ps l) (s.writePieces q ps)

/-! ## One column tile and token group (R57, R64) -/

/-- The FP32 words at which a token's accumulators start (R64). -/
def State.startRow (s : State) (q : GrpCall) (e : GrpEntry) (g t nt : Nat) : State × Except (Nat × Nat) (List Word) :=
  if !q.d.accum then (s, .ok (List.replicate 128 fpZero))
  else match s.fetch q.m (stream q.c g) (e.out + 4 * (t * pad128 q.d.n + 128 * nt)) 512 with
    | (s, .error x) => (s, .error x)
    | (s, .ok b) => (s, .ok ((List.range 128).map fun i => BitVec.ofNat 32 (u32 b (4 * i))))

def State.startRows (s : State) (q : GrpCall) (e : GrpEntry) (g nt : Nat) : List Nat → State × Except (Nat × Nat) (List (List Word))
  | [] => (s, .ok [])
  | t :: ts => match s.startRow q e g t nt with
    | (s, .error x) => (s, .error x)
    | (s, .ok r) => match s.startRows q e g nt ts with
      | (s, .error x) => (s, .error x)
      | (s, .ok rs) => (s, .ok (r :: rs))

/-- What a stream counts (R30, R49, R63, R67, R89). -/
def State.countStream (s : State) (q : GrpCall) (g ovf nf clamps inex accnf : Nat) : State :=
  let n := fun ev k => occ ev k 1 q.c g
  let s := ((((s.countM q.m (n 0x020 ovf)).countM q.m (n 0x011 nf)).countM q.m (n 0x010 clamps)).countM q.m
    (n 0x013 inex)).countM q.m (n 0x014 accnf)
  let s := if ovf = 0 then s else s.ttErr q.m 1
  let s := s.meErr q.m ((if nf = 0 ∧ accnf = 0 then 0 else meNonfinite) ||| (if inex = 0 then 0 else meInexact))
  let s := if nf = 0 then s else s.limitRec q.c q.m g q.d.layer 0x100C .nonfiniteAct
  if accnf = 0 then s else s.limitRec q.c q.m g q.d.layer 0x100D .accNonfinite

/-- A sampled check tile with the values produced and the reference (R99, R101). -/
def checkTile (q : GrpCall) (tiles : List WTile) (blocks : List (List ActBlk)) (starts : List (List Word))
    (accs : List (List Acc)) (g nt stream : Nat) (x : Nat × Nat) : TtSample :=
  let cols := List.range (min 128 (q.d.n - 128 * nt))
  let toks := ((List.range 32).map (· + 32 * x.1)).filter fun t => decide (t < blocks.length)
  { ctx := q.c, layer := q.d.layer, tile := x.2, thr := q.g.ttThr, engine := g, stream, multi := q.kt != 1, live := true,
    prod := toks.flatMap fun t => cols.map fun col => ((accs.getD t []).getD col { v := fpNan, inex := 0 }).v,
    ref := toks.flatMap fun t => cols.map fun col =>
      refElem tiles (blocks.getD t []) col ((starts.getD t []).getD col fpZero) }

/-- The arithmetic of a stream whose inputs have been read. -/
def GrpRun.compute (r : GrpRun) (q : GrpCall) (e : GrpEntry) (idx g nt stream_ : Nat) (toks : List Nat)
    (a : StreamActs) (tiles : List WTile) (starts : List (List Word)) : GrpRun × List Piece :=
  let accs := (a.blocks.zip starts).map fun p => (enum p.2).map fun x => accElem q.wide tiles p.1 x.1 x.2
  let outs := (toks.zip accs).map fun p => outPieces q e idx g p.1 nt (p.2.map (·.v))
  let all := accs.flatMap id
  let nf := a.nf + (outs.map (·.2)).foldl (· + ·) 0
  let s := r.s.countStream q g a.ovf nf a.clamps ((all.map (·.inex)).foldl (· + ·) 0)
    (all.filter fun x => !fpIsFinite x.v).length
  let t := GrpRun.tileNos { r with s } q (List.range (ceilDiv toks.length 32))
  ({ t.1 with taken := t.1.taken ++ t.2.map (checkTile q tiles a.blocks starts accs g nt stream_) },
   outs.flatMap (·.1))

/-- One token group of one column tile: the accumulators start, tiles and vectors are read in the order of R57, and the group's
outputs are formed. `streams`: the engines that stream the entry's rows. DESIGN CHOICE (log entry 89): a group in which the call
fails has counted nothing (R63). -/
def GrpRun.group (q : GrpCall) (e : GrpEntry) (idx nt : Nat) (streams : List Nat) (r : GrpRun) (group : Nat) :
    GrpRun × List Piece :=
  match r.fail with
  | some _ => (r, [])
  | none =>
    let g := q.engineOf r.u
    let toks := ((List.range 256).map (· + 256 * group)).filter fun t => decide (t < e.tokens)
    match r.s.startRows q e g nt toks with
    | (s, .error x) => ({ r with s, fail := some (failAt g x) }, [])
    | (s, .ok starts) => match s.ktWalk q e idx g nt streams toks (List.range q.kt) with
      | (s, .error x) => ({ r with s, fail := some x }, [])
      | (s, .ok l) =>
        GrpRun.compute { r with s } q e idx g nt (r.u * 128 + group) toks (streamActs q e.wfmt (rowsOf toks.length l))
          (l.map (·.1)) starts

/-- After a format fault, the engine of a column tile that runs beside the failed one may meet its own first fault in the same
cycle; a free value says whether it does (R46, log entry 62). -/
def GrpRun.beside (q : GrpCall) (e : GrpEntry) (nt : Nat) (r : GrpRun) (f : CallFail) : GrpRun :=
  let f := { f with near := f.near - 1 }
  if bit r.s.freeNat 0 then
    let g := q.engineOf r.u
    match r.s.drawn.columnTiles q e g nt (List.range q.kt) with
    | (s, .error x) => { r with s, fail := some (if isFmt x.1 then { f with also := f.also ++ [(g, x.1, x.2)] } else f) }
    | (s, .ok _) => { r with s, fail := some f }
  else { r with s := r.s.drawn, fail := some f }

/-- The token groups of one column tile (R57). -/
def GrpRun.column (q : GrpCall) (e : GrpEntry) (idx : Nat) (streams : List Nat) (a : GrpRun × List Piece) (nt : Nat) :
    GrpRun × List Piece :=
  let b := match a.1.fail with
    | some f => if f.near = 0 then a else (a.1.beside q e nt f, a.2)
    | none => (List.range (ceilDiv e.tokens 256)).foldl (fun (a : GrpRun × List Piece) grp =>
        let x := a.1.group q e idx nt streams grp
        (x.1, a.2 ++ x.2)) a
  ({ b.1 with u := b.1.u + 1 }, b.2)

/-! ## Entries and the call (R77 to R80) -/

/-- The entry checks of R78. A region of no rows has no bytes; the weight tensor's extent does not depend on TOKENS. -/
def State.entryOk (s : State) (q : GrpCall) (e : GrpEntry) : Bool :=
  !e.rsv && knownWfmt e.wfmt && decide (e.tokens ≤ 32768) && ptrOk e.act && ptrOk e.w && ptrOk e.out
  && s.inMem q.c q.m e.w (wBytes e.wfmt q.d.k q.d.n)
  && (e.tokens == 0
      || (s.inMem q.c q.m e.act (actBytes (b2n (!q.bf)) q.d.k e.tokens) && s.inMem q.c q.m e.out (q.d.outBytes e.tokens)))

/-- The column tiles of an entry that holds. Groups that were finished have written their results, whatever follows (R57). DESIGN
CHOICE (log entry 62): of tiles that engines run side by side the lowest number counts as the first to fail, those before it as
finished, and those after it as having written nothing. -/
def GrpRun.columns (q : GrpCall) (e : GrpEntry) (idx : Nat) (r : GrpRun) : GrpRun :=
  let nts := ceilDiv q.d.n 128
  let streams := (List.range 16).filter fun g => (List.range nts).any fun i => q.engineOf (r.u + i) == g
  let a := (List.range nts).foldl (GrpRun.column q e idx streams) (r, [])
  { a.1 with done := a.1.done ++ a.2, regions := a.1.regions ++ [(idx, e.out, q.d.outBytes e.tokens)] }

/-- Column tiles of entry `idx` that other engines run beside a failed one, which lies in an earlier entry (R46, R79). -/
def GrpRun.besideEntry (q : GrpCall) (r : GrpRun) (f : CallFail) (idx : Nat) : GrpRun :=
  let at_ := q.d.table + 32 * idx
  let stop := fun (s : State) => { r with s, fail := some { f with near := 0 } }
  if f.near = 0 then r
  else if !r.s.inMem q.c q.m at_ 32 then stop r.s
  else match r.s.fetch q.m (control q.c 0x18) at_ 32 with
  | (s, .error _) => stop s
  | (s, .ok b) =>
    let e := parseEntry77 b
    if !s.entryOk q e then stop s
    else if e.tokens = 0 then { r with s }
    else ((List.range (ceilDiv q.d.n 128)).foldl (GrpRun.column q e idx []) ({ r with s }, [])).1

/-- The walk reaches entry `idx`. -/
def GrpRun.entry (q : GrpCall) (r : GrpRun) (idx : Nat) : GrpRun :=
  match r.fail with
  | some f => GrpRun.besideEntry q r f idx
  | none =>
    let at_ := q.d.table + 32 * idx
    if !r.s.inMem q.c q.m at_ 32 then
      { r with fail := some (if ptrSpace at_ = 1 then { entryFail idx with cause := 0x1303, addr := ptrOff at_, flag := 0 }
                             else entryFail idx) }
    else match r.s.fetch q.m (control q.c 0x18) at_ 32 with
      | (s, .error x) => { r with s, fail := some (failAt noUnit x) }
      | (s, .ok b) =>
        let e := parseEntry77 b
        if !s.entryOk q e then { r with s, fail := some (entryFail idx) }
        else if e.tokens = 0 then { r with s }
        else GrpRun.columns q e idx { r with s }

/-- A call ends in a contained error (R46, R71, R78). -/
def State.callFails (s : State) (q : GrpCall) (f : CallFail) : State :=
  let s := s.meErr q.m f.flag
  let rec_ := fun cause unit addr => { mkRec cause clsUC q.m unit q.c with layer := q.d.layer, addr }
  if f.cause = 0x1303 then s.spadRange q.c q.m f.unit f.addr
  else (f.also.foldl (fun (s : State) g => s.raise (rec_ g.2.1 g.1 g.2.2)) s).contained
    { rec_ f.cause f.unit f.addr with info1 := f.info1 }

/-- An error inside an engine of the call (R71): the state, whether the call goes on. DESIGN CHOICE (log entry 105): a tile that is
decoded again is not read from memory again. -/
def State.engineError (q : GrpCall) (a : State × Bool) (x : EngineError) : State × Bool :=
  let rec_ := fun cause cls g => { mkRec cause cls q.m g q.c with layer := q.d.layer }
  if !a.2 then a
  else match x with
  | .parity g => if bit q.d.mask g then ((a.1.meErr q.m meParity).raise (rec_ 0x100A clsCE g), true) else a
  | .accSingle g => if bit q.d.mask g then ((a.1.meErr q.m meAccCe).raise (rec_ 0x100B clsCE g), true) else a
  | .parityAgain g => if bit q.d.mask g then ((a.1.meErr q.m meParity).contained (rec_ 0x1006 clsUC g), false) else a
  | .accDouble g => if bit q.d.mask g then ((a.1.meErr q.m meAccUc).contained (rec_ 0x1007 clsUC g), false) else a
  | .logic g => if bit q.d.mask g then (a.1.fence q.m 0x0103, false) else a

/-- Engines of a mask that run no call (R79, R80). -/
def Mast.enginesFree (z : Mast) (mask : Nat) : Bool :=
  z.me.engines.all fun e => !bit mask e.1

/-- A call holds its engines until it completes (R80, R86). What its engines do at a moment, and which entry they have reached,
is timing: free values, by their draws and the time. -/
def State.holdEngines (s : State) (q : GrpCall) : State :=
  let st := fun g : Nat =>
    ({ ctx := q.c, layer := q.d.layer, wide := q.wide, draw := s.free + g, count := q.d.count } : EngineState)
  (s.drawnN 16).modMast q.m fun z => { z with
    calls := z.calls ++ [{ ctx := q.c, kind := .grouped, layer := q.d.layer, mask := q.d.mask, left := 0, desc := q.desc }],
    me := { z.me with engines := q.engines.foldl (fun t g => tset t g (st g)) z.me.engines } }

/-- A call whose groups have run writes its outputs and holds its engines, or fails (R46, R71). -/
def State.groupsRan (q : GrpCall) (r : GrpRun) : State :=
  let w := r.s.writeOutputs q r.done r.regions
  match r.fail, w.2 with
  | some f, _ => w.1.callFails q f
  | none, some f => w.1.callFails q f
  | none, none => w.1.holdEngines q

/-- The walk over the entries of a call (R78, R79). -/
def GrpRun.walk (q : GrpCall) (s : State) : GrpRun :=
  ((List.range q.d.count).foldl (GrpRun.entry q) (GrpRun.start s)).settle q

/-- A call whose descriptor holds runs. -/
def State.runGrouped (s : State) (q : GrpCall) (errs : List EngineError) : State :=
  let a := errs.foldl (State.engineError q) (s, true)
  if !a.2 then a.1 else State.groupsRan q (GrpRun.walk q a.1)

/-- The call of a descriptor that holds. -/
def State.grpCall (s : State) (c m desc : Nat) (d : GrpDesc) (g : Safeguard) : GrpCall :=
  { c, m, desc, d, g, wide := s.layerWide c m d.layer, step := match s.ctx? c with | some x => x.stepNo | none => 0 }

/-- A grouped call whose descriptor has been read (R78, R98). -/
def State.groupedDesc (s : State) (c m desc : Nat) (errs : List EngineError) (b : Bytes) : State :=
  let d := parseGrp b
  match s.guardOf c d.layer with
  | some g =>
    if s.grpDescOk c m d then
      if (s.mast m).enginesFree d.mask then
        s.runGrouped (s.grpCall c m desc d g) errs
      else s
    else (s.meErr m meGrp).contained { mkRec 0x1008 clsUC m noUnit c with layer := d.layer }
  | none => (s.meErr m meGrp).contained { mkRec 0x1008 clsUC m noUnit c with layer := d.layer }

/-- GROUPED_CALL: a call is issued, and storage upsets strike as it starts. -/
def execGroupedCall (c m desc : Nat) (errs : List EngineError) (ups : List Upset) (s : State) :
    Host.Outcome State Fault Refusal :=
  onMast m s (s.whenAlive (
    if !s.canStart c m desc then s
    else
      let s := s.strikeAll ups
      if !s.alive || !s.canStart c m desc then s
      else
      let s := if s.descFault c m desc 32 then s.meErr m meGrp else s
      s.withDesc c m 0x1008 desc 32 fun s b => s.groupedDesc c m desc errs b))

/-- GROUPED_CALL_COMPLETE: the oldest grouped call of the context on the mast has written its last output, and its
engines are idle (R80, R86); its sampled tiles have ended (R100). A frozen call does not end (R394, R395). -/
def execGroupedCallComplete (c m : Nat) (s : State) : Host.Outcome State Fault Refusal :=
  onMast m s (s.whenAlive (
    if s.frozen c then s
    else match (s.mast m).calls.find? fun r => r.ctx == c && r.kind == .grouped with
    | none => s
    | some r => (s.callEnded c m r.desc).modMast m fun z => { z with
        calls := z.calls.erase r,
        tt := { z.tt with samples := z.tt.samples.map fun x => if bit r.mask x.engine then { x with live := false } else x },
        me := { z.me with engines := z.me.engines.filter fun e => !(bit r.mask e.1 && e.2.ctx == c) } }))

/-- TT_COMPARE: the oldest sampled tile of a mast is compared (R102), unless a coolant stop holds its clocks (R394). -/
def execTtCompare (m : Nat) (s : State) : Host.Outcome State Fault Refusal :=
  onMast m s (s.whenAlive (if s.mastUp m && !s.pwr.coolstop then s.compareTile m else s))

end Sys2Proof.Machine
end

