-- ==== Sys2Proof/Machine/HostLink.lean ====
section
/-! DEFINITION. Events of the UCIe modules: training, flits with their replay, reassembly and framing on a channel,
retraining, RESUME and the return of a channel to its home module (R241 to R250, R260, R267 to R269). -/
namespace Sys2Proof.Machine

/-- The mainband interfaces work: training has been enabled and no fatal error has switched them off (R250, R414). -/
def State.mainband (s : State) : Bool := s.hif.ready && !s.flt.fatal

/-- A module carries flits. -/
def State.carries (s : State) (m : Nat) : Bool := s.mainband && (s.hmod m).state == hmUp

/-! ## Moving the flits of a dead module (R248) -/

/-- The flits that dead modules left, each with its module, in their original order (R248). -/
def State.leftFlits (s : State) : List (Nat × Flit) :=
  sortBy (fun (a b : Nat × Flit) => decide (a.2.born ≤ b.2.born)) (s.hif.mods.flatMap fun e => e.2.rest.map fun f => (e.1, f))

/-- An older flit of the same channel has still to go again (R248). -/
def State.olderLeft (s : State) (f : Flit) : Bool :=
  let older := fun (g : Flit) => g.typ == 1 && g.ch == f.ch && decide (g.born < f.born)
  s.hif.mods.any fun e => e.2.rest.any older || (e.2.awaits && e.2.replay.any older)

/-- A flit that a dead module left goes out on the module its channel is on now, if that has room and takes new flits and every older
flit of the channel has gone (R245, R248). -/
def State.moveFlit (s : State) (e : Nat × Flit) : State :=
  let n := (s.chan e.2.ch).module
  if s.room n = 0 || (s.hmod n).awaits || s.olderLeft e.2 then s
  else
    let t := s.modHmod e.1 fun x => { x with rest := x.rest.filter fun f => f.born != e.2.born }
    t.sendFlits n [{ e.2 with seq := (s.hmod n).txSeq, resends := 0 }]

/-- What waited for room in a replay buffer goes: RESUME flits, then flits of dead modules in their original order (R245, R248). -/
def State.fillRoom (s : State) : State :=
  let s := (List.range 4).foldl (fun (s : State) d => s.sendResume d) s
  s.leftFlits.foldl (fun (s : State) e => s.moveFlit e) s

/-- A RESUME that its peer did not accept before its module went down is owed again (R248). -/
def State.oweLost (s : State) (fs : List Flit) : State :=
  (fs.filter fun f => f.typ == 2).foldl (fun (s : State) f =>
    s.modHmod (bits (u32 f.payload 0) 12 2) fun x => { x with owes := true }) s

/-- RESUME arrived on module `m`: the peer counts `dead` as having gone down and accepted `last` on it. This end counts it so
too, and the DATA flits after `last` go again; numbering on it goes on after `last` (R248). Where the link was down and
`m` itself is that module, its flits go again where they stand (R249). DEDUCED (log entry 74): these two numberings. -/
def State.resumed (s : State) (m dead last : Nat) : State :=
  let gone := !(s.hmod dead).awaits && ((s.hmod dead).state == hmUp || (s.hmod dead).state == hmRetraining)
  if dead = m then
    (s.modHmod m fun x => { x with replay := flitsAfter x.replay last, awaits := false }).resendFlits m
  else
    (((if gone then s.moduleDown dead else s).oweLost (flitsAfter (s.hmod dead).replay last)).modHmod dead fun x =>
      { x with rest := x.rest ++ (flitsAfter x.replay last).filter fun f => f.typ == 1, replay := [], awaits := false,
               txSeq := (last + 1) % 4096 }).fillRoom

/-! ## Training (R241, R247, R249) -/

/-- A module is up: channels of modules that went down move to the lowest-numbered one that is up, what was owed to the host
goes out, and after a link down the two ends resume (R247 to R249). -/
def State.moduleUp (s : State) (m lanes repaired : Nat) : State :=
  let s := s.modHmod m fun x =>
    { x with state := hmUp, lanes, repaired, failRun := 0, replay := x.replay.map fun f => { f with resends := 0 } }
  (List.range 8).foldl (fun (s : State) c => s.sendCredit c)
    (State.gather { s with hif := { s.hif with resumeFrom := none } } (minD s.modsUp m)).fillRoom

/-- A module that trained at a lower rate or without all its lanes is held down; a channel on it goes to a module that is
up, and with the last of them down the link is (R241, R247, R249). -/
def State.moduleHeld (s : State) (m : Nat) : State :=
  let s := s.modHmod m fun x => { x with state := hmDown }
  match s.modsUp with
  | n :: _ => s.gather n
  | [] => s.linkCheck m

/-- A data rate the device trains at (R240). -/
def ucieRate (rate : Nat) : Bool := [4, 8, 12, 16, 24, 32].contains rate

/-- Training of a module ends (R241). -/
def State.moduleTrained (s : State) (m rate lanes repaired : Nat) : State :=
  if !s.mainband || !(s.hmod m).trains || !ucieRate rate then s
  else
    let s := s.modHmod m fun x => { x with rate, lanes, repaired, fresh := false }
    if rate = 32 && lanes = 64 && !(s.hmod m).broken then s.moduleUp m lanes repaired else s.moduleHeld m

/-- UCIE_MODULE_TRAINED. -/
def execUcieModuleTrained (m rate lanes repaired : Nat) (s : State) : Host.Outcome State Fault Refusal :=
  onModule m s (s.moduleTrained m rate lanes repaired)

/-! ## Retraining (R246) -/

/-- Retrains of the last second, this one among them. -/
def recentRetrains (now : Nat) (times : List Nat) : List Nat := (times.filter fun t => decide (now < t + 1000000)) ++ [now]

/-- A module retrains; the sixteenth retrain within one second takes it down. -/
def State.moduleRetrain (s : State) (m : Nat) : State :=
  let ts := recentRetrains s.time (s.hmod m).times
  let s := s.modHmod m fun x =>
    { x with state := hmRetraining, times := ts, retrains := min (x.retrains + 1) 0xFFFF }
  let s := { s with hif := { s.hif with err := s.hif.err ||| 2 } }
  let s := s.raise (mkRec 0x0305 clsCE hubMast m 0)
  if 16 ≤ ts.length then s.moduleDown m else s

/-- FLIT_ACK_TIMEOUT: 10 µs passed with flits unacknowledged and no ACK. -/
def execFlitAckTimeout (m : Nat) (s : State) : Host.Outcome State Fault Refusal :=
  onModule m s (if s.carries m && !(s.hmod m).replay.isEmpty then s.moduleRetrain m else s)

/-- A retrain succeeds: both ends resend from their replay buffers. -/
def State.moduleRetrained (s : State) (m lanes repaired : Nat) : State :=
  (s.moduleUp m lanes repaired).resendFlits m

/-- A retrain fails: the third failure in succession takes the module down, an earlier one starts the next retrain. -/
def State.moduleRetrainFails (s : State) (m : Nat) : State :=
  let n := (s.hmod m).failRun + 1
  if 3 ≤ n then s.moduleDown m else (s.modHmod m fun x => { x with failRun := n }).moduleRetrain m

/-- MODULE_RETRAIN_COMPLETE: HIF_MOD_STATUS reports the lanes it reached (R241, R246). -/
def execModuleRetrainComplete (m : Nat) (ok : Bool) (lanes repaired : Nat) (s : State) : Host.Outcome State Fault Refusal :=
  onModule m s
    (if !s.mainband || (s.hmod m).state != hmRetraining then s
     else if ok && lanes = 64 then s.moduleRetrained m lanes repaired
     else (s.modHmod m fun x => { x with lanes, repaired }).moduleRetrainFails m)

/-! ## Flits (R242, R245) -/

/-- The fields of a flit that arrives. -/
structure FlitIn where
  typ      : Nat
  ch       : Nat
  first    : Nat
  fill     : Nat
  seq      : Nat
  ackValid : Bool
  nak      : Bool
  ackSeq   : Nat
  crValid  : Bool
  crCh     : Nat
  count    : Nat
  payload  : Bytes

def parseFlit (b : Bytes) : FlitIn :=
  let w := u32 b 0
  let a := u32 b 4
  let c := u32 b 8
  { typ := bits w 28 4, ch := bits w 25 3, first := bits w 20 4, fill := bits w 16 4, seq := bits w 0 12,
    ackValid := bit a 31, nak := bit a 30, ackSeq := bits a 0 12, crValid := bit c 31, crCh := bits c 28 3,
    count := bits c 0 7, payload := sub b 12 240 }

/-- A flit's CRC is correct. -/
def flitOk (b : Bytes) : Bool := crc32 (b.take 252) == u32 b 252

/-- The peer accepted every flit up to `seq`. -/
def State.flitAcked (s : State) (m seq : Nat) : State :=
  let keep := (s.hmod m).replay.filter fun f => !decide ((seq + 4096 - f.seq) % 4096 < 2048)
  if keep.length = (s.hmod m).replay.length then s
  else (s.modHmod m fun x => { x with replay := keep }).fillRoom

/-- Every unacknowledged flit is sent again: a replay, or a retrain once one of them has gone again four times
(R245, R246). -/
def State.flitNak (s : State) (m : Nat) : State :=
  let x := s.hmod m
  if x.replay.isEmpty then s
  else if x.replay.any fun f => decide (4 ≤ f.resends) then s.moduleRetrain m
  else
    let s := s.modHmod m fun x =>
      { x with replay := x.replay.map fun f => { f with resends := f.resends + 1 }, replays := min (x.replays + 1) 0xFFFF }
    let s := { s with hif := { s.hif with err := s.hif.err ||| 1 } }
    (s.raise (mkRec 0x0304 clsCE hubMast m 0)).resendFlits m

/-- The host returns units on a channel; a return that would take the balance above 65,535 is ignored (R269). -/
def State.creditIn (s : State) (c n : Nat) : State :=
  if 65535 < (s.chan c).host + n then s else s.modChan c fun x => { x with host := x.host + n }

/-- What a flit says of this end's flits: acknowledgement, NAK and credits. -/
def State.flitFields (s : State) (m : Nat) (f : FlitIn) : State :=
  let s := if f.crValid then s.creditIn f.crCh f.count else s
  if f.ackValid then
    let s := s.flitAcked m f.ackSeq
    if f.nak then s.flitNak m else s
  else s

/-! ## Reassembly and framing (R243, R260) -/

/-- The opcode and the request of a reassembled packet (R257). -/
def parseReq (ch : Nat) (b : Bytes) : Nat × Req :=
  let f := u8 b 1
  (u16 b 2,
   { flitCh := ch, version := BitVec.ofNat 8 (u8 b 0), kind := BitVec.ofNat 2 f, quiet := bit f 2, ordered := bit f 3,
     more := bit f 4, flagRsv := BitVec.ofNat 3 (f / 32), tag := BitVec.ofNat 16 (u16 b 4), ctx := BitVec.ofNat 16 (u16 b 6),
     channel := BitVec.ofNat 8 (u8 b 12), rsv := BitVec.ofNat 24 (leNat (sub b 13 3)), arg0 := BitVec.ofNat 64 (u64 b 16),
     arg1 := BitVec.ofNat 64 (u64 b 24), payload := sub b 32 (u32 b 8) })

/-- PAYLOAD_LEN of the packet that begins `b`, which its first slot holds. -/
def pktLen (b : Bytes) : Nat := u32 b 8

/-- Slots that the packet in `buf` still needs. -/
def slotsLeft (buf : Bytes) : Nat := if buf.isEmpty then 0 else slots (pktLen buf) - buf.length / 16

/-- The slot at which the next packet of a channel starts in a flit that uses `fill` slots; 15 when none starts in it. -/
def nextStart (buf : Bytes) (fill : Nat) : Nat := if slotsLeft buf < fill then slotsLeft buf else 15

/-- A FRAMING notice with the number of bytes discarded joins the channel's queue (R283). -/
def State.framingNotice (s : State) (c lost : Nat) : State :=
  s.queueAnswers c [{ kind := 2, silent := false, keepTag := false, opcode := 0x0182, tag := 0, ctx := 0, channel := c,
                      more := false, arg0 := lost % 2 ^ 32, arg1 := 0, payload := [] }]

/-- A framing error: what the channel holds is discarded with `n` bytes of the flit, the credits of a packet whose header
stands in it return, and bytes are discarded until a flit names a start (R260). -/
def State.framingError (s : State) (c n : Nat) : State :=
  let b := (s.chan c).buf
  let s := if b.isEmpty || 4096 < pktLen b then s else s.giveCredit c (units (pktLen b))
  s.modChan c fun x => { x with buf := [], skipping := true, lost := x.lost + x.buf.length + n }

/-- A whole packet reaches the command examination of a device that acts. -/
def State.packetWhole (s : State) (c : Nat) (b : Bytes) : State :=
  let q := parseReq c b
  s.whenAlive (s.receiveOp q.1 q.2)

/-- The slots of a flit join their channel, packet by packet; `fuel` at most. A header with PAYLOAD_LEN above 4,096 is a
framing error (R260). -/
def State.takeSlots (s : State) (c : Nat) : Nat → Bytes → State
  | 0, _ => s
  | fuel + 1, b =>
    if b.isEmpty then s
    else
      let buf := (s.chan c).buf
      let start := if buf.isEmpty then b else buf
      if 4096 < pktLen start then s.framingError c b.length
      else
        let n := slots (pktLen start) * 16 - buf.length
        if b.length < n then s.modChan c fun x => { x with buf := buf ++ b }
        else
          ((s.modChan c fun x => { x with buf := [] }).packetWhole c (buf ++ b.take n)).takeSlots c fuel (b.drop n)

/-- Discarding ends at a flit that names a start: the notice goes, and what credits the discarded bytes held return; how
many those were the bytes do not tell, so the number is a free value (R260, log entry 36). -/
def State.framingEnds (s : State) (c skip : Nat) : State :=
  let lost := (s.chan c).lost + skip
  let s := s.modChan c fun x => { x with skipping := false, lost := 0 }
  let s := (s.giveCredit c (s.freeNat % 65)).drawn
  s.framingNotice c lost

/-- The payload of a DATA flit reaches its channel (R243, R260). -/
def State.dataIn (s : State) (f : FlitIn) : State :=
  let c := f.ch
  let b := f.payload.take (16 * f.fill)
  let x := s.chan c
  if x.skipping then
    if f.first = 15 then s.modChan c fun y => { y with lost := y.lost + b.length }
    else (s.framingEnds c (16 * min f.first f.fill)).takeSlots c 16 (b.drop (16 * f.first))
  else if f.first != nextStart x.buf f.fill then s.framingError c b.length
  else s.takeSlots c 16 b

/-- An accepted flit takes its effect: DATA, RESUME; another TYPE carries nothing more. -/
def State.flitEffect (s : State) (m : Nat) (f : FlitIn) : State :=
  match f.typ with
  | 1 => s.dataIn f
  | 2 => s.resumed m (bits (u32 f.payload 0) 12 2) (bits (u32 f.payload 0) 0 12)
  | _ => s

/-- A flit is discarded with NAK (R245). -/
def State.nakIn (s : State) (m : Nat) : State := s.ackFlit m true (s.hmod m).rxLast

/-- A flit with a correct CRC: IDLE carries its fields only; any other is accepted in sequence and acknowledged, or
discarded (R244, R245). -/
def State.goodFlit (s : State) (m : Nat) (f : FlitIn) : State :=
  if f.typ = 0 then s.flitFields m f
  else if f.seq != ((s.hmod m).rxLast + 1) % 4096 then s.nakIn m
  else
    let s := (s.modHmod m fun x => { x with rxLast := f.seq }).ackFlit m false f.seq
    (s.flitFields m f).flitEffect m f

/-- A flit arrives on a module that is up. -/
def State.flitIn (s : State) (m : Nat) (b : Bytes) : State :=
  if b.length != 256 || !s.carries m then s
  else
    let t := if flitOk b then s.goodFlit m (parseFlit b) else s.nakIn m
    t.whenAlive t.drainAll

/-- FLIT_RECEIVE. -/
def execFlitReceive (m : Nat) (flit : Bytes) (s : State) : Host.Outcome State Fault Refusal := onModule m s (s.flitIn m flit)

/-- RESUME_FLIT_RECEIVE: the flit is a RESUME (R248). -/
def execResumeFlitReceive (m : Nat) (flit : Bytes) (s : State) : Host.Outcome State Fault Refusal :=
  onModule m s
    (if flit.length == 256 && s.carries m && flitOk flit && (parseFlit flit).typ == 2 then s.goodFlit m (parseFlit flit) else s)

/-! ## The way home (R247) -/

/-- A channel has a flit that is not acknowledged, on any module. -/
def State.flitsOut (s : State) (c : Nat) : Bool :=
  s.hif.mods.any fun e => (e.2.replay.any fun f => f.typ == 1 && f.ch == c) || e.2.rest.any fun f => f.ch == c

/-- CHANNEL_REBIND_HOME: the channel returns to its home module once that is up and no flit of it is unacknowledged. -/
def execChannelRebindHome (ch : Nat) (s : State) : Host.Outcome State Fault Refusal :=
  onChannel ch s
    (if s.carries (ch % 4) && !s.flitsOut ch then s.modChan ch fun x => { x with module := ch % 4 } else s)

end Sys2Proof.Machine
end

