-- ==== Sys2Proof/Machine/LinkEvents.lean ====
section
/-! DEFINITION. Nalec ports: training, IDENT and KEYSYNC frames, link frames with their replay, retraining and keys
(R325 to R332, R343, R344). -/
namespace Sys2Proof.Machine

/-! ## Training and IDENT (R325, R328, R330) -/

/-- Link training of a port ends: with all its lanes it sends IDENT, otherwise it is down and its
used keys are retired (R344). -/
def State.portTrains (s : State) (p : Nat) (allLanes : Bool) : State :=
  if (s.port p).state != pTraining then s
  else if allLanes then
    (s.modPort p fun x => { x with state := pIdent, cause := 0 }).sendIdent p
  else (s.modPort p fun x => { x.retire with state := pDown }).retrainEnds p false

/-- PORT_TRAINED. -/
def execPortTrained (p : Nat) (allLanes : Bool) (s : State) : Host.Outcome State Fault Refusal :=
  onPort p s (s.whenAlive (s.portTrains p allLanes))

/-- What an IDENT payload observes (R328). -/
def parseIdent (b : Bytes) : Peer :=
  { kind := u8 b 0, unitId := u64 b 8, port := u8 b 16, part := u16 b 18, index := u8 b 20, enc := bit (u8 b 21) 0 }

/-- The peer's IDENT arrives on a trained port: it is compared with the plan (R330). -/
def State.identIn (s : State) (p : Nat) (body : Bytes) : State :=
  if body.length = 32 && (s.port p).trained then
    (s.modPort p fun x => { x with peer := some (parseIdent body) }).checkPort p
  else s

/-- IDENT_RECEIVE. -/
def execIdentReceive (p : Nat) (body : Bytes) (s : State) : Host.Outcome State Fault Refusal :=
  onPort p s (s.whenAlive (s.identIn p body))

/-! ## KEYSYNC (R344) -/

/-- The receiver changes to its other slot and accepts no further frame of the slot it leaves (R344, log entry 27). -/
def State.keysyncIn (s : State) (p : Nat) : State :=
  if (s.port p).trained then
    s.modPort p fun x => { x with rxSlot := 1 - x.rxSlot, slots := tmod x.slots x.rxSlot fun k => { k with rxDone := true } }
  else s

/-- KEYSYNC_RECEIVE. -/
def execKeysyncReceive (p : Nat) (s : State) : Host.Outcome State Fault Refusal := onPort p s (s.whenAlive (s.keysyncIn p))

/-- A slot's frame counter has reached 2^48 in some direction. -/
def Port.exhausted (x : Port) : Bool := x.slots.any fun e => decide (2 ^ 48 ≤ e.2.txCtr ∨ 2 ^ 48 ≤ e.2.rxCtr)

/-- The port goes down with NLC_KEY_EXHAUSTED (R344). -/
def State.keyExhausted (s : State) (p : Nat) : State :=
  let s := s.modNlc fun n => { n with err := n.err ||| 0x100 }
  (s.raise (mkRec 0x0604 clsCE hubMast p 0)).portDown p

/-- NLC_KEY_EXHAUSTED. -/
def execNlcKeyExhausted (p : Nat) (s : State) : Host.Outcome State Fault Refusal :=
  onPort p s (s.whenAlive (
    if ((s.port p).trained || (s.port p).state == pRetraining) && (s.port p).exhausted then s.keyExhausted p else s))

/-! ## Link frames (R326, R327, R343) -/

/-- A link header (R326). -/
structure FrameHdr where
  typ      : Nat
  seq      : Nat
  ackSeq   : Nat
  ackValid : Bool
  nak      : Bool
  enc      : Bool
  slot     : Nat
  credit   : Nat
  len      : Nat      -- payload bytes

def parseFrame (b : Bytes) : FrameHdr :=
  let w := u64 b 0
  { typ := bits w 60 4, seq := bits w 48 12, ackSeq := bits w 36 12, ackValid := bit w 35, nak := bit w 34, enc := bit w 33,
    slot := bits w 32 1, credit := bits w 24 8, len := 16 * (bits w 19 5 + 1) }

/-- Bytes of a frame with its header, tag and CRC. -/
def FrameHdr.total (h : FrameHdr) : Nat := 8 + h.len + (if h.enc then 16 else 0) + 4

/-- A frame has its length and a correct CRC. -/
def frameOk (b : Bytes) : Bool :=
  decide (8 ≤ b.length) && b.length == (parseFrame b).total && crc32 (b.take (b.length - 4)) == u32 b (b.length - 4)

/-- The link header as additional authenticated data: the fields that may differ between sends are zero (R343). -/
def frameAad (b : Bytes) : Bytes :=
  let w := u64 b 0
  natLe 8 (packFields [(48, 16, bits w 48 16), (32, 2, bits w 32 2), (0, 24, bits w 0 24)])

/-- Frames up to `seq` are acknowledged: they leave the replay buffer, and what waited for room goes (R327). -/
def State.linkAcked (s : State) (p seq : Nat) : State :=
  let keep := (s.port p).replay.filter fun e => !decide ((seq + 4096 - e.seq) % 4096 < 2048)
  if keep.length = (s.port p).replay.length then s
  else
    let s := s.modPort p fun x => { x with
      replay := keep, syncOwed := x.syncOwed && (keep.any (fun e => e.typ == 3) || x.waits.any fun w => w.1 == 3) }
    s.drainPort p (s.port p).waiting

/-- Every unacknowledged frame is sent again: a replay, or a retrain once one of them has gone four times (R327). -/
def State.linkNak (s : State) (p : Nat) : State :=
  let x := s.port p
  match x.replay with
  | [] => s
  | e :: _ =>
    if x.replay.any fun f => decide (4 ≤ f.resends) then s.portRetrain p
    else
      let s := s.modPort p fun x => { x with
        replay := x.replay.map fun f => { f with resends := f.resends + 1 }, replays := min (x.replays + 1) 0xFFFF }
      let s := s.modNlc fun n => { n with err := n.err ||| 1 }
      ((s.raise (mkRec 0x060A clsCE hubMast p 0)).emit (.frames p e.seq x.replay.length)).resendFrames p

/-- What a frame says of this end's frames: acknowledgement, NAK and credits (R326, R327). -/
def State.linkFields (s : State) (p : Nat) (h : FrameHdr) : State :=
  let s := if h.ackValid then s.linkAcked p h.ackSeq else s
  let s := if h.nak then s.linkNak p else s
  if h.credit = 0 then s
  else
    let s := s.modPort p fun x => { x with credits := x.credits + h.credit }
    s.drainPort p (s.port p).waiting

/-- A slot whose frames the receiver accepts: it holds a key that R344 permits, and no KEYSYNC away from it has been
acknowledged since the key came. -/
def Port.accepts (x : Port) (slot : Nat) : Bool :=
  match tget x.slots slot with | some k => !k.retired && !k.rxDone | none => false

/-- The payload of an encrypted frame, when its tag holds (R343). -/
def Port.openFrame (x : Port) (h : FrameHdr) (b : Bytes) : Option Bytes :=
  match tget x.slots h.slot with
  | some k => if x.accepts h.slot then
      Config.gcmOpen k.key (k.salt ++ natLe 8 k.rxCtr) (frameAad b) (sub b 8 h.len) (sub b (8 + h.len) 16)
    else none
  | none => none

/-! ## Transport packets in a frame (R326, R335, R361) -/

/-- Bytes of the packet that begins `b`. An ACK without STATUS carries a bitmap (log entry 16). -/
def packetLen (b : Bytes) : Nat :=
  let op := u8 b 0 / 16
  if op = 1 || op = 4 then 32
  else if op = 2 || op = 3 then 160
  else if u8 b 32 % 16 = kData then 176
  else if u8 b 32 % 16 = kAck && u8 b 0 % 16 = 0 then 176
  else 48

/-- The packets of a DATA payload, `fuel` of them at most. -/
def framePackets (p : Nat) : Nat → Bytes → List TPkt
  | 0, _ => []
  | fuel + 1, b =>
    if b.length < 32 then []
    else
      let n := packetLen b
      parsePkt p (b.take n) :: framePackets p fuel (b.drop n)

/-- A transport packet takes its effect. -/
def State.packetIn (s : State) (p : TPkt) : State :=
  match p.op with
  | 1 => s.withPacket p fun s => s.serveRead p
  | 2 => s.withPacket p fun s => if s.responseOk p then s.response p false else s
  | 3 => s.withPacket p fun s => s.serveWrite p
  | 4 => s.withPacket p fun s => if s.responseOk p then s.response p true else s
  | 8 => s.colArrives p
  | _ => s.withPacket p fun s => s

/-- An accepted frame takes its effect. -/
def State.frameIn (s : State) (p : Nat) (h : FrameHdr) (pay : Bytes) : State :=
  match h.typ with
  | 1 => (framePackets p 16 pay).foldl (fun (s : State) k => s.packetIn k) s
  | 2 => s.identIn p (pay.take 32)
  | 3 => s.keysyncIn p
  | _ => s

/-- A bad frame, or one out of order, is answered with NAK (R327). -/
def State.nakFrame (s : State) (p : Nat) : State := s.sendAckFrame p true (s.port p).rxLast 0

/-- A frame is accepted and acknowledged; a DATA frame returns its receive buffer (R326, R327). -/
def State.acceptFrame (s : State) (p : Nat) (h : FrameHdr) (pay : Bytes) : State :=
  let s := s.modPort p fun x => { x with rxLast := h.seq }
  (s.sendAckFrame p false h.seq (if h.typ = 1 then ceilDiv h.len 512 else 0)).frameIn p h pay

/-- A frame whose header and CRC are right (R327, R343). -/
def State.goodFrame (s : State) (p : Nat) (h : FrameHdr) (b : Bytes) : State :=
  let s := s.linkFields p h
  let x := s.port p
  if h.typ = 0 || !x.trained then s
  else if 4 ≤ h.typ || h.seq != (x.rxLast + 1) % 4096 then s.nakFrame p
  else if h.typ = 1 && h.enc then
    match x.openFrame h b with
    | none =>
      let s := s.modPort p fun x => { x with gcmFail := min (x.gcmFail + 1) 255 }
      (s.modNlc fun n => { n with err := n.err ||| 0x80 }).nakFrame p
    | some pay =>
      let s := s.modPort p fun x =>
        { x with rxSlot := if x.accepts x.rxSlot then x.rxSlot else h.slot,
                 slots := tmod x.slots h.slot fun k => { k with rxCtr := k.rxCtr + 1 } }
      s.acceptFrame p h pay
  else s.acceptFrame p h (sub b 8 h.len)

/-- A link frame arrives on a trained port. -/
def State.linkFrameIn (s : State) (p : Nat) (b : Bytes) : State :=
  if !(s.port p).trained then s
  else if frameOk b then s.goodFrame p (parseFrame b) b
  else s.nakFrame p

/-- LINK_FRAME_RECEIVE. -/
def execLinkFrameReceive (p : Nat) (frame : Bytes) (s : State) : Host.Outcome State Fault Refusal :=
  onPort p s (s.whenAlive (s.linkFrameIn p frame))

/-! ## Retraining (R327, R420) -/

/-- LINK_ACK_TIMEOUT: 20 µs passed with frames unacknowledged and no ACK. -/
def execLinkAckTimeout (p : Nat) (s : State) : Host.Outcome State Fault Refusal :=
  onPort p s (s.whenAlive (
    if (s.port p).trained && !(s.port p).replay.isEmpty then s.portRetrain p else s))

/-- The state a retrained port returns to: `up` with nothing reported when the plan has it so (R327), else what the check of
R330 gives. -/
def State.retrainedTo (s : State) (p : Nat) : State :=
  match (s.port p).peer, s.planPort p with
  | some q, some e =>
    if (s.portVerdict p q e).1 = pUp then
      ((s.modPort p fun x => { x with state := pUp, cause := 0 }).launchWaiting).retrainEnds p true
    else ((s.modPort p fun x => { x with state := pIdent }).checkPort p).retrainEnds p false
  | _, _ => (s.modPort p fun x => { x with state := pIdent }).retrainEnds p false

/-- A retrain succeeds: both ends resend from their replay buffers. -/
def State.portRetrained (s : State) (p : Nat) : State :=
  let s := (s.modPort p fun x => { x with failRun := 0, replay := x.replay.map fun f => { f with resends := 0 } }).retrainedTo p
  let x := s.port p
  let s := match x.replay with
    | e :: _ => (s.emit (.frames p e.seq x.replay.length)).resendFrames p
    | [] => s
  s.drainPort p x.waiting

/-- A retrain fails: the third in succession takes the port down, another starts the next. -/
def State.portRetrainFails (s : State) (p : Nat) : State :=
  let n := (s.port p).failRun + 1
  if 3 ≤ n then s.portDown p
  else ((s.modPort p fun x => { x with failRun := n }).retrainEnds p false).portRetrain p

/-- PORT_RETRAIN_COMPLETE. -/
def execPortRetrainComplete (p : Nat) (ok : Bool) (s : State) : Host.Outcome State Fault Refusal :=
  onPort p s (s.whenAlive (
    if (s.port p).state != pRetraining then s else if ok then s.portRetrained p else s.portRetrainFails p))

end Sys2Proof.Machine
end

