-- ==== Sys2Proof/Machine/MastEvents.lean ====
section
/-! DEFINITION. Events of a mast: the patrol of its scratchpad, its contention windows and the operations of its vector
units (R48, R49, R52, R186, R226, R231, R232). -/
namespace Sys2Proof.Machine

/-! ## Scratchpad patrol (R226) -/

/-- Upsets of a mast's scratchpad. -/
def spadUpset (m : Nat) (u : Upset) : Bool := u.mast == m && (u.kind == .spadCe || u.kind == .spadUc)

/-- The patrol's record of a double-bit error: the slice as UNIT, the offset as ADDR. -/
def State.patrolUc (s : State) (m w : Nat) : State :=
  s.raise { mkRec 0x1305 clsCE m (w * 8 / sliceSize) 0 with addr := w * 8 }

/-- The patrol reads every word of a mast's slices once. -/
def State.patrol (s : State) (m : Nat) : State :=
  let ucs := ((s.mast m).spad.flaws.filter fun e => e.2 == .uc).map (·.1)
  let s := s.modMast m fun z => (z.readSpad maintReader 0 spadSize).1
  ucs.foldl (fun (s : State) w => s.patrolUc m w) s

/-- SPAD_PATROL: errors that strike before it are listed; single-bit errors are corrected, double-bit errors recorded. -/
def execSpadPatrol (mast : Nat) (found : List Upset) (s : State) : Host.Outcome State Fault Refusal :=
  onMast mast s (s.whenAlive (
    if s.mastUp mast then (s.strikeAll (found.filter (spadUpset mast))).patrol mast else s))

/-! ## Contention windows (R231, R232) -/

/-- RATIO of a window. -/
def contRatio (contended outstanding : Nat) : Nat :=
  if outstanding = 0 then 0 else min 0xFFFF (65536 * contended / outstanding)

/-- A context's figures after a window with a ratio: whether CONTENTION_HIGH is raised, and what is reported. -/
def McCtx.window (x : McCtx) (thr windows ratio : Nat) : Bool × McCtx :=
  let run := if thr < ratio then min 255 (x.highRun + 1) else 0
  let hit := decide (0 < windows ∧ windows ≤ run) && !x.raised
  (hit, { x with ratio, highRun := run, raised := decide (0 < run) && (x.raised || hit), xevict := x.xnow, xnow := 0 })

/-- One context's window on a mast. -/
def State.contend (s : State) (m c : Nat) (counts : List (Nat × Nat × Nat)) : State :=
  let z := (s.mast m).mc
  let n := ((counts.find? fun e => e.1 == c).map (·.2)).getD (0, 0)
  let q := (tgetD z.ctxs c McCtx.new).window z.thr z.windows (contRatio n.1 n.2)
  let s := s.modMast m fun z => { z with mc := { z.mc with
    ctxs := tset z.mc.ctxs c q.2, err := if q.1 then z.mc.err ||| 0x80 else z.mc.err } }
  if q.1 then s.raise { mkRec 0x1307 clsCE m noUnit c with info0 := q.2.ratio } else s

/-- CONTENTION_WINDOW: a window of 2^21 DK cycles ends; `counts` names contexts with their contended and outstanding
cycles, summed over the channels. -/
def execContentionWindow (mast : Nat) (counts : List (Nat × Nat × Nat)) (s : State) : Host.Outcome State Fault Refusal :=
  onMast mast s (s.whenAlive (
    if s.mastUp mast then (tkeys s.ctxs).foldl (fun (s : State) c => s.contend mast c counts) s else s))

/-! ## Vector units (R48, R49, R52, R186) -/

/-- The vector units of a context's placement on a mast. -/
def Ctx.vuPlace (x : Ctx) (m : Nat) : Nat := match tget x.places m with | some p => p.vu | none => 0

/-- A vector operation: its context, mast, unit and layer. -/
structure VuCall where
  c     : Nat
  m     : Nat
  vu    : Nat
  layer : Nat

def VuCall.reader (v : VuCall) : Reader := stream v.c (0x12 + v.vu)

/-- A region of the operation lies in the context's memory; a scratchpad region outside its slices is SPAD_RANGE (R224), and
with another fault the operation does nothing (log entry 37). -/
def State.vuRegions (s : State) (v : VuCall) (rs : List (Nat × Nat)) (f : State → State) : State :=
  match rs.find? fun r => !s.ptrIn v.c v.m r.1 r.2 with
  | none => f s
  | some r => if ptrOk r.1 && ptrSpace r.1 = 1 then s.spadRange v.c v.m v.vu (ptrOff r.1) else s

/-- What R49 counts and records of blocks with a substitution. DESIGN CHOICE (log entry 105): a vector unit's sets no flag of ME_ERR
(R85). -/
def State.vuSubst (s : State) (v : VuCall) (n : Nat) : State :=
  if n = 0 then s
  else (s.countM v.m (occ 0x011 n 1 v.c (0x12 + v.vu))).limitRec v.c v.m v.vu v.layer 0x100C .nonfiniteAct

/-- A tensor in a format is written: its elements, and its scales where it has them (R47). -/
def State.vuStore (s : State) (v : VuCall) (dst : Nat) (f : NumFmt) (n : Nat) (img : Bytes) (k : State → State) : State :=
  s.withWrite v.c v.m v.vu v.reader dst (img.take (elemBytes f n)) fun s =>
    if hasScale f then s.withWrite v.c v.m v.vu v.reader (dst + scaleAt f n) (img.drop (scaleAt f n)) k else k s

/-- The format in which an operation tagged with a layer writes its rows: BF16 in place of MXINT8 while a WIDE_ROWS layer is
widened or pinned (R104). -/
def State.rowFmt (s : State) (v : VuCall) (b : NumFmt) : NumFmt :=
  match s.guardOf v.c v.layer with
  | some g => if b == .mxint8 && g.wideRows && s.layerWide v.c v.m v.layer then .bf16 else b
  | none => b

/-- A conversion of R52: rows of `cols` elements. DESIGN CHOICE (log entry 37): one between equal formats, and one with an MX
format whose rows are no whole blocks, does nothing; the table of R52 has no such conversion. -/
def State.vuConvert (s : State) (v : VuCall) (src dst : Nat) (a b : NumFmt) (rows cols : Nat) : State :=
  let n := rows * cols
  let w := s.rowFmt v b
  if a == b || n = 0 || ((hasScale a || hasScale b) && cols % 32 != 0) then s
  else s.vuRegions v [(src, tensorBytes a n), (dst, tensorBytes w n)] fun s =>
    s.withRead v.c v.m v.vu v.reader src (tensorBytes a n) fun s img =>
      let xs := (List.range n).map fun i => vuElem a n img i
      let xs := if hasScale a && hasScale w then xs.map viaFp32 else xs
      let o := vuWrite w xs
      s.vuStore v dst w n o.1 fun s => s.vuSubst v o.2

/-- An operation whose arithmetic no rule gives: `n` free FP32 values, written in the operation's format as every value is
(R28, R29, R33, R48, R49). DESIGN CHOICE (log entry 37): one with an MX format that is no whole blocks does nothing. -/
def State.vuOther (s : State) (v : VuCall) (dst : Nat) (b : NumFmt) (n : Nat) : State :=
  let w := s.rowFmt v b
  if n = 0 || (hasScale b && n % 32 != 0) then s
  else s.vuRegions v [(dst, tensorBytes w n)] fun s =>
    let o := vuWrite w ((List.range n).map fun i => ofFp (Config.freeWord (s.free + i)))
    (s.drawnN n).vuStore v dst w n o.1 fun s => s.vuSubst v o.2

/-- Prompt ids of a row, read from the token area; bits [31:20] are reserved. What a token area outside the context's
memory gives is free (R180, R186). -/
def State.promptIds (s : State) (c : Nat) (g : ServeConfig) (r : Request) (w : StepRow) : State × Except (Nat × Nat) (List Nat) :=
  let x := g.tokenArea + 4 * (r.promptIdx + w.start - r.promptStart)
  if !s.inMem c g.tokenMast x (4 * w.count) then (s.drawnN w.count, .ok ((List.range w.count).map fun i => Config.freeNat (s.free + i)))
  else
    let q := s.fetch g.tokenMast (control c 0x18) x (4 * w.count)
    (q.1, q.2.map fun b => (List.range w.count).map fun i => u32 b (4 * i) % 2 ^ 20)

/-- The token ids of a request's row in the running step: those of its prompt, or its last token (R186). -/
def State.rowIds (s : State) (c : Nat) (g : ServeConfig) (w : StepRow) : State × Except (Nat × Nat) (List Nat) :=
  match s.req? w.slot with
  | none => (s, .ok [])
  | some r => if w.prefill then s.promptIds c g r w else (s, .ok [r.lastToken])

/-- A row fails with PROMPT_TOKEN (R178, R186). -/
def State.promptFault (s : State) (c slot : Nat) : State :=
  s.modCtx c fun x => { x with
    step := x.step.map fun w => { w with rows := w.rows.map fun r => if r.slot = slot then { r with fault := 4 } else r } }

/-- The row of the running step for a request slot. -/
def State.rowOf (s : State) (c slot : Nat) : Option StepRow :=
  (s.ctx? c).bind fun x => x.step.bind fun w => w.rows.find? fun r => r.slot == slot

/-- One embedding row: the token's row of the table, or zeros where the prompt of its request holds an id at or above VOCAB
(R186). What a last token at or above VOCAB selects is free. -/
def State.embedRow (s : State) (v : VuCall) (g : ServeConfig) (table dst n : Nat) (e : Nat × Nat) (k : State → State) : State :=
  match s.rowOf v.c e.1 with
  | none => k s
  | some w =>
    if e.2 < w.start || w.start + w.count ≤ e.2 then k s
    else
      let q := s.rowIds v.c g w
      match q.2 with
      | .error b => q.1.ioFail v.c v.m v.vu b
      | .ok ids =>
        let id := ids.getD (e.2 - w.start) 0
        if w.prefill && ids.any fun i => decide (g.vocab ≤ i) then
          (q.1.promptFault v.c e.1).withWrite v.c v.m v.vu v.reader dst (zeros n) k
        else if g.vocab ≤ id then
          (q.1.drawnN n).withWrite v.c v.m v.vu v.reader dst (q.1.freeBytes n) k
        else
          q.1.withRead v.c v.m v.vu v.reader (table + id * n) n fun s b => s.withWrite v.c v.m v.vu v.reader dst b k

/-- The rows of an embedding lookup, one after another. -/
def embedRows (v : VuCall) (g : ServeConfig) (table n : Nat) : List (Nat × Nat) → Nat → State → State
  | [], _, s => s
  | e :: es, dst, s => s.embedRow v g table dst n e (embedRows v g table n es (dst + n))

/-- A vector-unit operation (R52, R186). What an operation writes whose arithmetic no rule gives is free. -/
def State.vuOp (s : State) (v : VuCall) (op : VuOp) : State :=
  match op with
  | .convert src dst a b rows cols => s.vuConvert v src dst a b rows cols
  | .embed table dst n rows =>
    match (s.ctx? v.c).bind (·.config) with
    | some g => s.vuRegions v [(table, g.vocab * n), (dst, rows.length * n)] (embedRows v g table n rows dst)
    | none => s
  | .other dst b n => s.vuOther v dst b n

/-- The name of a vector operation among the calls of its program: its destination (R25). -/
def vuName : VuOp → Nat
  | .convert _ dst _ _ _ _ => dst
  | .embed _ dst _ _ => dst
  | .other dst _ _ => dst

/-- VECTOR_UNIT_OPERATION: a vector unit of the context's placement runs an operation of its program. -/
def execVectorUnitOperation (ctx mast vu layer : Nat) (op : VuOp) (s : State) : Host.Outcome State Fault Refusal :=
  onMast mast s (s.whenAlive (
    if s.canStart ctx mast (vuName op) && (match s.ctx? ctx with | some x => bit (x.vuPlace mast) vu | none => false) then
      (s.vuOp { c := ctx, m := mast, vu, layer } op).callEnded ctx mast (vuName op)
    else s))

end Sys2Proof.Machine
end

