-- ==== Sys2Proof/Machine/PowerEvents.lean ====
section
/-! DEFINITION. What the power controller, the clocks, the detectors and the coolant pair do (R376 to R394). -/
namespace Sys2Proof.Machine

/-- The hub is powered and has not stopped: its controllers run. -/
def State.hubRuns (s : State) : Bool := s.cn.hubRails && !s.flt.fatal

/-- The Crow's Nest watches the COOLFLOW pair: from step 2 until it loses power, whatever the rails and the fatal state do (R463,
R466, R476). -/
def State.pairSeen (s : State) : Bool := s.cn.powered && s.cn.running

/-- The Crow's Nest runs and its comparators act on the sequence and on a package that has not stopped (R463 step 2). -/
def State.nestRuns (s : State) : Bool := s.cn.powered && decide (1 ≤ s.cn.stage) && !s.flt.fatal

/-- An event that the Crow's Nest must be running to see. -/
def State.whenNest (s t : State) : State := if s.nestRuns then t else s

/-- An event that the hub must be running to see. -/
def State.whenHub (s t : State) : State := if s.hubRuns then t else s

/-- A corrected-class event of the hub, with a flag of PWR_ERR (R402). -/
def State.pwrEvent (s : State) (cause : Nat) (flag : Word) : State :=
  (s.modPwr fun p => { p with err := p.err ||| flag }).raise (mkRec cause clsCE hubMast noUnit 0)

/-- An occurrence of the power controller on the hub, and one of a mast (R449, R450; log entry 24). -/
def pwrOcc (ev n : Nat) : Occ := occ ev n 0 0 0x05
def edgeOcc (n : Nat) : Occ := occ 0x001 n 0 0 0x18

/-! ## The governor (R387) -/

/-- What the governor works from: the samples' sum and number, S, C, and the present level and edges. -/
structure GovIn where
  sum   : Nat
  n     : Nat
  stat  : Nat
  cap   : Nat
  dyn   : List Nat
  level : Nat
  edges : Nat

/-- P(g, d) at most num/den of C: P(g, d) is S + (P - S) (f_g / f) (d / d0), compared without division. -/
def GovIn.fits (i : GovIn) (g d num den : Nat) : Bool :=
  let f : Int := i.dyn.getD i.level 0
  let fg : Int := i.dyn.getD g 0
  let lhs : Int := ((i.sum : Int) - i.n * i.stat) * fg * d * den
  let rhs : Int := i.n * ((num : Int) * i.cap - den * i.stat) * f * i.edges
  decide (lhs ≤ rhs)

/-- The level and edges that meet C: the lowest level with every edge, else level 4 with the most edges that do, of which
one sixteenth at least is delivered (log entry 25). -/
def GovIn.meet (i : GovIn) : Nat × Nat :=
  match (List.range 5).find? fun g => i.fits g 16 1 1 with
  | some g => (g, 16)
  | none => (4, (((List.range 16).map fun k => 16 - k).find? fun d => i.fits 4 d 1 1).getD 1)

/-- One step faster than a setting: a sixteenth of the edges until all are delivered, then a level. -/
def fasterStep (g d : Nat) : Option (Nat × Nat) :=
  if d < 16 then some (g, d + 1) else if g = 0 then none else some (g - 1, 16)

/-- The governor's decision. -/
def Power.govern (p : Power) (i : GovIn) : Power :=
  if i.n * i.cap < i.sum then { p with governor := i.meet.1, delivered := i.meet.2, fastRun := 0 }
  else match fasterStep p.governor p.delivered with
    | none => { p with fastRun := 0 }
    | some q =>
      if i.fits q.1 q.2 9 10 then
        if p.fastRun = 3 then { p with governor := q.1, delivered := q.2, fastRun := 0 }
        else { p with fastRun := p.fastRun + 1 }
      else { p with fastRun := 0 }

/-- The governor's inputs; without a sample the last average stands. -/
def Power.govIn (p : Power) : GovIn :=
  { sum := if p.samples.isEmpty then p.avgW else (p.samples.map (·.inputW)).foldl (· + ·) 0,
    n := max 1 p.samples.length, stat := p.staticW, cap := p.effCap, dyn := p.dyn, level := p.applied, edges := p.edges }

/-- The average of a figure over the samples of a period; without a sample the last average stands (log entry 25). -/
def averageOf (l : List PowerSample) (f : PowerSample → Nat) (last : Nat) : Nat :=
  if l.isEmpty then last else (l.map f).foldl (· + ·) 0 / l.length

/-- Rail power and DRAM traffic of each mast over the period that ends (R458). -/
def State.mastFigures (s : State) : State :=
  let l := s.pwr.samples
  s.mapMasts fun n z => { z with railW := averageOf l (fun x => x.mastW.getD n 0) z.railW,
                                 dramGbs := averageOf l (fun x => x.dramGbs.getD n 0) z.dramGbs }

/-- A governor period starts: the figures of the last one are reported, and the governor acts, except in a coolant stop
(R387, R394, R400, R458). -/
def State.governor (s : State) : State :=
  let i := s.pwr.govIn
  let s := s.mastFigures.modPwr fun p => { p with
    avgW := i.sum / i.n, peakW := maxD (p.samples.map (·.inputW)) p.peakW, samples := [], capEff := p.effCap }
  let s := s.countH (pwrOcc 0x001 1)
  if s.pwr.coolstop then s else (s.modPwr fun p => p.govern i).retarget

/-- GOVERNOR_PERIOD (R387). -/
def execGovernorPeriod (s : State) : Host.Outcome State Fault Refusal := settle s (s.whenHub s.governor)

/-! ## Measurements (R387, R392, R458) -/

/-- The hottest logic die and its code: the first that reaches the largest figure (R400). -/
def hottest (tjs : List Nat) (hub : Nat) : Nat × Nat :=
  let m := maxD tjs 0
  if m < hub then (hub, 0x40) else (m, ((enum tjs).find? fun e => e.2 == m).elim 0 (·.1))

/-- A sample of the power controller (R387). -/
def State.sample (s : State) (x : PowerSample) : State :=
  let h := hottest x.tjMast x.tjHub
  let s := s.modPwr fun p => { p with
    samples := p.samples ++ [x], vin := x.vin, tj := h.1, hotDie := h.2, tjDram := x.tjDram, tjHub := x.tjHub,
    hubW := x.hubW }
  s.mapMasts fun n z => { z with tj := x.tjMast.getD n 0 }

/-- POWER_SAMPLE (R387). -/
def execPowerSample (p : PowerSample) (s : State) : Host.Outcome State Fault Refusal := settle s (s.whenHub (s.sample p))

/-! ## Suppressed edges (R388, R390) -/

/-- `n` AK edges are suppressed on a mast. -/
def State.suppress (s : State) (m n : Nat) : State := s.countM m (edgeOcc n)

/-- The fast limiter acts: `edges` AK edges of every mast are suppressed. -/
def State.limit (s : State) (edges : Nat) : State :=
  let s := s.modPwr fun p => { p with limiter := true, err := if edges = 0 then p.err else p.err ||| 1 }
  ((List.range 8).filter s.present).foldl (fun (s : State) m => s.suppress m edges) (s.countH (pwrOcc 0x000 edges))

/-- FAST_LIMITER (R388). -/
def execFastLimiter (edges : Nat) (s : State) : Host.Outcome State Fault Refusal := settle s (s.whenHub (s.limit edges))

/-- FAST_LIMITER_RELEASE (R388). -/
def execFastLimiterRelease (s : State) : Host.Outcome State Fault Refusal :=
  settle s (s.whenHub (s.modPwr fun p => { p with limiter := false }))

/-- A droop event starts on a mast (R390). -/
def State.droopTrip (s : State) (m : Nat) : State :=
  if (s.mast m).droop || !s.present m || !s.cn.mastRails then s
  else ((s.modMast m fun z => { z with droop := true }).modPwr fun p => { p with err := p.err ||| 2 }).countM m
    (occ 0x002 1 0 0 0x18)

/-- DROOP_TRIP (R390). -/
def execDroopTrip (mast : Nat) (s : State) : Host.Outcome State Fault Refusal :=
  onMast mast s (s.whenHub (s.droopTrip mast))

/-- A droop event ends on a mast, after `edges` suppressed edges (R390, R391). -/
def State.droopClear (s : State) (m edges : Nat) : State :=
  if (s.mast m).droop then
    ((s.modMast m fun z => { z with droop := false }).suppress m edges).modPwr fun p => { p with droopEnd := s.time }
  else s

/-- DROOP_CLEAR (R390). -/
def execDroopClear (mast edges : Nat) (s : State) : Host.Outcome State Fault Refusal :=
  onMast mast s (s.whenHub (s.droopClear mast edges))

/-! ## Hints (R389) -/

/-- Hints whose start is 20 µs away, or less, have the converter positioned, for their power clamped to C. -/
def Power.position (p : Power) (now : Nat) : Power :=
  { p with hints := p.hints.map fun h =>
      if h.due now && !h.on then { h with on := true, watts := min h.watts p.effCap } else h }

/-- POWER_HINT_POSITION (R389). -/
def execPowerHintPosition (s : State) : Host.Outcome State Fault Refusal :=
  settle s (s.whenHub (s.modPwr fun p => p.position s.time))

/-- POWER_HINT_END: hints whose duration has run out are gone (R389). -/
def execPowerHintEnd (s : State) : Host.Outcome State Fault Refusal :=
  settle s (s.whenHub (s.modPwr fun p => { p with hints := p.hints.filter fun h => decide (s.time < h.stop) }))

/-! ## Reef changes (R378, R391) -/

/-- A pending change may switch: none is in its window, AK runs, and 1 µs has passed since the last droop event. -/
def State.maySwitch (s : State) : Bool :=
  !s.pwr.window && !s.pwr.coolstop && (s.masts.all fun e => !e.2.droop) && decide (s.pwr.droopEnd + 1 ≤ s.time)

/-- AK and SK switch to the pending level. -/
def State.reefSwitch (s : State) : State :=
  match s.pwr.target with
  | some a => if s.maySwitch then s.modPwr fun p => { p with applied := a, target := none, window := true } else s
  | none => s

/-- REEF_SWITCH (R378, R391). -/
def execReefSwitch (s : State) : Host.Outcome State Fault Refusal := settle s (s.whenHub s.reefSwitch)

/-- SWITCH_WINDOW_END (R378). -/
def execSwitchWindowEnd (s : State) : Host.Outcome State Fault Refusal :=
  settle s (s.whenHub (s.modPwr fun p => { p with window := false }))

/-! ## Temperature (R392) -/

/-- The thermal level changes, except in a coolant stop, where it holds (R394). -/
def State.thermLevel (s : State) (l : Nat) : State :=
  if s.pwr.coolstop then s else (s.modPwr fun p => { p with thermal := l }).retarget

/-- A die reaches 100 °C: the level rises, and the event is raised once per excursion. -/
def State.tjHot (s : State) (tj die : Nat) : State :=
  if tj < 1600 then s
  else
    let fresh := !s.pwr.excursion
    let s := s.modPwr fun p => { p with tj, hotDie := die, excursion := true }
    let s := if fresh then s.pwrEvent 0x0207 4 else s
    s.thermLevel (min 4 (s.pwr.thermal + 1))

/-- TJ_HOT (R392). -/
def execTjHot (tj die : Nat) (s : State) : Host.Outcome State Fault Refusal := settle s (s.whenHub (s.tjHot tj die))

/-- THERM_LEVEL_RISE: 1 ms more at or above 100 °C (R392). -/
def execThermLevelRise (tj : Nat) (s : State) : Host.Outcome State Fault Refusal :=
  settle s (s.whenHub (if tj < 1600 || !s.pwr.excursion then s
    else (s.modPwr fun p => { p with tj }).thermLevel (min 4 (s.pwr.thermal + 1))))

/-- TJ_COOL: the excursion ends at 97 °C (R392). -/
def execTjCool (tj : Nat) (s : State) : Host.Outcome State Fault Refusal :=
  settle s (s.whenHub (if 1552 < tj then s
    else s.modPwr fun p => { p with tj, excursion := false, overRange := false }))

/-- THERM_LEVEL_FALL: 10 ms at or below 97 °C (R392). -/
def execThermLevelFall (tj : Nat) (s : State) : Host.Outcome State Fault Refusal :=
  settle s (s.whenHub (if 1552 < tj || s.pwr.excursion then s
    else (s.modPwr fun p => { p with tj }).thermLevel (s.pwr.thermal - 1)))

/-- THERM_OVER_RANGE: above 105 °C, raised once per excursion (R392). -/
def execThermOverRange (tj : Nat) (s : State) : Host.Outcome State Fault Refusal :=
  settle s (s.whenHub (if tj ≤ 1680 then s
    else
      let t := s.modPwr fun p => { p with tj, overRange := true }
      if s.pwr.overRange then t else t.pwrEvent 0x0208 8))

/-- THERM_TRIP: 120 °C, and the package stops (R392). -/
def execThermTrip (tj die : Nat) (s : State) : Host.Outcome State Fault Refusal :=
  settle s (s.whenNest (if tj < 1920 then s else (s.modPwr fun p => { p with tj, hotDie := die }).fatalNow 0x0204))

/-- A DRAM die of a mast exceeds 85 °C: its refresh doubles (R222). -/
def execDramTempHigh (mast : Nat) (s : State) : Host.Outcome State Fault Refusal :=
  onMast mast s (s.whenHub (s.modMast mast fun z => { z with mc := { z.mc with auto2x := true } }))

/-- The DRAM dies of a mast are at 82 °C or below again (R222). -/
def execDramTempNormal (mast : Nat) (s : State) : Host.Outcome State Fault Refusal :=
  onMast mast s (s.whenHub (s.modMast mast fun z => { z with mc := { z.mc with auto2x := false } }))

/-! ## Coolant flow (R393, R394, R463, R468) -/

/-- A running copy goes on, and DRAM enters self-refresh once it has ended; no other copy starts (R303, R394). -/
def Mast.freezeCopies (z : Mast) : Mast :=
  Mast.refreshes true { z with bulk := match z.bulk with | j :: js => j :: js.map (fun k => { k with frozen := true }) | [] => [] }

/-- A running scrub chunk is abandoned and its class released (R222, R420; log entry 26). -/
def State.abandonScrub (s : State) : State :=
  match s.holder? 0 with
  | some m => if m.activity = actScrub then s.endMaint actScrub (ans stState) else s
  | none => s

/-- A context meets the coolant stop: a running one enters `coolstop`, a furling one loses its frozen calls (R394, R491). -/
def State.coolCtx (s : State) (c : Nat) : State :=
  match s.ctx? c with
  | none => s
  | some x =>
    if runsState x.state then s.modCtx c fun y => { y with before := x.state, state := .coolstop }
    else if x.state == .furling then s.discardCalls c
    else s

/-- A context still waits for its COOL_RESUME. -/
def State.stillCool (s : State) : Bool := s.ctxs.any fun e => e.2.state == .coolstop

/-- The masts stop (steps 2 and 3 of R394). -/
def State.stopMasts (s : State) : State :=
  ((s.modPwr fun p => { p with coolstop := true }).mapMasts fun _ z => z.freezeCopies).abandonScrub

/-- The coolant stop (R394). Flow that is lost again while a context still waits for its COOL_RESUME starts it again at step 2
(R395, R491). -/
def State.coolantStop (s : State) : State :=
  if s.pwr.coolstop then s
  else if s.stillCool then
    (((tkeys s.ctxs).filter fun c => ctxState s c == some .furling).foldl (fun (s : State) c => s.coolCtx c) s).stopMasts
  else
    let s := s.modPwr fun p => { p with coolstop := true, stops := min (p.stops + 1) 65535 }
    let s := s.pwrEvent 0x0209 0x20
    ((tkeys s.ctxs).foldl (fun (s : State) c => s.coolCtx c) s).stopMasts

/-- At step 5 of the power-up sequence the mast rails wait for flow (R468). A step 5 that waits has not started: while brownout
holds it does not start either. -/
def State.flowGate (s : State) : State :=
  if s.cn.stage = 3 then
    if s.pwr.pair = 0 then { s with cn := { s.cn with flowWait := false } }
    else { s with cn := { s.cn with flowWait := true, err := s.cn.err ||| 4, paused := s.cn.paused || s.pwr.brownout } }
  else s

/-- Step 5 may be under way: flow is present, and after a loss of flow every die is below 85 °C (R463, R468). -/
def State.mastRailsOk (s : State) : Bool :=
  s.pwr.pair == 0 && (!s.cn.coolFirst || decide (s.pwr.tj < 1360 ∧ s.pwr.tjDram < 1360))

/-- Lost flow: a coolant stop once READY is set; before that, mast rails that are up are switched off and the sequence
resumes at step 5, with the masts' counters at zero (R394, R445, R468). The fatal state has stopped the package already (R414). -/
def State.flowLost (s : State) : State :=
  if s.flt.fatal then s
  else if 6 ≤ s.cn.stage then s.coolantStop
  else if s.cn.stage = 4 || s.cn.stage = 5 then
    State.flowGate ((State.mapMasts { s with cn := { s.cn with stage := 3, mastRails := false, coolFirst := true } })
      fun _ z => { z with pmc := PmcBlk.reset })
  else s.flowGate

/-- An event of the COOLFLOW pair. -/
def State.whenPair (s t : State) : State := if s.pairSeen then t else s

/-- COOLFLOW_LOST (R393, R394). -/
def execCoolflowLost (s : State) : Host.Outcome State Fault Refusal :=
  settle s (s.whenPair (if s.pwr.pair = 1 then s else (s.modPwr fun p => { p with pair := 1 }).flowLost))

/-- COOLFLOW_PRESENT (R393). -/
def execCoolflowPresent (s : State) : Host.Outcome State Fault Refusal :=
  settle s (s.whenPair (s.modPwr fun p => { p with pair := 0 }).flowGate)

/-- A broken wire is counted, and the first one kept (R425). -/
def State.wireSeen (s : State) (m u : Nat) : State :=
  let f := s.flt
  { s with flt := if f.wires = 0 then { f with wires := 1, wireMast := m, wireUnit := u, err := f.err ||| 0x10 }
                  else { f with wires := min (f.wires + 1) 65535, err := f.err ||| 0x10 } }

/-- The record of a broken wire. -/
def wireRec (m u : Nat) : Record := mkRec 0x0101 clsCE m u 0

/-- The fault collector works: the hub rails are up, or the fatal state has left it on the always-on supply (R403, R414). -/
def State.collectorRuns (s : State) : Bool := s.cn.hubRails || (s.flt.fatal && s.cn.inputValid && !s.cn.held)

/-- A broken COOLFLOW pair is a broken wire of the hub, and has its own event (R393, R403). No rule gives the pair a UNIT (log entry
99). -/
def State.pairRecords (s : State) : State :=
  if s.collectorRuns then ((s.wireSeen hubMast noUnit).raise (wireRec hubMast noUnit)).pwrEvent 0x020A 0x10 else s

/-- COOLFLOW_WIRE: a broken wire, treated as lost flow (R393, R403). -/
def execCoolflowWire (s : State) : Host.Outcome State Fault Refusal :=
  settle s (s.whenPair (if s.pwr.pair = 2 then s
    else (s.modPwr fun p => { p with pair := 2 }).pairRecords.flowLost))

/-! ## The input (R376, R385, R415, R421) -/

/-- The FAULT pair follows brownout, unless a fatal error holds it (R415). -/
def State.faultPair (s : State) (f : Bool) : State :=
  if s.flt.fatal then s else ({ s with flt := { s.flt with faultOut := f } }).emit (.fault f (!f))

/-- Brownout begins: the step of the power-up sequence in progress goes on, but one that waits for flow or for cool dies has not
started (R468). -/
def State.brownoutOn (s : State) : State :=
  { s with pwr := { s.pwr with brownout := true },
           cn := { s.cn with paused := s.cn.paused || (s.cn.stage == 3 && !s.mastRailsOk) } }

/-- BROWNOUT (R376, R421). -/
def execBrownout (s : State) : Host.Outcome State Fault Refusal :=
  settle s (s.whenNest (if s.pwr.brownout then s else (s.brownoutOn.faultPair true).pwrEvent 0x0201 0x40))

/-- Brownout is over: the power-up sequence goes on, queued device activities start, boundaries run again, and a commit goes on with
its next fuse (R376, R420, R433, R468, R489). -/
def State.brownoutOver (s : State) : State :=
  if s.pwr.brownout then
    let s := (s.modPwr fun p => { p with brownout := false }).faultPair false
    let s := State.startVerify { s with cn := { s.cn with paused := false } }
    let s := { s with btb := { s.btb with fuseOn := s.btb.fuseOn || (s.btb.commitBusy && !s.flt.fatal) } }
    ((List.range 4).foldl (fun (s : State) c => s.startQueued c) s).idleAll
  else s

/-- BROWNOUT_END (R376). -/
def execBrownoutEnd (s : State) : Host.Outcome State Fault Refusal := settle s (s.whenNest s.brownoutOver)

/-- OVER_VOLTAGE (R376). -/
def execOverVoltage (s : State) : Host.Outcome State Fault Refusal := settle s (s.whenNest (s.fatalNow 0x0202))

/-- PLL_UNLOCK (R377). -/
def execPllUnlock (s : State) : Host.Outcome State Fault Refusal := settle s (s.whenHub (s.fatalNow 0x0203))

/-- WATCHDOG (R413). -/
def execWatchdog (s : State) : Host.Outcome State Fault Refusal := settle s (s.whenAlive (s.fatalNow 0x0104))

/-! ## Broken wires (R403) -/

/-- The reaction to a broken wire, by its source. -/
def State.wireBroken (s : State) : WireSource → State
  | .mastUnit m u => if s.present m then ((s.wireSeen m u).raise (wireRec m u)).fence m 0x0101 else s
  | .port p =>
    if (s.port p).broken then s
    else (((s.wireSeen hubMast p).raise (wireRec hubMast p)).portDown p).modPort p fun x => { x with broken := true }
  | .module m =>
    if (s.hmod m).broken then s
    else (((s.wireSeen hubMast m).raise (wireRec hubMast m)).moduleDown m).modHmod m fun x =>
      { x with broken := true, fresh := false }
  | .hub u => (s.wireSeen hubMast u).fatalAt (wireRec hubMast u)

/-- WIRE_BROKEN (R403). -/
def execWireBroken (src : WireSource) (s : State) : Host.Outcome State Fault Refusal :=
  match src with
  | .mastUnit m _ => onMast m s (s.whenHub (s.wireBroken src))
  | .port p => onPort p s (s.whenHub (s.wireBroken src))
  | .module m => onModule m s (s.whenHub (s.wireBroken src))
  | .hub _ => settle s (s.whenHub (s.wireBroken src))

end Sys2Proof.Machine
end

