-- ==== Sys2Proof/Machine/MgmtCmds.lean ====
section
/-! DEFINITION. The management endpoint on the I3C bus and the heartbeat timer (R386, R459, R460). -/
namespace Sys2Proof.Machine

/-- Response status codes of R459. -/
def mgOk : Nat := 0
def mgNotReady : Nat := 1
def mgMalformed : Nat := 2

/-- The endpoint answers from the time the boot ROM runs, in the fatal state too, while the Crow's Nest powers its bus (R459, R460,
R476). -/
def State.endpointRuns (s : State) : Bool := s.cn.powered && (s.bootRom || s.flt.fatal)

/-- One command of the endpoint: NOT_READY unless `ready` holds, else what `t` says. -/
def State.endpoint (s : State) (cmd : Nat) (ready : Bool) (t : State) : State :=
  if !s.endpointRuns then s else if ready then t else s.emit (.mgmt cmd mgNotReady [])

/-- HEARTBEAT: restarts the timer of R386 and answers the package time (R400, R459). -/
def execHeartbeat (s : State) : Host.Outcome State Fault Refusal :=
  settle s (s.endpoint 1 s.alive
    ((s.modPwr fun p => { p with hbCount := (p.hbCount + 1) % 65536, hbAge := 0, hbLost := false }).emit
      (.mgmt 1 mgOk (natLe 8 s.time))))

/-- TELEMETRY_GET: the snapshot of R458, in the fatal state from the always-on copy (R459, R460). -/
def execTelemetryGet (s : State) : Host.Outcome State Fault Refusal :=
  settle s (s.endpoint 2 (s.alive || s.flt.fatal) (s.emit (.mgmt 2 mgOk s.telemetry)))

/-- CAP_SET_MGMT: the rack manager writes its cap and is told what was stored (R384, R385, R459). -/
def State.capMgmtSet (s : State) (w : Nat) : State :=
  if 65536 ≤ w then s.emit (.mgmt 3 mgMalformed [])
  else let s := s.writeCap 2 w
       s.emit (.mgmt 3 mgOk (natLe 2 s.pwr.capMgmt))

/-- CAP_SET_MGMT (R459). -/
def execCapSetMgmt (watts : Nat) (s : State) : Host.Outcome State Fault Refusal :=
  settle s (s.endpoint 3 s.alive (s.capMgmtSet watts))

/-- UNIT_ID, variant, stepping, host die code, ARCH_GEN, PART_ID and PKG_INDEX (R459, R472; log entry 29). -/
def State.identAnswer (s : State) : Bytes :=
  natLe 8 s.id.unitId ++ natLe 1 s.id.variant ++ natLe 1 0x41 ++ natLe 1 s.id.hostDie ++ natLe 1 1 ++ natLe 2 s.nlc.partId
  ++ natLe 1 s.nlc.ownIndex

/-- IDENT_GET: answered from the time the boot ROM runs (R459, R460). -/
def execIdentGet (s : State) : Host.Outcome State Fault Refusal :=
  settle s (s.endpoint 4 true (s.emit (.mgmt 4 mgOk s.identAnswer)))

/-- ATTEST_GET: part 0 captures a new report and is answered when it is complete; a later part is of the report held for
that nonce (R459). -/
def State.attestPart (s : State) (nonce : Bytes) (part : Nat) : State :=
  if nonce.length != 48 || decide (65536 ≤ part) then s.emit (.mgmt 5 mgMalformed [])
  else if part = 0 then s.captureReport nonce true
  else match s.btb.held with
    | some h => if h.1 = nonce then s.emit (endpointPart 5 h.2 part) else s.emit (.mgmt 5 mgMalformed [])
    | none => s.emit (.mgmt 5 mgMalformed [])

/-- ATTEST_GET (R459). -/
def execAttestGet (nonce : Bytes) (part : Nat) (s : State) : Host.Outcome State Fault Refusal :=
  settle s (s.endpoint 5 s.alive (s.attestPart nonce part))

/-- CERT_GET: a part of a certificate of R436, as CERT_READ allows it (R459). -/
def State.certPart (s : State) (i part : Nat) : State :=
  if 5 < i || 65536 ≤ part then s.emit (.mgmt 6 mgMalformed [])
  else if i = 4 && !s.btb.aliasRsa then s.emit (.mgmt 6 mgNotReady [])
  else s.emit (endpointPart 6 (s.cert i) part)

/-- CERT_GET (R459). -/
def execCertGet (index part : Nat) (s : State) : Host.Outcome State Fault Refusal :=
  settle s (s.endpoint 6 s.alive (s.certPart index part))

/-- The heartbeat timer expires (R386). -/
def State.heartbeatOver (s : State) : State :=
  if !s.pwr.hbEn || s.pwr.hbLost then s
  else (s.modPwr fun p => { p with hbLost := true, hbAge := max p.hbAge 2000000 }).pwrEvent 0x0206 0x80

/-- HEARTBEAT_LOST: 2 s without a heartbeat (R386). -/
def execHeartbeatLost (s : State) : Host.Outcome State Fault Refusal := settle s (s.whenAlive s.heartbeatOver)

end Sys2Proof.Machine
end

