-- ==== Sys2Proof/Machine/PowerUp.lean ====
section
/-! DEFINITION. Starts and shutdowns: the loss of the input, the power-up sequence, calibration, and the host die reset
(R72, R73, R376, R422, R463 to R468, R478, R484). -/
namespace Sys2Proof.Machine

/-! ## Shutdown (R376, R422, R467) -/

/-- What the Crow's Nest keeps when the rails shut down. -/
def CrowsNest.off (c : CrowsNest) : CrowsNest :=
  { c with stage := 0, paused := false, inputValid := false, flowWait := false, coolFirst := false, held := false, holdOver := false,
           timeHi := none, hubRails := false, mastRails := false, resetOut := true }

/-- What the fault collector keeps: the log and the repair list in the NOR, and the fatal state until the next start. -/
def Faults.off (f : Faults) : Faults :=
  let g := f.cutWrite
  { Faults.reset with
    fatal := f.fatal, fatalCause := f.fatalCause, faultOut := f.faultOut, log := g.log, sectors := g.sectors,
    logNext := f.logNext, repair := f.repair }

/-- What the Trust Block keeps: the fuses. -/
def Trust.off (b : Trust) : Trust :=
  { Trust.reset with stage := 0, aliasSlh := false, aliasRsa := false, fusedSvn := b.fusedSvn }

/-- The host interface without firmware. -/
def HostIf.off : HostIf := { HostIf.reset with ready := false, fwDone := false, oper := false }

/-- The channels without credits. -/
def Stauc.off : Stauc :=
  { Stauc.reset with chans := (List.range 8).map fun c => (c, { Chan.reset c with reqs := 0 }) }

/-- Power figures without measurements; the pair and brownout are still seen by the Crow's Nest. -/
def Power.off (p : Power) : Power :=
  { Power.reset with staticW := p.staticW, dyn := p.dyn, akMhz := p.akMhz, pair := p.pair, brownout := p.brownout }

/-- Every rail but the Crow's Nest's shuts down: volatile state is lost (R376, R422, R467). -/
def State.railsOff (s : State) : State :=
  { State.reset with
    time := s.time, cn := s.cn.off, id := s.id, pwr := s.pwr.off, flt := s.flt.off, btb := s.btb.off, hif := HostIf.off,
    st := Stauc.off, out := s.out, free := s.free }

/-- The host die reset is asserted (R478). -/
def State.assertReset (s : State) : State :=
  if s.cn.resetOut then s else ({ s with cn := { s.cn with resetOut := true } }).emit (.hostReset true)

/-- INPUT_SHUTDOWN: the input falls through 36 V (R376, R422, R478). -/
def execInputShutdown (s : State) : Host.Outcome State Fault Refusal :=
  settle s (if s.cn.inputValid then s.assertReset.railsOff else s)

/-- CROWS_NEST_UNPOWERED: below 12 V package time is lost, the next start is a cold one, and the FAULT pair is driven no more (R466,
R467, R477). What the COOLFLOW pair says is not known: it counts as lost flow until it is recognised again (log entry 100). -/
def execCrowsNestUnpowered (s : State) : Host.Outcome State Fault Refusal :=
  settle s
    (let t := if s.cn.inputValid then s.assertReset.railsOff else s
     let t := if t.cn.powered then t.emit .faultOff else t
     { t with time := 0, cn := { t.cn with powered := false, running := false, held := false }, pwr := { t.pwr with pair := 1 } })

/-! ## Starts (R463, R466, R484) -/

/-- The input powers the Crow's Nest where nothing did: the FAULT pair is driven, a fatal state is over, and the next start is a cold
one (R466, R467, R476, R477). -/
def State.nestPowered (s : State) : State :=
  if s.cn.powered then s
  else ({ s with cn := { s.cn with powered := true, cold := true },
                 flt := { s.flt with fatal := false, fatalCause := 0, faultOut := false } }).emit (.fault false true)

/-- The start of a sequence: cold when the Crow's Nest was unpowered, else a rail restart. The fatal state and brownout are
over, and the FAULT pair shows no fault (R415, R466, R467). -/
def State.begin (s : State) : State :=
  let s := s.nestPowered
  let rail := !s.cn.cold
  let cn := { s.cn with
    cold := false, stage := 0, paused := false, inputValid := true, held := false, holdOver := false, rail,
    restarts := if rail then min (s.cn.restarts + 1) 65535 else 0, readyTime := 0, operTime := 0,
    err := if rail then 1 else 0, startCount := (s.cn.startCount + 1) % 2 ^ 32 }
  let t : State := { s with
    time := if rail then s.time else 0, cn, flt := { s.flt with fatal := false, fatalCause := 0, faultOut := false },
    pwr := { s.pwr with brownout := false } }
  if s.flt.faultOut then t.emit (.fault false true) else t

/-- INPUT_VALID: the sequence starts, or is held until 10 ms after the shutdown with the Crow's Nest powered (R376, R466, R484). -/
def execInputValid (s : State) : Host.Outcome State Fault Refusal :=
  settle s
    (if s.cn.inputValid then s
     else if s.cn.holdOver then s.begin
     else
       let s := s.nestPowered
       { s with cn := { s.cn with inputValid := true, held := true } })

/-- POWERUP_HOLD_EXPIRE: 10 ms after the shutdown (R484). -/
def execPowerupHoldExpire (s : State) : Host.Outcome State Fault Refusal :=
  settle s
    (if s.cn.held then s.begin
     else if s.cn.inputValid then s
     else { s with cn := { s.cn with holdOver := true } })

/-- The sequence stands after step `n` of its STAGE codes, and the next step is in progress. One that would start in brownout waits
until it ends (R468). -/
def State.stageIs (s : State) (n : Nat) : Bool :=
  s.cn.inputValid && !s.cn.held && s.cn.stage == n && !s.flt.fatal && !s.cn.paused

/-- A step has completed, and the next starts unless brownout holds (R468). -/
def State.toStage (s : State) (n : Nat) : State := { s with cn := { s.cn with stage := n, paused := s.pwr.brownout } }

/-- POWERUP_CROWS_NEST: step 2 (R463). -/
def execPowerupCrowsNest (s : State) : Host.Outcome State Fault Refusal :=
  settle s (if s.stageIs 0 then State.toStage { s with cn := { s.cn with running := true } } 1 else s)

/-- The hub rails are up: the collector hears of a COOLFLOW pair that is broken at power-up (R463, R487). -/
def State.hubPowered (s : State) : State :=
  let s := State.toStage { s with cn := { s.cn with hubRails := true } } 2
  if s.pwr.pair = 2 then s.pairRecords else s

/-- POWERUP_HUB_RAILS: step 3 (R463). -/
def execPowerupHubRails (s : State) : Host.Outcome State Fault Refusal :=
  settle s (if s.stageIs 1 then s.hubPowered else s)

/-- The boot ROM runs: the log is scanned, images are accepted, and the mast rails wait for flow (R417, R463, R468). -/
def State.bootStart (s : State) : State :=
  (({ s with flt := s.flt.scan, btb := { s.btb with stage := 1 } }).toStage 3).flowGate

/-- POWERUP_BOOT_ROM: step 4 (R463). -/
def execPowerupBootRom (s : State) : Host.Outcome State Fault Refusal :=
  settle s (if s.stageIs 2 then s.bootStart else s)

/-- POWERUP_MAST_RAILS: step 5 (R463). -/
def execPowerupMastRails (s : State) : Host.Outcome State Fault Refusal :=
  settle s
    (if s.stageIs 3 && s.mastRailsOk then
       State.toStage { s with cn := { s.cn with mastRails := true, flowWait := false, coolFirst := false } } 4
     else s.flowGate)

/-! ## Calibration (R72, R73, R220, R465) -/

/-- Self-test failures among P0 to P15. -/
def bistCount (b : BitVec 17) : Nat := popCount b.toNat 16
/-- No mapping serves every engine (R73). -/
def bistBad (b : BitVec 17) : Bool := decide (2 ≤ bistCount b) || (bistCount b == 1 && bit b.toNat 16)

/-- The step that a mast fails, 0 when none: an earlier one that it is told of, step 6 for its self-test alone, or step 7. Step 5
fails no mast. -/
def calStep (c : MastCal) : Nat :=
  if c.failStep ≠ 0 && c.failStep < 5 then c.failStep
  else if bistBad c.bistFail then 6
  else if c.failStep = 7 then 7 else 0

/-- The mapping of engines that self-test leaves; a mast that failed before step 6 ran none (R72, R73, R84). -/
def MeBlk.calibrated (c : MastCal) : MeBlk :=
  let ran := calStep c = 0 || 6 ≤ calStep c
  let fail : BitVec 17 := if ran then c.bistFail else 0
  let bad := bistBad fail
  let k := ((List.range 17).find? fun i => bit fail.toNat i).getD 0x1F
  { MeBlk.reset with
    bistFail := fail, bistFenced := bad, fencedPhys := if bad then 0x1F else k,
    spareUsed := !bad && decide (k < 16), spareFor := if !bad && k < 16 then k else 0x1F }

/-- One mast's calibration: its engines, and its fencing with its record. -/
def State.calMast (s : State) (c : MastCal) : State :=
  if !s.present c.mast then s
  else
    let s := s.modMast c.mast fun z => { z with me := MeBlk.calibrated c }
    if calStep c = 0 then s
    else
      let s := s.modMast c.mast fun z => { z with fenced := true, cause := 0x1501 }
      let s := { s with id := { s.id with fencedCal := setBit s.id.fencedCal c.mast true,
                                          failMasts := setBit s.id.failMasts c.mast true,
                                          failStep := if s.id.failStep = 0 then calStep c else min s.id.failStep (calStep c) },
                        cn := { s.cn with err := s.cn.err ||| 2 } }
      s.raise { mkRec 0x1501 clsCE c.mast noUnit 0 with info0 := calStep c }

/-- Rows of the repair list: those that found no spare stay and are logged again, as do the rows of a mast that failed
before step 5; the others are mapped (R220, R465). -/
def State.calRows (s : State) (c : CalResult) : State :=
  let early := fun (m : Nat) => c.masts.any fun x => x.mast == m && decide (0 < calStep x ∧ calStep x < 5)
  let keep := s.flt.repair.filter fun r => c.unmapped.contains r || early r.1
  let s := { s with flt := { s.flt with repair := keep } }
  (keep.filter fun r => c.unmapped.contains r && !early r.1).foldl (fun (s : State) r =>
    s.raise { mkRec 0x1308 clsCE r.1 noUnit 0 with info0 := r.2 }) s

/-- One step of calibration on every mast: the masts that fail it, in the order in which they are told of; step 5 looks at the repair
list. -/
def State.calStepRuns (s : State) (c : CalResult) (st : Nat) : State :=
  if st = 5 then s.calRows c else (c.masts.filter fun x => calStep x == st).foldl (fun (s : State) x => s.calMast x) s

/-- The masts whose engines have a mapping of their own: those that fail no step. -/
def State.calPassed (s : State) (c : CalResult) : State :=
  (c.masts.filter fun x => calStep x == 0).foldl (fun (s : State) x => s.calMast x) s

/-- Calibration ends, its steps in ascending code order (R465). A hub failure in a step is fatal; the masts that fail that step or an
earlier one are fenced before (log entry 101). -/
def State.calibrated (s : State) (c : CalResult) : State :=
  let s := { s with id := { s.id with fencedCal := 0, failMasts := 0, failStep := 0, calMs := min c.calMs 65535 } }
  let run := fun (s : State) (l : List Nat) => l.foldl (fun (s : State) st => s.calStepRuns c st) s
  if c.hubFail = 1 then (run s [1]).fatalNow 0x0103
  else if c.hubFail = 2 then (run s [1, 2]).fatalNow 0x0203
  else
    ((run { s with pwr := { s.pwr with staticW := c.staticW, dyn := c.dyn } } [1, 2, 3, 4, 5, 6, 7]).calPassed c).toStage 5

/-- CALIBRATION: step 6 (R463, R465). -/
def execCalibration (c : CalResult) (s : State) : Host.Outcome State Fault Refusal :=
  settle s (if s.stageIs 4 then s.calibrated c else s)

/-- DRAM, scratchpads and caches are zero, READY is set and sent, and mainband training is enabled (R250, R463). -/
def State.becomeReady (s : State) : State :=
  let s := s.mapMasts fun _ z => { z with dram := Dram.reset, spad := { cells := [], flaws := [] },
                                          lc := { lines := [], clock := 0 } }
  let s := { s with
    hif := { s.hif with ready := true, mods := tmap s.hif.mods fun _ x => if x.broken then x else { x with state := hmTraining } },
    cn := { s.cn with readyTime := s.time } }
  (s.toStage 6).bootChanged.startVerify

/-- POWERUP_READY: step 7 (R463). -/
def execPowerupReady (s : State) : Host.Outcome State Fault Refusal :=
  settle s (if s.stageIs 5 then s.becomeReady else s)

/-! ## The host die reset (R478, R487) -/

/-- HD_PWROK_FALL (R478, R487). -/
def execHdPwrokFall (s : State) : Host.Outcome State Fault Refusal :=
  settle s (({ s with cn := { s.cn with pwrok := false } }).assertReset.allModulesDown)

/-- HD_PWROK_RISE (R478). -/
def execHdPwrokRise (s : State) : Host.Outcome State Fault Refusal :=
  settle s { s with cn := { s.cn with pwrok := true } }

/-- HOST_RESET_RELEASE: 1 ms after HD_PWROK is high and the hub rails are up (R478). -/
def execHostResetRelease (s : State) : Host.Outcome State Fault Refusal :=
  settle s
    (if s.cn.pwrok && s.cn.hubRails && s.cn.resetOut then
       ({ s with cn := { s.cn with resetOut := false } }).emit (.hostReset false)
     else s)

end Sys2Proof.Machine
end

