-- ==== Sys2Proof/Machine/SchedEvents.lean ====
section
/-! DEFINITION. Cleats, spills and restores: CLEAT_REACHED, SPILL_COMPLETE, RESTORE_COMPLETE (R297 to R300, R303). -/
namespace Sys2Proof.Machine

/-- A context can pass a cleat on a mast: it can run there and none of its calls runs (R80, R297, R302). -/
def State.cleatOpen (s : State) (c m : Nat) : Bool :=
  s.canRun c m && !((s.mast m).calls.any fun r => r.ctx == c)

/-- A context is at a cleat on a mast (R291 step 2, R296, R299). -/
def State.atCleat (s : State) (c m k : Nat) : State :=
  let s := s.modCtx c fun x => { x with cleat := tset x.cleat m k }
  match s.ctx? c with
  | none => s
  | some x =>
    if x.state == .furling then
      s.modCtx c fun x => { x with stopAt := x.stopAt.erase m, stopped := insAsc m x.stopped }
    else
      let s := s.reeval true m
      if x.preemptible && s.preempts c m then s.displace c m else s

/-- CLEAT_REACHED: the Masthead records the cleat; a context that furls stops there, and a victim is displaced. -/
def execCleatReached (ctx mast cleat : Nat) (s : State) : Host.Outcome State Fault Refusal :=
  onMast mast s (s.whenAlive (
    if s.cleatOpen ctx mast && decide (cleat < 65536) then s.atCleat ctx mast cleat else s))

/-! ## Copies (R299, R300, R303) -/

/-- The running copy of a mast. A copy that a coolant stop holds back does not run. -/
def Mast.copyJob (z : Mast) : Option BulkJob :=
  match z.bulk with
  | j :: _ => if j.frozen then none else some j
  | [] => none

/-- Live regions are saved one after the other from the start of the save area, in list order (R299; log entry 32). -/
def State.saveRegions (s : State) (c m base : Nat) : List (Nat × Nat) → State × IoErr
  | [] => (s, none)
  | r :: rs =>
    let q := (s.mast m).readSpad (bulkReader c) r.1 r.2
    let s := s.modMast m fun z => (z.readSpad (bulkReader c) r.1 r.2).1
    match q.2.2 with
    | some w => (s, some (0x1304, w * 8))
    | none =>
      let t := s.writeDram m (bulkReader c) base q.2.1
      match t.2 with
      | some e => (t.1, some (e.2, e.1 * 64))
      | none => t.1.saveRegions c m (base + r.2) rs

/-- Live regions are copied back from the save area (R300). -/
def State.loadRegions (s : State) (c m base : Nat) : List (Nat × Nat) → State × IoErr
  | [] => (s, none)
  | r :: rs =>
    let q := s.readDram m (bulkReader c) base r.2
    match q.2.2 with
    | some e => (q.1, some (e.2, e.1 * 64))
    | none => (q.1.modMast m fun z => z.writeSpad r.1 q.2.1).loadRegions c m (base + r.2) rs

/-- The save area of a context on a mast. -/
def State.saveBase (s : State) (c m : Nat) : Nat :=
  match s.ctx? c with
  | some x => (tgetD x.saves m (0, 0)).1
  | none => 0

/-- The copy at the head of a mast's path ends. -/
def State.copyEnds (s : State) (m : Nat) : State :=
  s.modMast m fun z => Mast.refreshes s.pwr.coolstop { z with bulk := z.bulk.drop 1 }

/-- A spill ends: the regions are saved, the slices zeroed and the engines released to those that wait (R299). In a coolant stop
the context keeps its engines until its COOL_RESUME (R303, R395). -/
def State.spillEnd (s : State) (m : Nat) (j : BulkJob) : State :=
  let q := s.saveRegions j.ctx m (s.saveBase j.ctx m) j.regions
  match q.2 with
  | some e => q.1.ioFail j.ctx m noUnit e
  | none =>
    let s := (q.1.copyEnds m).modCtx j.ctx fun x =>
      { x with live := if j.regions.isEmpty then x.live else tset x.live m j.regions }
    if s.frozen j.ctx then s.modCtx j.ctx fun x => { x with spilled := insAsc m x.spilled }
    else (s.freeEngines j.ctx m).idleAll

/-- SPILL_COMPLETE. -/
def execSpillComplete (mast : Nat) (s : State) : Host.Outcome State Fault Refusal :=
  onMast mast s (s.whenAlive (match (s.mast mast).copyJob with
    | some j => if j.restore then s else s.spillEnd mast j
    | none => s))

/-- A context in coolant stop whose last restore ends returns to `unfurled` (R300, R303). -/
def State.promoteCool (s : State) (c : Nat) : State :=
  match s.ctx? c with
  | some x =>
    if x.state == .coolstop && x.before == .displaced && x.masts.all fun m => s.holds c m && !s.copying c m then
      s.modCtx c fun x => { x with before := .unfurled }
    else s
  | none => s

/-- A restore ends: the context resumes after its cleat, and is unfurled once it holds its engines everywhere (R289,
R300). -/
def State.restoreEnd (s : State) (m : Nat) (j : BulkJob) : State :=
  let q := s.loadRegions j.ctx m (s.saveBase j.ctx m) j.regions
  match q.2 with
  | some e => q.1.ioFail j.ctx m noUnit e
  | none =>
    let s := (q.1.copyEnds m).modCtx j.ctx fun x => { x with live := tdel x.live m }
    (((s.promote j.ctx).promoteCool j.ctx).reeval false m).idleAll

/-- RESTORE_COMPLETE. -/
def execRestoreComplete (mast : Nat) (s : State) : Host.Outcome State Fault Refusal :=
  onMast mast s (s.whenAlive (match (s.mast mast).copyJob with
    | some j => if j.restore then s.restoreEnd mast j else s
    | none => s))

end Sys2Proof.Machine
end

