-- ==== Sys2Proof/Machine/Dispatch.lean ====
section
/-! DEFINITION. The dispatch: one arm per command, each one direct call of its meaning. -/
namespace Sys2Proof.Machine

/-- The effect of a command on everything but the queue. -/
def exec (i : Instr) (s : State) : Host.Outcome State Fault Refusal :=
  match i with
  | .hello r => Sys2Proof.Machine.execHello r s
  | .devConfig r => Sys2Proof.Machine.execDevConfig r s
  | .mark r => Sys2Proof.Machine.execMark r s
  | .echo r => Sys2Proof.Machine.execEcho r s
  | .regRead r => Sys2Proof.Machine.execRegRead r s
  | .regWrite r => Sys2Proof.Machine.execRegWrite r s
  | .registerWrite off val => Sys2Proof.Machine.execRegisterWrite off val s
  | .ctxCreate r => Sys2Proof.Machine.execCtxCreate r s
  | .ctxUnfurl r => Sys2Proof.Machine.execCtxUnfurl r s
  | .unfurlComplete ctx => Sys2Proof.Machine.execUnfurlComplete ctx s
  | .ctxFurl r => Sys2Proof.Machine.execCtxFurl r s
  | .furlWithdrawLimit ctx => Sys2Proof.Machine.execFurlWithdrawLimit ctx s
  | .furlComplete ctx => Sys2Proof.Machine.execFurlComplete ctx s
  | .ctxDestroy r => Sys2Proof.Machine.execCtxDestroy r s
  | .ctxQuery r => Sys2Proof.Machine.execCtxQuery r s
  | .ctxPriority r => Sys2Proof.Machine.execCtxPriority r s
  | .memGrant r => Sys2Proof.Machine.execMemGrant r s
  | .memRelease r => Sys2Proof.Machine.execMemRelease r s
  | .memReleaseZeroed ctx mast base => Sys2Proof.Machine.execMemReleaseZeroed ctx mast base s
  | .memWrite r => Sys2Proof.Machine.execMemWrite r s
  | .memRead r => Sys2Proof.Machine.execMemRead r s
  | .shardLoad r => Sys2Proof.Machine.execShardLoad r s
  | .shardDrop r => Sys2Proof.Machine.execShardDrop r s
  | .shardQuery r => Sys2Proof.Machine.execShardQuery r s
  | .progLoad r => Sys2Proof.Machine.execProgLoad r s
  | .progCheckComplete ctx => Sys2Proof.Machine.execProgCheckComplete ctx s
  | .progQuery r => Sys2Proof.Machine.execProgQuery r s
  | .reqSubmit r => Sys2Proof.Machine.execReqSubmit r s
  | .reqCancel r => Sys2Proof.Machine.execReqCancel r s
  | .reqPark r => Sys2Proof.Machine.execReqPark r s
  | .reqResume r => Sys2Proof.Machine.execReqResume r s
  | .reqRelease r => Sys2Proof.Machine.execReqRelease r s
  | .sessionOpen r => Sys2Proof.Machine.execSessionOpen r s
  | .sessionClose r => Sys2Proof.Machine.execSessionClose r s
  | .sessionShare r => Sys2Proof.Machine.execSessionShare r s
  | .sessionTruncate r => Sys2Proof.Machine.execSessionTruncate r s
  | .sessionGlobals r => Sys2Proof.Machine.execSessionGlobals r s
  | .sessionQuery r => Sys2Proof.Machine.execSessionQuery r s
  | .kvExport r => Sys2Proof.Machine.execKvExport r s
  | .mirrorSet r => Sys2Proof.Machine.execMirrorSet r s
  | .mirrorPromote r => Sys2Proof.Machine.execMirrorPromote r s
  | .serveConfig r => Sys2Proof.Machine.execServeConfig r s
  | .linkTrain r => Sys2Proof.Machine.execLinkTrain r s
  | .linkStop r => Sys2Proof.Machine.execLinkStop r s
  | .planLoad r => Sys2Proof.Machine.execPlanLoad r s
  | .partitionSet r => Sys2Proof.Machine.execPartitionSet r s
  | .windowMap r => Sys2Proof.Machine.execWindowMap r s
  | .groupLoad r => Sys2Proof.Machine.execGroupLoad r s
  | .groupUnload r => Sys2Proof.Machine.execGroupUnload r s
  | .capSet r => Sys2Proof.Machine.execCapSet r s
  | .powerHint r => Sys2Proof.Machine.execPowerHint r s
  | .reefLimit r => Sys2Proof.Machine.execReefLimit r s
  | .coolResume r => Sys2Proof.Machine.execCoolResume r s
  | .ctrRead r => Sys2Proof.Machine.execCtrRead r s
  | .ctrProgram r => Sys2Proof.Machine.execCtrProgram r s
  | .ctrGrant r => Sys2Proof.Machine.execCtrGrant r s
  | .telemetry r => Sys2Proof.Machine.execTelemetry r s
  | .attest r => Sys2Proof.Machine.execAttest r s
  | .attestReportComplete => Sys2Proof.Machine.execAttestReportComplete s
  | .certRead r => Sys2Proof.Machine.execCertRead r s
  | .linkKey r => Sys2Proof.Machine.execLinkKey r s
  | .svnCommit r => Sys2Proof.Machine.execSvnCommit r s
  | .fuseProgrammed => Sys2Proof.Machine.execFuseProgrammed s
  | .scrubChunk r => Sys2Proof.Machine.execScrubChunk r s
  | .digestRecheck r => Sys2Proof.Machine.execDigestRecheck r s
  | .retrain r => Sys2Proof.Machine.execRetrain r s
  | .refreshMode r => Sys2Proof.Machine.execRefreshMode r s
  | .logCompact r => Sys2Proof.Machine.execLogCompact r s
  | .maintQuery r => Sys2Proof.Machine.execMaintQuery r s
  | .logRead r => Sys2Proof.Machine.execLogRead r s
  | .scrubSchedule => Sys2Proof.Machine.execScrubSchedule s
  | .scrubChunkComplete found => Sys2Proof.Machine.execScrubChunkComplete found s
  | .recheckSchedule => Sys2Proof.Machine.execRecheckSchedule s
  | .recheckComplete => Sys2Proof.Machine.execRecheckComplete s
  | .refreshModeComplete => Sys2Proof.Machine.execRefreshModeComplete s
  | .logCompactAuto => Sys2Proof.Machine.execLogCompactAuto s
  | .logCompactComplete => Sys2Proof.Machine.execLogCompactComplete s
  | .logRecordWritten => Sys2Proof.Machine.execLogRecordWritten s
  | .eventNoticeSend => Sys2Proof.Machine.execEventNoticeSend s
  | .answerSend ch => Sys2Proof.Machine.execAnswerSend ch s
  | .heartbeat => Sys2Proof.Machine.execHeartbeat s
  | .telemetryGet => Sys2Proof.Machine.execTelemetryGet s
  | .capSetMgmt watts => Sys2Proof.Machine.execCapSetMgmt watts s
  | .identGet => Sys2Proof.Machine.execIdentGet s
  | .attestGet nonce part => Sys2Proof.Machine.execAttestGet nonce part s
  | .certGet index part => Sys2Proof.Machine.execCertGet index part s
  | .heartbeatLost => Sys2Proof.Machine.execHeartbeatLost s
  | .pwrCapWrite val => Sys2Proof.Machine.execPwrCapWrite val s
  | .mcBandWrite mast band val => Sys2Proof.Machine.execMcBandWrite mast band val s
  | .bandChangeComplete mast band => Sys2Proof.Machine.execBandChangeComplete mast band s
  | .nlcDeadClear k val => Sys2Proof.Machine.execNlcDeadClear k val s
  | .hifFlush => Sys2Proof.Machine.execHifFlush s
  | .hifRetry mask => Sys2Proof.Machine.execHifRetry mask s
  | .ttClear mast ctx layer => Sys2Proof.Machine.execTtClear mast ctx layer s
  | .ttPin mast ctx layer => Sys2Proof.Machine.execTtPin mast ctx layer s
  | .pmcCompatWrite val => Sys2Proof.Machine.execPmcCompatWrite val s
  | .cnTimeLoRead => Sys2Proof.Machine.execCnTimeLoRead s
  | .sbMemRead off => Sys2Proof.Machine.execSbMemRead off s
  | .sbMemWrite off val => Sys2Proof.Machine.execSbMemWrite off val s
  | .fwChunk off data => Sys2Proof.Machine.execFwChunk off data s
  | .fwDone len => Sys2Proof.Machine.execFwDone len s
  | .fwVerify => Sys2Proof.Machine.execFwVerify s
  | .aliasRsaReady => Sys2Proof.Machine.execAliasRsaReady s
  | .flitReceive m flit => Sys2Proof.Machine.execFlitReceive m flit s
  | .flitAckTimeout m => Sys2Proof.Machine.execFlitAckTimeout m s
  | .moduleRetrainComplete m ok lanes repaired => Sys2Proof.Machine.execModuleRetrainComplete m ok lanes repaired s
  | .resumeFlitReceive m flit => Sys2Proof.Machine.execResumeFlitReceive m flit s
  | .channelRebindHome ch => Sys2Proof.Machine.execChannelRebindHome ch s
  | .stepBoundary ctx => Sys2Proof.Machine.execStepBoundary ctx s
  | .deadlineDue ctx => Sys2Proof.Machine.execDeadlineDue ctx s
  | .sampling ctx logits => Sys2Proof.Machine.execSampling ctx logits s
  | .mirrorAckReceive ctx step ringPos lost => Sys2Proof.Machine.execMirrorAckReceive ctx step ringPos lost s
  | .mirrorTimeout ctx => Sys2Proof.Machine.execMirrorTimeout ctx s
  | .bundleTransmit ctx => Sys2Proof.Machine.execBundleTransmit ctx s
  | .exportHeaderReceive h => Sys2Proof.Machine.execExportHeaderReceive h s
  | .exportPageReceive p => Sys2Proof.Machine.execExportPageReceive p s
  | .exportPageAckReceive exportId page refused => Sys2Proof.Machine.execExportPageAckReceive exportId page refused s
  | .exportPageTimeout exportId page => Sys2Proof.Machine.execExportPageTimeout exportId page s
  | .groupedCall ctx mast desc errs upsets => Sys2Proof.Machine.execGroupedCall ctx mast desc errs upsets s
  | .groupedCallComplete ctx mast => Sys2Proof.Machine.execGroupedCallComplete ctx mast s
  | .ttCompare mast => Sys2Proof.Machine.execTtCompare mast s
  | .routingCall ctx mast desc => Sys2Proof.Machine.execRoutingCall ctx mast desc s
  | .intakeCall ctx mast desc => Sys2Proof.Machine.execIntakeCall ctx mast desc s
  | .combineCall ctx mast desc => Sys2Proof.Machine.execCombineCall ctx mast desc s
  | .attentionCall ctx mast ae desc upsets => Sys2Proof.Machine.execAttentionCall ctx mast ae desc upsets s
  | .sealImageBuild mast => Sys2Proof.Machine.execSealImageBuild mast s
  | .sealImageComplete mast => Sys2Proof.Machine.execSealImageComplete mast s
  | .fabricCopyCall ctx mast desc => Sys2Proof.Machine.execFabricCopyCall ctx mast desc s
  | .counterReadCall ctx mast desc => Sys2Proof.Machine.execCounterReadCall ctx mast desc s
  | .collectiveCall ctx mast desc => Sys2Proof.Machine.execCollectiveCall ctx mast desc s
  | .colDataReceive p => Sys2Proof.Machine.execColDataReceive p s
  | .colAckReceive p => Sys2Proof.Machine.execColAckReceive p s
  | .colAckSend group mast srcRank => Sys2Proof.Machine.execColAckSend group mast srcRank s
  | .colEndReceive p => Sys2Proof.Machine.execColEndReceive p s
  | .colAbortReceive p => Sys2Proof.Machine.execColAbortReceive p s
  | .colWithdrawReceive p => Sys2Proof.Machine.execColWithdrawReceive p s
  | .colSwRefuseReceive p => Sys2Proof.Machine.execColSwRefuseReceive p s
  | .colSwEvictReceive p => Sys2Proof.Machine.execColSwEvictReceive p s
  | .colChunkTimeout group mast dstRank chunk => Sys2Proof.Machine.execColChunkTimeout group mast dstRank chunk s
  | .colRetryResend group mast dstRank chunk => Sys2Proof.Machine.execColRetryResend group mast dstRank chunk s
  | .colTimeout group mast => Sys2Proof.Machine.execColTimeout group mast s
  | .cleatReached ctx mast cleat => Sys2Proof.Machine.execCleatReached ctx mast cleat s
  | .spillComplete mast => Sys2Proof.Machine.execSpillComplete mast s
  | .restoreComplete mast => Sys2Proof.Machine.execRestoreComplete mast s
  | .shardChunkHashed shard => Sys2Proof.Machine.execShardChunkHashed shard s
  | .residualScanComplete shard => Sys2Proof.Machine.execResidualScanComplete shard s
  | .shardLoadTimeout shard => Sys2Proof.Machine.execShardLoadTimeout shard s
  | .portTrained p allLanes => Sys2Proof.Machine.execPortTrained p allLanes s
  | .identReceive p body => Sys2Proof.Machine.execIdentReceive p body s
  | .linkFrameReceive p frame => Sys2Proof.Machine.execLinkFrameReceive p frame s
  | .linkAckTimeout p => Sys2Proof.Machine.execLinkAckTimeout p s
  | .portRetrainComplete p ok => Sys2Proof.Machine.execPortRetrainComplete p ok s
  | .keysyncReceive p => Sys2Proof.Machine.execKeysyncReceive p s
  | .nlcKeyExhausted p => Sys2Proof.Machine.execNlcKeyExhausted p s
  | .nlcReadReceive p => Sys2Proof.Machine.execNlcReadReceive p s
  | .nlcWriteReceive p => Sys2Proof.Machine.execNlcWriteReceive p s
  | .nlcReadDataReceive p => Sys2Proof.Machine.execNlcReadDataReceive p s
  | .nlcWriteAckReceive p => Sys2Proof.Machine.execNlcWriteAckReceive p s
  | .fabricRequestTimeout reqKey => Sys2Proof.Machine.execFabricRequestTimeout reqKey s
  | .fabricRetryResend reqKey => Sys2Proof.Machine.execFabricRetryResend reqKey s
  | .inputValid => Sys2Proof.Machine.execInputValid s
  | .brownout => Sys2Proof.Machine.execBrownout s
  | .brownoutEnd => Sys2Proof.Machine.execBrownoutEnd s
  | .inputShutdown => Sys2Proof.Machine.execInputShutdown s
  | .overVoltage => Sys2Proof.Machine.execOverVoltage s
  | .pllUnlock => Sys2Proof.Machine.execPllUnlock s
  | .watchdog => Sys2Proof.Machine.execWatchdog s
  | .wireBroken src => Sys2Proof.Machine.execWireBroken src s
  | .governorPeriod => Sys2Proof.Machine.execGovernorPeriod s
  | .powerSample p => Sys2Proof.Machine.execPowerSample p s
  | .fastLimiter edges => Sys2Proof.Machine.execFastLimiter edges s
  | .powerHintPosition => Sys2Proof.Machine.execPowerHintPosition s
  | .reefSwitch => Sys2Proof.Machine.execReefSwitch s
  | .droopTrip mast => Sys2Proof.Machine.execDroopTrip mast s
  | .droopClear mast edges => Sys2Proof.Machine.execDroopClear mast edges s
  | .tjHot tj die => Sys2Proof.Machine.execTjHot tj die s
  | .thermLevelRise tj => Sys2Proof.Machine.execThermLevelRise tj s
  | .tjCool tj => Sys2Proof.Machine.execTjCool tj s
  | .thermLevelFall tj => Sys2Proof.Machine.execThermLevelFall tj s
  | .thermOverRange tj => Sys2Proof.Machine.execThermOverRange tj s
  | .thermTrip tj die => Sys2Proof.Machine.execThermTrip tj die s
  | .dramTempHigh mast => Sys2Proof.Machine.execDramTempHigh mast s
  | .dramTempNormal mast => Sys2Proof.Machine.execDramTempNormal mast s
  | .coolflowLost => Sys2Proof.Machine.execCoolflowLost s
  | .coolflowPresent => Sys2Proof.Machine.execCoolflowPresent s
  | .coolflowWire => Sys2Proof.Machine.execCoolflowWire s
  | .spadPatrol mast found => Sys2Proof.Machine.execSpadPatrol mast found s
  | .contentionWindow mast counts => Sys2Proof.Machine.execContentionWindow mast counts s
  | .powerupCrowsNest => Sys2Proof.Machine.execPowerupCrowsNest s
  | .powerupHubRails => Sys2Proof.Machine.execPowerupHubRails s
  | .powerupBootRom => Sys2Proof.Machine.execPowerupBootRom s
  | .powerupMastRails => Sys2Proof.Machine.execPowerupMastRails s
  | .calibration c => Sys2Proof.Machine.execCalibration c s
  | .powerupReady => Sys2Proof.Machine.execPowerupReady s
  | .powerupHoldExpire => Sys2Proof.Machine.execPowerupHoldExpire s
  | .hdPwrokFall => Sys2Proof.Machine.execHdPwrokFall s
  | .hdPwrokRise => Sys2Proof.Machine.execHdPwrokRise s
  | .hostResetRelease => Sys2Proof.Machine.execHostResetRelease s
  | .vectorUnitOperation ctx mast vu layer op => Sys2Proof.Machine.execVectorUnitOperation ctx mast vu layer op s
  | .ucieModuleTrained m rate lanes repaired => Sys2Proof.Machine.execUcieModuleTrained m rate lanes repaired s
  | .linkTrainComplete => Sys2Proof.Machine.execLinkTrainComplete s
  | .fastLimiterRelease => Sys2Proof.Machine.execFastLimiterRelease s
  | .powerHintEnd => Sys2Proof.Machine.execPowerHintEnd s
  | .switchWindowEnd => Sys2Proof.Machine.execSwitchWindowEnd s
  | .crowsNestUnpowered => Sys2Proof.Machine.execCrowsNestUnpowered s
  | .contextZeroingEnd ctx => Sys2Proof.Machine.execContextZeroingEnd ctx s

end Sys2Proof.Machine
end

