-- ==== Sys2Proof/Safety.lean ====
section
/-! DEFINITION. The terms that claims use: a safe step; the parts of the state and the promises about them; a request that
is heard, and its answer. -/
namespace Sys2Proof

/-- An outcome that goes on. -/
def Machine.goesOn (o : Host.Outcome Machine.State Machine.Fault Machine.Refusal) : Prop := ∃ s, o = .next s

/-- A state whose next step goes on. -/
def Machine.Safe (s : Machine.State) : Prop := Machine.goesOn (Machine.step s)

namespace Machine

/-- The command `c` goes on from `s`, into a state with `P`. -/
def Runs (c : Instr) (s : State) (P : State → Prop) : Prop := ∃ t, exec c s = .next t ∧ P t

/-- The command `c` goes on from `s` with the effect `t` on everything but the queue, which it leaves as it is. -/
def Does (c : Instr) (s t : State) : Prop := exec c s = .next { t with pending := s.pending }

/-! ## Parts of the state and promises about them

`Agree M s t` says that `t` has every part of `s` that the list `M` does not name. The parts are the fields of State and the
promises that no operation may break: that the package's tables keep their keys, that memory keeps its canonical form, that
caps stay within their range, that the fused version only rises, that the fatal state and a fence stay, that no byte of
memory changes, and that no answer is lost. -/

/-- The parts of the state that a frame speaks of. -/
inductive Comp where
  | time | cn | id | pwr | flt | btb | hif | st | masts | ctxs | zeroing | reqs | sess | srvSel | srvErr | exports
  | nextExp | imports | hal | nlc | col | pmc | out | free | pending
  | mastKeys | chanKeys | modKeys | portKeys | mem | caps | svn | fatal | fenced | cells | said
  deriving DecidableEq, Repr

/-- A mast's memories are in canonical form. -/
def Mast.memOk (m : Mast) : Prop := Memory.wf m.dram.cells = true ∧ Memory.wf m.spad.cells = true

/-- Every mast's memories are in canonical form. -/
def State.memOk (s : State) : Prop := ∀ e ∈ s.masts, e.2.memOk

/-- A cap is within the range that R383 gives it. -/
def capRange (w : Nat) : Prop := 450 ≤ w ∧ w ≤ 2000

/-- The caps of the power registers are within their range. -/
def Power.capsOk (p : Power) : Prop := capRange p.cap ∧ capRange p.capMgmt ∧ capRange p.capSafe

/-- `t` has the part `c` of `s`. -/
def Comp.same (s t : State) : Comp → Prop
  | .time => t.time = s.time
  | .cn => t.cn = s.cn
  | .id => t.id = s.id
  | .pwr => t.pwr = s.pwr
  | .flt => t.flt = s.flt
  | .btb => t.btb = s.btb
  | .hif => t.hif = s.hif
  | .st => t.st = s.st
  | .masts => t.masts = s.masts
  | .ctxs => t.ctxs = s.ctxs
  | .zeroing => t.zeroing = s.zeroing
  | .reqs => t.reqs = s.reqs
  | .sess => t.sess = s.sess
  | .srvSel => t.srvSel = s.srvSel
  | .srvErr => t.srvErr = s.srvErr
  | .exports => t.exports = s.exports
  | .nextExp => t.nextExp = s.nextExp
  | .imports => t.imports = s.imports
  | .hal => t.hal = s.hal
  | .nlc => t.nlc = s.nlc
  | .col => t.col = s.col
  | .pmc => t.pmc = s.pmc
  | .out => t.out = s.out
  | .free => t.free = s.free
  | .pending => t.pending = s.pending
  | .mastKeys => tkeys s.masts = List.range 8 → tkeys t.masts = List.range 8
  | .chanKeys => tkeys s.st.chans = List.range 8 → tkeys t.st.chans = List.range 8
  | .modKeys => tkeys s.hif.mods = List.range 4 → tkeys t.hif.mods = List.range 4
  | .portKeys => tkeys s.nlc.ports = List.range 42 → tkeys t.nlc.ports = List.range 42
  | .mem => s.memOk → t.memOk
  | .caps => s.pwr.capsOk → t.pwr.capsOk
  | .svn => s.btb.fusedSvn ≤ t.btb.fusedSvn
  | .fatal => s.flt.fatal = true → t.flt.fatal = true
  | .fenced => ∀ n, s.fencedMast n = true → t.fencedMast n = true
  | .cells => ∀ n, (t.mast n).dram.cells = (s.mast n).dram.cells ∧ (t.mast n).spad.cells = (s.mast n).spad.cells
  | .said => (∀ o ∈ s.out, o ∈ t.out) ∧
      ∀ c, ∀ p ∈ (s.chan c).answers, p.silent = true ∨ p ∈ (t.chan c).answers ∨ Out.packet p ∈ t.out

/-- `t` has every part of `s` that `M` does not name. -/
structure Agree (M : List Comp) (s t : State) : Prop where
  part : ∀ c, c ∉ M → c.same s t

/-- The parts of the state that each command may change; every command leaves the queue, and every part that is not
named, as it found them. -/
def touches : Instr → List Comp
  | .aliasRsaReady =>
    [.btb]
  | .channelRebindHome .. =>
    [.st]
  | .fwChunk .. =>
    [.hif]
  | .keysyncReceive .. =>
    [.nlc]
  | .logRecordWritten =>
    [.flt]
  | .powerHintPosition | .reefSwitch | .thermLevelRise .. | .tjCool .. | .thermLevelFall .. | .fastLimiterRelease
  | .powerHintEnd | .switchWindowEnd =>
    [.pwr]
  | .powerupCrowsNest | .powerupMastRails | .hdPwrokRise =>
    [.cn]
  | .telemetryGet | .identGet | .certGet .. =>
    [.out]
  | .ttCompare .. | .dramTempHigh .. | .dramTempNormal .. =>
    [.masts]
  | .attestGet .. =>
    [.btb, .out]
  | .bandChangeComplete .. =>
    [.masts, .cells]
  | .cnTimeLoRead | .sbMemRead .. | .hostResetRelease =>
    [.cn, .out]
  | .coolflowPresent =>
    [.cn, .pwr]
  | .fabricRetryResend .. =>
    [.nlc, .out]
  | .groupedCallComplete .. | .cleatReached .. =>
    [.masts, .ctxs]
  | .heartbeat =>
    [.pwr, .out]
  | .powerSample .. | .droopTrip .. | .droopClear .. =>
    [.pwr, .masts]
  | .scrubSchedule | .recheckSchedule | .logCompactAuto =>
    [.flt, .hal]
  | .fwDone .. =>
    [.btb, .hif, .out]
  | .governorPeriod | .fastLimiter .. =>
    [.pwr, .masts, .pmc]
  | .hello .. | .devConfig .. | .echo .. | .ctxQuery .. | .shardQuery .. | .progLoad .. | .progQuery ..
  | .sessionQuery .. | .ctrRead .. | .telemetry .. | .certRead .. | .maintQuery .. | .logRead .. | .eventNoticeSend =>
    [.hif, .st, .out]
  | .powerupBootRom =>
    [.cn, .flt, .btb]
  | .attest .. | .svnCommit .. | .fuseProgrammed =>
    [.btb, .hif, .st, .out]
  | .contentionWindow .. =>
    [.flt, .st, .masts, .pmc]
  | .contextZeroingEnd .. =>
    [.masts, .ctxs, .zeroing, .cells]
  | .ctxUnfurl .. | .memGrant .. | .memRelease .. | .ctrGrant .. =>
    [.hif, .st, .ctxs, .out]
  | .furlWithdrawLimit .. =>
    [.masts, .nlc, .col, .out]
  | .groupLoad .. | .groupUnload .. =>
    [.hif, .st, .col, .out]
  | .heartbeatLost | .tjHot .. | .thermOverRange .. =>
    [.pwr, .flt, .st, .pmc]
  | .linkTrain .. | .windowMap .. =>
    [.hif, .st, .nlc, .out]
  | .powerHint .. | .reefLimit .. =>
    [.pwr, .hif, .st, .out]
  | .regRead .. =>
    [.cn, .hif, .st, .out]
  | .attestReportComplete =>
    [.btb, .hif, .st, .out, .free]
  | .ctrProgram .. =>
    [.hif, .st, .masts, .pmc, .out]
  | .ctxPriority .. =>
    [.hif, .st, .masts, .ctxs, .out]
  | .logCompactComplete =>
    [.flt, .hif, .st, .hal, .out]
  | .mark .. | .flitAckTimeout .. | .moduleRetrainComplete .. | .ucieModuleTrained .. =>
    [.flt, .hif, .st, .pmc, .out]
  | .powerupHubRails =>
    [.cn, .pwr, .flt, .st, .pmc]
  | .sampling .. =>
    [.masts, .ctxs, .srvErr, .nlc, .out]
  | .brownout =>
    [.cn, .pwr, .flt, .st, .pmc, .out]
  | .ctxCreate .. =>
    [.hif, .st, .masts, .ctxs, .out, .free]
  | .hdPwrokFall =>
    [.cn, .flt, .hif, .st, .pmc, .out]
  | .inputValid | .powerupHoldExpire =>
    [.time, .cn, .pwr, .flt, .out, .fatal]
  | .memReleaseZeroed .. =>
    [.hif, .st, .masts, .ctxs, .out, .cells]
  | .nlcReadReceive .. =>
    [.flt, .st, .masts, .nlc, .pmc, .out]
  | .powerupReady =>
    [.cn, .btb, .hif, .masts, .out, .cells]
  | .refreshModeComplete =>
    [.flt, .hif, .st, .masts, .hal, .out]
  | .shardDrop .. | .portTrained .. | .linkTrainComplete =>
    [.flt, .hif, .st, .hal, .nlc, .out]
  | .overVoltage | .pllUnlock | .watchdog =>
    [.cn, .flt, .hif, .st, .nlc, .pmc, .out]
  | .memWrite .. =>
    [.flt, .hif, .st, .masts, .hal, .pmc, .out, .cells]
  | .thermTrip .. =>
    [.cn, .pwr, .flt, .hif, .st, .nlc, .pmc, .out]
  | .fwVerify =>
    [.cn, .pwr, .flt, .btb, .hif, .st, .pmc, .out, .free]
  | .calibration .. =>
    [.cn, .id, .pwr, .flt, .hif, .st, .masts, .nlc, .pmc, .out]
  | .coolflowLost | .coolflowWire =>
    [.cn, .pwr, .flt, .hif, .st, .masts, .ctxs, .hal, .nlc, .col, .pmc, .out]
  | .ctxDestroy .. =>
    [.flt, .hif, .st, .masts, .ctxs, .zeroing, .hal, .nlc, .col, .pmc, .out, .cells]
  | .ctxFurl .. =>
    [.flt, .hif, .st, .masts, .ctxs, .srvErr, .exports, .hal, .nlc, .col, .pmc, .out, .cells]
  | .furlComplete .. =>
    [.pwr, .flt, .hif, .st, .masts, .ctxs, .reqs, .sess, .imports, .nlc, .pmc, .out, .cells]
  | .linkStop .. | .planLoad .. | .partitionSet .. | .scrubChunk .. | .digestRecheck .. | .retrain ..
  | .refreshMode .. | .logCompact .. | .recheckComplete | .routingCall .. | .intakeCall .. | .sealImageBuild ..
  | .fabricCopyCall .. | .counterReadCall .. | .collectiveCall .. | .colDataReceive .. | .colAckReceive ..
  | .colAckSend .. | .colEndReceive .. | .colAbortReceive .. | .colWithdrawReceive .. | .colSwRefuseReceive ..
  | .colSwEvictReceive .. | .colChunkTimeout .. | .colRetryResend .. | .colTimeout .. | .shardChunkHashed ..
  | .identReceive .. | .linkFrameReceive .. | .linkAckTimeout .. | .portRetrainComplete .. | .nlcKeyExhausted ..
  | .nlcWriteReceive .. | .nlcReadDataReceive .. | .nlcWriteAckReceive .. | .fabricRequestTimeout .. =>
    [.pwr, .flt, .hif, .st, .masts, .ctxs, .reqs, .sess, .srvErr, .exports, .hal, .nlc, .col, .pmc, .out, .cells]
  | .memRead .. | .combineCall .. | .vectorUnitOperation .. =>
    [.pwr, .flt, .hif, .st, .masts, .ctxs, .reqs, .sess, .srvErr, .exports, .hal, .nlc, .col, .pmc, .out, .free,
     .cells]
  | .scrubChunkComplete .. | .attentionCall .. | .wireBroken .. | .spadPatrol .. =>
    [.cn, .pwr, .flt, .hif, .st, .masts, .ctxs, .reqs, .sess, .srvErr, .exports, .hal, .nlc, .col, .pmc, .out,
     .cells]
  | .shardLoad .. | .linkKey .. =>
    [.pwr, .flt, .btb, .hif, .st, .masts, .ctxs, .reqs, .sess, .srvErr, .exports, .hal, .nlc, .col, .pmc, .out,
     .cells]
  | .unfurlComplete .. | .progCheckComplete .. | .reqSubmit .. | .reqCancel .. | .reqPark .. | .reqResume ..
  | .reqRelease .. | .sessionOpen .. | .sessionClose .. | .sessionShare .. | .sessionTruncate ..
  | .sessionGlobals .. | .kvExport .. | .mirrorSet .. | .mirrorPromote .. | .serveConfig .. | .capSet ..
  | .coolResume .. | .capSetMgmt .. | .deadlineDue .. | .mirrorAckReceive .. | .mirrorTimeout ..
  | .bundleTransmit .. | .exportPageAckReceive .. | .exportPageTimeout .. | .sealImageComplete ..
  | .spillComplete .. | .restoreComplete .. | .residualScanComplete .. | .shardLoadTimeout .. =>
    [.pwr, .flt, .hif, .st, .masts, .ctxs, .reqs, .sess, .srvErr, .exports, .nextExp, .hal, .nlc, .col, .pmc, .out,
     .cells]
  | .exportHeaderReceive .. | .exportPageReceive .. =>
    [.pwr, .flt, .hif, .st, .masts, .ctxs, .reqs, .sess, .srvErr, .exports, .nextExp, .imports, .hal, .nlc, .col,
     .pmc, .out, .cells]
  | .groupedCall .. =>
    [.cn, .pwr, .flt, .hif, .st, .masts, .ctxs, .reqs, .sess, .srvErr, .exports, .hal, .nlc, .col, .pmc, .out,
     .free, .cells]
  | .stepBoundary .. =>
    [.pwr, .flt, .hif, .st, .masts, .ctxs, .reqs, .sess, .srvErr, .exports, .nextExp, .hal, .nlc, .col, .pmc, .out,
     .free, .cells]
  | .brownoutEnd =>
    [.cn, .pwr, .flt, .btb, .hif, .st, .masts, .ctxs, .reqs, .sess, .srvErr, .exports, .nextExp, .hal, .nlc, .col,
     .pmc, .out, .cells]
  | .regWrite .. | .registerWrite .. | .pwrCapWrite .. | .mcBandWrite .. | .nlcDeadClear .. | .hifFlush
  | .hifRetry .. | .ttClear .. | .ttPin .. | .pmcCompatWrite .. | .sbMemWrite .. =>
    [.cn, .pwr, .flt, .btb, .hif, .st, .masts, .ctxs, .reqs, .sess, .srvSel, .srvErr, .exports, .nextExp, .hal,
     .nlc, .col, .pmc, .out, .cells]
  | .answerSend .. | .flitReceive .. | .resumeFlitReceive .. =>
    [.cn, .pwr, .flt, .btb, .hif, .st, .masts, .ctxs, .zeroing, .reqs, .sess, .srvSel, .srvErr, .exports, .nextExp,
     .hal, .nlc, .col, .pmc, .out, .free, .cells]
  | .inputShutdown =>
    [.cn, .pwr, .flt, .btb, .hif, .st, .masts, .ctxs, .zeroing, .reqs, .sess, .srvSel, .srvErr, .exports, .nextExp,
     .imports, .hal, .nlc, .col, .pmc, .out, .fenced, .cells, .said]
  | .crowsNestUnpowered =>
    [.time, .cn, .pwr, .flt, .btb, .hif, .st, .masts, .ctxs, .zeroing, .reqs, .sess, .srvSel, .srvErr, .exports,
     .nextExp, .imports, .hal, .nlc, .col, .pmc, .out, .fenced, .cells, .said]

/-- The command names a channel, a mast, a module or a port that the package has (R3, R240, R257, R324). -/
def unitOk : Instr → Bool
  | .hello r | .devConfig r | .mark r | .echo r | .regRead r | .regWrite r | .ctxCreate r | .ctxUnfurl r | .ctxFurl r
  | .ctxDestroy r | .ctxQuery r | .ctxPriority r | .memGrant r | .memRelease r | .memWrite r | .memRead r
  | .shardLoad r | .shardDrop r | .shardQuery r | .progLoad r | .progQuery r | .reqSubmit r | .reqCancel r
  | .reqPark r | .reqResume r | .reqRelease r | .sessionOpen r | .sessionClose r | .sessionShare r
  | .sessionTruncate r | .sessionGlobals r | .sessionQuery r | .kvExport r | .mirrorSet r | .mirrorPromote r
  | .serveConfig r | .linkTrain r | .linkStop r | .planLoad r | .partitionSet r | .windowMap r | .groupLoad r
  | .groupUnload r | .capSet r | .powerHint r | .reefLimit r | .coolResume r | .ctrRead r | .ctrProgram r
  | .ctrGrant r | .telemetry r | .attest r | .certRead r | .linkKey r | .svnCommit r | .scrubChunk r
  | .digestRecheck r | .retrain r | .refreshMode r | .logCompact r | .maintQuery r | .logRead r =>
    decide (r.flitCh < 8)
  | .memReleaseZeroed _ n _ | .answerSend n | .mcBandWrite n _ _ | .bandChangeComplete n _ | .ttClear n _ _
  | .ttPin n _ _ | .channelRebindHome n | .groupedCall _ n _ _ _ | .groupedCallComplete _ n | .ttCompare n
  | .routingCall _ n _ | .intakeCall _ n _ | .combineCall _ n _ | .attentionCall _ n _ _ _ | .sealImageBuild n
  | .sealImageComplete n | .fabricCopyCall _ n _ | .counterReadCall _ n _ | .collectiveCall _ n _ | .colAckSend _ n _
  | .colChunkTimeout _ n _ _ | .colRetryResend _ n _ _ | .colTimeout _ n | .cleatReached _ n _ | .spillComplete n
  | .restoreComplete n | .droopTrip n | .droopClear n _ | .dramTempHigh n | .dramTempNormal n | .spadPatrol n _
  | .contentionWindow n _ | .vectorUnitOperation _ n _ _ _ =>
    decide (n < 8)
  | .colDataReceive p | .colAckReceive p | .colEndReceive p | .colAbortReceive p | .colWithdrawReceive p
  | .colSwRefuseReceive p | .colSwEvictReceive p | .nlcReadReceive p | .nlcWriteReceive p | .nlcReadDataReceive p
  | .nlcWriteAckReceive p =>
    decide (p.port < 42)
  | .portTrained n _ | .identReceive n _ | .linkFrameReceive n _ | .linkAckTimeout n | .portRetrainComplete n _
  | .keysyncReceive n | .nlcKeyExhausted n =>
    decide (n < 42)
  | .flitReceive n _ | .flitAckTimeout n | .moduleRetrainComplete n _ _ _ | .resumeFlitReceive n _
  | .ucieModuleTrained n _ _ _ =>
    decide (n < 4)
  | .wireBroken (.mastUnit n _) => decide (n < 8)
  | .wireBroken (.port n) => decide (n < 42)
  | .wireBroken (.module n) => decide (n < 4)
  | _ => true

/-- What every step keeps: the package's tables list the units it has, every memory is in canonical form, and the caps are
within their range. -/
structure State.Inv (s : State) : Prop where
  masts : tkeys s.masts = List.range 8
  chans : tkeys s.st.chans = List.range 8
  mods  : tkeys s.hif.mods = List.range 4
  ports : tkeys s.nlc.ports = List.range 42
  mem   : s.memOk
  caps  : s.pwr.capsOk

/-- Two hints do not overlap (R389). -/
def Hint.apart (a b : Hint) : Prop := a.stop ≤ b.start ∨ b.stop ≤ a.start

/-- A setting that the governor can have: a level of the five and sixteenths of the edges, fewer than all of them only at
level 4 (R387). -/
def legalSetting (g d : Nat) : Prop := g ≤ 4 ∧ 1 ≤ d ∧ d ≤ 16 ∧ (d < 16 → g = 4)

/-- The bound of R61 on a narrow run over weights of a format. -/
def runBound (f : Nat) : Nat := if f = wW1T then 4064 else if f = wW2C then 12192 else if f = wW4F then 48768 else 129032

/-- An activation block as the narrow path takes it: a BF16 block converted by R48, or a block of an MXINT8 row. -/
def NarrowBlock (b : ActBlk) : Prop :=
  (∃ xs ex, b = bfBlock false xs ex) ∨ ∃ (codes : List Nat) (scale : Nat), (∀ c ∈ codes, c < 256) ∧ b = mxBlock codes scale

/-! ## Requests of the host -/

/-- The request `r` of the command `k` comes to a device that acts, on a channel with nothing before it and room for its
answer, and passes checks 1 to 9 (R263, R265, R268): its command acts at once. -/
structure Heard (k : Cmd) (r : Req) (s : State) : Prop where
  alive : s.alive = true
  lane  : r.flitCh < 8
  keys  : tkeys s.st.chans = List.range 8
  first : (s.chan r.flitCh).waiting = []
  room  : (s.arrive r).blocked r = false
  sound : k.check r ((s.arrive r).returnUnits r) = none

/-! ## Calls of a program -/

/-- A unit of the mast `m` reads the bytes `b` without an error, and leaves `t`. -/
def Reads (s : State) (m : Nat) (r : Reader) (x len : Nat) (t : State) (b : Bytes) : Prop := s.readAt m r x len = (t, b, none)

/-- Of the masts' memories, `t` differs from `s` on the mast `m` alone: in the bytes of DRAM that `dram` names and the bytes of the
scratchpad that `spad` names. -/
def OnlyIn (m : Nat) (dram spad : Nat → Prop) (s t : State) : Prop :=
  ∀ n a,
    (n ≠ m ∨ ¬ dram a → memByte (t.mast n).dram.cells a = memByte (s.mast n).dram.cells a) ∧
    (n ≠ m ∨ ¬ spad a → memByte (t.mast n).spad.cells a = memByte (s.mast n).spad.cells a)

/-- Of the masts' memories, `t` differs from `s` only in the `len` bytes at the pointer `x` of the mast `m`. -/
def OnlyAt (m x len : Nat) (s t : State) : Prop :=
  OnlyIn m (fun a => ptrSpace x = 0 ∧ ptrOff x ≤ a ∧ a < ptrOff x + len) (fun a => ptrSpace x ≠ 0 ∧ ptrOff x ≤ a ∧ a < ptrOff x + len)
    s t

/-- A unit of the mast `m` writes without an error, and leaves `t`. -/
def Writes (s : State) (m : Nat) (r : Reader) (x : Nat) (data : Bytes) (t : State) : Prop := s.writeAt m r x data = (t, none)

/-- The hint that a call carries has taken effect (R389), and the Masthead reads the bytes `b` of its descriptor in the
context's memory, and leaves `t`. -/
def DescRead (s : State) (c m desc len : Nat) (t : State) (b : Bytes) : Prop :=
  s.inMem c m desc len = true ∧ ptrRsv desc = 0 ∧ ptrSpace desc ≤ 1 ∧
    Reads (s.callHint c desc) m (control c 0x18) desc len t b

/-- The call `x` of the context can be issued on the mast: the context may run there, and every call on which `x` depends has ended
(R25, R297). -/
def Issues (s : State) (c m x : Nat) : Prop := m < 8 ∧ s.alive = true ∧ s.canStart c m x = true

/-- The same of a call of the routing unit, which is in the context's placement on the mast (R286). -/
def IssuesRtu (s : State) (c m x : Nat) : Prop := m < 8 ∧ s.alive = true ∧ s.rtuTakes c m x = true

/-! ## Answers -/

/-- The answer `a` to the request `r` has been given: each of its packets waits on the request's channel or has gone out, but
for a DONE that the request's QUIET flag suppresses (R258, R261). -/
def Answered (k : Cmd) (r : Req) (a : Ans) (t : State) : Prop :=
  ∀ p ∈ respond k.opcode r false a,
    p.silent = true ∨ p ∈ (t.chan r.flitCh).answers ∨ Out.packet p ∈ t.out

/-- The request `r` of the command `k` acts, with the state `x` and the answer `a`: the answer has been given, and the rest of
the state is that of `x`. -/
def Acts (k : Cmd) (i : Instr) (r : Req) (s x : State) (a : Ans) : Prop :=
  Runs i s fun t => Agree [.hif, .st, .out, .pending] x t ∧ t.st = { x.st with chans := t.st.chans } ∧ Answered k r a t

/-- The request `r` acts, with the state `x` and the answer `a`, and what follows the answer runs. -/
def ActsThen (k : Cmd) (i : Instr) (r : Req) (s x : State) (a : Ans) (f : State → State) : Prop :=
  Runs i s fun t => Answered k r a t ∧ ∃ y, Agree [.hif, .st, .out, .pending] x y ∧
    y.st = { x.st with chans := y.st.chans } ∧ t = { f y with pending := s.pending }

/-- A context stands at no boundary that runs at once: none of its contained errors waits for one, and where it runs, a step
does (R489). -/
def Ctx.midStep (x : Ctx) : Prop := x.met = [] ∧ (runsState x.state = true → x.step.isSome = true)

/-- A completion is owed for the request `r` (R261, R262). -/
def Owes (t : State) (r : Req) (w : Owed) : Prop :=
  (t.st.outstanding.any fun o => o.ctx == r.ctx.toNat && o.tag == r.tag.toNat && o.what == w) = true

end Machine
end Sys2Proof
end

