-- ==== Sys2Proof/Certificates/Slice0/Obligations.lean ====
section
/-! DEFINITION. The statements for the provers. -/
open Sys2Proof Sys2Proof.Machine

/-! ## Device commands (R270, R272, R273, R457) -/

/-- HELLO, DEV_CONFIG, MARK and ECHO complete with their own effect (R270, R272, R457). -/
def Obligations.DeviceCommandsComplete : Prop :=
  (∀ (r : Req) (s : State), Heard helloCmd r s → (argRsv r 0 0).1 = false → s.st.negotiated = false →
    3 ≤ r.version.toNat / 16 →
    Runs (.hello r) s fun t => t.st.negotiated = true ∧ Answered helloCmd r (done1 0x130) t) ∧
  (∀ (r : Req) (s : State), Heard devConfigCmd r s → (argRsv r 0x307 0).1 = false → bits (a0 r) 8 2 ≠ 3 →
    Runs (.devConfig r) s fun t =>
      t.st = { s.st with eventCh := a0 r % 8, eventMin := bits (a0 r) 8 2, chans := t.st.chans,
                         arrivals := s.st.arrivals + 1, current := s.st.arrivals + 1 } ∧
      Answered devConfigCmd r (ans stDone) t) ∧
  (∀ (r : Req) (s : State), Heard markCmd r s → (argRsv r (lowMask 64) 0).1 = false →
    Runs (.mark r) s fun t =>
      (∃ x, tget t.flt.ring (s.flt.seq % 1024) = some x ∧ x.cause = 0x1601 ∧ x.cls = clsNOTE ∧ x.info0 = a0 r ∧
        x.time = s.time) ∧
      t.flt.seq = (s.flt.seq + 1) % 2 ^ 32 ∧ Answered markCmd r (done1 s.time) t) ∧
  (∀ (r : Req) (s : State), Heard echoCmd r s → (argRsv r 0 0).1 = false →
    Runs (.echo r) s fun t =>
      t.st = { s.st with chans := t.st.chans, arrivals := s.st.arrivals + 1, current := s.st.arrivals + 1 } ∧
      Answered echoCmd r { status := stDone, hi := 0, arg1 := 0, parts := [r.payload] } t)

/-- A register read answers with the words of its range and a register write applies words until one is refused
(R272, R273). -/
def Obligations.RegisterPacketsComplete : Prop :=
  (∀ (r : Req) (s : State), Heard regReadCmd r s → firstErr (regChecks r (s.heard r)) = none →
    Runs (.regRead r) s fun t =>
      Answered regReadCmd r
        { status := stDone, hi := 0, arg1 := 0, parts := [((s.heard r).readWords (regOff r) (regCount r)).2] } t) ∧
  (∀ (r : Req) (s : State), Heard regWriteCmd r s → firstErr (regChecks r (s.heard r)) = none →
    let w := (s.heard r).writeWords (regOff r) ((List.range (regCount r)).map fun i => u32 r.payload (4 * i))
    Runs (.regWrite r) s fun t =>
      Agree [.hif, .st, .out, .pending] w.1 t ∧
      Answered regWriteCmd r (if w.2.2 = true then done1 w.2.1 else refuse stState w.2.1) t)

/-! ## Contexts (R274, R285 to R293, R296, R491) -/

/-- CTX_CREATE enters the context of its record, furled, with its save areas where it is PREEMPTIBLE; CTX_UNFURL of a furled
context starts the unfurl, and is deferred during a furl; CTX_FURL of a context in any other state starts the furl and owes its
completion; CTX_DESTROY of a furled context releases all of it; CTX_QUERY answers; CTX_PRIORITY sets the priority and
re-evaluates. Each is answered so, and nothing else of the state changes. -/
def Obligations.ContextCommandsComplete : Prop :=
  (∀ (r : Req) (s : State), Heard ctxCreateCmd r s → (argRsv r 1 0).1 = false → createRsv r.payload = none →
    s.createBad r.payload = none → s.ctx? r.ctx.toNat = none → (crMasts r.payload).any s.fencedMast = false →
    (bit (a0 r) 0 = false →
      Acts ctxCreateCmd (.ctxCreate r) r s ((s.heard r).addCtx r.ctx.toNat (newCtx r.payload false [])) (ans stDone)) ∧
    (∀ q, (s.heard r).createSaves (bit (a0 r) 0) r.payload = some q →
      Acts ctxCreateCmd (.ctxCreate r) r s (q.1.addCtx r.ctx.toNat (newCtx r.payload (bit (a0 r) 0) q.2)) (createAns q.2)) ∧
    ((bit (a0 r) 0 = true → ((s.heard r).createSaves true r.payload).isSome = true) → Runs (.ctxCreate r) s fun t =>
      ∃ y, t.ctx? r.ctx.toNat = some y ∧ y.state = .furled ∧ y.preemptible = bit (a0 r) 0 ∧ y.mastMask = crMask r.payload ∧
        y.priority = u8 r.payload 0 % 8 ∧ y.grants = [] ∧ ∀ c, c ≠ r.ctx.toNat → t.ctx? c = s.ctx? c)) ∧
  (∀ (r : Req) (s : State) (x : Ctx), Heard ctxUnfurlCmd r s → (argRsv r 0 0).1 = false →
    s.ctx? r.ctx.toNat = some x → x.deferred = false →
    (x.state = .furled → x.owesZero = false →
      Acts ctxUnfurlCmd (.ctxUnfurl r) r s
        (((s.heard r).modCtx r.ctx.toNat fun x => { x with state := .unfurling }).owe 0x0202 r .unfurl) (ans stAccepted) ∧
      Runs (.ctxUnfurl r) s fun t => t.ctx? r.ctx.toNat = some { x with state := .unfurling } ∧ Owes t r .unfurl) ∧
    (x.state = .furling ∨ x.state = .furled ∧ x.owesZero = true →
      Acts ctxUnfurlCmd (.ctxUnfurl r) r s
        (((s.heard r).modCtx r.ctx.toNat fun x => { x with deferred := true }).owe 0x0202 r .unfurl) (ans stDeferred) ∧
      Runs (.ctxUnfurl r) s fun t => t.ctx? r.ctx.toNat = some { x with deferred := true } ∧ Owes t r .unfurl)) ∧
  (∀ (r : Req) (s : State) (x : Ctx), Heard ctxFurlCmd r s → (argRsv r 0 0).1 = false →
    s.ctx? r.ctx.toNat = some x → x.state ≠ .furled → x.state ≠ .furling →
    Acts ctxFurlCmd (.ctxFurl r) r s ((s.heard r).startFurl r.ctx.toNat r) (ans stAccepted) ∧
    Runs (.ctxFurl r) s fun t => Owes t r .furl ∧ (∃ y, t.ctx? r.ctx.toNat = some y ∧ y.state = .furling) ∧
      ∀ m, m < 8 → ∀ j ∈ (t.mast m).bulk, j.ctx ≠ r.ctx.toNat) ∧
  (∀ (r : Req) (s : State) (x : Ctx), Heard ctxDestroyCmd r s → (argRsv r 0 0).1 = false →
    s.ctx? r.ctx.toNat = some x → x.state = .furled →
    Acts ctxDestroyCmd (.ctxDestroy r) r s
      (((s.heard r).completeAll r.ctx.toNat stState fun _ => true).destroy r.ctx.toNat) (ans stDone) ∧
    Runs (.ctxDestroy r) s fun t => t.ctx? r.ctx.toNat = none) ∧
  (∀ (r : Req) (s : State) (x : Ctx), Heard ctxQueryCmd r s → (argRsv r 0 0).1 = false →
    s.ctx? r.ctx.toNat = some x →
    Acts ctxQueryCmd (.ctxQuery r) r s (s.heard r)
      (done1 (packFields [(0, 4, x.state.code), (4, 1, b2n x.preemptible), (5, 3, x.priority)]))) ∧
  (∀ (r : Req) (s : State) (x : Ctx), Heard ctxPriorityCmd r s → (argRsv r 7 0).1 = false →
    s.ctx? r.ctx.toNat = some x → stateRefusal x.state = none →
    Acts ctxPriorityCmd (.ctxPriority r) r s
      (((s.heard r).modCtx r.ctx.toNat fun x => { x with priority := a0 r % 8 }).reevalAll true) (ans stDone) ∧
    Runs (.ctxPriority r) s fun t => ∃ y, t.ctx? r.ctx.toNat = some y ∧ y.priority = a0 r % 8)

/-- An unfurl whose masts serve and whose key-value regions hold makes the context anew, and any other leaves it furled; the
withdrawal limit ends every collective of a furling context; a furl whose calls have ended frees the requests and sessions,
zeroes the regions, gives the engines up and leaves the context furled; the zeroing of a context's regions ends
(R289 to R293, R491). -/
def Obligations.ContextEventsComplete : Prop :=
  (∀ (c : Nat) (s : State) (x : Ctx), s.alive = true → s.ctx? c = some x → x.state = .unfurling →
    (x.masts.any s.fencedMast = false → (x.kv.any fun e => !s.kvRegionsOk x e.1 e.2) = false →
      Does (.unfurlComplete c) s (((s.reborn c).retarget.completeOf c .unfurl (ans stDone)).idle c) ∧
      ∃ y, (s.reborn c).ctx? c = some y ∧ y.stepNext = 0 ∧ y.reefTarget = 0 ∧ y.reefSeq = 0 ∧
        (s.pwr.coolstop = true → y.state = .coolstop) ∧ (s.pwr.coolstop = false → runsState y.state = true)) ∧
    (x.masts.any s.fencedMast = true →
      Does (.unfurlComplete c) s ((s.modCtx c fun x => { x with state := .furled }).completeOf c .unfurl (ans stFenced)) ∧
      Runs (.unfurlComplete c) s fun t => t.ctx? c = some { x with state := .furled }) ∧
    (x.masts.any s.fencedMast = false → (x.kv.any fun e => !s.kvRegionsOk x e.1 e.2) = true →
      Does (.unfurlComplete c) s ((s.modCtx c fun x => { x with state := .furled }).completeOf c .unfurl (ans stNotPermitted)) ∧
      Runs (.unfurlComplete c) s fun t => t.ctx? c = some { x with state := .furled })) ∧
  (∀ (c : Nat) (s : State), s.alive = true → ctxState s c = some .furling →
    Does (.furlWithdrawLimit c) s (s.withdrawCtx c) ∧
    Runs (.furlWithdrawLimit c) s fun t => ∀ k ∈ t.col.calls, k.ctx ≠ c) ∧
  (∀ (c : Nat) (s : State) (x : Ctx), s.alive = true → s.ctx? c = some x → x.state = .furling →
    (x.masts.any fun m => s.calling c m) = false →
    Does (.furlComplete c) s (s.furlEnd c) ∧
    (x.deferred = false → Runs (.furlComplete c) s fun t =>
      (∃ y, t.ctx? c = some y ∧ y.state = .furled ∧ y.step = none ∧ y.txq = [] ∧ y.recorded = []) ∧
      (t.reqs = s.reqs.filter fun e => e.2.ctx != c) ∧ (t.sess = s.sess.filter fun e => e.2.ctx != c) ∧
      (s.pwr.coolstop = false →
        (∀ g ∈ s.furlRegions c x, s.mastUp g.1 = true → ∀ a, g.2.1 ≤ a → a < g.2.1 + g.2.2 →
          memByte (t.mast g.1).dram.cells a = 0) ∧
        ∀ m ∈ x.masts, t.holds c m = false) ∧
      (s.pwr.coolstop = true → ∃ y, t.ctx? c = some y ∧ y.owesZero = true ∧ y.zeroList = s.furlRegions c x))) ∧
  (∀ (c : Nat) (s : State), s.alive = true → s.pwr.coolstop = false →
    let z := { s.zeroRegions (tgetD s.zeroing c []) with zeroing := tdel s.zeroing c }
    (s.ctx? c = none → Does (.contextZeroingEnd c) s z) ∧
    (∀ x, s.ctx? c = some x →
      (x.owesZero = false → Does (.contextZeroingEnd c) s z) ∧
      (x.owesZero = true → Does (.contextZeroingEnd c) s
        (((z.furlZero c x.zeroList).modCtx c fun x => { x with owesZero := false, zeroList := [] }).unfurlDeferred c))) ∧
    Runs (.contextZeroingEnd c) s fun t => t.zeroing = tdel s.zeroing c ∧
      ∀ g ∈ tgetD s.zeroing c [], s.mastUp g.1 = true → ∀ a, g.2.1 ≤ a → a < g.2.1 + g.2.2 →
        memByte (t.mast g.1).dram.cells a = 0)

/-! ## Memory (R212, R218, R219, R223, R224, R271, R275) -/

/-- MEM_GRANT adds its region to the context's grants; MEM_RELEASE marks the grant and owes its completion, which comes when the
region has been zeroed; MEM_WRITE stores its payload and MEM_READ answers with the bytes of memory, DONE where no half-line is
poisoned and POISON where one is. Each is answered so, and nothing else of the state changes. -/
def Obligations.MemoryCommandsComplete : Prop :=
  (∀ (r : Req) (s : State) (x : Ctx), Heard memGrantCmd r s → firstErr (memGrantChecks r s) = none →
    s.ctx? r.ctx.toNat = some x →
    let add := fun x : Ctx => { x with grants := x.grants ++
      [{ mast := (dptr (a0 r)).mast, base := (dptr (a0 r)).off, size := a1 r, releasing := false }] }
    Acts memGrantCmd (.memGrant r) r s ((s.heard r).modCtx r.ctx.toNat add) (ans stDone) ∧
    Runs (.memGrant r) s fun t => t.ctx? r.ctx.toNat = some (add x)) ∧
  (∀ (r : Req) (s : State) (x : Ctx), Heard memReleaseCmd r s → firstErr (memReleaseChecks r s) = none →
    s.ctx? r.ctx.toNat = some x →
    let mark := fun x : Ctx => { x with grants := x.grants.map fun g =>
      if g.mast == (dptr (a0 r)).mast && g.base == (dptr (a0 r)).off then { g with releasing := true } else g }
    Acts memReleaseCmd (.memRelease r) r s
      (((s.heard r).modCtx r.ctx.toNat mark).owe 0x0302 r (.release (dptr (a0 r)).mast (dptr (a0 r)).off)) (ans stAccepted) ∧
    Runs (.memRelease r) s fun t => t.ctx? r.ctx.toNat = some (mark x) ∧
      Owes t r (.release (dptr (a0 r)).mast (dptr (a0 r)).off)) ∧
  (∀ (c m base : Nat) (s : State) (x : Ctx) (g : Grant), m < 8 → tkeys s.masts = List.range 8 → s.alive = true →
    s.mastUp m = true → s.pwr.coolstop = false → s.ctx? c = some x →
    (x.grants.find? fun g => g.mast == m && g.base == base && g.releasing) = some g →
    let drop := fun x : Ctx => { x with grants := x.grants.filter fun h => !(h.mast == m && h.base == base) }
    Does (.memReleaseZeroed c m base) s
      (((s.zeroRegions [(m, base, g.size)]).modCtx c drop).completeOf c (.release m base) (ans stDone)) ∧
    Runs (.memReleaseZeroed c m base) s fun t =>
      t.ctx? c = some (drop x) ∧
      (∀ a, base ≤ a → a < base + g.size → memByte (t.mast m).dram.cells a = 0) ∧
      (∀ n a, n ≠ m ∨ a < base ∨ base + g.size ≤ a →
        memByte (t.mast n).dram.cells a = memByte (s.mast n).dram.cells a)) ∧
  (∀ (r : Req) (s : State), Heard memWriteCmd r s → firstErr (memWriteChecks r s) = none →
    let p := dptr (a0 r)
    let w := (s.heard r).writeAt p.mast (hostReader r.ctx.toNat) (p.space * 2 ^ 48 + p.off) r.payload
    (w.2 = none → Acts memWriteCmd (.memWrite r) r s
      (if p.space = 0 then w.1.recordLines p.mast p.off r.payload.length else w.1) (ans stDone)) ∧
    ((s.mast p.mast).dram.poison = [] ∧ (s.mast p.mast).dram.flaws = [] ∨ p.space = 1 →
      Runs (.memWrite r) s fun t => Answered memWriteCmd r (ans stDone) t ∧
        (tkeys s.masts = List.range 8 → s.memOk → ∀ i b, r.payload[i]? = some b →
          (p.space = 0 → memByte (t.mast p.mast).dram.cells (p.off + i) = b) ∧
          (p.space = 1 → memByte (t.mast p.mast).spad.cells (p.off + i) = b)))) ∧
  (∀ (r : Req) (s : State), Heard memReadCmd r s → firstErr (memReadChecks r s) = none →
    let p := dptr (a0 r)
    let m := s.mast p.mast
    let q := (s.heard r).readDram p.mast (hostReader r.ctx.toNat) p.off (a1 r)
    (p.space = 0 → q.2.2 = none → Acts memReadCmd (.memRead r) r s q.1
      { status := stDone, hi := 0, arg1 := 0, parts := [q.2.1] }) ∧
    (p.space = 0 → m.dram.poison = [] → m.dram.flaws = [] → Runs (.memRead r) s fun t =>
      Answered memReadCmd r { status := stDone, hi := 0, arg1 := 0, parts := [memRead m.dram.cells p.off (a1 r)] } t) ∧
    (p.space = 0 → (∃ h ∈ m.dram.poison, p.off ≤ h * 64 + 63 ∧ h * 64 < p.off + a1 r) → Runs (.memRead r) s fun t =>
      ∃ a, a.status = stPoison ∧ Answered memReadCmd r a t) ∧
    (p.space = 1 → m.spad.flaws = [] → Runs (.memRead r) s fun t =>
      Answered memReadCmd r { status := stDone, hi := 0, arg1 := 0, parts := [memRead m.spad.cells p.off (a1 r)] } t))

/-- A MEM_WRITE stores its payload at its pointer, and no other byte of any mast's memory changes. -/
def Obligations.MemWriteStoresItsBytes : Prop :=
  (∀ (r : Req) (s t : State), exec (.memWrite r) s = .next t →
    let p := dptr (a0 r)
    ∀ n a, n ≠ p.mast ∨ a < p.off ∨ p.off + r.payload.length ≤ a →
      memByte (t.mast n).dram.cells a = memByte (s.mast n).dram.cells a ∧
      memByte (t.mast n).spad.cells a = memByte (s.mast n).spad.cells a) ∧
  (∀ (r : Req) (s t : State), exec (.memWrite r) s = .next t →
    let p := dptr (a0 r)
    (p.space ≠ 0 → (t.mast p.mast).dram.cells = (s.mast p.mast).dram.cells) ∧
    (p.space = 0 → (t.mast p.mast).spad.cells = (s.mast p.mast).spad.cells)) ∧
  (∀ (r : Req) (s t : State), tkeys s.masts = List.range 8 → s.memOk → Heard memWriteCmd r s →
    firstErr (memWriteChecks r s) = none → exec (.memWrite r) s = .next t →
    let p := dptr (a0 r)
    ((s.mast p.mast).dram.poison = [] → (s.mast p.mast).dram.flaws = [] → p.space = 0 → ∀ i b, r.payload[i]? = some b →
      memByte (t.mast p.mast).dram.cells (p.off + i) = b) ∧
    (p.space = 1 → ∀ i b, r.payload[i]? = some b → memByte (t.mast p.mast).spad.cells (p.off + i) = b))

/-! ## Shards and programs (R276, R306 to R316) -/

/-- SHARD_LOAD of a signed manifest enters the shard as loading, owes its completion and, for a fabric load, sends the reads;
SHARD_DROP frees the entry; SHARD_QUERY answers; PROG_LOAD owes the completion of its checks; PROG_QUERY answers. Each is
answered so, and nothing else of the state changes. -/
def Obligations.ShardAndProgramCommandsComplete : Prop :=
  (∀ (r : Req) (s : State), Heard shardLoadCmd r s → firstErr (shardLoadPre r s) = none →
    let q := (s.heard r).slSigned r.ctx.toNat r.payload
    q.2 = true → s.btb.fusedSvn ≤ u8 (slMan r.payload) 2 → firstErr (shardLoadPost r q.1) = none →
    let x : State := { q.1 with hal := { q.1.hal with shards := tset q.1.hal.shards (a0 r) (newShard r.ctx.toNat r.payload) } }
    ActsThen shardLoadCmd (.shardLoad r) r s (x.owe 0x0305 r (.shard (a0 r))) (ans stAccepted) (fun y => y.startIngest (a0 r)) ∧
    (slFabric r.payload = false → Runs (.shardLoad r) s fun t =>
      t.shard? (a0 r) = some (newShard r.ctx.toNat r.payload) ∧ Owes t r (.shard (a0 r)))) ∧
  (∀ (r : Req) (s : State), Heard shardDropCmd r s → firstErr (shardDropChecks r s) = none →
    Acts shardDropCmd (.shardDrop r) r s ((s.heard r).removeShard (a0 r)) (ans stDone) ∧
    Runs (.shardDrop r) s fun t => t.shard? (a0 r) = none) ∧
  (∀ (r : Req) (s : State), Heard shardQueryCmd r s → firstErr (shardQueryChecks r s) = none →
    Acts shardQueryCmd (.shardQuery r) r s (s.heard r)
      (match s.shard? (a0 r) with | some h => done1 (h.state + h.reason * 65536) | none => done1 0)) ∧
  (∀ (r : Req) (s : State), Heard progLoadCmd r s → firstErr (progLoadChecks r s) = none →
    Acts progLoadCmd (.progLoad r) r s ((s.heard r).owe 0x0401 r (.prog (a0 r) (a1 r))) (ans stAccepted) ∧
    Runs (.progLoad r) s fun t => Owes t r (.prog (a0 r) (a1 r))) ∧
  (∀ (r : Req) (s : State) (x : Ctx), Heard progQueryCmd r s → (argRsv r 0 0).1 = false →
    s.ctx? r.ctx.toNat = some x → stateRefusal x.state = none →
    Acts progQueryCmd (.progQuery r) r s (s.heard r)
      (match x.loaded with | some p => done1 (p.guards.length + 8192) | none => done1 0))

/-- A chunk is read back and hashed, and the last one of a shard starts the scan where the root is right and ends in quarantine
where it is not; a scan without a fault loads the shard and one with a fault quarantines it; a host load that times out is
quarantined; an image that passes its checks is the next program (R276, R308, R313 to R315). -/
def Obligations.ShardAndProgramEventsComplete : Prop :=
  (∀ (id k : Nat) (l : List Nat) (s : State) (h : Shard), s.alive = true → s.pwr.coolstop = false → s.shard? id = some h →
    h.state = 1 → h.ready = k :: l →
    let q := s.readShard h (bulkReader h.ctx) (k * 0x100000) (min 0x100000 (h.len - k * 0x100000))
    let leaves := tset h.leaves k (sha384 ([0#8] ++ q.2.1))
    let u := q.1.modShard id fun h => { h with leaves := tset h.leaves k (sha384 ([0#8] ++ q.2.1)),
                                               ready := h.ready.filter fun j => j != k }
    q.2.2 = none →
    (leaves.length ≠ h.chunks → Does (.shardChunkHashed id) s u ∧ Runs (.shardChunkHashed id) s fun t =>
      t.shard? id = some { h with leaves, ready := h.ready.filter fun j => j != k }) ∧
    (leaves.length = h.chunks → merkleRoot 17 (leaves.map (·.2)) = h.root →
      Does (.shardChunkHashed id) s (u.modShard id fun h => { h with scanning := true }) ∧
      Runs (.shardChunkHashed id) s fun t =>
        t.shard? id = some { h with leaves, ready := h.ready.filter fun j => j != k, scanning := true }) ∧
    (leaves.length = h.chunks → merkleRoot 17 (leaves.map (·.2)) ≠ h.root →
      Does (.shardChunkHashed id) s (u.quarantine id 1 none))) ∧
  (∀ (id : Nat) (s u : State) (h : Shard), s.alive = true → s.pwr.coolstop = false → s.shard? id = some h → h.state = 1 →
    h.scanning = true →
    (s.scanDir h (List.range h.dirCount) = (u, none) →
      Does (.residualScanComplete id) s (((u.modShard id fun h =>
        { h with state := 2, scanning := false, lines := [], ready := [] }).complete (.shard id) (ans stDone)).idle h.ctx)) ∧
    (∀ f, s.scanDir h (List.range h.dirCount) = (u, some f) →
      Does (.residualScanComplete id) s (u.quarantine id f.1 (some f.2)))) ∧
  (∀ (id : Nat) (s : State) (h : Shard), s.alive = true → s.pwr.coolstop = false → s.shard? id = some h →
    h.hostLoad = true → h.scanning = false →
    Does (.shardLoadTimeout id) s ((s.quarantine id 6 none).idle h.ctx)) ∧
  (∀ (c a n : Nat) (s : State) (x : Ctx) (p : Config.ImageParts), s.alive = true → s.pwr.coolstop = false →
    s.progOwed c = some (a, n) → s.fencedMast (dptr a).mast = false →
    let q := s.readAt (dptr a).mast (hostReader c) ((dptr a).space * 2 ^ 48 + (dptr a).off) n
    q.2.2 = none → q.1.ctx? c = some x → Config.parseImage q.2.1 = .ok p → q.1.imageFault x p = none →
    Does (.progCheckComplete c) s (((q.1.modCtx c fun x => { x with nextProg := some (progOf p) }).completeOf c
      (.prog a n) (ans stDone)).idle c))

/-! ## Serving commands (R180 to R182, R277, R489) -/

/-- A serving command whose checks pass is answered DONE and is recorded for the next boundary, among the recorded ones by its
arrival number (R182, R263); where the context is at a boundary already, that boundary then runs at once (R489). -/
def RecordsIt (k : Cmd) (i : Req → Instr) (checks : Req → State → List (Bool × Ans)) (what : Req → State → ServeCmd) : Prop :=
  ∀ (r : Req) (s : State) (x : Ctx), Heard k r s → firstErr (checks r (s.heard r)) = none →
    s.ctx? r.ctx.toNat = some x →
    ActsThen k (i r) r s ((s.heard r).record r.ctx.toNat (what r s)) (ans stDone) (fun y => y.idle r.ctx.toNat) ∧
    (x.midStep → Runs (i r) s fun t =>
      ∃ y, t.ctx? r.ctx.toNat = some y ∧ y.recorded = recordAt (s.st.arrivals + 1) (what r s) x.recorded)

/-- The twelve serving commands that are recorded for the next boundary complete with their record. -/
def Obligations.RecordedCommandsComplete : Prop :=
  RecordsIt reqSubmitCmd .reqSubmit reqSubmitChecks (fun r s => .submit (slotArg r) { parseEntry r.payload with serial := s.st.arrivals + 1 }) ∧
  RecordsIt reqCancelCmd .reqCancel (slotChecks [rQueued, rPrefill, rDecode, rParked]) (fun r _ => .cancel (slotArg r)) ∧
  RecordsIt reqParkCmd .reqPark (slotChecks [rPrefill, rDecode]) (fun r _ => .park (slotArg r)) ∧
  RecordsIt reqResumeCmd .reqResume (slotChecks [rParked]) (fun r _ => .resume (slotArg r)) ∧
  RecordsIt reqReleaseCmd .reqRelease (slotChecks [rDone, rFaulted]) (fun r _ => .release (slotArg r)) ∧
  RecordsIt sessionOpenCmd .sessionOpen sessionOpenChecks (fun r s => .open_ (sessArg r) (a1 r % 2 ^ 15)
    ((bitsSet (match s.ctx? r.ctx.toNat with | some x => x.mastMask | none => 0) 8).map fun m => (m, listPtr r.payload m))) ∧
  RecordsIt sessionCloseCmd .sessionClose sessionCloseChecks (fun r _ => .close (sessArg r)) ∧
  RecordsIt sessionShareCmd .sessionShare sessionShareChecks
    (fun r _ => .share (sessArg r) (bits (a0 r) 16 14) (a1 r % 2 ^ 15)) ∧
  RecordsIt sessionTruncateCmd .sessionTruncate sessionTruncateChecks (fun r _ => .truncate (sessArg r) (a1 r % 2 ^ 23)) ∧
  RecordsIt sessionGlobalsCmd .sessionGlobals sessionGlobalsChecks (fun r _ => .globals (sessArg r) (globalsArg r)) ∧
  RecordsIt mirrorSetCmd .mirrorSet mirrorSetChecks
    (fun r _ => .mirrorSet (a0 r % 256) (bits (a0 r) 8 7) (bit (a0 r) 16)) ∧
  RecordsIt serveConfigCmd .serveConfig serveConfigChecks (fun r _ => .config (parseConfig r.payload))

/-- SESSION_QUERY, KV_EXPORT and MIRROR_PROMOTE complete with their own effect (R181, R195, R205, R277). -/
def Obligations.ServingQueriesAndCopiesComplete : Prop :=
  (∀ (r : Req) (s : State) (x : Session), Heard sessionQueryCmd r s → firstErr (sessionQueryChecks r s) = none →
    s.ownSess r.ctx.toNat (sessArg r) = some x →
    Runs (.sessionQuery r) s fun t => Answered sessionQueryCmd r (done1 (packFields [(0, 23, x.shown.length),
      (23, 15, x.shown.pages), (38, 7, x.shown.globals), (45, 1, b2n x.shown.bound)])) t) ∧
  (∀ (r : Req) (s : State) (x : Ctx), Heard kvExportCmd r s → firstErr (kvExportChecks r (s.heard r)) = none →
    s.ctx? r.ctx.toNat = some x →
    let e : Export :=
      { ctx := r.ctx.toNat, slot := slotArg r,
        session := (((s.heard r).projectedAll.req? (slotArg r)).map (·.session)).getD 0, first := exFirst r,
        last := exLast r, pkg := exPkg r, tctx := exCtx r, tslot := exSlot r, started := false, source := none, headed := false,
        resync := false, hand := false, torn := false, pages := [], frames := [] }
    let u : State := { s.heard r with exports := tset s.exports s.nextExp e, nextExp := s.nextExp + 1 }
    ActsThen kvExportCmd (.kvExport r) r s
      ((u.owe 0x0520 r (.exported s.nextExp)).record r.ctx.toNat (.exportStart s.nextExp)) (ans stAccepted)
      (fun y => y.idle r.ctx.toNat) ∧
    (x.midStep → Runs (.kvExport r) s fun t => t.nextExp = s.nextExp + 1 ∧ tget t.exports s.nextExp = some e ∧
      ∃ y, t.ctx? r.ctx.toNat = some y ∧ y.recorded = recordAt (s.st.arrivals + 1) (.exportStart s.nextExp) x.recorded)) ∧
  (∀ (r : Req) (s : State), Heard mirrorPromoteCmd r s → (argRsv r 0 0).1 = false → (noCtx s r).1 = false →
    (ctxStateCheck s r).1 = false → (s.heard r).isHolder r.ctx.toNat = true →
    ActsThen mirrorPromoteCmd (.mirrorPromote r) r s ((s.heard r).owe 0x0531 r .promote) (ans stAccepted)
      (fun y => y.promoteHolder r.ctx.toNat))

/-- A step whose last call has ended runs the boundary, or stops a furling context; a context in no step runs its boundary when a
deadline falls due; sampling gives every row that samples its token; an acknowledgement of the partner releases what waited
for it, one of a lost step is counted and ignored, one of a step that awaits none is ignored, and one of a former partner's step
frees the depth of the mirror alone (the model's choice, log entry 33); a timeout declares the mirror lost; a bundle's part leaves
(R185, R188, R189, R191, R201, R203). -/
def Obligations.StepEventsComplete : Prop :=
  (∀ (c : Nat) (s : State) (x : Ctx) (w : StepRun), s.alive = true → s.ctx? c = some x → x.step = some w →
    s.pwr.coolstop = false → x.atEnd = false → s.atBoundary x c = true →
    (x.state = .furling → Does (.stepBoundary c) s (s.modCtx c fun x => { x with stopAt := [], stopped := x.masts })) ∧
    (runsState x.state = true → w.unsampled = false →
      Does (.stepBoundary c) s (((s.hazeUnnamed x w).logUnsampled c w).boundary c))) ∧
  (∀ (c : Nat) (s : State) (x : Ctx), s.alive = true → s.ctx? c = some x → runsState x.state = true → x.step = none →
    Does (.deadlineDue c) s (s.boundary c)) ∧
  (∀ (c : Nat) (ls : List (Nat × Nat × List Word)) (s : State) (x : Ctx) (w : StepRun) (g : ServeConfig), s.alive = true →
    s.ctx? c = some x → x.step = some w → x.config = some g → runsState x.state = true → s.pwr.coolstop = false →
    w.sampled = false → x.masts.all s.mastUp = true → x.masts.any (s.calling c) = false → logitsFit x g w ls = true →
    Does (.sampling c ls) s (s.sampleAll c w ls) ∧
    Runs (.sampling c ls) s fun t => ∃ y v, t.ctx? c = some y ∧ y.step = some v ∧ v.sampled = true ∧ v.num = w.num ∧
      v.rows.length = w.rows.length ∧
      ∀ (i : Nat) (r : StepRow), w.rows[i]? = some r → (r.samples = true ∧ r.fault = 0 → ∀ q e, s.req? r.slot = some q →
        logitsFor ls r.slot = some e → v.rows[i]? = some (match sampleRow (drawOf q (r.start + r.count)) e.2 with
          | some tok => { r with sampled := some tok }
          | none => { r with fault := 3 })) ∧
        (r.samples = false ∨ r.fault ≠ 0 → v.rows[i]? = some r)) ∧
  (∀ (c n pos : Nat) (l : List Nat) (s : State) (x : Ctx), s.alive = true → s.nlc.partId ≠ 0 → s.ctx? c = some x →
    x.mirror.en = true →
    (x.mirror.lost = true ∨ x.mirror.late.contains n = true →
      Does (.mirrorAckReceive c n pos l) s (({ s with srvErr := s.srvErr ||| 0x20 } : State).countH (occ 0x013 1 0 c 0x00))) ∧
    (x.mirror.lost = false → x.mirror.late.contains n = false →
      (x.mirror.unacked.contains n = false → Does (.mirrorAckReceive c n pos l) s s) ∧
      (x.mirror.unacked.contains n = true →
        let acked := s.modCtx c fun x => { x with mirror := { x.mirror with
          unacked := x.mirror.unacked.filter (· != n), acked := n } }
        (x.orphaned n = true → Does (.mirrorAckReceive c n pos l) s (acked.idle c)) ∧
        (x.orphaned n = false →
          let u := acked.modCtx c fun x => { x with mirror := { x.mirror with
            applied := max x.mirror.applied pos, resync := x.mirror.resync.filter fun i => !l.contains i } }
          let v := if l.isEmpty then u else u.setMirror c mLost l.contains
          Does (.mirrorAckReceive c n pos l) s ((((v.endCopies c l.contains).drainLog c).syncCheck c).idle c))))) ∧
  (∀ (c : Nat) (s : State) (x : Ctx), s.alive = true → s.ctx? c = some x → x.mirror.en = true → x.mirror.lost = false →
    x.ownUnacked ≠ [] →
    let u := s.modCtx c fun x => { x with mirror := { x.mirror with
      lost := true, backlog := [], late := dedup (x.mirror.late ++ x.mirror.unacked) } }
    let v := ({ u with srvErr := s.srvErr ||| 0x10 } : State).raise (mkRec 0x0401 clsCE hubMast noUnit c)
    Does (.mirrorTimeout c) s (((v.setMirror c mLost fun _ => true).releaseBundles c (x.held.length + 1)).idle c)) ∧
  (∀ (c : Nat) (s : State) (x : Ctx) (b : Bundle) (bs : List Bundle) (g : ServeConfig), s.alive = true → s.ctx? c = some x →
    x.txq = b :: bs → x.config = some g → s.st.negotiated = true →
    let ch := if b.sent = 0 then g.noticeCh else b.ch
    s.otherBundle c ch = false → s.answerBusy ch = false → s.canSend ch (b.part c ch b.sent).payload.length = true →
    Does (.bundleTransmit c) s (s.sendParts c 131) ∧
    Runs (.bundleTransmit c) s fun t => Out.packet (b.part c ch b.sent) ∈ t.out)

/-- Export headers, pages, acknowledgements and timeouts have the effects of R196, R197 and R204: a header is taken, refused or
mismatching, or begins a copy at a holder; a page is written, acknowledged as present, or refused. That the header of a copy without
pages is answered as its page would be, and what marks the start of a copy, are the model's choice (log entries 31 and 33, DESIGN
CHOICE). -/
def Obligations.ExportEventsComplete : Prop :=
  (∀ (h : ExportHeader) (s : State) (x : Ctx) (q : Request), s.alive = true → s.nlc.partId ≠ 0 → s.ctx? h.targetCtx = some x →
    ((match x.config with | some g => g.holder | none => false) && !x.holder.promoted) = false →
    s.req? h.targetSlot = some q → q.ctx = h.targetCtx → q.state = rQueued → q.imp = true →
    (s.session? q.session).isSome = true → headerMatches x h = true →
    Does (.exportHeaderReceive h) s
      (((((s.modReq h.targetSlot (importFields h s.time)).modSession q.session fun y => { y with length := h.length }).setImport
        (importKey h.srcPkg h.exportId)
        { ctx := h.targetCtx, slot := h.targetSlot, session := q.session, copy := false, refused := false, got := [],
          done := [] })).idle
        h.targetCtx)) ∧
  (∀ (h : ExportHeader) (s : State), s.alive = true → s.nlc.partId ≠ 0 →
    let put := fun (s : State) (session : Nat) (copy refused : Bool) => s.setImport (importKey h.srcPkg h.exportId)
      { ctx := h.targetCtx, slot := h.targetSlot, session, copy, refused, got := [], done := [] }
    (s.ctx? h.targetCtx = none → Does (.exportHeaderReceive h) s (put s 0 false true)) ∧
    (∀ x, s.ctx? h.targetCtx = some x →
      let holder := (match x.config with | some g => g.holder | none => false) && !x.holder.promoted
      let fits := fun q : Request => q.ctx = h.targetCtx ∧ q.state = rQueued ∧ q.imp = true ∧ (s.session? q.session).isSome = true
      (holder = false → (∀ q, s.req? h.targetSlot = some q → ¬ fits q) → Does (.exportHeaderReceive h) s (put s 0 false true)) ∧
      (∀ q, holder = false → s.req? h.targetSlot = some q → fits q → headerMatches x h = false →
        Does (.exportHeaderReceive h) s ((put ((({ s with srvErr := s.srvErr ||| 4 } : State).faultReq h.targetSlot 5).oweEntry
          h.targetCtx h.targetSlot 5 q.stop 5) q.session false true).idle h.targetCtx)) ∧
      (holder = true →
        let hold := fun (s : State) (session : Nat) (refused : Bool) =>
          let t := put s session true refused
          if h.pages = 0 then t.emitFab h.srcPkg (.pageAck h.srcPkg h.exportId 0 refused) else t
        (headerMatches x h = false → Does (.exportHeaderReceive h) s (hold s 0 true)) ∧
        (headerMatches x h = true → 0x4000 ≤ h.targetSlot →
          Does (.exportHeaderReceive h) s (s.renewRing h.targetCtx h.seed)) ∧
        (headerMatches x h = true → h.targetSlot < 0x4000 → ∀ u o,
          (s.renewRing h.targetCtx h.seed).mirrorSession h.targetCtx h.targetSlot 16384 = (u, o) →
          (o = none → Does (.exportHeaderReceive h) s (hold (u.holderLoses h.targetCtx h.targetSlot) 0 true)) ∧
          ∀ i, o = some i → Does (.exportHeaderReceive h) s
            (hold ((u.releasePages i 0).modSession i fun y => { y with length := h.length }) i false))))) ∧
  (∀ (p : ExportPage) (s u : State) (i : Import), p.mast < 8 → s.alive = true → s.nlc.partId ≠ 0 → s.pwr.coolstop = false →
    tget s.imports (importKey p.srcPkg p.exportId) = some i → i.done.contains p.page = false → i.refused = false →
    s.importGone i = false → s.mastUp p.mast = true →
    ((s.session? i.session).bind fun y => y.frame p.mast p.page) = none → s.takePage i p = some u →
    let v := { u with imports := tmod u.imports (importKey p.srcPkg p.exportId) fun i =>
      { i with got := i.got ++ [(p.page, p.mast)] } }
    (v.pageWhole i p.page = false → Does (.exportPageReceive p) s (v.raiseMet i.ctx)) ∧
    (v.pageWhole i p.page = true → Does (.exportPageReceive p) s
      ((v.answerPage (importKey p.srcPkg p.exportId) p.srcPkg p.exportId p.page false).idle i.ctx))) ∧
  (∀ (p : ExportPage) (s : State), p.mast < 8 → s.alive = true → s.nlc.partId ≠ 0 →
    let key := importKey p.srcPkg p.exportId
    let answer := fun (s : State) (b : Bool) => s.answerPage key p.srcPkg p.exportId p.page b
    (tget s.imports key = none → Does (.exportPageReceive p) s (s.emitFab p.srcPkg (.pageAck p.srcPkg p.exportId p.page true))) ∧
    (∀ i, tget s.imports key = some i →
      (i.done.contains p.page = true → Does (.exportPageReceive p) s s) ∧
      (i.done.contains p.page = false →
        (i.refused = true ∨ s.importGone i = true → Does (.exportPageReceive p) s (answer s true)) ∧
        (i.refused = false → s.importGone i = false → s.pwr.coolstop = false → s.mastUp p.mast = true →
          let held := ((s.session? i.session).bind fun y => y.frame p.mast p.page).isSome
          (held = true →
            (s.pageWhole i p.page = false → Does (.exportPageReceive p) s (s.raiseMet i.ctx)) ∧
            (s.pageWhole i p.page = true → Does (.exportPageReceive p) s ((answer s false).idle i.ctx))) ∧
          (held = false → s.takePage i p = none →
            let u := answer (s.returnPage key i p.page) true
            (i.copy = false → Does (.exportPageReceive p) s (u.raiseMet i.ctx)) ∧
            (i.copy = true → Does (.exportPageReceive p) s ((u.holderLoses i.ctx i.slot).raiseMet i.ctx))))))) ∧
  (∀ (id p : Nat) (s : State) (e : Export), s.alive = true → tget s.exports id = some e → tget e.pages p = some 3 →
    let after := fun (s : State) => (if e.resync then s.syncCheck e.ctx else s).idle e.ctx
    (∀ b, s.nlc.partId ≠ 0 → Does (.exportPageAckReceive id p b) s (after (s.endPage id p (if b then 1 else 0)))) ∧
    Does (.exportPageTimeout id p) s (after (s.endPage id p 2)))

/-! ## Calls of a program (R75 to R81, R115 to R138, R150 to R153, R340, R352 to R360, R452 to R455) -/

/-- A grouped call whose descriptor holds and whose groups run, and in whose engines no upset strikes, writes its outputs and holds its
engines; GROUPED_CALL_COMPLETE frees them, and a sampled tile is compared (R77 to R81, R86, R102). That every output is written at
GROUPED_CALL, and not by the end of the call, is the model's choice (log entry 60, DESIGN CHOICE). -/
def Obligations.GroupedCallsComplete : Prop :=
  (∀ (c m desc : Nat) (s u : State) (b : Bytes) (g : Safeguard), Issues s c m desc → DescRead s c m desc 32 u b →
    u.guardOf c (parseGrp b).layer = some g → u.grpDescOk c m (parseGrp b) = true →
    (u.mast m).enginesFree (parseGrp b).mask = true →
    let d := parseGrp b
    let q := u.grpCall c m desc d g
    let r := GrpRun.walk q u
    let w := r.s.writeOutputs q r.done r.regions
    r.fail = none → w.2 = none → Does (.groupedCall c m desc [] []) s (w.1.holdEngines q)) ∧
  (∀ (c m : Nat) (s : State) (r : RunCall), m < 8 → tkeys s.masts = List.range 8 → s.alive = true → s.frozen c = false →
    ((s.mast m).calls.find? fun r => r.ctx == c && r.kind == .grouped) = some r →
    Runs (.groupedCallComplete c m) s fun t => (t.mast m).calls = (s.mast m).calls.erase r ∧
      (t.mast m).me.engines = (s.mast m).me.engines.filter fun e => !(bit r.mask e.1 && e.2.ctx == c)) ∧
  (∀ (m : Nat) (s : State) (x : TtSample) (xs : List TtSample), m < 8 → tkeys s.masts = List.range 8 → s.alive = true →
    s.mastUp m = true → s.pwr.coolstop = false → (s.mast m).tt.samples = x :: xs →
    Runs (.ttCompare m) s fun t => (t.mast m).tt.samples = xs ∧
      (t.mast m).tt.results = (s.mast m).tt.results ++ [(x.ctx, x.layer, x.tile, (ttExceeds x).1)])

/-- Routing, intake and combine calls that nothing fails have the effects of R121 to R128, R133 and R138. -/
def Obligations.RoutingCallsComplete : Prop :=
  (∀ (c m desc : Nat) (s u u1 u2 u3 u4 : State) (b tb pb mb lb : Bytes), IssuesRtu s c m desc → DescRead s c m desc 64 u b →
    let d := parseRoute b
    let rd := control c 0x16
    u.routeOk c m d = true → Reads u m rd d.tokens (8 * d.count) u1 tb → orderOk (tokenList tb d.count) = true →
    Reads u1 m rd d.params (8 * d.experts) u2 pb → Reads u2 m rd d.map (4 * d.experts) u3 mb →
    (List.range d.experts).all (u3.paramOk pb mb) = true →
    Reads u3 m (stream c 0x16) d.logits (4 * d.count * d.rowLen) u4 lb →
    let ps := (List.range d.experts).map fun i =>
      ({ bias := BitVec.ofNat 32 (u32 pb (8 * i)), cap := u16 pb (8 * i + 4) } : ExpertPar)
    let rows := (List.range d.count).map fun i => (List.range d.experts).map fun e =>
      BitVec.ofNat 32 (u32 lb (4 * (i * d.rowLen + e)))
    Does (.routingCall c m desc) s
      ((u4.routeWrite c m d ((tokenList tb d.count).map keyOf)
        (rows.foldl (routeToken d ps) { slots := [], n := [], subst := 0, all := 0 })).callEnded c m desc)) ∧
  (∀ (c m desc : Nat) (s u u1 u2 : State) (b eb hb : Bytes) (q : State × Except (Nat × Nat) (List RecvRow)) (rs : List RecvRow),
    IssuesRtu s c m desc → DescRead s c m desc 32 u b →
    let d := parseIntake b
    let emap := fun e => u32 eb (4 * e)
    let img := rowImageLen d.fmt d.k
    d.rsv = false → d.fmt ≤ 1 → d.k ≠ 0 → d.k ≤ 262144 → (u.guardOf c d.layer).isSome = true → u.ptrIn c m d.recv 128 = true →
    u.ptrIn c m d.emap 4096 = true → ptrOk d.table = true → Reads u m (control c 0x16) d.emap 4096 u1 eb → emapOk emap = true →
    Reads u1 m (stream c 0x16) d.recv 128 u2 hb → u2.inMem c m d.recv (128 + u32 hb 0 * (128 + img)) = true →
    (List.range (u32 hb 0)).foldl (fun (a : State × Except (Nat × Nat) (List RecvRow)) i => match a.2 with
      | .error _ => a
      | .ok l => match a.1.fetch m (stream c 0x16) (d.recv + 128 + i * (128 + img)) 8 with
        | (s, .error x) => (s, .error x)
        | (s, .ok b) => (s, .ok (l ++ [{ idx := i, tag := u64 b 0 }]))) (u2, .ok []) = q → q.2 = .ok rs →
    Does (.intakeCall c m desc) s ((q.1.intakeRows c m d emap rs).callEnded c m desc)) ∧
  (∀ (c m desc : Nat) (s u v w : State) (b ab : Bytes), IssuesRtu s c m desc → DescRead s c m desc 32 u b →
    let d := parseCombine b
    let slots := (List.range (d.count * d.topK)).map (parseSlot ab)
    d.ok = true → u.allIn c m d.regions = true → Reads u m (control c 0x16) d.assign (8 * d.count * d.topK) v ab →
    ((enum slots).find? fun e => decide (e.2.status ≤ 1) && !e.2.arrived) = none →
    (List.range d.count).foldl (State.combineToken c m d slots) (v, none) = (w, none) →
    Does (.combineCall c m desc) s (w.callEnded c m desc))

/-- An attention call that nothing fails notes the rows it names, writes its entries, logs them and writes its outputs (R146 to R153). -/
def Obligations.AttentionCallsComplete : Prop :=
  ∀ (c m ae desc : Nat) (s u u1 u2 u3 u5 : State) (x : Ctx) (b qb nb raw : Bytes) (a : AttnCall) (cache : KvCache),
    Issues s c m desc → s.ctx? c = some x → bit (x.aePlace m) ae = true → DescRead s c m desc 64 u b →
    u.attnCall c m ae (parseAttnCall b) = some a → Reads u m (control c (0x10 + ae)) a.d.qlist (8 * a.d.count) u1 qb →
    let es := (List.range a.d.count).map fun i => u64 qb (8 * i)
    let qs := es.map parseQuery
    let real := qs.filter fun q => !q.pad
    u1.queriesOk c es = true → (real.map (u1.entryPlace a)).any (·.isNone) = false →
    Reads u1 m a.reader a.d.new (a.d.count * 4 * a.k.dh) u2 nb →
    let ns := newEntries a real (real.map (u1.entryPlace a)) nb
    u2.writeEntries a (ns.map (·.1)) = (u3, none) →
    let u4 := ((u3.noteNamed a real).nonfinite a ((ns.map (·.2)).foldl (· + ·) 0)).logEntries a (ns.map (·.1))
    (planReads (u4.queryPlans a qs)).foldl (State.cacheKv a) (u4, .ok []) = (u5, .ok cache) →
    ∀ v, u5.fetch m a.reader a.d.q (a.d.count * a.rowBytes 2) = (v, .ok raw) →
    Does (.attentionCall c m ae desc []) s ((v.attnOut a (u4.queryPlans a qs) cache raw).callEnded c m desc)

/-- Fabric copies, counter reads, collective calls and vector operations that nothing fails have the effects of R52, R104, R186,
R340, R352, R360 and R453; a conversion and an operation change no byte of memory outside their destination. That an operation whose
arithmetic no rule gives writes free values in its format, and that a row whose token is not of the vocabulary is free, is the model's
choice (log entries 37 and 2, DESIGN CHOICE). -/
def Obligations.OtherCallsComplete : Prop :=
  (∀ (c m desc : Nat) (s u : State) (b : Bytes) (t : Nat × Nat × Nat), Issues s c m desc →
    (s.mast m).calls.any (fun r => r.ctx == c && r.kind == .fabricCopy) = false → DescRead s c m desc 32 u b →
    let d := parseCopy b
    u.copyDescOk c m d = true → u.inMem c m d.loc d.len = true → u.window c d.write d.fab d.len = some t →
    Does (.fabricCopyCall c m desc) s ((List.range (d.len / 128)).foldl (fun (s : State) i => s.copyLine c m d t i)
      (u.modMast m fun z => { z with calls := z.calls ++
        [{ ctx := c, kind := .fabricCopy, layer := 0, mask := 0, left := d.len / 128, desc }] }))) ∧
  (∀ (c m desc : Nat) (s u : State) (b : Bytes) (x : Ctx), Issues s c m desc → DescRead s c m desc 32 u b →
    allZero (sub b 8 24) = true → ptrSpace (u64 b 0) = 1 → u.ptrIn c m (u64 b 0) 512 = true → u.ctx? c = some x →
    Does (.counterReadCall c m desc) s
      ((u.modMast m fun z => z.writeSpad (ptrOff (u64 b 0)) (counterWindow (u.mast m).pmc x c)).callEnded c m desc)) ∧
  (∀ (c m desc rank : Nat) (s u : State) (b src : Bytes) (g : Group), m < 8 → s.alive = true → s.canCollect c m desc = true →
    DescRead s c m desc 64 u b →
    let d := parseColDesc b
    u.group? d.group = some g → u.rankOf g m = some rank → u.colDescOk c m d g rank = true →
    let k := u.newCall c m rank (tgetD g.next m 0) d
    let v := u.beginCall c m desc k
    (v.groupAbroad g && decide (v.stayUp.length < k.planesMin)) = false → (g.members.any fun x => v.isDead x.pkg) = false →
    ∀ w, (if d.srcLen g.members.length rank = 0 then (v, .ok []) else
      v.fetch m (stream c 0x1A) d.src (d.srcLen g.members.length rank)) = (w, .ok src) →
    let w' := w.modCall d.group m fun c => { c with prod := src }
    let z := if d.op = opDISP then w'.launchRows d.group m g k fun s => s.dispatchRows c m g k
      else if d.op = opRET then w'.startReturn d.group m g k else w'.runMethod d.group m k.method
    Does (.collectiveCall c m desc) s
      (((((z.releaseRows d.group).replayGroup d.group).replayFallen d.group).checkGroup d.group).hubSettle)) ∧
  (∀ (c m vu layer : Nat) (s u w : State) (x : Ctx), m < 8 → s.alive = true → s.ctx? c = some x →
    bit (x.vuPlace m) vu = true →
    let v : VuCall := { c, m, vu, layer }
    (∀ dst b n, s.canStart c m dst = true → n ≠ 0 → (hasScale b = false ∨ n % 32 = 0) →
      let f := s.rowFmt v b
      let o := vuWrite f ((List.range n).map fun i => ofFp (Config.freeWord (s.free + i)))
      s.ptrIn c m dst (tensorBytes f n) = true → Writes (s.drawnN n) m v.reader dst (o.1.take (elemBytes f n)) u →
      (hasScale f = false → let t := (u.vuSubst v o.2).callEnded c m dst
        Does (.vectorUnitOperation c m vu layer (.other dst b n)) s t ∧ OnlyAt m dst (tensorBytes f n) s t) ∧
      (hasScale f = true → Writes u m v.reader (dst + scaleAt f n) (o.1.drop (scaleAt f n)) w →
        let t := (w.vuSubst v o.2).callEnded c m dst
        Does (.vectorUnitOperation c m vu layer (.other dst b n)) s t ∧ OnlyAt m dst (tensorBytes f n) s t)) ∧
    (∀ src dst a b rows cols img, s.canStart c m dst = true → a ≠ b → rows * cols ≠ 0 →
      ((hasScale a || hasScale b) && cols % 32 != 0) = false →
      let f := s.rowFmt v b
      let n := rows * cols
      s.ptrIn c m src (tensorBytes a n) = true → s.ptrIn c m dst (tensorBytes f n) = true →
      Reads s m v.reader src (tensorBytes a n) w img →
      let xs := (List.range n).map fun i => vuElem a n img i
      let o := vuWrite f (if hasScale a && hasScale f then xs.map viaFp32 else xs)
      Writes w m v.reader dst (o.1.take (elemBytes f n)) u →
      (hasScale f = false → let t := (u.vuSubst v o.2).callEnded c m dst
        Does (.vectorUnitOperation c m vu layer (.convert src dst a b rows cols)) s t ∧ OnlyAt m dst (tensorBytes f n) s t) ∧
      (∀ z, hasScale f = true → Writes u m v.reader (dst + scaleAt f n) (o.1.drop (scaleAt f n)) z →
        let t := (z.vuSubst v o.2).callEnded c m dst
        Does (.vectorUnitOperation c m vu layer (.convert src dst a b rows cols)) s t ∧ OnlyAt m dst (tensorBytes f n) s t)) ∧
    (∀ table dst n rows g, s.canStart c m dst = true → x.config = some g → s.ptrIn c m table (g.vocab * n) = true →
      s.ptrIn c m dst (rows.length * n) = true →
      Does (.vectorUnitOperation c m vu layer (.embed table dst n rows)) s ((embedRows v g table n rows dst s).callEnded c m dst)))

/-! ## Cleats, spills, restores and seals (R169, R291, R296 to R300) -/

/-- A cleat that a context reaches is recorded; a furling one stops there (R291, R297); a spill saves the live regions and
frees the engines, which a context that a coolant stop has stopped keeps until it resumes (R299, R303), a restore copies them back
(R300); of memory, a spill's copy changes only the save area and a restore's only the saved slices; seal images are built in trigger
order (R169). That the regions lie one after the other in the save area is the model's reading (log entry 32). -/
def Obligations.ScheduleEventsComplete : Prop :=
  (∀ (c m k : Nat) (s : State) (x : Ctx), m < 8 → s.alive = true → s.ctx? c = some x → s.cleatOpen c m = true → k < 65536 →
    (x.state = .furling → Runs (.cleatReached c m k) s fun t =>
      t.ctx? c = some { x with cleat := tset x.cleat m k, stopAt := x.stopAt.erase m, stopped := insAsc m x.stopped }) ∧
    (x.state ≠ .furling → Does (.cleatReached c m k) s (s.atCleat c m k) ∧
      Runs (.cleatReached c m k) s fun t => ∃ y, t.ctx? c = some y ∧ tget y.cleat m = some k)) ∧
  (∀ (m : Nat) (s u : State) (j : BulkJob), m < 8 → s.alive = true → (s.mast m).copyJob = some j →
    let base := s.saveBase j.ctx m
    (j.restore = false → s.saveRegions j.ctx m base j.regions = (u, none) →
      OnlyIn m (fun a => base ≤ a ∧ a < base + (j.regions.map (·.2)).sum) (fun _ => False) s u ∧
      let v := (u.copyEnds m).modCtx j.ctx fun x =>
        { x with live := if j.regions.isEmpty then x.live else tset x.live m j.regions }
      (v.frozen j.ctx = false → Does (.spillComplete m) s (v.freeEngines j.ctx m).idleAll) ∧
      (v.frozen j.ctx = true → Does (.spillComplete m) s
        (v.modCtx j.ctx fun x => { x with spilled := insAsc m x.spilled }))) ∧
    (j.restore = true → s.loadRegions j.ctx m base j.regions = (u, none) →
      OnlyIn m (fun _ => False) (fun a => ∃ r ∈ j.regions, r.1 ≤ a ∧ a < r.1 + r.2) s u ∧
      Does (.restoreComplete m) s (((((u.copyEnds m).modCtx j.ctx fun x =>
        { x with live := tdel x.live m }).promote j.ctx).promoteCool j.ctx).reeval false m).idleAll)) ∧
  (∀ (m : Nat) (s : State), m < 8 → s.alive = true → s.pwr.coolstop = false → s.mastUp m = true →
    Does (.sealImageBuild m) s ((s.ctxs.foldl (fun (s : State) e => (s.takeStages m e).raiseMet e.1) s).modMast m fun z =>
      { z with ae := { z.ae with building := !z.ae.sealJobs.isEmpty } })) ∧
  (∀ (m : Nat) (s : State) (j : SealJob) (js : List SealJob) (x : Ctx) (k : KvRec) (f : Frame), m < 8 → s.alive = true →
    s.pwr.coolstop = false → s.mastUp m = true → (s.mast m).ae.building = true → (s.mast m).ae.sealJobs = j :: js →
    s.ctx? j.ctx = some x → tget x.kv m = some k → tget (x.pool m).frames j.frame = some f →
    let u := (s.modMast m fun z => { z with ae := { z.ae with sealJobs := js, building := !js.isEmpty } }).sealImage m j k f
    (∀ v img out, (s.modMast m fun z => { z with ae := { z.ae with sealJobs := js, building := !js.isEmpty } }).readRuns m
        (sealReader j.ctx) (pageRegions k j.frame f) = (v, .ok img) → convertPage k.geom f.fmt 2 img = .ok out →
      ∀ y, u.ctx? j.ctx = some y → Does (.sealImageComplete m) s (if y.atEnd then u.boundary j.ctx else u.raiseMet j.ctx)))

/-! ## Fabric commands (R278, R329 to R334, R350 to R352) -/

/-- LINK_TRAIN, LINK_STOP, PLAN_LOAD, PARTITION_SET, WINDOW_MAP, GROUP_LOAD and GROUP_UNLOAD complete with their own effect. -/
def Obligations.FabricCommandsComplete : Prop :=
  (∀ (r : Req) (s : State), Heard linkTrainCmd r s → (argRsv r (lowMask 42) 0).1 = false → s.nlc.plan ≠ none →
    Acts linkTrainCmd (.linkTrain r) r s ((((portsOf (a0 r % 2 ^ 42)).filter (s.heard r).trains).foldl
      (fun (s : State) p => s.startTraining p) (s.heard r)).owe 0x0601 r (.linkTrain (a0 r % 2 ^ 42))) (ans stAccepted)) ∧
  (∀ (r : Req) (s : State), Heard linkStopCmd r s → (argRsv r (lowMask 42) 0).1 = false →
    Acts linkStopCmd (.linkStop r) r s
      ((portsOf (a0 r % 2 ^ 42)).foldl (fun (s : State) p => s.stopPort p) (s.heard r)) (ans stDone)) ∧
  (∀ (r : Req) (s : State), Heard planLoadCmd r s → firstErr (planLoadChecks r s) = none →
    Acts planLoadCmd (.planLoad r) r s ((s.heard r).takePlan (parsePlan r.payload)) (ans stDone)) ∧
  (∀ (r : Req) (s : State), Heard partitionSetCmd r s → firstErr (partitionSetChecks r s) = none →
    Acts partitionSetCmd (.partitionSet r) r s ((s.heard r).takePartition (bits (a0 r) 0 16) (bits (a0 r) 16 8)) (ans stDone)) ∧
  (∀ (r : Req) (s : State), Heard windowMapCmd r s → firstErr (windowMapChecks r s) = none →
    Runs (.windowMap r) s fun t => Answered windowMapCmd r (ans stDone) t ∧ t.nlc = { s.nlc with
      windows := if bit (u8 r.payload 0) 0 then tset s.nlc.windows (a0 r % 256) (parseWindow r.payload)
                 else tdel s.nlc.windows (a0 r % 256) }) ∧
  (∀ (r : Req) (s : State), Heard groupLoadCmd r s → firstErr (groupLoadChecks r s) = none →
    Runs (.groupLoad r) s fun t => Answered groupLoadCmd r (ans stDone) t ∧
      t.group? (a0 r % 4096) = some (newGroup r.ctx.toNat r.payload)) ∧
  (∀ (r : Req) (s : State), Heard groupUnloadCmd r s → firstErr (groupUnloadChecks r s) = none →
    Runs (.groupUnload r) s fun t => Answered groupUnloadCmd r (ans stDone) t ∧ t.col = s.col.unload (a0 r % 4096) ∧
      t.group? (a0 r % 4096) = none)

/-! ## Power commands (R279, R380, R383 to R385, R389, R395) -/

/-- CAP_SET, REEF_LIMIT, POWER_HINT and COOL_RESUME complete with their own effect. That a promotion which waited for the end of the
coolant stop then takes place is the model's reading (log entry 104, DEDUCED). -/
def Obligations.PowerCommandsComplete : Prop :=
  (∀ (r : Req) (s : State), Heard capSetCmd r s → (argRsv r (lowMask 16) 0).1 = false →
    let x := (s.heard r).writeCap 1 (a0 r % 65536)
    Acts capSetCmd (.capSet r) r s x (done1 x.pwr.cap) ∧ (450 ≤ a0 r % 65536 → s.pwr.floorCap = false → s.pwr.floorMgmt = false →
      x.pwr.cap = min 2000 (a0 r % 65536))) ∧
  (∀ (r : Req) (s : State), Heard reefLimitCmd r s → (argRsv r 7 0).1 = false → a0 r % 8 ≤ 4 →
    Acts reefLimitCmd (.reefLimit r) r s ((s.heard r).writeReefLimit (a0 r)) (ans stDone)) ∧
  (∀ (r : Req) (s : State), Heard powerHintCmd r s → (argRsv r (lowMask 48) (lowMask 32)).1 = false →
    Acts powerHintCmd (.powerHint r) r s
      ((s.heard r).hint (bits (a0 r) 0 16) (bits (a0 r) 16 32) (bits (a1 r) 0 32)) (ans stDone)) ∧
  (∀ (r : Req) (s : State), Heard coolResumeCmd r s → firstErr (coolResumeChecks r s) = none →
    ActsThen coolResumeCmd (.coolResume r) r s ((s.heard r).endCoolstop.resumeCtx r.ctx.toNat) (ans stDone) (fun y => y.promoteOwed))

/-! ## Counters and telemetry (R280, R445 to R454, R458) -/

/-- CTR_READ, CTR_PROGRAM, CTR_GRANT and TELEMETRY complete with their own effect. -/
def Obligations.CounterCommandsComplete : Prop :=
  (∀ (r : Req) (s : State), Heard ctrReadCmd r s → firstErr (ctrReadChecks r s) = none →
    let b := (List.range (crCount r)).flatMap fun i => natLe 8 ((s.pmcOf (crUnit r)).value (crProg r) (crFirst r + i))
    Runs (.ctrRead r) s fun t => Answered ctrReadCmd r { status := stDone, hi := 0, arg1 := 0, parts := [b] } t) ∧
  (∀ (r : Req) (s : State), tkeys s.masts = List.range 8 → Heard ctrProgramCmd r s → firstErr (ctrProgramChecks r s) = none →
    Runs (.ctrProgram r) s fun t => Answered ctrProgramCmd r (ans stDone) t ∧
      t.pmcOf (crUnit r) = (s.pmcOf (crUnit r)).program (cpIndex r) r.payload) ∧
  (∀ (r : Req) (s : State) (x : Ctx), Heard ctrGrantCmd r s → (argRsv r 1 0).1 = false → s.ctx? r.ctx.toNat = some x →
    stateRefusal x.state = none →
    Runs (.ctrGrant r) s fun t => Answered ctrGrantCmd r (ans stDone) t ∧
      t.ctx? r.ctx.toNat = some { x with counterRead := bit (a0 r) 0 }) ∧
  (∀ (r : Req) (s : State), Heard telemetryCmd r s → (argRsv r 0 0).1 = false →
    Runs (.telemetry r) s fun t =>
      Answered telemetryCmd r { status := stDone, hi := 0, arg1 := 0, parts := [s.telemetry] } t)

/-! ## Security (R281, R432 to R440) -/

/-- ATTEST, CERT_READ, LINK_KEY and SVN_COMMIT complete, a report is produced and goes to whom it answers, the endpoint or the
oldest ATTEST that waits for one, and a fuse is programmed. -/
def Obligations.SecurityCommandsComplete : Prop :=
  (∀ (r : Req) (s : State), Heard attestCmd r s → (argRsv r 0 0).1 = false →
    Runs (.attest r) s fun t => Answered attestCmd r (ans stAccepted) t ∧ Owes t r .attest ∧ t.btb.reports = s.btb.reports ++
      [{ content := s.reportContent r.payload, nonce := r.payload, endpoint := false }]) ∧
  (∀ (s : State) (x : Report) (xs : List Report), s.alive = true → s.btb.aliasRsa = true → s.btb.reports = x :: xs →
    Runs .attestReportComplete s fun t => t.btb.reports = xs ∧
      (x.endpoint = true → t.btb.held = some (x.nonce, s.signed x.content) ∧
        endpointPart 5 (s.signed x.content) 0 ∈ t.out) ∧
      (∀ o, x.endpoint = false → tkeys s.st.chans = List.range 8 → (s.st.outstanding.find? fun o => o.what == .attest) = some o →
        o.ch < 8 → t.st.outstanding = s.st.outstanding.erase o ∧
        let a : Ans :=
          { status := stDone, hi := 0, arg1 := (s.signed x.content).length, parts := partsOf 4096 (s.signed x.content), rise := 2 ^ 32 }
        ∀ p ∈ pktsOf 2 o.opcode o.tag o.ctx o.ch false false a,
          p ∈ (t.chan o.ch).answers ∨ Out.packet p ∈ t.out)) ∧
  (∀ (r : Req) (s : State), Heard certReadCmd r s → (argRsv r 0xFF 0).1 = false → a0 r % 256 ≤ 5 →
    (a0 r % 256 = 4 → s.btb.aliasRsa = true) →
    let b := s.cert (a0 r % 256)
    Runs (.certRead r) s fun t => Answered certReadCmd r
      { status := stDone, hi := 0, arg1 := b.length % 2 ^ 24, parts := partsOf 4096 b, rise := 2 ^ 24 } t) ∧
  (∀ (r : Req) (s : State), Heard linkKeyCmd r s → (argRsv r 0x3F 0).1 = false → lkPort r < 42 →
    s.keyBad (lkPort r) r.payload = false → (s.port (lkPort r)).syncOwed = false →
    Acts linkKeyCmd (.linkKey r) r s ((s.heard r).acceptKey (lkPort r) r.payload) (ans stDone)) ∧
  (∀ (r : Req) (s : State), Heard svnCommitCmd r s → (argRsv r 0x3F 0).1 = false → s.btb.fusedSvn ≤ a0 r % 64 →
    a0 r % 64 ≤ s.btb.fwSvn → s.btb.commitBusy = false →
    Runs (.svnCommit r) s fun t => Answered svnCommitCmd r (ans stAccepted) t ∧ t.btb.commitTarget = a0 r % 64 ∧
      t.btb.fusedSvn = s.btb.fusedSvn ∧ (s.btb.fusedSvn < a0 r % 64 → t.btb.commitBusy = true ∧ Owes t r .svn)) ∧
  (∀ (s : State), s.btb.fuseOn = true → s.cn.hubRails = true →
    Runs .fuseProgrammed s fun t => t.btb.fusedSvn = s.btb.fusedSvn + 1)

/-! ## Maintenance (R221, R222, R282, R317, R416 to R420) -/

/-- MAINT_START of the activity `a` takes its class and is accepted; a retrain starts at once (R282, R327, R419). -/
def MaintStarts (i : Req → Instr) (a : Nat) : Prop :=
  ∀ (r : Req) (s : State), Heard maintStartCmd r s → maActivity r = a → firstErr (maintStartChecks r s) = none →
    s.holder? (maintClass a) = none →
    let x := ((s.heard r).holdClass { activity := a, arg := a1 r, tag := r.tag.toNat, ch := r.flitCh, device := false }).owe
      0x0A01 r (.maint a)
    Acts maintStartCmd (i r) r s (if a = actRetrain then x.startRetrain (a1 r) else x) (ans stAccepted)

/-- The five maintenance activities start, and MAINT_QUERY and LOG_READ answer. -/
def Obligations.MaintenanceCommandsComplete : Prop :=
  MaintStarts .scrubChunk 1 ∧ MaintStarts .digestRecheck 2 ∧ MaintStarts .retrain 3 ∧ MaintStarts .refreshMode 4 ∧
  MaintStarts .logCompact 5 ∧
  (∀ (r : Req) (s : State), Heard maintQueryCmd r s → (argRsv r 0 0).1 = false →
    let code := fun c => match s.holder? c with | some m => m.activity | none => 0
    Runs (.maintQuery r) s fun t =>
      Answered maintQueryCmd r (done1 (packFields [(0, 8, code 0), (8, 8, code 1), (16, 8, code 2), (24, 8, code 3)])) t) ∧
  (∀ (r : Req) (s : State), Heard logReadCmd r s → (argRsv r (lowMask 32) 0x3F).1 = false → bits (a1 r) 0 6 ≠ 0 →
    let b := (s.flt.logFrom (a0 r % 2 ^ 32) (bits (a1 r) 0 6)).flatMap Record.image
    Runs (.logRead r) s fun t => Answered logReadCmd r { status := stDone, hi := 0, arg1 := 0, parts := [b] } t)

/-- Scheduled maintenance starts, and what runs ends with its effect (R221, R222, R317, R416 to R420). -/
def Obligations.MaintenanceEventsComplete : Prop :=
  (∀ (s : State), s.alive = true → s.scrubMasts ≠ [] → Does .scrubSchedule s (s.deviceMaint (.dev actScrub 0))) ∧
  (∀ (found : List Upset) (s : State) (m : Maint), s.alive = true → s.holder? 0 = some m → m.activity = actScrub →
    let u := s.strikeAll found
    u.alive = true →
    Does (.scrubChunkComplete found) s ((u.sweep
      ((if m.device then bitsSet m.arg 8 else List.range 8).filter u.mastUp)).endMaint actScrub (ans stDone))) ∧
  (∀ (s : State) (i : Nat), s.alive = true → s.nextRecheck = some i → s.hal.period ≠ 0 →
    Does .recheckSchedule s (State.deviceMaint { s with hal := { s.hal with nextScan := i + 1 } } (.dev actRecheck i))) ∧
  (∀ (s : State) (m : Maint) (h : Shard), s.alive = true → s.holder? 0 = some m → m.activity = actRecheck →
    s.pwr.coolstop = false → s.shard? m.arg = some h →
    Does .recheckComplete s ((s.hashRest m.arg h.chunks).recheckVerdict m.arg)) ∧
  (∀ (s : State) (m : Maint), tkeys s.masts = List.range 8 → s.alive = true → s.holder? 2 = some m →
    m.activity = actRefresh → s.pwr.coolstop = false →
    Runs .refreshModeComplete s fun t => ∀ n, n < 8 → (t.mast n).mc.refreshReq = m.arg % 4) ∧
  (∀ (s : State), s.alive = true → 62 < s.flt.sectors.length → tgetD s.flt.queues 3 [] = [] →
    Does .logCompactAuto s (s.deviceMaint (.dev actCompact 0))) ∧
  (∀ (s : State) (m : Maint) (l : List Nat) (ls : List (List Nat)), s.alive = true → s.holder? 3 = some m →
    m.activity = actCompact → s.flt.sectors = l :: ls →
    Runs .logCompactComplete s fun t => t.flt.sectors = ls ∧ t.flt.log = tfilter s.flt.log fun i _ => !l.contains i) ∧
  (∀ (s : State) (x : Record) (xs : List Record), s.cn.hubRails = true ∨ s.flt.fatal = true → s.flt.logWrites = x :: xs →
    Runs .logRecordWritten s fun t => tget t.flt.log (x.logIndex.getD 0) = some x ∧ t.flt.logWrites = xs)

/-! ## Notices and answers (R261, R268, R270, R283) -/

/-- A queued notice goes out on the event channel, and an answer that waited for credits goes out on its own. -/
def Obligations.NoticesAndAnswersGoOut : Prop :=
  (∀ (s : State) (n : Notice) (rest : List Notice), s.alive = true → s.st.notices = n :: rest → s.st.negotiated = true →
    s.bundleBusy s.st.eventCh = false → s.answerBusy s.st.eventCh = false →
    s.canSend s.st.eventCh (n.packet s.st.eventCh s.st.dropped).payload.length = true →
    Runs .eventNoticeSend s fun t => t.st.notices = rest ∧ t.st.dropped = n.reported s.st.dropped ∧
      Out.packet (n.packet s.st.eventCh s.st.dropped) ∈ t.out) ∧
  (∀ (c : Nat) (s : State), c < 8 → s.alive = true → Does (.answerSend c) s (s.sendAnswer c)) ∧
  (∀ (c : Nat) (s : State) (p : Pkt) (ps : List Pkt), c < 8 → tkeys s.st.chans = List.range 8 → s.alive = true →
    s.st.negotiated = true → (s.chan c).answers = p :: ps → p.silent = false → s.canSend c p.payload.length = true → s.bundleBusy c = false →
    (s.chan c).waiting = [] →
    Runs (.answerSend c) s fun t => Out.packet p ∈ t.out ∧ (t.chan c).answers = ps)

/-! ## Registers on either path (R4, R10, R18, R107, R216, R249 to R251, R339, R384, R454, R469) -/

/-- The register at `off` can be written now: its block is present and served, and no fatal error has stopped the hub. -/
def Writable (s : State) (off : Nat) : Prop :=
  off % 4 = 0 ∧ s.regAbsent off = false ∧ s.served off = true ∧ s.flt.fatal = false

/-- Register writes and the registers with a behaviour of their own complete with their effect. -/
def Obligations.RegisterAccessesComplete : Prop :=
  (∀ (off : Nat) (v : Word) (s : State), Writable s off →
    Does (.registerWrite off v) s (writeReg s off v.toNat).1 ∧ Does (.sbMemWrite off v) s (writeReg s off v.toNat).1) ∧
  (∀ (v : Word) (s : State), Writable s 0x10008 → Does (.pwrCapWrite v) s (s.writeCap 1 (v.toNat % 65536))) ∧
  (∀ (m b : Nat) (v : Word) (s : State), m < 8 → b < 12 → tkeys s.masts = List.range 8 →
    Writable s (mastReg m 5 (0x10 + 4 * b)) → thas (s.mast m).mc.bandPending b = false →
    s.taken m (b * 2 ^ 32) (2 ^ 32) = false →
    Runs (.mcBandWrite m b v) s fun t => tget (t.mast m).mc.bandPending b = some (v.toNat % 4)) ∧
  (∀ (m b j : Nat) (s : State), m < 8 → tkeys s.masts = List.range 8 → s.alive = true → s.mastUp m = true →
    s.pwr.coolstop = false → tget (s.mast m).mc.bandPending b = some j →
    Runs (.bandChangeComplete m b) s fun t => tget (t.mast m).mc.bandPending b = none ∧
      tget (t.mast m).mc.setLog2 b = (if j = 3 then none else some j)) ∧
  (∀ (k : Nat) (v : Word) (s : State), k < 8 → Writable s (0x80020 + 4 * k) →
    Does (.nlcDeadClear k v) s (s.clearDead k v.toNat) ∧
    Runs (.nlcDeadClear k v) s fun t => ∀ d, d ∈ t.nlc.dead → ¬ (d / 32 = k ∧ bit v.toNat (d % 32) = true)) ∧
  (∀ (s : State), Writable s 0x10000C →
    Runs .hifFlush s fun t => t.st.negotiated = false ∧ ∀ e ∈ t.hif.mods, e.2.replay = [] ∧ e.2.txSeq = 0) ∧
  (∀ (mask : Nat) (s : State), Writable s 0x10000C → Does (.hifRetry mask) s (s.retryModules (mask % 16))) ∧
  (∀ (m c l : Nat) (s : State), m < 8 → c < 128 → l < 4096 → tkeys s.masts = List.range 8 →
    Writable s (mastReg m 4 0x24) → (s.layerNamed c l).isSome = true →
    (Runs (.ttClear m c l) s fun t => (t.mast m).tt.cmdStatus = 1 ∧ ((t.mast m).tt.rec? c l).cmd = 1) ∧
    Runs (.ttPin m c l) s fun t => (t.mast m).tt.cmdStatus = 1 ∧ ((t.mast m).tt.rec? c l).cmd = 2) ∧
  (∀ (v : Word) (s : State), Writable s 0x180018 →
    Does (.pmcCompatWrite v) s (s.writeCompat s.pmc.ctxSel (bit v.toNat 1)).1) ∧
  (∀ (off : Nat) (s : State), off % 4 = 0 → s.regAbsent off = false → s.served off = true →
    Runs (.sbMemRead off) s fun t => Out.sbData off (BitVec.ofNat 32 (readReg (s.latchTime off) off)) ∈ t.out) ∧
  (∀ (s : State), s.served 0x40000 = true →
    Runs .cnTimeLoRead s fun t => t.cn.timeHi = some (BitVec.ofNat 32 (hi32 s.time)) ∧
      Out.sbData 0x40000 (BitVec.ofNat 32 s.time) ∈ t.out)

/-! ## The management endpoint (R386, R459, R460) -/

/-- The endpoint's commands answer OK with their content, and a lost heartbeat is noted. The bytes of an answer, the time in 8 of
them and a cap in 2, low byte first and in the rule's order, are the model's reading (log entry 29, DEDUCED). -/
def Obligations.EndpointCommandsComplete : Prop :=
  (∀ (s : State), s.endpointRuns = true → s.alive = true →
    Runs .heartbeat s fun t => t.pwr.hbAge = 0 ∧ t.pwr.hbLost = false ∧ Out.mgmt 1 mgOk (natLe 8 s.time) ∈ t.out) ∧
  (∀ (s : State), s.endpointRuns = true → (s.alive = true ∨ s.flt.fatal = true) →
    Runs .telemetryGet s fun t => Out.mgmt 2 mgOk s.telemetry ∈ t.out) ∧
  (∀ (w : Nat) (s : State), s.endpointRuns = true → s.alive = true → 450 ≤ w → w < 65536 → s.pwr.floorCap = false →
    s.pwr.floorMgmt = false →
    Runs (.capSetMgmt w) s fun t => t.pwr.capMgmt = min 2000 w ∧ Out.mgmt 3 mgOk (natLe 2 (min 2000 w)) ∈ t.out) ∧
  (∀ (s : State), s.endpointRuns = true → Runs .identGet s fun t => Out.mgmt 4 mgOk s.identAnswer ∈ t.out) ∧
  (∀ (n : Bytes) (p : Nat) (s : State), s.endpointRuns = true → s.alive = true → n.length = 48 → p < 65536 →
    (p = 0 → Runs (.attestGet n p) s fun t => t.btb.reports = s.btb.reports ++
      [{ content := s.reportContent n, nonce := n, endpoint := true }]) ∧
    (∀ b, p ≠ 0 → s.btb.held = some (n, b) → Runs (.attestGet n p) s fun t => endpointPart 5 b p ∈ t.out)) ∧
  (∀ (i p : Nat) (s : State), s.endpointRuns = true → s.alive = true → i ≤ 5 → p < 65536 → (i = 4 → s.btb.aliasRsa = true) →
    Runs (.certGet i p) s fun t => endpointPart 6 (s.cert i) p ∈ t.out) ∧
  (∀ (s : State), s.alive = true → s.pwr.hbEn = true → s.pwr.hbLost = false →
    Runs .heartbeatLost s fun t => t.pwr.hbLost = true ∧ t.pwr.err = s.pwr.err ||| 0x80)

/-! ## Firmware (R250 to R254, R427 to R431, R435) -/

/-- An image is delivered, verified and run or rejected; the RSA alias key follows. -/
def Obligations.FirmwareDeliveryCompletes : Prop :=
  (∀ (off : Nat) (d : Bytes) (s : State), s.bootRom = true → d.length = 8 → off % 8 = 0 → off < 4194304 → s.hif.fwDone = false →
    Runs (.fwChunk off d) s fun t => tget t.hif.chunks (off / 8) = some d) ∧
  (∀ (len : Nat) (s : State), s.bootRom = true → s.hif.fwDone = false →
    Runs (.fwDone len) s fun t => t.hif.fwDone = true ∧ t.hif.imageLen = len ∧
      (s.hif.ready = true → s.hif.oper = false → s.cn.paused = false → t.hif.verifying = true)) ∧
  (∀ (s : State), s.hif.verifying = true → s.flt.fatal = false →
    (s.fwReason = none → Runs .fwVerify s fun t => t.hif.oper = true ∧ t.cn.stage = 7 ∧ t.btb.fwSvn = u8 s.hif.image 2 ∧
      t.btb.measure = sha384 (s.hif.image.take 1024)) ∧
    (∀ r, s.fwReason = some r → Runs .fwVerify s fun t => t.hif.oper = s.hif.oper ∧ t.hif.rejected = true ∧
      t.btb.rejectReason = r ∧ t.hif.chunks = [])) ∧
  (∀ (s : State), s.alive = true → Runs .aliasRsaReady s fun t => t.btb.aliasRsa = true)

/-! ## The host link (R241 to R249) -/

/-- A module trains, flits are taken in order, retrains end and channels return home. The fields of the flit that answers one with a
bad CRC (IDLE, SEQ 0, valid, no credits) and of an acknowledgement on its own are the model's choice: R245 gives NAK and ACK_SEQ (log
entries 41 and 73, DESIGN CHOICE). -/
def Obligations.HostLinkEventsComplete : Prop :=
  (∀ (m lanes rep : Nat) (s : State), m < 4 → s.mainband = true → (s.hmod m).trains = true → (s.hmod m).broken = false →
    lanes = 64 → Does (.ucieModuleTrained m 32 lanes rep) s
      ((s.modHmod m fun x => { x with rate := 32, lanes, repaired := rep, fresh := false }).moduleUp m lanes rep)) ∧
  (∀ (m : Nat) (b : Bytes) (s : State), m < 4 → s.carries m = true → b.length = 256 → flitOk b = true →
    (parseFlit b).typ ≠ 0 → (parseFlit b).seq = ((s.hmod m).rxLast + 1) % 4096 →
    let f := parseFlit b
    let u := (((s.modHmod m fun x => { x with rxLast := f.seq }).ackFlit m false f.seq).flitFields m f).flitEffect m f
    Does (.flitReceive m b) s (if u.alive then u.drainAll else u) ∧
    (f.typ = 2 → Does (.resumeFlitReceive m b) s u)) ∧
  (∀ (m : Nat) (b : Bytes) (s : State), m < 4 → s.carries m = true → b.length = 256 → flitOk b = false →
    Runs (.flitReceive m b) s fun t =>
      Out.flit m (idleFlit.image (packFields [(31, 1, 1), (30, 1, 1), (0, 12, (s.hmod m).rxLast)]) 0) ∈ t.out) ∧
  (∀ (m : Nat) (s : State), m < 4 → s.carries m = true → (s.hmod m).replay ≠ [] →
    Does (.flitAckTimeout m) s (s.moduleRetrain m)) ∧
  (∀ (m lanes rep : Nat) (ok : Bool) (s : State), m < 4 → s.mainband = true → (s.hmod m).state = hmRetraining →
    ((ok = true ∧ lanes = 64) → Does (.moduleRetrainComplete m ok lanes rep) s (s.moduleRetrained m lanes rep)) ∧
    (¬ (ok = true ∧ lanes = 64) → Does (.moduleRetrainComplete m ok lanes rep) s
      ((s.modHmod m fun x => { x with lanes, repaired := rep }).moduleRetrainFails m))) ∧
  (∀ (c : Nat) (s : State), c < 8 → tkeys s.st.chans = List.range 8 → s.carries (c % 4) = true → s.flitsOut c = false →
    Runs (.channelRebindHome c) s fun t => (t.chan c).module = c % 4)

/-! ## Collective packets and times (R335, R352, R357, R362 to R369) -/

/-- A packet of this package's partition arrives on a port that carries traffic (R331, R332). -/
structure Arrives (p : TPkt) (s : State) : Prop where
  port  : p.port < 42
  alive : s.alive = true
  hears : s.hears p.port = true
  part  : p.partId = s.nlc.partId ∧ s.nlc.partId ≠ 0

/-- A packet of the KIND `kind` arrives for a call in flight, whose list, operation and data type it carries (R352, R361). -/
structure InCall (kind : Nat) (p : TPkt) (s : State) (h : ColHdr) (c : ColCall) (g : Group) : Prop where
  comes : Arrives p s
  ours  : s.forUs p = true
  op    : p.op = 8 ∧ p.status ≠ 3
  head  : p.col = some h ∧ h.kind = kind
  call  : s.colCall? (colGroup p) (colMast p) = some c ∧ c.seq = colSeq p
  group : s.group? (colGroup p) = some g
  same  : h.listCrc = g.crc ∧ h.op = c.op ∧ h.dtype = c.dtype

/-- Chunks, acknowledgements, markers and notices of a call in flight, and its times, have the effects of R357 to R369, and a packet that
comes back with UNREACH declares its target dead (R335, R366). Which package such a packet names where its ADDR names this one is the
model's reading (log entry 16, DEDUCED). -/
def Obligations.CollectiveEventsComplete : Prop :=
  (∀ (kind : Nat) (p : TPkt) (s : State) (h : ColHdr) (c d : ColCall) (g : Group), InCall kind p s h c g →
    let u := s.modCall (colGroup p) (colMast p) fun c => { c with reefMax := max c.reefMax h.reefReq }
    let fin := fun (x : State) => (x.replayFallen (colGroup p)).hubSettle
    u.colCall? (colGroup p) (colMast p) = some d →
    (kind = kData → s.colDenied p = false → s.colStalled p true = false →
      Does (.colDataReceive p) s (fin (u.takeChunk p h d g))) ∧
    (kind = kAck → Does (.colAckReceive p) s (fin (u.takeAck p h d g))) ∧
    (kind = kEnd → s.colDenied p = false → Does (.colEndReceive p) s (fin ((u.modCall d.group d.mast fun c =>
      { c with ends := tset c.ends h.srcRank (h.info % 2 ^ 32) }).checkGroup d.group))) ∧
    (kind = kAbort → s.colDenied p = false → Does (.colAbortReceive p) s (fin (u.failCall d.group d.mast 0x0708))) ∧
    (kind = kWithdraw → s.colDenied p = false → Does (.colWithdrawReceive p) s (fin (u.failCall d.group d.mast 0x0709))) ∧
    (kind = kSwRefuse → s.colDenied p = false → Does (.colSwRefuseReceive p) s (fin (u.fallBack d.group d.mast))) ∧
    (kind = kSwEvict → s.colDenied p = false → Does (.colSwEvictReceive p) s (fin (u.fallBack d.group d.mast)))) ∧
  (∀ (p : TPkt) (s : State) (h : ColHdr), Arrives p s → p.op = 8 → p.status = 3 → p.col = some h →
    let d := if bits p.addr 52 8 = s.nlc.ownIndex then p.srcPkg else bits p.addr 52 8
    d ≠ s.nlc.ownIndex →
    let t := ((s.declareDead d).replayFallen (colGroup p)).hubSettle
    (h.kind = kData → Does (.colDataReceive p) s t) ∧ (h.kind = kAck → Does (.colAckReceive p) s t) ∧
    (h.kind = kEnd → Does (.colEndReceive p) s t) ∧ (h.kind = kAbort → Does (.colAbortReceive p) s t) ∧
    (h.kind = kWithdraw → Does (.colWithdrawReceive p) s t) ∧ (h.kind = kSwRefuse → Does (.colSwRefuseReceive p) s t) ∧
    (h.kind = kSwEvict → Does (.colSwEvictReceive p) s t)) ∧
  (∀ (grp m r : Nat) (s : State) (c : ColCall) (g : Group), m < 8 → s.alive = true → s.colCall? grp m = some c →
    s.group? grp = some g → c.owedAcks.contains r = true →
    Does (.colAckSend grp m r) s (s.sendAck grp m r).hubSettle) ∧
  (∀ (grp m r i : Nat) (s : State) (x : ColChunk), m < 8 → s.alive = true → s.chunkAt grp m r i = some x →
    (x.port ≠ retried → Does (.colChunkTimeout grp m r i) s (s.resendChunk grp m r i true).hubSettle) ∧
    (x.port = retried → Does (.colRetryResend grp m r i) s (s.resendChunk grp m r i false).hubSettle)) ∧
  (∀ (grp m : Nat) (s : State) (c : ColCall), m < 8 → s.alive = true → s.colCall? grp m = some c →
    Does (.colTimeout grp m) s (s.failCall grp m 0x0703))

/-! ## Ports (R325 to R330, R343, R344, R278) -/

/-- Ports train, take frames, retrain and change keys as R325 to R330, R343 and R344 say. That a KEYSYNC changes to the other of the two
slots is the model's reading (log entry 27, DEDUCED). -/
def Obligations.PortEventsComplete : Prop :=
  (∀ (p : Nat) (s : State), p < 42 → s.alive = true → (s.port p).state = pTraining →
    Does (.portTrained p true) s ((s.modPort p fun x => { x with state := pIdent, cause := 0 }).sendIdent p) ∧
    Does (.portTrained p false) s ((s.modPort p fun x => { x.retire with state := pDown }).retrainEnds p false)) ∧
  (∀ (p : Nat) (b : Bytes) (s : State), p < 42 → s.alive = true → b.length = 32 → (s.port p).trained = true →
    Does (.identReceive p b) s ((s.modPort p fun x => { x with peer := some (parseIdent b) }).checkPort p)) ∧
  (∀ (p : Nat) (b : Bytes) (s : State), p < 42 → s.alive = true → (s.port p).trained = true →
    let h := parseFrame b
    (frameOk b = true → h.ackValid = false → h.nak = false → h.credit = 0 → 1 ≤ h.typ → h.typ ≤ 3 → h.enc = false →
      h.seq = ((s.port p).rxLast + 1) % 4096 → Does (.linkFrameReceive p b) s (s.acceptFrame p h (sub b 8 h.len))) ∧
    (frameOk b = false → Runs (.linkFrameReceive p b) s fun t =>
      Out.linkAck p true (s.port p).rxLast 0 ∈ t.out ∧ t.port p = s.port p)) ∧
  (∀ (p : Nat) (s : State), p < 42 → s.alive = true → (s.port p).trained = true → (s.port p).replay ≠ [] →
    Does (.linkAckTimeout p) s (s.portRetrain p)) ∧
  (∀ (p : Nat) (s : State), p < 42 → s.alive = true → (s.port p).state = pRetraining →
    Does (.portRetrainComplete p true) s (s.portRetrained p) ∧
    Does (.portRetrainComplete p false) s (s.portRetrainFails p)) ∧
  (∀ (p : Nat) (s : State), p < 42 → tkeys s.nlc.ports = List.range 42 → s.alive = true → (s.port p).trained = true →
    let x := s.port p
    Runs (.keysyncReceive p) s fun t =>
      t.port p = { x with rxSlot := 1 - x.rxSlot, slots := tmod x.slots x.rxSlot fun k => { k with rxDone := true } } ∧
      (t.port p).accepts x.rxSlot = false) ∧
  (∀ (p : Nat) (s : State), p < 42 → s.alive = true → (s.port p).trained = true → (s.port p).exhausted = true →
    Does (.nlcKeyExhausted p) s (s.keyExhausted p)) ∧
  (∀ (s : State) (m : Nat), s.alive = true → s.trainMask = some m →
    let u := ((portsOf m).filter fun p => (s.port p).state == pTraining).foldl (fun (s : State) p =>
      (s.modPort p fun x => { x.retire with state := pDown }).retrainEnds p false) s
    Does .linkTrainComplete s (u.complete (.linkTrain m) (done1 (u.portMask pUp))))

/-! ## Fabric memory (R331, R332, R335 to R341) -/

/-- Reads and writes of other packages are served, answers end requests, and requests go again in time (R335 to R341). -/
def Obligations.FabricEventsComplete : Prop :=
  (∀ (p : TPkt) (s u : State) (b : Bytes), Arrives p s → p.op = 1 → s.forUs p = true → s.fabDenied p false = false →
    s.pwr.coolstop = false → s.readDram (reqMast p) (fabricReader p.targetCtx) (reqOff p) 128 = (u, b, none) →
    Does (.nlcReadReceive p) s (u.answerFab p 2 0 b)) ∧
  (∀ (p : TPkt) (s : State) (x : FabSrc), Arrives p s → p.op = 3 → p.data.length = 128 → s.forUs p = true →
    FabSrc.takeIn (tget s.nlc.sources p.srcPkg) p.boot p.epoch = some x →
    let u := s.modNlc fun n => { n with sources := tset n.sources p.srcPkg x }
    u.fabDenied p true = false → s.pwr.coolstop = false → x.seen p.reqId = false → x.ahead p.reqId < 65536 →
    Does (.nlcWriteReceive p) s (u.applyWrite p x) ∧
    (s.ringIndex p.targetCtx (reqMast p) (reqOff p) = none → Runs (.nlcWriteReceive p) s fun t =>
      OnlyIn (reqMast p) (fun a => reqOff p ≤ a ∧ a < reqOff p + 128) (fun _ => False) s t ∧
      (tkeys s.masts = List.range 8 → s.memOk → (u.writeDram (reqMast p) (fabricReader p.targetCtx) (reqOff p) p.data).2 = none →
        ∀ i b, p.data[i]? = some b → memByte (t.mast (reqMast p)).dram.cells (reqOff p + i) = b))) ∧
  (∀ (p : TPkt) (s : State) (k : Nat) (q : FabReq), Arrives p s → s.responseOk p = true → p.status = 0 →
    s.issuerFrozen q = false →
    (p.op = 2 → p.data.length = 128 → s.answered p false = some (k, q) →
      Does (.nlcReadDataReceive p) s (s.reqDone k q p.data)) ∧
    (p.op = 4 → s.answered p true = some (k, q) → Does (.nlcWriteAckReceive p) s (s.reqDone k q p.data))) ∧
  (∀ (k : Nat) (s : State) (q : FabReq), s.alive = true → tget s.nlc.reqs k = some q → q.sent = true →
    (q.port ≠ retryPort → Does (.fabricRequestTimeout k) s (s.retryReq k)) ∧
    (q.port = retryPort → s.issuerFrozen q = false → Does (.fabricRetryResend k) s (s.launchAs k true)))

/-! ## The input, the governor and the clocks (R376 to R391, R403, R413, R415, R421) -/

/-- The input, the converter and broken wires have the effects of R376, R403, R413, R415 and R421. -/
def Obligations.InputEventsComplete : Prop :=
  (∀ (s : State), s.cn.inputValid = false →
    (s.cn.holdOver = true → Does .inputValid s s.begin) ∧
    (s.cn.holdOver = false → Runs .inputValid s fun t =>
      t.cn = { s.cn with inputValid := true, held := true, powered := true, cold := s.cn.cold || !s.cn.powered } ∧
      (s.cn.powered = false → t.flt.fatal = false ∧ Out.fault false true ∈ t.out)) ∧
    (s.cn.held = false → Runs .powerupHoldExpire s fun t => t.cn = { s.cn with holdOver := true })) ∧
  (∀ (s : State), s.cn.held = true → Does .powerupHoldExpire s s.begin) ∧
  (∀ (s : State), s.nestRuns = true → s.pwr.brownout = false →
    Runs .brownout s fun t => t.pwr.brownout = true ∧ t.flt.faultOut = true ∧ Out.fault true false ∈ t.out) ∧
  (∀ (s : State), s.nestRuns = true → s.pwr.brownout = true →
    Does .brownoutEnd s s.brownoutOver) ∧
  (∀ (s : State), s.cn.inputValid = true →
    Does .inputShutdown s s.assertReset.railsOff ∧
    Runs .inputShutdown s fun t => t.cn.hubRails = false ∧ t.cn.stage = 0 ∧ t.ctxs = [] ∧ t.btb.fusedSvn = s.btb.fusedSvn ∧
      t.flt.repair = s.flt.repair) ∧
  (∀ (s : State), Runs .crowsNestUnpowered s fun t => t.time = 0 ∧ t.cn.powered = false ∧
    (s.cn.powered = true → Out.faultOff ∈ t.out)) ∧
  (∀ (s : State), s.nestRuns = true →
    Runs .overVoltage s fun t => t.flt.fatal = true ∧ t.flt.fatalCause = 0x0202) ∧
  (∀ (s : State), s.hubRuns = true →
    Runs .pllUnlock s fun t => t.flt.fatal = true ∧ t.flt.fatalCause = 0x0203) ∧
  (∀ (s : State), s.alive = true →
    Runs .watchdog s fun t => t.flt.fatal = true ∧ t.flt.fatalCause = 0x0104) ∧
  (∀ (s : State), s.hubRuns = true →
    (∀ m u, m < 8 → s.present m = true → tkeys s.masts = List.range 8 →
      Runs (.wireBroken (.mastUnit m u)) s fun t => t.fencedMast m = true) ∧
    (∀ p, p < 42 → tkeys s.nlc.ports = List.range 42 → (s.port p).broken = false →
      Runs (.wireBroken (.port p)) s fun t => (t.port p).broken = true) ∧
    (∀ m, m < 4 → tkeys s.hif.mods = List.range 4 → (s.hmod m).broken = false →
      Runs (.wireBroken (.module m)) s fun t => (t.hmod m).broken = true) ∧
    (∀ u, Runs (.wireBroken (.hub u)) s fun t => t.flt.fatal = true))

/-- The governor, the limiter, hints, Reef switches and droop detectors act as R378, R387 to R391 say. -/
def Obligations.PowerEventsComplete : Prop :=
  (∀ (s : State), s.hubRuns = true → Does .governorPeriod s s.governor) ∧
  (∀ (s : State), s.hubRuns = true → s.pwr.coolstop = true →
    Runs .governorPeriod s fun t => t.pwr.governor = s.pwr.governor ∧ t.pwr.delivered = s.pwr.delivered) ∧
  (∀ (x : PowerSample) (s : State), s.hubRuns = true →
    Runs (.powerSample x) s fun t => t.pwr.samples = s.pwr.samples ++ [x] ∧ t.pwr.vin = x.vin) ∧
  (∀ (e : Nat) (s : State), s.hubRuns = true →
    (Runs (.fastLimiter e) s fun t => t.pwr.limiter = true ∧ (e ≠ 0 → t.pwr.err = s.pwr.err ||| 1)) ∧
    Runs .fastLimiterRelease s fun t => t.pwr = { s.pwr with limiter := false }) ∧
  (∀ (s : State), s.hubRuns = true →
    (Runs .powerHintPosition s fun t => t.pwr = s.pwr.position s.time) ∧
    (Runs .powerHintEnd s fun t => t.pwr.hints = s.pwr.hints.filter fun h => decide (s.time < h.stop)) ∧
    Runs .switchWindowEnd s fun t => t.pwr = { s.pwr with window := false }) ∧
  (∀ (s : State) (a : Nat), s.hubRuns = true → s.pwr.target = some a → s.maySwitch = true →
    Runs .reefSwitch s fun t => t.pwr = { s.pwr with applied := a, target := none, window := true }) ∧
  (∀ (m e : Nat) (s : State), m < 8 → tkeys s.masts = List.range 8 → s.hubRuns = true →
    ((s.mast m).droop = false → s.present m = true → s.cn.mastRails = true → Runs (.droopTrip m) s fun t =>
      (t.mast m).droop = true ∧ t.pwr.err = s.pwr.err ||| 2) ∧
    ((s.mast m).droop = true → Runs (.droopClear m e) s fun t =>
      (t.mast m).droop = false ∧ t.pwr.droopEnd = s.time))

/-- Temperatures and the coolant act as R222, R303, R392 to R394 and R413 say, and a broken wire of the COOLFLOW pair is counted as
R403 and R425 count wires. That this pair counts as a wire in FLT_WIRE, though no rule gives it a UNIT, is the model's choice (log
entry 99, DESIGN CHOICE). -/
def Obligations.ThermalEventsComplete : Prop :=
  (∀ (tj die : Nat) (s : State), s.hubRuns = true → s.pwr.coolstop = false → 1600 ≤ tj →
    (Runs (.tjHot tj die) s fun t => t.pwr.thermal = min 4 (s.pwr.thermal + 1) ∧ t.pwr.excursion = true ∧ t.pwr.tj = tj) ∧
    (s.pwr.excursion = true →
      Runs (.thermLevelRise tj) s fun t => t.pwr.thermal = min 4 (s.pwr.thermal + 1) ∧ t.pwr.tj = tj)) ∧
  (∀ (tj : Nat) (s : State), s.hubRuns = true → tj ≤ 1552 →
    (Runs (.tjCool tj) s fun t => t.pwr = { s.pwr with tj, excursion := false, overRange := false }) ∧
    (s.pwr.excursion = false → s.pwr.coolstop = false →
      Runs (.thermLevelFall tj) s fun t => t.pwr.thermal = s.pwr.thermal - 1 ∧ t.pwr.tj = tj)) ∧
  (∀ (tj : Nat) (s : State), s.hubRuns = true → 1680 < tj →
    Runs (.thermOverRange tj) s fun t => t.pwr.overRange = true ∧
      (s.pwr.overRange = false → t.pwr.err = s.pwr.err ||| 8)) ∧
  (∀ (tj die : Nat) (s : State), s.nestRuns = true → 1920 ≤ tj →
    Runs (.thermTrip tj die) s fun t => t.flt.fatal = true ∧ t.flt.fatalCause = 0x0204) ∧
  (∀ (m : Nat) (s : State), m < 8 → tkeys s.masts = List.range 8 → s.hubRuns = true →
    (Runs (.dramTempHigh m) s fun t => (t.mast m).mc.auto2x = true) ∧
    Runs (.dramTempNormal m) s fun t => (t.mast m).mc.auto2x = false) ∧
  (∀ (s : State), s.pairSeen = true → s.flt.fatal = false →
    (s.pwr.pair ≠ 1 → 6 ≤ s.cn.stage → s.pwr.coolstop = false → Runs .coolflowLost s fun t => t.pwr.coolstop = true ∧
      t.pwr.pair = 1 ∧ (∀ e ∈ t.masts, (e.2.bulk.all fun j => j.frozen) = true → e.2.mc.selfRefresh = true) ∧
      ∀ n, (t.mast n).bulk.all (fun j => j.frozen) = false → (t.mast n).mc.selfRefresh = (s.mast n).mc.selfRefresh) ∧
    (s.pwr.pair ≠ 2 → 6 ≤ s.cn.stage → s.pwr.coolstop = false → Runs .coolflowWire s fun t => t.pwr.coolstop = true ∧
      t.pwr.pair = 2 ∧ (s.cn.hubRails = true → t.flt.wires = min (s.flt.wires + 1) 65535)) ∧
    Runs .coolflowPresent s fun t => t.pwr = { s.pwr with pair := 0 })

/-- A scratchpad patrol corrects single-bit errors, and a contention window reports its ratio (R226, R231, R232). -/
def Obligations.MastEventsComplete : Prop :=
  (∀ (m : Nat) (found : List Upset) (s : State), m < 8 → s.alive = true → s.mastUp m = true →
    Does (.spadPatrol m found) s ((s.strikeAll (found.filter (spadUpset m))).patrol m)) ∧
  (∀ (m : Nat) (s : State), m < 8 → tkeys s.masts = List.range 8 → s.alive = true → s.mastUp m = true →
    (∀ e ∈ (s.mast m).spad.flaws, e.2 = .ce) →
    Runs (.spadPatrol m []) s fun t => ∀ e ∈ (t.mast m).spad.flaws, spadSize ≤ e.1 * 8) ∧
  (∀ (m : Nat) (l : List (Nat × Nat × Nat)) (s : State), m < 8 → s.alive = true → s.mastUp m = true →
    Does (.contentionWindow m l) s ((tkeys s.ctxs).foldl (fun (s : State) c => s.contend m c l) s))

/-- The power-up sequence goes through its steps, and the host die reset follows HD_PWROK (R463 to R465, R478, R487). -/
def Obligations.PowerUpStepsComplete : Prop :=
  (∀ (s : State), s.stageIs 0 = true → Runs .powerupCrowsNest s fun t => t.cn.stage = 1) ∧
  (∀ (s : State), s.stageIs 1 = true → Runs .powerupHubRails s fun t => t.cn.stage = 2 ∧ t.cn.hubRails = true) ∧
  (∀ (s : State), s.stageIs 2 = true →
    Runs .powerupBootRom s fun t => t.cn.stage = 3 ∧ t.btb.stage = 1 ∧ t.flt = s.flt.scan) ∧
  (∀ (s : State), s.stageIs 3 = true → s.mastRailsOk = true →
    Runs .powerupMastRails s fun t => t.cn.stage = 4 ∧ t.cn.mastRails = true) ∧
  (∀ (c : CalResult) (s : State), s.stageIs 4 = true → c.hubFail ≠ 1 → c.hubFail ≠ 2 →
    Runs (.calibration c) s fun t => t.cn.stage = 5 ∧ t.pwr.staticW = c.staticW) ∧
  (∀ (s : State), s.stageIs 5 = true →
    Runs .powerupReady s fun t => t.cn.stage = 6 ∧ t.hif.ready = true ∧ t.cn.readyTime = s.time ∧
      ∀ n a, n < 8 → memByte (t.mast n).dram.cells a = 0 ∧ memByte (t.mast n).spad.cells a = 0) ∧
  (∀ (s : State), (Runs .hdPwrokRise s fun t => t.cn = { s.cn with pwrok := true }) ∧
    Runs .hdPwrokFall s fun t => t.cn.pwrok = false ∧ t.cn.resetOut = true) ∧
  (∀ (s : State), s.cn.pwrok = true → s.cn.hubRails = true → s.cn.resetOut = true →
    Runs .hostResetRelease s fun t => t.cn.resetOut = false ∧ Out.hostReset false ∈ t.out)

/-! ## The whole block -/

/-- One step takes the command at the front of the queue and runs it on the state with the rest of the queue. -/
def Obligations.StepRunsTheFrontCommand : Prop :=
  ∀ (c : Instr) (s : State), step { s with pending := c :: s.pending } = exec c s

/-- On an empty queue a step lets one microsecond pass: time goes on while the Crow's Nest has power, and the queue stays
empty (the model's choice, log entry 1). -/
def Obligations.AnEmptyQueueLetsTimePass : Prop :=
  ∀ s : State, s.pending = [] → ∃ t, step s = .next t ∧ t.pending = [] ∧
    t.time = if s.cn.powered = true then (s.time + 1) % 2 ^ 64 else s.time

/-- Every command goes on from every state, but for one that names a unit the package does not have: that one faults. -/
def Obligations.EveryCommandGoesOn : Prop :=
  ∀ (c : Instr) (s : State),
    (unitOk c = true → ∃ t, exec c s = .next t) ∧ (unitOk c = false → exec c s = .fault .noSuchUnit)

/-- A command leaves every part of the state that `touches` does not list for it as it was, keeps the promises about the
tables, the memories, the caps, the fused version, the fatal state, fences and answers that it does not list, and never
changes the queue. -/
def Obligations.CommandsChangeOnlyWhatTheyTouch : Prop :=
  ∀ (c : Instr) (s t : State), exec c s = .next t → Agree (touches c) s t

/-- The invariant holds right after reset, and the caps that R384 gives a reset value have it. -/
def Obligations.InvariantHoldsAtReset : Prop :=
  State.reset.Inv ∧ State.reset.pwr.cap = 2000 ∧ State.reset.pwr.capMgmt = 2000 ∧ State.reset.pwr.capSafe = 1200 ∧
    State.reset.pending = []

/-- Every step, from any state with the invariant, leaves the invariant. -/
def Obligations.InvariantIsKept : Prop :=
  ∀ s t : State, s.Inv → step s = .next t → t.Inv

/-- The fused security version never falls; the fatal state ends only where a power-up starts; a fence ends only where power
is lost. -/
def Obligations.WhatOnlyAPowerCycleEnds : Prop :=
  ∀ (c : Instr) (s t : State), exec c s = .next t →
    s.btb.fusedSvn ≤ t.btb.fusedSvn ∧
    (s.flt.fatal = true → t.flt.fatal = true ∨ c = .inputValid ∨ c = .powerupHoldExpire) ∧
    (∀ n, s.fencedMast n = true → t.fencedMast n = true ∨ c = .inputShutdown ∨ c = .crowsNestUnpowered)

/-! ## Requests and notices (R257 to R268, R283) -/

/-- A request that fails one of checks 1 to 9 is answered with that failure and changes nothing but its channel, the count of
arrivals, the packets to the host and what is sent with them. -/
def Obligations.RefusedRequestsOnlyAnswer : Prop :=
  ∀ (k : Cmd) (r : Req) (s : State) (a : Ans), s.alive = true → r.flitCh < 8 → tkeys s.st.chans = List.range 8 →
    (s.chan r.flitCh).waiting = [] → (s.arrive r).blocked r = false → k.check r ((s.arrive r).returnUnits r) = some a →
    ∃ t, stauc k r s = .next t ∧ Agree [.hif, .st, .out] s t ∧
      t.st = { s.st with chans := t.st.chans, arrivals := s.st.arrivals + 1, current := s.st.arrivals + 1 } ∧
      ∀ p ∈ respond k.opcode r (a.status == stTagInUse) a,
        p.silent = true ∨ p ∈ (t.chan r.flitCh).answers ∨ Out.packet p ∈ t.out

/-- Operation bytes below 0x80 name requests and their answers, and the others name unsolicited notices, of KIND 2 and TAG 0;
a request with such an operation byte is refused with UNKNOWN_OPCODE (R259). An accepted request is kept with its OPCODE, TAG,
CONTEXT and channel, and its completion notice carries them, with KIND 2, and waits on that channel or goes out (R261, R268). -/
def Obligations.OperationBytesTellRequestsFromNotices : Prop :=
  (∀ k ∈ allCmds, k.opcode % 256 < 0x80 ∧ cmdOf k.opcode = some k) ∧
  (∀ (opcode : Nat) (r : Req) (d : Bool) (a : Ans), ∀ p ∈ respond opcode r d a, p.opcode = opcode ∧ p.kind = 1 ∧ p.tag = r.tag.toNat) ∧
  (∀ (n : Notice) (ch dropped : Nat), (n.packet ch dropped).kind = 2 ∧ (n.packet ch dropped).tag = 0 ∧
    0x80 ≤ (n.packet ch dropped).opcode % 256) ∧
  (∀ (b : Bundle) (ctx ch i : Nat), (b.part ctx ch i).kind = 2 ∧ (b.part ctx ch i).tag = 0 ∧ 0x80 ≤ (b.part ctx ch i).opcode % 256) ∧
  (∀ (opcode : Nat) (r : Req) (w : Owed) (s : State), ∃ o ∈ (s.owe opcode r w).st.outstanding, o.opcode = opcode ∧
    o.tag = r.tag.toNat ∧ o.ctx = r.ctx.toNat ∧ o.ch = r.flitCh ∧ o.what = w) ∧
  (∀ (s : State) (w : Owed) (a : Ans) (o : Outstanding), tkeys s.st.chans = List.range 8 → o ∈ s.st.outstanding → o.what = w →
    o.ch < 8 → let t := s.complete w a
    o ∉ t.st.outstanding ∧ ∀ p ∈ pktsOf 2 o.opcode o.tag o.ctx o.ch false false a,
      p.kind = 2 ∧ p.opcode = o.opcode ∧ p.tag = o.tag ∧ p.ctx = o.ctx ∧ p.channel = o.ch ∧ p.arg0 % 65536 = a.status % 65536 ∧
      (p ∈ (t.chan o.ch).answers ∨ Out.packet p ∈ t.out)) ∧
  (∀ (opcode : Nat) (r : Req) (s : State), 0x80 ≤ opcode % 256 → headerCheck s.st.negotiated false r = none →
    s.examineOp opcode r = (s.returnUnits r).refuseReq opcode r (refuse stUnknownOpcode 2))

/-! ## Error records (R408 to R410) -/

/-- Every FT, UC and NOTE record is logged, CE records of the named causes are, and other CE records only under LOG_CE
(R409). A record that is to be logged and finds an erased place is written; one that finds none joins the queue while that holds
fewer than 64, and is not logged after that (R417); one that is not to be logged leaves the log as it was. That a record takes its
LOG_INDEX as it is raised is the model's reading (log entry 46, DEDUCED). -/
def Obligations.RecordsThatAreLogged : Prop :=
  ∀ (f : Faults) (r : Record), r.cls = clsCE ∨ r.cls = clsUC ∨ r.cls = clsFT ∨ r.cls = clsNOTE →
    (f.logs r = true ↔ r.cls ≠ clsCE ∨ f.logCe = true ∨ r.cause = 0x0201 ∨ r.cause = 0x1501 ∨ r.cause = 0x1308 ∨
      r.cause = 0x0601 ∨ r.cause = 0x0401 ∨ r.cause = 0x1403 ∨ r.cause = 0x0208) ∧
    (f.logs r = true →
      let x := { r with logIndex := some f.logNext }
      (f.finds r = true → (f.logOffer r).2 = x ∧ (f.logOffer r).1.logWrites = f.logWrites ++ [x] ∧
        (f.logOffer r).1.logQueue = f.logQueue) ∧
      (f.finds r = false → f.logQueue.length < 64 → (f.logOffer r).2 = x ∧ (f.logOffer r).1.logQueue = f.logQueue ++ [x] ∧
        (f.logOffer r).1.logWrites = f.logWrites) ∧
      (f.finds r = false → 64 ≤ f.logQueue.length → (f.logOffer r).2 = r ∧
        (f.logOffer r).1 = { f with err := f.err ||| 0x20 })) ∧
    (f.finds r = true ↔ f.logWrites.length + (if r.cls = clsFT ∨ r.cause = 0x0201 then 0 else 16) < erasedPlaces f.sectors) ∧
    (f.logs r = false → f.logOffer r = (f, r))

/-- A record that merges with none takes the next SEQ and the time, occupies slot SEQ mod 1,024 of the ring, leaves the other
slots, and is offered as an EVENT notice when its class asks for it; one that merges only counts. -/
def Obligations.RecordsGoIntoTheRing : Prop :=
  ∀ (s : State) (r : Record),
    (s.flt.mergeSlot s.time r = none →
      ∃ x, x.cause = r.cause ∧ x.cls = r.cls ∧ x.info0 = r.info0 ∧ x.time = s.time ∧ x.seq = s.flt.seq ∧
        tget (s.raise r).flt.ring (s.flt.seq % 1024) = some x ∧
        (∀ k, k ≠ s.flt.seq % 1024 → tget (s.raise r).flt.ring k = tget s.flt.ring k) ∧
        (s.raise r).flt.seq = (s.flt.seq + 1) % 2 ^ 32 ∧
        (r.cls ≤ clsFT → s.st.eventMin ≤ r.cls → s.st.notices.length < 256 →
          (s.raise r).st.notices = s.st.notices ++ [.event x]) ∧
        (clsFT < r.cls ∨ r.cls < s.st.eventMin → (s.raise r).st = s.st)) ∧
    (∀ k, s.flt.mergeSlot s.time r = some k →
      (s.raise r).flt.seq = s.flt.seq ∧ (s.raise r).st = s.st ∧
      ∀ i, tget (s.raise r).flt.ring i =
        if i = k then (tget s.flt.ring k).map fun e => { e with repeats := min (e.repeats + 1) 0xFFFFFFFF }
        else tget s.flt.ring i)

/-! ## Power (R380, R387, R389) -/

/-- The applied level is computed as R380 says: the largest of the thermal and governor levels, PWR_REEF_LIMIT and the targets
of the contexts that have a reef group. -/
def Obligations.AppliedLevelIsTheLargest : Prop :=
  (∀ p : Power, p.localReq = max p.thermal p.governor ∧ p.request = max p.localReq p.reefLimit) ∧
  (∀ (s : State) (l : Nat), l ≤ 4 → (s.writeReefLimit l).pwr.reefLimit = l) ∧
  (∀ s : State,
    let has := fun x : Ctx => x.reefValid = true ∧ countsReef x.state = true
    s.pwr.request ≤ s.levelWanted ∧
    (∀ e ∈ s.ctxs, has e.2 → e.2.reefTarget ≤ s.levelWanted) ∧
    (s.levelWanted = s.pwr.request ∨ ∃ e ∈ s.ctxs, has e.2 ∧ e.2.reefTarget = s.levelWanted) ∧
    ((∀ e ∈ s.ctxs, ¬ has e.2) → s.levelWanted = s.pwr.request) ∧
    s.retarget.pwr.target = if s.levelWanted = s.pwr.applied then none else some s.levelWanted)

/-- The governor keeps a legal setting; over the cap it takes the lowest level that meets the cap, else level 4 with the most
edges that do; otherwise it moves one step faster when the next faster setting has fitted in four consecutive periods, and else
changes nothing (R387). That at least one sixteenth of the edges is delivered is the model's reading (log entry 25, DEDUCED). -/
def Obligations.GovernorKeepsLegalSettings : Prop :=
  ∀ (p : Power) (i : GovIn), legalSetting p.governor p.delivered →
    let q := p.govern i
    legalSetting q.governor q.delivered ∧
    (i.n * i.cap < i.sum →
      (q.delivered = 16 → q.governor < 4 → i.fits q.governor 16 1 1 = true) ∧
      (∀ g, g < q.governor → i.fits g 16 1 1 = false) ∧
      (q.delivered < 16 → ∀ d, q.delivered < d → d ≤ 16 → i.fits 4 d 1 1 = false) ∧
      (1 < q.delivered → i.fits q.governor q.delivered 1 1 = true)) ∧
    (i.sum ≤ i.n * i.cap → (q.governor, q.delivered) ≠ (p.governor, p.delivered) →
      p.fastRun = 3 ∧ fasterStep p.governor p.delivered = some (q.governor, q.delivered) ∧
      i.fits q.governor q.delivered 9 10 = true) ∧
    (i.sum ≤ i.n * i.cap → ∀ g d, fasterStep p.governor p.delivered = some (g, d) →
      (i.fits g d 9 10 = true → p.fastRun = 3 → q.governor = g ∧ q.delivered = d ∧ q.fastRun = 0) ∧
      (i.fits g d 9 10 = true → p.fastRun ≠ 3 → q = { p with fastRun := p.fastRun + 1 }) ∧
      (i.fits g d 9 10 = false → q = { p with fastRun := 0 }))

/-- The controller holds at most eight hints, the newest of them last, and no two overlap. -/
def Obligations.HintsNeverOverlap : Prop :=
  ∀ (now : Nat) (hs : List Hint) (n : Hint), hs.Pairwise Hint.apart → n.start ≤ n.stop →
    (addHint now hs n).Pairwise Hint.apart ∧ (addHint now hs n).length ≤ 8 ∧ (addHint now hs n).getLast? = some n

/-! ## Arithmetic of the matrix engines and formats (R29, R60, R61) -/

/-- No narrow run leaves the bound of R61: every partial sum of a run, over weights and a codebook that pass the checks of R45
and a narrow activation block, stays within it, and the bound within the 18-bit adder. -/
def Obligations.NarrowRunsStayWithinTheirBound : Prop :=
  ∀ (t : WTile) (col kb r k : Nat) (b : ActBlk), knownWfmt t.f = true → (t.f = wW2C → codebookFault t.cb = none) →
    NarrowBlock b →
    (narrowSum ((runOf (runRows t.f) (t.products col kb b) r).take k)).natAbs ≤ runBound t.f ∧ runBound t.f ≤ 131071

/-- An MXINT8 code is a two's complement integer times 2^-6 and its scale, and no conversion writes the code 0x80, an E4M3 NaN
or the scale 0xFF (R28, R29, R32, R48). -/
def Obligations.ConversionsWriteOnlyLegalCodes : Prop :=
  (∀ c sc : Nat, c < 256 → int8Val false c sc = ofInt (if c < 128 then (c : Int) else (c : Int) - 256) ((sc : Int) - 127 - 6) false) ∧
  (∀ (f : NumFmt) (xs : List Sys2Proof.Machine.Num), (mxEncode f xs).scale ≤ 254 ∧
    (f = .mxint8 → ∀ c ∈ (mxEncode f xs).codes, c < 256 ∧ c ≠ 0x80) ∧
    (f = .e4m3 → ∀ c ∈ (mxEncode f xs).codes, c < 256 ∧ c ≠ 0x7F ∧ c ≠ 0xFF) ∧
    (f = .mxfp4 → ∀ c ∈ (mxEncode f xs).codes, c < 16))

/-! ## Expert routing (R122 to R126) -/

/-- A fallback is never one of the token's primaries and no expert is given twice; each examined candidate counts against D;
the cursor goes on from slot to slot; with D = 0 a slot whose primary is full is shed (R125). -/
def Obligations.FallbacksAreNeverPrimaries : Prop :=
  (∀ (ps : List ExpertPar) (ls : List Word) (cap : Nat → Nat) (n : Tab Nat) (d k : Nat),
    let p := preference (eligible ps ls)
    let q := (placeSlots cap p d (List.range k) k n).1
    ((q.filter fun (x : Placed) => x.status != 2).map fun (x : Placed) => x.expert).Nodup ∧
    (∀ x : Placed, x ∈ q → x.status = 1 → x.expert ∉ p.take k) ∧
    (∀ (i : Nat) (x : Placed), q[i]? = some x → x.status = 0 → p[i]? = some x.expert) ∧
    (d = 0 → ∀ x : Placed, x ∈ q → x.status = 0 ∨ x.status = 2)) ∧
  (∀ (room : Nat → Bool) (p : List Nat) (d cur : Nat), cur ≤ p.length →
    let f := fallbackFor room p d cur
    cur ≤ f.2 ∧ f.2 ≤ cur + d ∧
    (f.1 = none → f.2 = min (cur + d) p.length ∧ ∀ i e, cur ≤ i → i < f.2 → p[i]? = some e → room e = false) ∧
    (∀ e, f.1 = some e → room e = true ∧ cur < f.2 ∧ p[f.2 - 1]? = some e ∧
      ∀ i x, cur ≤ i → i + 1 < f.2 → p[i]? = some x → room x = false)) ∧
  (∀ (cap : Nat → Nat) (p : List Nat) (d r cur : Nat) (rs : List Nat) (n : Tab Nat),
    let room := fun e => decide (tgetD n e 0 < cap e)
    (∀ e, p[r]? = some e → room e = false) →
    placeSlots cap p d (r :: rs) cur n =
      match fallbackFor room p d cur with
      | (some e, cur') =>
        let q := placeSlots cap p d rs cur' (tset n e (tgetD n e 0 + 1))
        ({ expert := e, status := 1 } :: q.1, q.2)
      | (none, cur') =>
        let q := placeSlots cap p d rs cur' n
        ({ expert := 0, status := 2 } :: q.1, q.2))

/-- Over a routing call the count of every expert is the number of its slots and never exceeds its CAP, every token gets TOP_K
slots, and a shed slot weighs zero. -/
def Obligations.PlacementStaysWithinCapacity : Prop :=
  ∀ (d : RouteDesc) (ps : List ExpertPar) (rows : List (List Word)),
    let r := rows.foldl (routeToken d ps) { slots := [], n := [], subst := 0, all := 0 }
    (∀ e, tgetD r.n e 0 = (r.slots.filter fun (x : Slot) => x.status != 2 && x.expert == e).length ∧
      tgetD r.n e 0 ≤ (match ps[e]? with | some x => x.cap | none => 0)) ∧
    r.slots.length = rows.length * d.topK ∧
    (∀ x ∈ r.slots, x.status = 2 → x.gate = fpZero)

/-! ## DRAM interleave (R213 to R215) -/

/-- In a wide band an offset maps to the channel and the local offset of R214: an aligned granule of 256 bytes lies in one
channel, consecutive granules spread over all 256, and the band number is L[27:24]. -/
def Obligations.WideBandsSpreadTheirGranules : Prop :=
  (∀ (m : Mast) (a : Nat), m.mc.band (a / 2 ^ 32) = 3 → m.channelOf a = wideMap a) ∧
  ∀ a : Nat, a < dramSize →
    (wideMap a).1 = bits a 8 8 ^^^ bits a 16 8 ^^^ bits a 24 8 ^^^ bits a 32 8 ∧
    (wideMap a).2 = (a / 2 ^ 16) * 256 + a % 256 ∧ bits a 36 4 = 0 ∧
    (wideMap a).2 / 2 ^ 24 % 16 = a / 2 ^ 32 ∧
    (∀ b, b / 256 = a / 256 → (wideMap b).1 = (wideMap a).1) ∧
    (∀ ch, ch < 256 → ∃ i, i < 256 ∧ (wideMap (a / 65536 * 65536 + 256 * i)).1 = ch)

/-- Every byte of a mast's DRAM has a place of its own, whatever the modes of the bands: no two offsets share a channel and a
local offset. -/
def Obligations.EveryOffsetHasItsOwnPlace : Prop :=
  ∀ (m : Mast) (a b : Nat), (∀ n, m.mc.band n ≤ 3) → a < dramSize → b < dramSize →
    (m.channelOf a).1 < 256 ∧ (m.channelOf a).2 < 2 ^ 28 ∧ (m.channelOf a = m.channelOf b → a = b)

/-! ## Attention, serving and layers (R105, R107, R146, R162, R185, R189) -/

/-- The pages that a walk lets in for the queries `a` to `b` are exactly those with a position that some layer's mask admits
for some of them, and a page marked as global holds none that a window or a sink admits. -/
def Obligations.WalksAdmitExactlyTheMask : Prop :=
  ∀ (attn : List LayerAttn) (globals : List Nat) (a b : Nat), a ≤ b → ∀ n,
    ((∃ g, (n, g) ∈ admittedPages attn globals a b) ↔
      ∃ e ∈ attn, e.attn = true ∧ ∃ p j, a ≤ p ∧ p ≤ b ∧ j / 256 = n ∧ admits e globals (b + 1) p j = true) ∧
    ((n, true) ∈ admittedPages attn globals a b →
      ∀ e ∈ attn, e.attn = true → ∀ p j, a ≤ p → p ≤ b → j / 256 = n → admits e [] (b + 1) p j = false)

/-- A step takes rows in rank order while rows remain: each decode candidate one, each prefill candidate at most a chunk and
never past its prompt; a candidate is skipped only when every row is taken. -/
def Obligations.RowsFitTheStep : Prop :=
  ∀ (chunk : Nat) (es : List (Nat × Request)) (left : Nat), 1 ≤ chunk →
    let q := selectRows chunk es left
    (q.1.map (·.count)).sum ≤ left ∧ q.1.map (·.slot) ++ q.2 = es.map (·.1) ∧
    (q.2 ≠ [] → (q.1.map (·.count)).sum = left) ∧
    (∀ w ∈ q.1, ∃ e ∈ es, w.slot = e.1 ∧ w.start = e.2.length ∧ 1 ≤ w.count ∧
      (e.2.promptEnd ≤ e.2.length → w.count = 1) ∧
      (e.2.length < e.2.promptEnd → w.count ≤ chunk ∧ w.start + w.count ≤ e.2.promptEnd))

/-- A row is sampled unless every logit is -infinity; the token is one of the vocabulary, and at temperature 0 it is the lowest
one with the largest logit, with log-probability 0. -/
def Obligations.SampledTokensAreOfTheVocabulary : Prop :=
  ∀ (d : Draw) (row : List Word),
    (sampleRow d row = none ↔ ∀ x ∈ row, logitOf x = fpNegInf) ∧
    ∀ tok lp, sampleRow d row = some (tok, lp) → tok < row.length ∧
      ((ofFp d.temperature).isZero = true → lp = fpZero ∧ ∀ j, j < row.length →
        let l := fun i => (row.map logitOf).getD i fpZero
        fpLt (l tok) (l j) = false ∧ (j < tok → fpLt (l j) (l tok) = true))

/-- At a boundary a host command decides a layer's state; without one a pinned layer stays pinned, a narrow one is widened exactly by a
count that reached TT_M with automatic widening, and a widened one relaxes exactly when RELAX_LEFT reaches 0 at the end of a step that
appended no exceedance; an entry into a state clears the history. -/
def Obligations.LayersMoveOnlyAsTheTableSays : Prop :=
  ∀ (g : Safeguard) (autoEn ended : Bool) (r : LayerRec) (excs : List Bool), r.state ≤ 2 →
    let q := (layerBoundary g autoEn ended r excs).rec_
    q.cmd = 0 ∧
    (r.cmd = 1 → q.state = ltNarrow) ∧ (r.cmd = 2 → q.state = ltPinned) ∧
    (r.cmd = 0 → r.state = ltPinned → q.state = ltPinned) ∧
    (r.cmd = 0 → r.state = ltNarrow →
      (q.state = ltWidened ↔ (appendAll g r excs).2 = true ∧ g.autoWiden = true ∧ autoEn = true) ∧
      (q.state = ltWidened ∨ q.state = ltNarrow)) ∧
    (r.cmd = 0 → r.state = ltWidened →
      let appended := excs.any id
      (q.state = ltNarrow ↔ ended = true ∧ g.relaxSteps ≠ 0 ∧ appended = false ∧ r.relaxLeft - 1 = 0) ∧
      (q.state = ltNarrow ∨ q.state = ltWidened ∧ q.relaxLeft = if ended = true ∧ g.relaxSteps ≠ 0 then
        (if appended = true then g.relaxSteps else r.relaxLeft - 1) else r.relaxLeft)) ∧
    (q.state ≠ r.state → q.hist = 0 ∧ q.histLen = 0 ∧ q.relaxLeft = if q.state = ltWidened then g.relaxSteps else 0)
end

