-- ==== Sys2Proof/Laws/Table.lean ====
section
/-! SUPPORT. What the operations of sparse tables do, each said once. -/
namespace Sys2Proof.Machine

variable {α : Type}

@[simp] theorem tget_tset_self (t : Tab α) (k : Nat) (a : α) : tget (tset t k a) k = some a := by
  induction t with
  | nil => simp [tset, tget]
  | cons e t ih =>
    obtain ⟨j, b⟩ := e
    simp only [tset]
    split
    · simp [tget]
    · split
      · simp [tget]
      · simp [tget, *]

theorem tget_tset_ne (t : Tab α) {k i : Nat} (a : α) (h : i ≠ k) : tget (tset t k a) i = tget t i := by
  induction t with
  | nil => simp [tset, tget, h]
  | cons e t ih =>
    obtain ⟨j, b⟩ := e
    simp only [tset]
    split
    · simp [tget, h]
    · split
      · subst k; simp [tget, h]
      · simp [tget, ih]

@[simp] theorem tget_tmod_self (t : Tab α) (k : Nat) (f : α → α) : tget (tmod t k f) k = (tget t k).map f := by
  induction t with
  | nil => rfl
  | cons e t ih =>
    obtain ⟨j, b⟩ := e
    by_cases h : k = j
    · subst h; simp [tmod, tget]
    · have h' : j ≠ k := fun q => h q.symm
      have : tmod ((j, b) :: t) k f = (j, b) :: tmod t k f := by simp [tmod, h']
      rw [this]; simp [tget, h, ih]

theorem tget_tmod_ne (t : Tab α) {k i : Nat} (f : α → α) (h : i ≠ k) : tget (tmod t k f) i = tget t i := by
  induction t with
  | nil => rfl
  | cons e t ih =>
    obtain ⟨j, b⟩ := e
    by_cases hk : j = k
    · subst hk
      have : tmod ((j, b) :: t) j f = (j, f b) :: tmod t j f := by simp [tmod]
      rw [this]; simp [tget, h, ih]
    · have : tmod ((j, b) :: t) k f = (j, b) :: tmod t k f := by simp [tmod, hk]
      rw [this]; simp [tget, ih]

@[simp] theorem tkeys_tmod (t : Tab α) (k : Nat) (f : α → α) : tkeys (tmod t k f) = tkeys t := by
  simp only [tkeys, tmod, List.map_map]
  apply List.map_congr_left
  intro e _
  simp only [Function.comp]; split <;> rfl

@[simp] theorem tkeys_tmap (t : Tab α) (f : Nat → α → α) : tkeys (tmap t f) = tkeys t := by
  simp [tkeys, tmap]

theorem tget_tmap (t : Tab α) (f : Nat → α → α) (k : Nat) : tget (tmap t f) k = (tget t k).map (f k) := by
  induction t with
  | nil => rfl
  | cons e t ih =>
    obtain ⟨j, b⟩ := e
    by_cases h : k = j
    · subst h; simp [tmap, tget]
    · have : tmap ((j, b) :: t) f = (j, f j b) :: tmap t f := rfl
      rw [this]; simp [tget, h, ih]

/-- A key of the table has an entry. -/
theorem tget_of_mem {t : Tab α} {k : Nat} (h : k ∈ tkeys t) : ∃ a, tget t k = some a := by
  induction t with
  | nil => simp [tkeys] at h
  | cons e t ih =>
    obtain ⟨j, b⟩ := e
    by_cases hk : k = j
    · exact ⟨b, by simp [tget, hk]⟩
    · simp only [tkeys, List.map_cons, List.mem_cons, hk, false_or] at h
      obtain ⟨a, ha⟩ := ih h
      exact ⟨a, by simp [tget, hk, ha]⟩

@[simp] theorem tgetD_tset_self (t : Tab α) (k : Nat) (a d : α) : tgetD (tset t k a) k d = a := by simp [tgetD]

theorem tgetD_tset_ne (t : Tab α) {k i : Nat} (a d : α) (h : i ≠ k) : tgetD (tset t k a) i d = tgetD t i d := by
  simp [tgetD, tget_tset_ne t a h]

theorem tgetD_tmod_ne (t : Tab α) {k i : Nat} (f : α → α) (d : α) (h : i ≠ k) :
    tgetD (tmod t k f) i d = tgetD t i d := by
  simp [tgetD, tget_tmod_ne t f h]

theorem tgetD_tmod_self {t : Tab α} {k : Nat} (f : α → α) (d : α) (h : k ∈ tkeys t) :
    tgetD (tmod t k f) k d = f (tgetD t k d) := by
  obtain ⟨a, ha⟩ := tget_of_mem h
  simp [tgetD, ha]

@[simp] theorem tget_tdel_self (t : Tab α) (k : Nat) : tget (tdel t k) k = none := by
  induction t with
  | nil => rfl
  | cons e t ih =>
    obtain ⟨j, b⟩ := e
    by_cases h : j = k
    · subst h; simpa [tdel] using ih
    · have : tdel ((j, b) :: t) k = (j, b) :: tdel t k := by simp [tdel, h]
      rw [this]; simp [tget, ih, Ne.symm h]

end Sys2Proof.Machine
end

