-- ==== Sys2Proof/Laws/Agree.lean ====
section
/-! SUPPORT. How `Agree` is built: through the state's updates, conditionals and folds, channels and memory. -/
namespace Sys2Proof.Machine

/-- `M` names every part that `L` names. -/
def Covers (M L : List Comp) : Bool := L.all M.contains

/-- No answer is lost where the channels and the log of what went out are as before. -/
theorem said_same {s t : State} (h : t.st.chans = s.st.chans) (k : t.out = s.out) : Comp.same s t .said := by
  refine ⟨fun o q => k ▸ q, fun c p q => Or.inr (Or.inl ?_)⟩
  simpa only [State.chan, h] using q

theorem Comp.same_refl (s : State) (c : Comp) : c.same s s := by
  cases c <;> first | exact said_same rfl rfl | simp [Comp.same]

theorem said_trans {s t u : State} (h : Comp.same s t .said) (k : Comp.same t u .said) : Comp.same s u .said := by
  refine ⟨fun o q => k.1 o (h.1 o q), fun c p q => ?_⟩
  rcases h.2 c p q with a | a | a
  · exact Or.inl a
  · exact k.2 c p a
  · exact Or.inr (Or.inr (k.1 _ a))

theorem Comp.same_trans {s t u : State} {c : Comp} (h : c.same s t) (k : c.same t u) : c.same s u := by
  cases c <;> first
    | exact said_trans h k
    | exact fun n => ⟨(k n).1.trans (h n).1, (k n).2.trans (h n).2⟩
    | (simp only [Comp.same] at *; first | exact k.trans h | exact fun x => k (h x) | exact fun n x => k n (h n x) | omega)

theorem Agree.refl (M : List Comp) (s : State) : Agree M s s := ⟨fun c _ => c.same_refl s⟩

theorem Agree.trans {M : List Comp} {s t u : State} (h : Agree M s t) (k : Agree M t u) : Agree M s u :=
  ⟨fun c hc => Comp.same_trans (h.part c hc) (k.part c hc)⟩

theorem covers_mem {M L : List Comp} (h : Covers M L = true) {c : Comp} (hc : c ∈ L) : c ∈ M := by
  simp only [Covers, List.all_eq_true, List.contains_iff_mem] at h
  exact h c hc

theorem covers_trans {M L K : List Comp} (h : Covers L K = true) (g : Covers M L = true) : Covers M K = true := by
  simp only [Covers, List.all_eq_true, List.contains_iff_mem]
  intro c hc
  exact covers_mem g (covers_mem h hc)

theorem Agree.mono {M L : List Comp} {s t : State} (g : Covers M L = true) (h : Agree L s t) : Agree M s t :=
  ⟨fun c hc => h.part c fun q => hc (covers_mem g q)⟩

/-- A state that has the parts of `x` outside `L`, by an update in place, has those of `s` outside `M`. -/
theorem Agree.upd {M L : List Comp} {s x y : State} (_ : y.pending = x.pending) (h : Agree M s x)
    (g : Covers M L = true) (k : Agree L x y) : Agree M s y :=
  h.trans (k.mono g)

theorem Agree.ite {M : List Comp} {s a b : State} {c : Prop} [Decidable c] (ha : c → Agree M s a) (hb : ¬c → Agree M s b) :
    Agree M s (if c then a else b) := by
  split
  · exact ha ‹_›
  · exact hb ‹_›

theorem Agree.ite_fst {M : List Comp} {s : State} {β : Type} {a b : State × β} {c : Prop} [Decidable c]
    (ha : c → Agree M s a.1) (hb : ¬c → Agree M s b.1) : Agree M s (if c then a else b).1 := by
  split
  · exact ha ‹_›
  · exact hb ‹_›

/-- The state of a pair that an equation names. -/
theorem Agree.of_fst {M : List Comp} {s y : State} {β : Type} {p : State × β} {b : β} (e : p = (y, b)) (h : Agree M s p.1) :
    Agree M s y := by subst e; exact h

theorem Agree.of_snd {M : List Comp} {s y : State} {β : Type} {p : β × State} {b : β} (e : p = (b, y)) (h : Agree M s p.2) :
    Agree M s y := by subst e; exact h

theorem Agree.of_some {M : List Comp} {s y : State} {o : Option State} (e : o = some y) (h : ∀ z, o = some z → Agree M s z) :
    Agree M s y := h y e

theorem Agree.foldl {M : List Comp} {s x : State} {α : Type} {l : List α} {f : State → α → State}
    (h : Agree M s x) (hf : ∀ y a, Agree M s y → Agree M s (f y a)) : Agree M s (l.foldl f x) := by
  induction l generalizing x with
  | nil => exact h
  | cons a l ih => exact ih (hf x a h)

theorem Agree.foldl_fst {M : List Comp} {s : State} {α β : Type} {l : List α} {f : State × β → α → State × β}
    {x : State × β} (h : Agree M s x.1) (hf : ∀ y a, Agree M s y.1 → Agree M s (f y a).1) :
    Agree M s (l.foldl f x).1 := by
  induction l generalizing x with
  | nil => exact h
  | cons a l ih => exact ih (hf x a h)

/-! ## Masts -/

/-- `y` keeps the promises of the mast `z`, and its bytes unless `M` names them. -/
def MastTo (M : List Comp) (z y : Mast) : Prop :=
  (z.memOk → y.memOk) ∧ (z.fenced = true → y.fenced = true) ∧
  (.cells ∈ M ∨ (y.dram.cells = z.dram.cells ∧ y.spad.cells = z.spad.cells))

/-- `f` keeps the promises of one mast. -/
def MastKept (M : List Comp) (f : Mast → Mast) : Prop := ∀ z, MastTo M z (f z)

theorem MastTo.same {M : List Comp} {z y : Mast} (hd : y.dram.cells = z.dram.cells) (hs : y.spad.cells = z.spad.cells)
    (hf : z.fenced = true → y.fenced = true) : MastTo M z y :=
  ⟨fun k => by simpa [Mast.memOk, hd, hs] using k, hf, Or.inr ⟨hd, hs⟩⟩

theorem MastTo.refl {M : List Comp} (z : Mast) : MastTo M z z := MastTo.same rfl rfl fun q => q

theorem mastKept_tmap {M : List Comp} {s : State} {f : Nat → Mast → Mast} (hf : ∀ n, MastKept M (f n)) :
    (s.memOk → ∀ e ∈ tmap s.masts f, e.2.memOk) ∧
    (∀ k, s.fencedMast k = true → (tgetD (tmap s.masts f) k Mast.reset).fenced = true) ∧
    (.cells ∈ M ∨ ∀ k, (tgetD (tmap s.masts f) k Mast.reset).dram.cells = (s.mast k).dram.cells ∧
      (tgetD (tmap s.masts f) k Mast.reset).spad.cells = (s.mast k).spad.cells) := by
  refine ⟨?_, ?_, ?_⟩
  · intro h e he
    simp only [tmap, List.mem_map] at he
    obtain ⟨d, hd, rfl⟩ := he
    exact (hf d.1 d.2).1 (h d hd)
  · intro k hk
    simp only [State.fencedMast, State.mast, tgetD] at hk ⊢
    rw [tget_tmap]
    cases h : tget s.masts k with
    | none => rw [h] at hk; simp [Mast.reset] at hk
    | some m => rw [h] at hk; simpa using (hf k m).2.1 (by simpa using hk)
  · by_cases hM : .cells ∈ M
    · exact Or.inl hM
    · refine Or.inr fun k => ?_
      simp only [State.mast, tgetD]
      rw [tget_tmap]
      cases h : tget s.masts k with
      | none => exact ⟨rfl, rfl⟩
      | some m => exact (hf k m).2.2.resolve_left hM

theorem tmod_eq_tmap (t : Tab Mast) (n : Nat) (f : Mast → Mast) :
    tmod t n f = tmap t fun k m => if k = n then f m else m := by
  simp only [tmod, tmap]
  apply List.map_congr_left
  intro e _
  split <;> simp_all

theorem Agree.mapMasts {M : List Comp} {s x : State} {f : Nat → Mast → Mast} (g : Covers M [.masts] = true)
    (h : Agree M s x) (hf : ∀ n, MastKept M (f n)) : Agree M s (x.mapMasts f) := by
  refine h.trans ⟨?_⟩
  have := mastKept_tmap (s := x) hf
  have hm : Comp.masts ∈ M := covers_mem g (by decide)
  intro c hc
  cases c <;> simp only [Comp.same, State.mapMasts, tkeys_tmap] <;>
    first | rfl | (exact absurd hm hc) | exact this.1 | exact this.2.1 | exact this.2.2.resolve_left hc | exact id | exact fun q => q | exact Nat.le_refl _ | exact said_same rfl rfl

theorem Agree.modMast {M : List Comp} {s x : State} {n : Nat} {f : Mast → Mast} (g : Covers M [.masts] = true)
    (h : Agree M s x) (hf : MastKept M f) : Agree M s (x.modMast n f) := by
  have := Agree.mapMasts (f := fun k m => if k = n then f m else m) g h fun k z => by
    dsimp only; split
    · exact hf z
    · exact MastTo.refl z
  simpa only [State.modMast, State.mapMasts, tmod_eq_tmap] using this

/-! ## Channels -/

/-- A change of the channels that keeps each one's answers. -/
theorem answers_tmap {t : Tab Chan} {f : Nat → Chan → Chan} {p : Pkt} (k : ∀ n z, p ∈ z.answers → p ∈ (f n z).answers) {c : Nat}
    (q : p ∈ (tgetD t c (Chan.reset c)).answers) : p ∈ (tgetD (tmap t f) c (Chan.reset c)).answers := by
  simp only [tgetD] at q ⊢
  rw [tget_tmap]
  cases h : tget t c with
  | none => rw [h] at q; exact q
  | some z => rw [h] at q; exact k c z q

theorem answers_tmod {t : Tab Chan} {f : Chan → Chan} {n : Nat} {p : Pkt} (k : ∀ z, p ∈ z.answers → p ∈ (f z).answers) {c : Nat}
    (q : p ∈ (tgetD t c (Chan.reset c)).answers) : p ∈ (tgetD (tmod t n f) c (Chan.reset c)).answers := by
  by_cases hc : c = n
  · subst hc
    simp only [tgetD, tget_tmod_self] at q ⊢
    cases h : tget t c with
    | none => rw [h] at q; exact q
    | some z => rw [h] at q; exact k z q
  · rw [tgetD_tmod_ne _ _ _ hc]; exact q

theorem chan_modChan_answers {s : State} {n c : Nat} {f : Chan → Chan} (k : ∀ z, (f z).answers = z.answers) :
    ((s.modChan n f).chan c).answers = (s.chan c).answers := by
  simp only [State.modChan, State.chan, tgetD]
  by_cases hc : c = n
  · subst hc
    rw [tget_tmod_self]
    cases tget s.st.chans c with
    | none => rfl
    | some z => exact k z
  · rw [tget_tmod_ne _ _ hc]

theorem sendFlits_answers (s : State) (m : Nat) (fs : List Flit) (c : Nat) : ((s.sendFlits m fs).chan c).answers = (s.chan c).answers := by
  rfl

theorem sendFlits_out (s : State) (m : Nat) (fs : List Flit) : ∀ o ∈ s.out, o ∈ (s.sendFlits m fs).out := by
  exact fun _ q => List.mem_append_left _ q

theorem emit_out {s : State} {e o : Out} (h : o ∈ s.out) : o ∈ (s.emit e).out := List.mem_append_left _ h

/-- Sending a packet leaves every channel's answers as they are (R262). -/
theorem transmit_answers (s : State) (p : Pkt) (c : Nat) : ((s.transmit p).chan c).answers = (s.chan c).answers := by
  unfold State.transmit
  have k : ∀ (x : State) (b : Prop) [Decidable b] (f : Chan → Chan), (∀ z, (f z).answers = z.answers) →
      ((if b then x.modChan p.channel f else x).chan c).answers = (x.chan c).answers := by
    intro x b _ f hf; split
    · exact chan_modChan_answers hf
    · rfl
  dsimp only
  split
  · exact k _ _ _ fun _ => rfl
  · have e : ∀ (x : State) (o : Out), ((x.emit o).chan c).answers = (x.chan c).answers := fun _ _ => rfl
    rw [e, sendFlits_answers, chan_modChan_answers]
    · exact k _ _ _ fun _ => rfl
    · exact fun _ => rfl

theorem transmit_out (s : State) (p : Pkt) : ∀ o ∈ s.out, o ∈ (s.transmit p).out := by
  unfold State.transmit
  dsimp only
  intro o q
  split
  · split
    · exact q
    · exact q
  · refine emit_out (sendFlits_out _ _ _ _ ?_)
    split
    · exact q
    · exact q

/-- A packet that is not silent goes out. -/
theorem transmit_sent {s : State} {p : Pkt} (h : p.silent ≠ true) : Out.packet p ∈ (s.transmit p).out := by
  unfold State.transmit
  dsimp only
  rw [if_neg h]
  simp only [State.emit, List.mem_append, List.mem_singleton, or_true]

/-- The first answer that may go out leaves its channel's queue and is sent: no answer is lost. -/
theorem said_sent (s : State) (c : Nat) (p : Pkt) :
    Comp.same s ((s.modChan c fun x => { x with answers := x.answers.erase p }).transmit p) .said := by
  refine ⟨fun o q => transmit_out _ _ _ q, fun d q hq => ?_⟩
  rw [transmit_answers]
  by_cases e : q = p
  · subst e
    by_cases hs : q.silent = true
    · exact Or.inl hs
    · exact Or.inr (Or.inr (transmit_sent hs))
  · refine Or.inr (Or.inl ?_)
    exact answers_tmod (f := fun x => { x with answers := x.answers.erase p }) (fun z ha => (List.mem_erase_of_ne e).mpr ha) hq

/-! ## Memory (R212, R224) -/

theorem memWfFrom_mono {lo lo' : Nat} {m : Mem} (h : lo ≤ lo') (k : memWfFrom lo' m = true) : memWfFrom lo m = true := by
  cases m with
  | nil => rfl
  | cons e m => obtain ⟨a, b⟩ := e; simp only [memWfFrom, Bool.and_eq_true, decide_eq_true_eq] at *; exact ⟨⟨by omega, k.1.2⟩, k.2⟩

theorem memSet_wfFrom {lo : Nat} {m : Mem} {a : Nat} {b : Byte} (h : memWfFrom lo m = true) (ha : lo ≤ a) :
    memWfFrom lo (memSet m a b) = true := by
  induction m generalizing lo with
  | nil => simp only [memSet]; split <;> simp_all [memWfFrom]
  | cons e m ih =>
    obtain ⟨j, c⟩ := e
    simp only [memWfFrom, Bool.and_eq_true, decide_eq_true_eq] at h
    simp only [memSet]
    split
    · split
      · simp only [memWfFrom, Bool.and_eq_true, decide_eq_true_eq]; exact h
      · simp only [memWfFrom, Bool.and_eq_true, decide_eq_true_eq]
        exact ⟨⟨ha, by simp_all⟩, ⟨by omega, h.1.2⟩, h.2⟩
    · split
      · subst a
        split
        · exact memWfFrom_mono (by omega) h.2
        · simp only [memWfFrom, Bool.and_eq_true, decide_eq_true_eq]; exact ⟨⟨ha, by simp_all⟩, h.2⟩
      · simp only [memWfFrom, Bool.and_eq_true, decide_eq_true_eq]
        exact ⟨h.1, ih h.2 (by omega)⟩

/-- Setting a byte keeps the canonical form. -/
theorem memSet_wf {m : Mem} (a : Nat) (b : Byte) (h : Memory.wf m = true) : Memory.wf (memSet m a b) = true :=
  memSet_wfFrom h (Nat.zero_le a)

/-- Writing bytes keeps the canonical form. -/
theorem memWrite_wf {m : Mem} (a : Nat) (bs : Bytes) (h : Memory.wf m = true) : Memory.wf (memWrite m a bs) = true := by
  induction bs generalizing m a with
  | nil => exact h
  | cons b bs ih => exact ih _ (memSet_wf a b h)

/-- Zeroing a range keeps the canonical form. -/
theorem memZero_wf {m : Mem} (a n : Nat) (h : Memory.wf m = true) : Memory.wf (memZero m a n) = true := by
  have key : ∀ (m : Mem) (lo : Nat), memWfFrom lo m = true → memWfFrom lo (memZero m a n) = true := by
    intro m
    induction m with
    | nil => intro lo _; rfl
    | cons e m ih =>
      obtain ⟨j, c⟩ := e
      intro lo h
      simp only [memWfFrom, Bool.and_eq_true, decide_eq_true_eq] at h
      simp only [memZero, List.filter_cons]
      split
      · simp only [memWfFrom, Bool.and_eq_true, decide_eq_true_eq]; exact ⟨h.1, ih _ h.2⟩
      · exact memWfFrom_mono (by omega) (ih _ h.2)
  exact key m 0 h

/-- A byte that was set reads back. -/
theorem memByte_memSet_self {m : Mem} {a : Nat} {b : Byte} (h : Memory.wf m = true) : memByte (memSet m a b) a = b := by
  have absent : ∀ (m : Mem) (lo : Nat), memWfFrom lo m = true → ∀ x < lo, memByte m x = 0 := by
    intro m
    induction m with
    | nil => intros; rfl
    | cons e m ih =>
      obtain ⟨j, c⟩ := e
      intro lo h x hx
      simp only [memWfFrom, Bool.and_eq_true, decide_eq_true_eq] at h
      have hj : x ≠ j := by omega
      simp [memByte, hj, ih _ h.2 x (by omega)]
  have key : ∀ (m : Mem) (lo : Nat), memWfFrom lo m = true → memByte (memSet m a b) a = b := by
    intro m
    induction m with
    | nil => intro lo _; simp only [memSet]; split <;> simp_all [memByte]
    | cons e m ih =>
      obtain ⟨j, c⟩ := e
      intro lo h
      simp only [memWfFrom, Bool.and_eq_true, decide_eq_true_eq] at h
      simp only [memSet]
      split
      · split
        · rename_i hlt hz
          have hj : a ≠ j := by omega
          simp [memByte, hj, hz, absent m _ h.2 a (by omega)]
        · simp [memByte]
      · split
        · subst a
          split
          · rename_i hz; simp [hz, absent m _ h.2 j (by omega)]
          · simp [memByte]
        · rename_i hne; simp [memByte, hne, ih _ h.2]
  exact key m 0 h

/-- Every other byte reads as before. -/
theorem memByte_memSet_ne {m : Mem} {a x : Nat} {b : Byte} (hx : x ≠ a) : memByte (memSet m a b) x = memByte m x := by
  induction m with
  | nil => simp only [memSet]; split <;> simp [memByte, hx]
  | cons e m ih =>
    obtain ⟨j, c⟩ := e
    simp only [memSet]
    split
    · split <;> simp [memByte, hx]
    · split
      · subst a; split <;> simp [memByte, hx]
      · simp [memByte, ih]

/-- Outside the bytes written, memory reads as before. -/
theorem memByte_memWrite_out {m : Mem} {a x : Nat} {bs : Bytes} (hx : x < a ∨ a + bs.length ≤ x) :
    memByte (memWrite m a bs) x = memByte m x := by
  induction bs generalizing m a with
  | nil => rfl
  | cons b bs ih =>
    simp only [List.length_cons] at hx
    simp only [memWrite]
    rw [ih (by omega), memByte_memSet_ne (by omega)]

/-! ## Updates of one field -/

theorem Agree.upd_time {M : List Comp} {s x : State} {v} (g : Covers M [.time] = true) (h : Agree M s x) :
    Agree M s { x with time := v } := by
  refine h.trans (Agree.mono g ⟨?_⟩)
  intro c hc; cases c <;> first | rfl | (exact absurd (by decide) hc) | exact (fun q => q) | exact Nat.le_refl _ | exact fun _ q => q | exact said_same rfl rfl | exact fun _ => ⟨rfl, rfl⟩

theorem Agree.upd_cn {M : List Comp} {s x : State} {v} (g : Covers M [.cn] = true) (h : Agree M s x) :
    Agree M s { x with cn := v } := by
  refine h.trans (Agree.mono g ⟨?_⟩)
  intro c hc; cases c <;> first | rfl | (exact absurd (by decide) hc) | exact (fun q => q) | exact Nat.le_refl _ | exact fun _ q => q | exact said_same rfl rfl | exact fun _ => ⟨rfl, rfl⟩

theorem Agree.upd_id {M : List Comp} {s x : State} {v} (g : Covers M [.id] = true) (h : Agree M s x) :
    Agree M s { x with id := v } := by
  refine h.trans (Agree.mono g ⟨?_⟩)
  intro c hc; cases c <;> first | rfl | (exact absurd (by decide) hc) | exact (fun q => q) | exact Nat.le_refl _ | exact fun _ q => q | exact said_same rfl rfl | exact fun _ => ⟨rfl, rfl⟩

theorem Agree.upd_pwr {M : List Comp} {s x : State} {v} (g : Covers M [.pwr] = true) (h : Agree M s x) (k : x.pwr.capsOk → v.capsOk) :
    Agree M s { x with pwr := v } := by
  refine h.trans (Agree.mono g ⟨?_⟩)
  intro c hc; cases c <;> first | rfl | (exact absurd (by decide) hc) | exact (fun q => q) | exact Nat.le_refl _ | exact fun _ q => q | exact k | exact said_same rfl rfl | exact fun _ => ⟨rfl, rfl⟩

theorem Agree.upd_flt {M : List Comp} {s x : State} {v} (g : Covers M [.flt] = true) (h : Agree M s x) (k : x.flt.fatal = true → v.fatal = true) :
    Agree M s { x with flt := v } := by
  refine h.trans (Agree.mono g ⟨?_⟩)
  intro c hc; cases c <;> first | rfl | (exact absurd (by decide) hc) | exact (fun q => q) | exact Nat.le_refl _ | exact fun _ q => q | exact k | exact said_same rfl rfl | exact fun _ => ⟨rfl, rfl⟩

theorem Agree.upd_btb {M : List Comp} {s x : State} {v} (g : Covers M [.btb] = true) (h : Agree M s x) (k : x.btb.fusedSvn ≤ v.fusedSvn) :
    Agree M s { x with btb := v } := by
  refine h.trans (Agree.mono g ⟨?_⟩)
  intro c hc; cases c <;> first | rfl | (exact absurd (by decide) hc) | exact (fun q => q) | exact Nat.le_refl _ | exact fun _ q => q | exact k | exact said_same rfl rfl | exact fun _ => ⟨rfl, rfl⟩

theorem Agree.upd_hif {M : List Comp} {s x : State} {v} (g : Covers M [.hif] = true) (h : Agree M s x) (k : tkeys x.hif.mods = List.range 4 → tkeys v.mods = List.range 4) :
    Agree M s { x with hif := v } := by
  refine h.trans (Agree.mono g ⟨?_⟩)
  intro c hc; cases c <;> first | rfl | (exact absurd (by decide) hc) | exact (fun q => q) | exact Nat.le_refl _ | exact fun _ q => q | exact k | exact said_same rfl rfl | exact fun _ => ⟨rfl, rfl⟩

theorem Agree.upd_st {M : List Comp} {s x : State} {v} (g : Covers M [.st] = true) (h : Agree M s x) (k : tkeys x.st.chans = List.range 8 → tkeys v.chans = List.range 8)
    (kc : ∀ c, ∀ p ∈ (x.chan c).answers, p ∈ (tgetD v.chans c (Chan.reset c)).answers) :
    Agree M s { x with st := v } := by
  refine h.trans (Agree.mono g ⟨?_⟩)
  intro c hc; cases c <;> first | rfl | (exact absurd (by decide) hc) | exact (fun q => q) | exact Nat.le_refl _ | exact fun _ q => q | exact k | exact ⟨fun _ q => q, fun c p q => Or.inr (Or.inl (kc c p q))⟩ | exact said_same rfl rfl | exact fun _ => ⟨rfl, rfl⟩

theorem Agree.upd_ctxs {M : List Comp} {s x : State} {v} (g : Covers M [.ctxs] = true) (h : Agree M s x) :
    Agree M s { x with ctxs := v } := by
  refine h.trans (Agree.mono g ⟨?_⟩)
  intro c hc; cases c <;> first | rfl | (exact absurd (by decide) hc) | exact (fun q => q) | exact Nat.le_refl _ | exact fun _ q => q | exact said_same rfl rfl | exact fun _ => ⟨rfl, rfl⟩

theorem Agree.upd_zeroing {M : List Comp} {s x : State} {v} (g : Covers M [.zeroing] = true) (h : Agree M s x) :
    Agree M s { x with zeroing := v } := by
  refine h.trans (Agree.mono g ⟨?_⟩)
  intro c hc; cases c <;> first | rfl | (exact absurd (by decide) hc) | exact (fun q => q) | exact Nat.le_refl _ | exact fun _ q => q | exact said_same rfl rfl | exact fun _ => ⟨rfl, rfl⟩

theorem Agree.upd_reqs {M : List Comp} {s x : State} {v} (g : Covers M [.reqs] = true) (h : Agree M s x) :
    Agree M s { x with reqs := v } := by
  refine h.trans (Agree.mono g ⟨?_⟩)
  intro c hc; cases c <;> first | rfl | (exact absurd (by decide) hc) | exact (fun q => q) | exact Nat.le_refl _ | exact fun _ q => q | exact said_same rfl rfl | exact fun _ => ⟨rfl, rfl⟩

theorem Agree.upd_sess {M : List Comp} {s x : State} {v} (g : Covers M [.sess] = true) (h : Agree M s x) :
    Agree M s { x with sess := v } := by
  refine h.trans (Agree.mono g ⟨?_⟩)
  intro c hc; cases c <;> first | rfl | (exact absurd (by decide) hc) | exact (fun q => q) | exact Nat.le_refl _ | exact fun _ q => q | exact said_same rfl rfl | exact fun _ => ⟨rfl, rfl⟩

theorem Agree.upd_srvSel {M : List Comp} {s x : State} {v} (g : Covers M [.srvSel] = true) (h : Agree M s x) :
    Agree M s { x with srvSel := v } := by
  refine h.trans (Agree.mono g ⟨?_⟩)
  intro c hc; cases c <;> first | rfl | (exact absurd (by decide) hc) | exact (fun q => q) | exact Nat.le_refl _ | exact fun _ q => q | exact said_same rfl rfl | exact fun _ => ⟨rfl, rfl⟩

theorem Agree.upd_srvErr {M : List Comp} {s x : State} {v} (g : Covers M [.srvErr] = true) (h : Agree M s x) :
    Agree M s { x with srvErr := v } := by
  refine h.trans (Agree.mono g ⟨?_⟩)
  intro c hc; cases c <;> first | rfl | (exact absurd (by decide) hc) | exact (fun q => q) | exact Nat.le_refl _ | exact fun _ q => q | exact said_same rfl rfl | exact fun _ => ⟨rfl, rfl⟩

theorem Agree.upd_exports {M : List Comp} {s x : State} {v} (g : Covers M [.exports] = true) (h : Agree M s x) :
    Agree M s { x with exports := v } := by
  refine h.trans (Agree.mono g ⟨?_⟩)
  intro c hc; cases c <;> first | rfl | (exact absurd (by decide) hc) | exact (fun q => q) | exact Nat.le_refl _ | exact fun _ q => q | exact said_same rfl rfl | exact fun _ => ⟨rfl, rfl⟩

theorem Agree.upd_nextExp {M : List Comp} {s x : State} {v} (g : Covers M [.nextExp] = true) (h : Agree M s x) :
    Agree M s { x with nextExp := v } := by
  refine h.trans (Agree.mono g ⟨?_⟩)
  intro c hc; cases c <;> first | rfl | (exact absurd (by decide) hc) | exact (fun q => q) | exact Nat.le_refl _ | exact fun _ q => q | exact said_same rfl rfl | exact fun _ => ⟨rfl, rfl⟩

theorem Agree.upd_imports {M : List Comp} {s x : State} {v} (g : Covers M [.imports] = true) (h : Agree M s x) :
    Agree M s { x with imports := v } := by
  refine h.trans (Agree.mono g ⟨?_⟩)
  intro c hc; cases c <;> first | rfl | (exact absurd (by decide) hc) | exact (fun q => q) | exact Nat.le_refl _ | exact fun _ q => q | exact said_same rfl rfl | exact fun _ => ⟨rfl, rfl⟩

theorem Agree.upd_hal {M : List Comp} {s x : State} {v} (g : Covers M [.hal] = true) (h : Agree M s x) :
    Agree M s { x with hal := v } := by
  refine h.trans (Agree.mono g ⟨?_⟩)
  intro c hc; cases c <;> first | rfl | (exact absurd (by decide) hc) | exact (fun q => q) | exact Nat.le_refl _ | exact fun _ q => q | exact said_same rfl rfl | exact fun _ => ⟨rfl, rfl⟩

theorem Agree.upd_nlc {M : List Comp} {s x : State} {v} (g : Covers M [.nlc] = true) (h : Agree M s x) (k : tkeys x.nlc.ports = List.range 42 → tkeys v.ports = List.range 42) :
    Agree M s { x with nlc := v } := by
  refine h.trans (Agree.mono g ⟨?_⟩)
  intro c hc; cases c <;> first | rfl | (exact absurd (by decide) hc) | exact (fun q => q) | exact Nat.le_refl _ | exact fun _ q => q | exact k | exact said_same rfl rfl | exact fun _ => ⟨rfl, rfl⟩

theorem Agree.upd_col {M : List Comp} {s x : State} {v} (g : Covers M [.col] = true) (h : Agree M s x) :
    Agree M s { x with col := v } := by
  refine h.trans (Agree.mono g ⟨?_⟩)
  intro c hc; cases c <;> first | rfl | (exact absurd (by decide) hc) | exact (fun q => q) | exact Nat.le_refl _ | exact fun _ q => q | exact said_same rfl rfl | exact fun _ => ⟨rfl, rfl⟩

theorem Agree.upd_pmc {M : List Comp} {s x : State} {v} (g : Covers M [.pmc] = true) (h : Agree M s x) :
    Agree M s { x with pmc := v } := by
  refine h.trans (Agree.mono g ⟨?_⟩)
  intro c hc; cases c <;> first | rfl | (exact absurd (by decide) hc) | exact (fun q => q) | exact Nat.le_refl _ | exact fun _ q => q | exact said_same rfl rfl | exact fun _ => ⟨rfl, rfl⟩

theorem Agree.upd_out {M : List Comp} {s x : State} {v} (g : Covers M [.out] = true) (h : Agree M s x) (k : ∀ o ∈ x.out, o ∈ v) :
    Agree M s { x with out := v } := by
  refine h.trans (Agree.mono g ⟨?_⟩)
  intro c hc; cases c <;> first | rfl | (exact absurd (by decide) hc) | exact (fun q => q) | exact Nat.le_refl _ | exact fun _ q => q | exact ⟨k, fun _ _ q => Or.inr (Or.inl q)⟩ | exact said_same rfl rfl | exact fun _ => ⟨rfl, rfl⟩

theorem Agree.upd_free {M : List Comp} {s x : State} {v} (g : Covers M [.free] = true) (h : Agree M s x) :
    Agree M s { x with free := v } := by
  refine h.trans (Agree.mono g ⟨?_⟩)
  intro c hc; cases c <;> first | rfl | (exact absurd (by decide) hc) | exact (fun q => q) | exact Nat.le_refl _ | exact fun _ q => q | exact said_same rfl rfl | exact fun _ => ⟨rfl, rfl⟩

/-- A change of a channel that may take answers away. -/
theorem Agree.loose {M : List Comp} {s x : State} {c : Nat} {f : Chan → Chan} (g : Covers M [.st, .said] = true) (h : Agree M s x) :
    Agree M s (x.modChan c f) := by
  refine h.trans (Agree.mono g ⟨?_⟩)
  intro c hc; cases c <;> first | rfl | (exact absurd (by decide) hc) | exact (fun q => q) | exact Nat.le_refl _ | exact fun _ q => q | exact fun _ => ⟨rfl, rfl⟩ | exact fun q => (tkeys_tmod _ _ _).trans q

/-- Several fields at once: each part is named, or is as before. -/
theorem Agree.upds {M : List Comp} {s x y : State} (_ : y.pending = x.pending) (h : Agree M s x)
    (k : ∀ c, c ∈ M ∨ Comp.same x y c) : Agree M s y :=
  h.trans ⟨fun c hc => (k c).resolve_left hc⟩

end Sys2Proof.Machine
end

