-- ==== Sys2Proof/Laws/AgreeMast.lean ====
section
/-! SUPPORT. Operations of one mast keep its promises: canonical memory (R212, R224) and a standing fence (R411). -/
namespace Sys2Proof.Machine

/-- A change outside the memories' contents and the fence. -/
theorem MastTo.of_eq {M : List Comp} {z x y : Mast} (h : MastTo M z x) (hd : y.dram.cells = x.dram.cells) (hs : y.spad.cells = x.spad.cells)
    (hf : y.fenced = x.fenced) : MastTo M z y :=
  ⟨fun k => by simpa [Mast.memOk, hd, hs] using h.1 k, fun k => hf ▸ h.2.1 k, h.2.2.imp id fun q => ⟨hd.trans q.1, hs.trans q.2⟩⟩

theorem MastTo.foldl {M : List Comp} {z x : Mast} {α : Type} {l : List α} {f : Mast → α → Mast} (h : MastTo M z x)
    (hf : ∀ y a, MastTo M z y → MastTo M z (f y a)) : MastTo M z (l.foldl f x) := by
  induction l generalizing x with
  | nil => exact h
  | cons a l ih => exact ih (hf x a h)

theorem MastTo.ite {M : List Comp} {z a b : Mast} {c : Prop} [Decidable c] (ha : MastTo M z a) (hb : MastTo M z b) :
    MastTo M z (if c then a else b) := by split <;> assumption

/-- A line that is replaced or invalidated leaves the bytes of DRAM. -/
theorem Dram.evict_cells (d : Dram) (l : CLine) : (d.evict l).cells = d.cells := by
  unfold Dram.evict; split
  · rfl
  · split <;> rfl

theorem Dram.evicts_cells (ls : List CLine) (d : Dram) : (ls.foldl Dram.evict d).cells = d.cells := by
  induction ls generalizing d with
  | nil => rfl
  | cons l ls ih => exact (ih _).trans (Dram.evict_cells d l)

theorem MastTo.allocate {M : List Comp} {z x : Mast} (r : Reader) (l : Nat) (d : Bool) (h : MastTo M z x) : MastTo M z (x.allocate r l d) := by
  unfold Mast.allocate; split
  · exact h
  · exact h.of_eq (Dram.evicts_cells _ _) rfl rfl

theorem MastTo.lookup {M : List Comp} {z x : Mast} (r : Reader) (o n : Nat) (w : Bool) (h : MastTo M z x) : MastTo M z (x.lookup r o n w) := by
  unfold Mast.lookup
  refine MastTo.foldl (h.of_eq ?_ ?_ ?_) fun y a hy => MastTo.allocate _ _ _ hy
  all_goals
    dsimp only
    repeat' first | exact rfl | split

/-- A lookup changes neither the scratchpad nor the fence. -/
theorem MastTo.lookup_same (z : Mast) (r : Reader) (o n : Nat) (w : Bool) :
    (z.lookup r o n w).spad = z.spad ∧ (z.lookup r o n w).fenced = z.fenced := by
  have alloc : ∀ (y : Mast) (l : Nat), (y.allocate r l w).spad = y.spad ∧ (y.allocate r l w).fenced = y.fenced := by
    intro y l; unfold Mast.allocate; split <;> exact ⟨rfl, rfl⟩
  have key : ∀ (ls : List Nat) (y : Mast), y.spad = z.spad ∧ y.fenced = z.fenced →
      (ls.foldl (fun m l => m.allocate r l w) y).spad = z.spad ∧ (ls.foldl (fun m l => m.allocate r l w) y).fenced = z.fenced := by
    intro ls
    induction ls with
    | nil => exact fun _ q => q
    | cons l ls ih => exact fun y q => ih _ ⟨(alloc y l).1.trans q.1, (alloc y l).2.trans q.2⟩
  unfold Mast.lookup
  refine key _ _ ⟨?_, ?_⟩
  all_goals
    dsimp only
    repeat' first | exact rfl | split

theorem MastTo.noteMet {M : List Comp} {z x : Mast} (r : Reader) (m : Met) (h : MastTo M z x) : MastTo M z (x.noteMet r m) := h.of_eq rfl rfl rfl

theorem MastTo.touched {M : List Comp} {z x : Mast} (lo hi : Nat) (h : MastTo M z x) : MastTo M z { x with dram := (x.touch lo hi).1 } :=
  h.of_eq rfl rfl rfl

theorem MastTo.dropLine {M : List Comp} {z x : Mast} (l : CLine) (h : MastTo M z x) : MastTo M z (x.dropLine l) :=
  h.of_eq (Dram.evict_cells _ _) rfl rfl

/-- What DRAM itself holds of a line is changed outside its bytes (R219, R228). -/
theorem MastTo.setBeneath {M : List Comp} {z x : Mast} (l : Nat) (y : DLine) (h : MastTo M z x) : MastTo M z (x.setBeneath l y) := by
  unfold Mast.setBeneath; split <;> exact h.of_eq rfl rfl rfl

theorem MastTo.strikeDram {M : List Comp} {z x : Mast} (n : Nat) (f : Flaw) (h : MastTo M z x) : MastTo M z (x.strikeDram n f) := by
  unfold Mast.strikeDram; dsimp only; split
  · exact h
  · exact h.setBeneath _ _

theorem MastTo.stopCtx {M : List Comp} {z x : Mast} (c : Nat) (h : MastTo M z x) : MastTo M z (x.stopCtx c) := h.of_eq rfl rfl rfl

theorem MastTo.restart {M : List Comp} {z x : Mast} (h : MastTo M z x) : MastTo M z x.restart := h.of_eq rfl rfl rfl

theorem MastTo.refreshes {M : List Comp} {z x : Mast} (c : Bool) (h : MastTo M z x) : MastTo M z (x.refreshes c) := by
  unfold Mast.refreshes; split
  · exact h.of_eq rfl rfl rfl
  · exact h

theorem MastTo.freezeCopies {M : List Comp} {z x : Mast} (h : MastTo M z x) : MastTo M z x.freezeCopies := by
  unfold Mast.freezeCopies
  exact MastTo.refreshes true (h.of_eq rfl rfl rfl)

theorem MastTo.readSpad {M : List Comp} {z x : Mast} (r : Reader) (o n : Nat) (h : MastTo M z x) : MastTo M z (x.readSpad r o n).1 :=
  h.of_eq rfl rfl rfl

/-- A write keeps the canonical form. -/
theorem Dram.put_cells_wf {d : Dram} {lost : List Nat} {off : Nat} {data : Bytes} (h : Memory.wf d.cells = true) :
    Memory.wf (d.put lost off data).cells = true := by
  have key : ∀ (l : List (Nat × Byte)) (f : Nat → Bool) (c : Mem), Memory.wf c = true →
      Memory.wf (l.foldl (fun c e => if f e.1 then c else memSet c (off + e.1) e.2) c) = true := by
    intro l f
    induction l with
    | nil => exact fun c hc => hc
    | cons b l ih =>
      intro c hc
      refine ih _ ?_
      dsimp only
      split
      · exact hc
      · exact memSet_wf _ _ hc
  unfold Dram.put
  dsimp only
  split
  · exact memWrite_wf _ _ h
  · exact key _ (fun i => lost.contains ((off + i) / 64)) _ h

/-- DRAM contents change, in canonical form. -/
theorem MastTo.dram {M : List Comp} {z x : Mast} {d : Dram} (g : Covers M [.cells] = true) (h : MastTo M z x)
    (hd : Memory.wf x.dram.cells = true → Memory.wf d.cells = true) : MastTo M z { x with dram := d } :=
  ⟨fun k => ⟨hd (h.1 k).1, (h.1 k).2⟩, fun k => h.2.1 k, Or.inl (covers_mem g (by decide))⟩

/-- Scratchpad contents change, in canonical form. -/
theorem MastTo.spad {M : List Comp} {z x : Mast} {p : Spad} (g : Covers M [.cells] = true) (h : MastTo M z x)
    (hp : Memory.wf x.spad.cells = true → Memory.wf p.cells = true) : MastTo M z { x with spad := p } :=
  ⟨fun k => ⟨(h.1 k).1, hp (h.1 k).2⟩, fun k => h.2.1 k, Or.inl (covers_mem g (by decide))⟩

theorem Spad.strike_cells (p : Spad) (w : Nat) (f : Flaw) : (p.strike w f).cells = p.cells := by
  unfold Spad.strike; split <;> rfl

theorem MastTo.compatSet {M : List Comp} {z x : Mast} (c : Nat) (b : Bool) (h : MastTo M z x) : MastTo M z (x.compatSet c b) := by
  unfold Mast.compatSet
  dsimp only
  repeat' first
    | exact h
    | exact h.of_eq rfl rfl rfl
    | split

theorem MastTo.zeroDram {M : List Comp} {z x : Mast} (o n : Nat) (g : Covers M [.cells] = true) (h : MastTo M z x) :
    MastTo M z (x.zeroDram o n) :=
  ⟨fun k => ⟨memZero_wf _ _ (h.1 k).1, (h.1 k).2⟩, fun k => h.2.1 k, Or.inl (covers_mem g (by decide))⟩

theorem MastTo.zeroSpad {M : List Comp} {z x : Mast} (o n : Nat) (g : Covers M [.cells] = true) (h : MastTo M z x) :
    MastTo M z (x.zeroSpad o n) :=
  ⟨fun k => ⟨(h.1 k).1, memZero_wf _ _ (h.1 k).2⟩, fun k => h.2.1 k, Or.inl (covers_mem g (by decide))⟩

theorem MastTo.zeroSlices {M : List Comp} {z x : Mast} (m : Nat) (g : Covers M [.cells] = true) (h : MastTo M z x) :
    MastTo M z (x.zeroSlices m) := by
  unfold Mast.zeroSlices
  exact MastTo.foldl h fun y a hy => MastTo.zeroSpad _ _ g hy

/-- Lines that leave the cache without write-back keep the canonical form (R229). -/
theorem MastTo.dropLines {M : List Comp} {z x : Mast} (c : Nat) (g : Covers M [.cells] = true) (h : MastTo M z x) :
    MastTo M z (x.dropLines c) := by
  have key : ∀ (l : List CLine) (d : Dram), Memory.wf d.cells = true →
      Memory.wf (l.foldl (fun (d : Dram) (e : CLine) => match e.under with | some x => d.unline e.line x | none => d) d).cells = true := by
    intro l
    induction l with
    | nil => exact fun _ q => q
    | cons e l ih =>
      intro d q
      refine ih _ ?_
      dsimp only
      split
      · exact memWrite_wf _ _ q
      · exact q
  exact ⟨fun k => ⟨key _ _ (h.1 k).1, (h.1 k).2⟩, fun k => h.2.1 k, Or.inl (covers_mem g (by decide))⟩

theorem MastTo.writeSpad {M : List Comp} {z x : Mast} (o : Nat) (b : Bytes) (g : Covers M [.cells] = true) (h : MastTo M z x) :
    MastTo M z (x.writeSpad o b) :=
  ⟨fun k => ⟨(h.1 k).1, memWrite_wf _ _ (h.1 k).2⟩, fun k => h.2.1 k, Or.inl (covers_mem g (by decide))⟩

/-- A kept change of the mast that a function reads and puts back. -/
theorem mastKept_of {M : List Comp} {f : Mast → Mast} (h : ∀ z, MastTo M z (f z)) : MastKept M f := h

/-- A command's act, and what its answer sets off, keep the parts outside `M`. -/
def Cmd.Kept (M : List Comp) (s : State) (k : Cmd) : Prop :=
  (∀ r y, Agree M s y → Agree M s (k.act r y).1) ∧ (∀ r a y, Agree M s y → Agree M s (k.after r a y))

end Sys2Proof.Machine
end

