-- ==== Sys2Proof/Laws/FrameOps.lean ====
section
/-! SUPPORT. What each operation may change, as `Agree` with the parts that it leaves alone: the shared operations over memory, pages and the fabric. -/
namespace Sys2Proof.Machine
set_option maxRecDepth 3000

theorem State.modChan_agree {M : List Comp} {s x : State} {c : Nat} {f : Chan → Chan} (g : Covers M [.st] = true) (h : Agree M s x)
    (k : ∀ z, ∀ p ∈ z.answers, p ∈ (f z).answers) : Agree M s (State.modChan x c f) := by
  exact Agree.upd_st g h (fun q => (tkeys_tmod _ _ _).trans q) fun d p q => answers_tmod (fun z => k z p) q

theorem State.putFlits_agree {M : List Comp} {s x : State} {a1 a2} (g : Covers M [.out] = true) (h : Agree M s x) :
    Agree M s (State.putFlits x a1 a2) := by
  exact Agree.upd_out g h fun _ q => List.mem_append_left _ q

theorem State.modHmod_agree {M : List Comp} {s x : State} {c : Nat} {f : Module → Module} (g : Covers M [.hif] = true) (h : Agree M s x) :
    Agree M s (State.modHmod x c f) := by
  exact Agree.upd_hif g h fun q => (tkeys_tmod _ _ _).trans q

theorem State.sendFlits_agree {M : List Comp} {s x : State} {a1 a2} (g : Covers M [.hif, .out] = true) (h : Agree M s x) :
    Agree M s (State.sendFlits x a1 a2) := by
  unfold State.sendFlits
  repeat' first
    | with_reducible exact h
    | exact covers_trans (by decide) g
    | with_reducible apply State.putFlits_agree
    | with_reducible apply State.modHmod_agree

theorem State.emit_agree {M : List Comp} {s x : State} {a1} (g : Covers M [.out] = true) (h : Agree M s x) :
    Agree M s (State.emit x a1) := by
  exact Agree.upd_out g h fun _ q => List.mem_append_left _ q

theorem State.transmit_agree {M : List Comp} {s x : State} {a1} (g : Covers M [.hif, .st, .out] = true) (h : Agree M s x) :
    Agree M s (State.transmit x a1) := by
  unfold State.transmit
  repeat' first
    | with_reducible exact h
    | exact covers_trans (by decide) g
    | with_reducible apply State.modChan_agree
    | with_reducible apply State.sendFlits_agree
    | with_reducible apply State.emit_agree
    | with_reducible apply Agree.ite
    | exact fun _ _ q => q
    | intro _

theorem State.pump_agree {M : List Comp} {s x : State} {a1 a2} (g : Covers M [.hif, .st, .out] = true) (h : Agree M s x) :
    Agree M s (State.pump x a1 a2) := by
  induction a2 generalizing x with
  | zero => exact h
  | succ n ih =>
    simp only [State.pump]
    split
    · exact h
    · rename_i p hp
      have a : Agree [.hif, .st, .out, .said] x ((x.modChan a1 fun z => { z with answers := z.answers.erase p }).transmit p) :=
        State.transmit_agree (by decide) (Agree.loose (by decide) (Agree.refl _ _))
      refine ih (h.trans (Agree.mono (L := [.hif, .st, .out]) (covers_trans (by decide) g) ⟨fun c hc => ?_⟩))
      by_cases e : c = .said
      · subst e; exact said_sent x a1 p
      · exact a.part c (by simp only [List.mem_cons] at hc ⊢; simp_all)

theorem State.queueAnswers_agree {M : List Comp} {s x : State} {a1 a2} (g : Covers M [.hif, .st, .out] = true) (h : Agree M s x) :
    Agree M s (State.queueAnswers x a1 a2) := by
  unfold State.queueAnswers
  repeat' first
    | with_reducible exact h
    | exact covers_trans (by decide) g
    | with_reducible apply State.pump_agree
    | with_reducible apply State.modChan_agree
    | exact fun _ _ q => List.mem_append_left _ q

theorem State.drawn_agree {M : List Comp} {s x : State} (g : Covers M [.free] = true) (h : Agree M s x) :
    Agree M s (State.drawn x) := by
  unfold State.drawn
  repeat' first
    | with_reducible exact h
    | exact covers_trans (by decide) g
    | exact fun q => by simpa only [tkeys_tmap, tkeys_tmod] using q
    | with_reducible apply Agree.upd_free

theorem State.modMast_agree {M : List Comp} {s x : State} {n : Nat} {f : Mast → Mast} (g : Covers M [.masts] = true)
    (h : Agree M s x) (k : MastKept M f) : Agree M s (State.modMast x n f) := by
  exact Agree.modMast g h k

theorem State.countM_agree {M : List Comp} {s x : State} {a1 a2} (g : Covers M [.masts] = true) (h : Agree M s x) :
    Agree M s (State.countM x a1 a2) := by
  unfold State.countM
  exact State.modMast_agree g h fun z => by split <;> exact MastTo.refl z

theorem State.countH_agree {M : List Comp} {s x : State} {a1} (g : Covers M [.pmc] = true) (h : Agree M s x) :
    Agree M s (State.countH x a1) := by
  unfold State.countH
  repeat' first
    | with_reducible exact h
    | exact covers_trans (by decide) g
    | exact fun q => by simpa only [tkeys_tmap, tkeys_tmod] using q
    | with_reducible apply Agree.upd_pmc

theorem State.notify_agree {M : List Comp} {s x : State} {a1} (g : Covers M [.flt, .st, .pmc] = true) (h : Agree M s x) :
    Agree M s (State.notify x a1) := by
  unfold State.notify
  repeat' first
    | with_reducible exact h
    | exact covers_trans (by decide) g
    | with_reducible apply State.countH_agree
    | with_reducible apply Agree.ite
    | exact fun _ _ q => q
    | exact fun q => by simpa only [tkeys_tmap, tkeys_tmod] using q
    | intro _
    | dsimp only
    | with_reducible apply Agree.upd_st
    | (refine Agree.upds (by dsimp only <;> exact rfl) ?_ ?_; rotate_left
       · intro c; cases c <;> first | exact Or.inl (covers_mem g (by decide)) | exact Or.inr rfl | exact Or.inr (fun q => q) | exact Or.inr (Nat.le_refl _) | exact Or.inr (fun _ q => q) | exact Or.inr (fun _ => ⟨rfl, rfl⟩) | exact Or.inr (said_same rfl rfl))

theorem State.raise_agree {M : List Comp} {s x : State} {a1} (g : Covers M [.flt, .st, .pmc] = true) (h : Agree M s x) :
    Agree M s (State.raise x a1) := by
  have key : ∀ (r : Record), (x.flt.logOffer r).1.fatal = x.flt.fatal := by
    intro r; unfold Faults.logOffer; repeat' first | exact rfl | split | dsimp only
  unfold State.raise
  dsimp only
  split
  · exact Agree.upd_flt (covers_trans (by decide) g) h (fun q => q)
  · have k := fun r => Agree.upd_flt (v := { (x.flt.logOffer r).1 with ring := tset (x.flt.logOffer r).1.ring (r.seq % 1024) (x.flt.logOffer r).2, seq := (r.seq + 1) % 2 ^ 32, err := (x.flt.logOffer r).1.err ||| recFlags r }) (covers_trans (K := [.flt]) (by decide) g) h (fun q => (key r).trans q)
    split
    · exact State.notify_agree g (k _)
    · exact k _

theorem State.complete_agree {M : List Comp} {s x : State} {a1 a2} (g : Covers M [.hif, .st, .out] = true) (h : Agree M s x) :
    Agree M s (State.complete x a1 a2) := by
  unfold State.complete
  repeat' first
    | with_reducible exact h
    | exact covers_trans (by decide) g
    | with_reducible apply State.queueAnswers_agree
    | with_reducible apply Agree.foldl
    | exact fun _ _ q => q
    | exact fun q => by simpa only [tkeys_tmap, tkeys_tmod] using q
    | intro _
    | dsimp only
    | with_reducible apply Agree.upd_st

theorem State.modCtx_agree {M : List Comp} {s x : State} {a1 a2} (g : Covers M [.ctxs] = true) (h : Agree M s x) :
    Agree M s (State.modCtx x a1 a2) := by
  unfold State.modCtx
  repeat' first
    | with_reducible exact h
    | exact covers_trans (by decide) g
    | exact fun q => by simpa only [tkeys_tmap, tkeys_tmod] using q
    | with_reducible apply Agree.upd_ctxs

theorem State.completeAll_agree {M : List Comp} {s x : State} {a1 a2 a3} (g : Covers M [.hif, .st, .out] = true) (h : Agree M s x) :
    Agree M s (State.completeAll x a1 a2 a3) := by
  unfold State.completeAll
  repeat' first
    | with_reducible exact h
    | exact covers_trans (by decide) g
    | with_reducible apply State.queueAnswers_agree
    | with_reducible apply Agree.foldl
    | exact fun _ _ q => q
    | exact fun q => by simpa only [tkeys_tmap, tkeys_tmod] using q
    | intro _
    | dsimp only
    | with_reducible apply Agree.upd_st

theorem State.ackFlit_agree {M : List Comp} {s x : State} {a1 a2 a3} (g : Covers M [.out] = true) (h : Agree M s x) :
    Agree M s (State.ackFlit x a1 a2 a3) := by
  unfold State.ackFlit
  repeat' first
    | with_reducible exact h
    | exact covers_trans (by decide) g
    | with_reducible apply State.emit_agree

theorem State.mapMasts_agree {M : List Comp} {s x : State} {f : Nat → Mast → Mast} (g : Covers M [.masts] = true)
    (h : Agree M s x) (k : ∀ n, MastKept M (f n)) : Agree M s (State.mapMasts x f) := by
  exact Agree.mapMasts g h k

theorem State.completeOf_agree {M : List Comp} {s x : State} {a1 a2 a3} (g : Covers M [.hif, .st, .out] = true) (h : Agree M s x) :
    Agree M s (State.completeOf x a1 a2 a3) := by
  unfold State.completeOf
  repeat' first
    | with_reducible exact h
    | exact covers_trans (by decide) g
    | with_reducible apply State.queueAnswers_agree
    | with_reducible apply Agree.foldl
    | exact fun _ _ q => q
    | exact fun q => by simpa only [tkeys_tmap, tkeys_tmod] using q
    | intro _
    | dsimp only
    | with_reducible apply Agree.upd_st

theorem State.sendCredit_agree {M : List Comp} {s x : State} {a1} (g : Covers M [.st, .out] = true) (h : Agree M s x) :
    Agree M s (State.sendCredit x a1) := by
  unfold State.sendCredit
  repeat' first
    | with_reducible exact h
    | exact covers_trans (by decide) g
    | with_reducible apply State.modChan_agree
    | with_reducible apply State.emit_agree
    | with_reducible apply Agree.ite
    | exact fun _ _ q => q
    | exact fun q => by simpa only [tkeys_tmap, tkeys_tmod] using q
    | intro _
    | split

theorem State.giveCredit_agree {M : List Comp} {s x : State} {a1 a2} (g : Covers M [.st, .out] = true) (h : Agree M s x) :
    Agree M s (State.giveCredit x a1 a2) := by
  unfold State.giveCredit
  repeat' first
    | with_reducible exact h
    | exact covers_trans (by decide) g
    | with_reducible apply State.modChan_agree
    | with_reducible apply State.sendCredit_agree
    | with_reducible apply Agree.ite
    | exact fun _ _ q => q
    | intro _

theorem State.owe_agree {M : List Comp} {s x : State} {a1 a2 a3} (g : Covers M [.st] = true) (h : Agree M s x) :
    Agree M s (State.owe x a1 a2 a3) := by
  unfold State.owe
  repeat' first
    | with_reducible exact h
    | exact covers_trans (by decide) g
    | exact fun _ _ q => q
    | exact fun q => by simpa only [tkeys_tmap, tkeys_tmod] using q
    | dsimp only
    | with_reducible apply Agree.upd_st

theorem State.drawnN_agree {M : List Comp} {s x : State} {a1} (g : Covers M [.free] = true) (h : Agree M s x) :
    Agree M s (State.drawnN x a1) := by
  unfold State.drawnN
  repeat' first
    | with_reducible exact h
    | exact covers_trans (by decide) g
    | exact fun q => by simpa only [tkeys_tmap, tkeys_tmod] using q
    | with_reducible apply Agree.upd_free

theorem State.whenAssigned_agree {M : List Comp} {s x : State} (g : Covers M [] = true) (h : Agree M s x) :
    Agree M s (State.whenAssigned x x) := by
  unfold State.whenAssigned
  repeat' first
    | with_reducible exact h
    | with_reducible apply Agree.ite
    | intro _

theorem State.repairRow_agree {M : List Comp} {s x : State} {a1 a2 a3} (g : Covers M [.flt, .st, .masts, .pmc] = true) (h : Agree M s x) :
    Agree M s (State.repairRow x a1 a2 a3) := by
  unfold State.repairRow
  repeat' first
    | with_reducible exact h
    | exact covers_trans (by decide) g
    | with_reducible apply State.modMast_agree
    | with_reducible apply State.raise_agree
    | with_reducible apply Agree.ite
    | exact fun q => by simpa only [tkeys_tmap, tkeys_tmod] using q
    | exact fun z => MastTo.same rfl rfl fun q => q
    | intro _
    | dsimp only
    | with_reducible apply Agree.upd_flt

theorem State.touchDram_agree {M : List Comp} {s x : State} {a1 a2 a3 a4} (g : Covers M [.flt, .st, .masts, .pmc] = true) (h : Agree M s x) :
    Agree M s (State.touchDram x a1 a2 a3 a4).1 := by
  unfold State.touchDram
  repeat' first
    | with_reducible exact h
    | exact covers_trans (by decide) g
    | with_reducible apply State.modMast_agree
    | with_reducible apply State.repairRow_agree
    | with_reducible apply Agree.foldl
    | exact fun z => MastTo.same rfl rfl fun q => q
    | intro _

theorem State.fillRest_agree {M : List Comp} {s x : State} {a1 a2 a3 a4} (g : Covers M [.flt, .st, .masts, .pmc] = true) (h : Agree M s x) :
    Agree M s (State.fillRest x a1 a2 a3 a4) := by
  unfold State.fillRest
  repeat' first
    | with_reducible exact h
    | exact covers_trans (by decide) g
    | with_reducible apply State.touchDram_agree
    | with_reducible apply Agree.foldl
    | intro _

theorem State.readDram_agree {M : List Comp} {s x : State} {a1 a2 a3 a4} (g : Covers M [.flt, .st, .masts, .pmc] = true) (h : Agree M s x) :
    Agree M s (State.readDram x a1 a2 a3 a4).1 := by
  unfold State.readDram
  repeat' first
    | with_reducible exact h
    | exact covers_trans (by decide) g
    | with_reducible apply State.modMast_agree
    | with_reducible apply State.fillRest_agree
    | with_reducible apply State.touchDram_agree
    | exact fun q => by simpa only [tkeys_tmap, tkeys_tmod] using q
    | refine mastKept_of fun z => ?_
    | exact MastTo.refl _
    | with_reducible apply MastTo.lookup

theorem State.writeDram_agree {M : List Comp} {s x : State} {a1 a2 a3 a4} (g : Covers M [.flt, .st, .masts, .pmc, .cells] = true) (h : Agree M s x) :
    Agree M s (State.writeDram x a1 a2 a3 a4).1 := by
  unfold State.writeDram
  refine State.modMast_agree (covers_trans (by decide) g) (State.fillRest_agree (covers_trans (by decide) g) (Agree.foldl_fst h fun y a hy => State.touchDram_agree (covers_trans (by decide) g) hy)) fun z => ?_
  have k : ∀ l, MastTo M z { z with dram := z.dram.put l a3 a4 } := fun l => MastTo.dram (covers_trans (by decide) g) (MastTo.refl z) fun q => Dram.put_cells_wf q
  exact (k _).of_eq rfl (congrArg Spad.cells (MastTo.lookup_same _ _ _ _ _).1) (MastTo.lookup_same _ _ _ _ _).2

theorem State.meet_agree {M : List Comp} {s x : State} {a1 a2 a3} (g : Covers M [.ctxs] = true) (h : Agree M s x) :
    Agree M s (State.meet x a1 a2 a3) := by
  unfold State.meet
  repeat' first
    | with_reducible exact h
    | exact covers_trans (by decide) g
    | with_reducible apply State.modCtx_agree

theorem State.mastWrite_agree {M : List Comp} {s x : State} {a1 a2 a3 a4} (g : Covers M [.flt, .st, .masts, .ctxs, .pmc, .cells] = true) (h : Agree M s x) :
    Agree M s (State.mastWrite x a1 a2 a3 a4) := by
  unfold State.mastWrite
  repeat' first
    | with_reducible exact h
    | exact covers_trans (by decide) g
    | with_reducible apply State.writeDram_agree
    | with_reducible apply State.meet_agree
    | with_reducible apply State.modCtx_agree
    | with_reducible apply Agree.ite
    | exact fun q => by simpa only [tkeys_tmap, tkeys_tmod] using q
    | intro _
    | split
    | dsimp only

theorem State.setPool_agree {M : List Comp} {s x : State} {a1 a2 a3} (g : Covers M [.flt, .st, .masts, .ctxs, .pmc, .cells] = true) (h : Agree M s x) :
    Agree M s (State.setPool x a1 a2 a3) := by
  unfold State.setPool
  repeat' first
    | with_reducible exact h
    | exact covers_trans (by decide) g
    | with_reducible assumption
    | with_reducible apply State.mastWrite_agree
    | with_reducible apply State.modCtx_agree
    | with_reducible apply Agree.ite
    | with_reducible apply Agree.foldl
    | exact fun q => by simpa only [tkeys_tmap, tkeys_tmod] using q
    | intro _
    | split

theorem State.modSession_agree {M : List Comp} {s x : State} {a1 a2} (g : Covers M [.sess] = true) (h : Agree M s x) :
    Agree M s (State.modSession x a1 a2) := by
  unfold State.modSession
  repeat' first
    | with_reducible exact h
    | exact covers_trans (by decide) g
    | exact fun q => by simpa only [tkeys_tmap, tkeys_tmod] using q
    | with_reducible apply Agree.upd_sess

theorem State.setPage_agree {M : List Comp} {s x : State} {a1 a2 a3 a4} (g : Covers M [.flt, .st, .masts, .ctxs, .sess, .pmc, .cells] = true) (h : Agree M s x) :
    Agree M s (State.setPage x a1 a2 a3 a4) := by
  unfold State.setPage
  repeat' first
    | with_reducible exact h
    | exact covers_trans (by decide) g
    | with_reducible apply State.modSession_agree
    | with_reducible apply State.mastWrite_agree
    | exact fun q => by simpa only [tkeys_tmap, tkeys_tmod] using q
    | split

theorem State.sealAborted_agree {M : List Comp} {s x : State} {a1 a2 a3} (g : Covers M [.masts] = true) (h : Agree M s x) :
    Agree M s (State.sealAborted x a1 a2 a3) := by
  unfold State.sealAborted
  repeat' first
    | with_reducible exact h
    | exact covers_trans (by decide) g
    | with_reducible apply State.modMast_agree
    | with_reducible apply State.countM_agree
    | exact fun z => MastTo.same rfl rfl fun q => q

theorem State.dropRef_agree {M : List Comp} {s x : State} {a1 a2 a3} (g : Covers M [.flt, .st, .masts, .ctxs, .pmc, .cells] = true) (h : Agree M s x) :
    Agree M s (State.dropRef x a1 a2 a3) := by
  unfold State.dropRef
  repeat' first
    | with_reducible exact h
    | exact covers_trans (by decide) g
    | with_reducible apply State.sealAborted_agree
    | with_reducible apply State.setPool_agree
    | with_reducible apply Agree.ite
    | exact fun q => by simpa only [tkeys_tmap, tkeys_tmod] using q
    | intro _
    | split
    | dsimp only

theorem State.releasePages_agree {M : List Comp} {s x : State} {a1 a2} (g : Covers M [.flt, .st, .masts, .ctxs, .sess, .pmc, .cells] = true) (h : Agree M s x) :
    Agree M s (State.releasePages x a1 a2) := by
  unfold State.releasePages
  repeat' first
    | with_reducible exact h
    | exact covers_trans (by decide) g
    | with_reducible assumption
    | with_reducible apply State.setPage_agree
    | with_reducible apply State.dropRef_agree
    | with_reducible apply Agree.foldl
    | exact fun q => by simpa only [tkeys_tmap, tkeys_tmod] using q
    | intro _
    | split

theorem State.closeSession_agree {M : List Comp} {s x : State} {a1} (g : Covers M [.flt, .st, .masts, .ctxs, .sess, .pmc, .cells] = true) (h : Agree M s x) :
    Agree M s (State.closeSession x a1) := by
  unfold State.closeSession
  repeat' first
    | with_reducible exact h
    | exact covers_trans (by decide) g
    | with_reducible apply State.releasePages_agree
    | exact fun q => by simpa only [tkeys_tmap, tkeys_tmod] using q
    | dsimp only
    | with_reducible apply Agree.upd_sess

theorem State.mastRead_agree {M : List Comp} {s x : State} {a1 a2 a3 a4} (g : Covers M [.flt, .st, .masts, .ctxs, .pmc] = true) (h : Agree M s x) :
    Agree M s (State.mastRead x a1 a2 a3 a4).1 := by
  induction a4 generalizing x  with
  | nil =>
    unfold State.mastRead
    repeat' first
      | with_reducible exact h
  | cons b l ih =>
    unfold State.mastRead
    repeat' first
      | with_reducible exact h
      | exact covers_trans (by decide) g
      | with_reducible apply ih
      | with_reducible apply State.readDram_agree
      | with_reducible apply State.meet_agree
      | with_reducible apply Agree.ite_fst
      | exact fun q => by simpa only [tkeys_tmap, tkeys_tmod] using q
      | intro _
      | split
      | dsimp only

theorem State.openImage_agree {M : List Comp} {s x : State} {a1 a2 a3 a4 a5} (g : Covers M [.flt, .st, .masts, .ctxs, .pmc] = true) (h : Agree M s x) :
    Agree M s (State.openImage x a1 a2 a3 a4 a5).1 := by
  unfold State.openImage
  repeat' first
    | with_reducible exact h
    | exact covers_trans (by decide) g
    | with_reducible apply State.countM_agree
    | with_reducible apply State.mastRead_agree
    | with_reducible apply Agree.ite_fst
    | exact fun q => by simpa only [tkeys_tmap, tkeys_tmod] using q
    | intro _
    | split

theorem State.writePage_agree {M : List Comp} {s x : State} {a1 a2 a3 a4 a5 a6} (g : Covers M [.flt, .st, .masts, .pmc, .cells] = true) (h : Agree M s x) :
    Agree M s (State.writePage x a1 a2 a3 a4 a5 a6) := by
  unfold State.writePage
  repeat' first
    | with_reducible exact h
    | exact covers_trans (by decide) g
    | with_reducible apply State.writeDram_agree
    | with_reducible apply Agree.foldl_fst
    | intro _

theorem State.openPage_agree {M : List Comp} {s x : State} {a1 a2 a3 a4 a5} (g : Covers M [.flt, .st, .masts, .ctxs, .sess, .pmc, .cells] = true) (h : Agree M s x) :
    Agree M s (State.openPage x a1 a2 a3 a4 a5) := by
  unfold State.openPage
  repeat' first
    | with_reducible exact h
    | exact covers_trans (by decide) g
    | with_reducible apply State.setPage_agree
    | with_reducible apply State.dropRef_agree
    | with_reducible apply State.openImage_agree
    | with_reducible apply State.writePage_agree
    | with_reducible apply State.setPool_agree
    | exact fun q => by simpa only [tkeys_tmap, tkeys_tmod] using q
    | split

theorem State.sharePages_agree {M : List Comp} {s x : State} {a1 a2 a3} (g : Covers M [.flt, .st, .masts, .ctxs, .sess, .pmc, .cells] = true) (h : Agree M s x) :
    Agree M s (State.sharePages x a1 a2 a3) := by
  unfold State.sharePages
  repeat' first
    | with_reducible exact h
    | exact covers_trans (by decide) g
    | with_reducible assumption
    | with_reducible apply State.modSession_agree
    | with_reducible apply State.setPage_agree
    | with_reducible apply State.setPool_agree
    | with_reducible apply Agree.foldl
    | exact fun q => by simpa only [tkeys_tmap, tkeys_tmod] using q
    | intro _
    | split
    | dsimp only

theorem State.walk_agree {M : List Comp} {s x : State} {a1 a2 a3} (g : Covers M [.flt, .st, .masts, .ctxs, .sess, .pmc, .cells] = true) (h : Agree M s x) :
    Agree M s (State.walk x a1 a2 a3).1 := by
  unfold State.walk
  repeat' first
    | with_reducible exact h
    | exact covers_trans (by decide) g
    | with_reducible assumption
    | with_reducible apply State.modMast_agree
    | with_reducible apply State.openPage_agree
    | with_reducible apply State.mastWrite_agree
    | with_reducible apply State.modCtx_agree
    | with_reducible apply Agree.ite
    | with_reducible apply Agree.foldl
    | exact fun q => by simpa only [tkeys_tmap, tkeys_tmod] using q
    | exact fun z => MastTo.same rfl rfl fun q => q
    | intro _
    | split

theorem State.commitSeals_agree {M : List Comp} {s x : State} {a1 a2 a3 a4 a5} (g : Covers M [.flt, .st, .masts, .ctxs, .pmc, .cells] = true) (h : Agree M s x) :
    Agree M s (State.commitSeals x a1 a2 a3 a4 a5) := by
  unfold State.commitSeals
  repeat' first
    | with_reducible exact h
    | exact covers_trans (by decide) g
    | with_reducible assumption
    | with_reducible apply State.writeDram_agree
    | with_reducible apply State.mastRead_agree
    | with_reducible apply State.setPool_agree
    | with_reducible apply Agree.foldl
    | exact fun q => by simpa only [tkeys_tmap, tkeys_tmod] using q
    | intro _
    | split
    | dsimp only

theorem State.writeLate_agree {M : List Comp} {s x : State} {a1} (g : Covers M [.flt, .st, .masts, .ctxs, .pmc, .cells] = true) (h : Agree M s x) :
    Agree M s (State.writeLate x a1) := by
  unfold State.writeLate
  repeat' first
    | with_reducible exact h
    | exact covers_trans (by decide) g
    | with_reducible apply State.mastWrite_agree
    | with_reducible apply State.modCtx_agree
    | with_reducible apply Agree.foldl
    | exact fun q => by simpa only [tkeys_tmap, tkeys_tmod] using q
    | intro _
    | split

theorem State.kvTables_agree {M : List Comp} {s x : State} {a1} (g : Covers M [.flt, .st, .masts, .ctxs, .pmc, .cells] = true) (h : Agree M s x) :
    Agree M s (State.kvTables x a1) := by
  unfold State.kvTables
  repeat' first
    | with_reducible exact h
    | exact covers_trans (by decide) g
    | with_reducible apply State.mastWrite_agree
    | with_reducible apply Agree.foldl
    | exact fun q => by simpa only [tkeys_tmap, tkeys_tmod] using q
    | intro _
    | split

theorem State.modNlc_agree {M : List Comp} {s x : State} {f : Nalec → Nalec} (g : Covers M [.nlc] = true) (h : Agree M s x)
    (k : tkeys x.nlc.ports = List.range 42 → tkeys (f x.nlc).ports = List.range 42) : Agree M s (State.modNlc x f) := by
  exact Agree.upd_nlc g h k

theorem State.modPort_agree {M : List Comp} {s x : State} {a1 a2} (g : Covers M [.nlc] = true) (h : Agree M s x) :
    Agree M s (State.modPort x a1 a2) := by
  unfold State.modPort
  exact State.modNlc_agree g h fun q => (tkeys_tmod _ _ _).trans q

theorem State.sendFrame_agree {M : List Comp} {s x : State} {a1 a2} (g : Covers M [.out] = true) (h : Agree M s x) :
    Agree M s (State.sendFrame x a1 a2) := by
  unfold State.sendFrame
  repeat' first
    | with_reducible exact h
    | exact covers_trans (by decide) g
    | with_reducible apply State.emit_agree
    | with_reducible apply Agree.ite
    | intro _

theorem State.frameOut_agree {M : List Comp} {s x : State} {a1 a2} (g : Covers M [.nlc, .out] = true) (h : Agree M s x) :
    Agree M s (State.frameOut x a1 a2) := by
  unfold State.frameOut
  repeat' first
    | with_reducible exact h
    | exact covers_trans (by decide) g
    | with_reducible apply State.modPort_agree
    | with_reducible apply State.sendFrame_agree
    | with_reducible apply State.emit_agree

theorem State.sendOn_agree {M : List Comp} {s x : State} {a1 a2} (g : Covers M [.nlc, .out] = true) (h : Agree M s x) :
    Agree M s (State.sendOn x a1 a2) := by
  unfold State.sendOn
  repeat' first
    | with_reducible exact h
    | exact covers_trans (by decide) g
    | with_reducible apply State.modPort_agree
    | with_reducible apply State.frameOut_agree
    | with_reducible apply Agree.ite
    | intro _

theorem State.sendVia_agree {M : List Comp} {s x : State} {a1 a2} (g : Covers M [.nlc, .out] = true) (h : Agree M s x) :
    Agree M s (State.sendVia x a1 a2).1 := by
  unfold State.sendVia
  repeat' first
    | with_reducible exact h
    | exact covers_trans (by decide) g
    | with_reducible apply State.sendOn_agree
    | with_reducible apply Agree.ite_fst
    | exact fun q => by simpa only [tkeys_tmap, tkeys_tmod] using q
    | intro _
    | split

theorem State.launchAs_agree {M : List Comp} {s x : State} {a1 a2} (g : Covers M [.nlc, .out] = true) (h : Agree M s x) :
    Agree M s (State.launchAs x a1 a2) := by
  unfold State.launchAs
  repeat' first
    | with_reducible exact h
    | exact covers_trans (by decide) g
    | with_reducible apply State.modNlc_agree
    | with_reducible apply State.sendVia_agree
    | exact fun q => by simpa only [tkeys_tmap, tkeys_tmod] using q
    | split

theorem State.launch_agree {M : List Comp} {s x : State} {a1} (g : Covers M [.nlc, .out] = true) (h : Agree M s x) :
    Agree M s (State.launch x a1) := by
  unfold State.launch
  repeat' first
    | with_reducible exact h
    | exact covers_trans (by decide) g
    | with_reducible apply State.launchAs_agree
    | exact fun q => by simpa only [tkeys_tmap, tkeys_tmod] using q
    | split

theorem State.issue_agree {M : List Comp} {s x : State} {a1 a2 a3 a4 a5 a6 a7 a8 a9} (g : Covers M [.nlc, .out] = true) (h : Agree M s x) :
    Agree M s (State.issue x a1 a2 a3 a4 a5 a6 a7 a8 a9).1 := by
  unfold State.issue
  repeat' first
    | with_reducible exact h
    | exact covers_trans (by decide) g
    | with_reducible apply State.launch_agree
    | with_reducible apply State.modNlc_agree
    | with_reducible apply Agree.ite
    | with_reducible apply Agree.ite_fst
    | exact fun q => by simpa only [tkeys_tmap, tkeys_tmod] using q
    | intro _

theorem State.mail_agree {M : List Comp} {s x : State} {a1 a2 a3 a4 a5} (g : Covers M [.nlc, .out] = true) (h : Agree M s x) :
    Agree M s (State.mail x a1 a2 a3 a4 a5) := by
  unfold State.mail
  repeat' first
    | with_reducible exact h
    | exact covers_trans (by decide) g
    | with_reducible apply State.issue_agree
    | with_reducible apply State.modNlc_agree
    | with_reducible apply Agree.ite
    | exact fun q => by simpa only [tkeys_tmap, tkeys_tmod] using q
    | intro _
    | split

theorem State.launchWaiting_agree {M : List Comp} {s x : State} (g : Covers M [.nlc, .out] = true) (h : Agree M s x) :
    Agree M s (State.launchWaiting x) := by
  unfold State.launchWaiting
  repeat' first
    | with_reducible exact h
    | exact covers_trans (by decide) g
    | with_reducible assumption
    | with_reducible apply State.launch_agree
    | with_reducible apply Agree.ite
    | with_reducible apply Agree.foldl
    | intro _

theorem State.sendTo_agree {M : List Comp} {s x : State} {a1 a2 a3} (g : Covers M [.nlc, .out] = true) (h : Agree M s x) :
    Agree M s (State.sendTo x a1 a2 a3).1 := by
  unfold State.sendTo
  repeat' first
    | with_reducible exact h
    | exact covers_trans (by decide) g
    | with_reducible apply State.sendVia_agree

theorem State.endReq_agree {M : List Comp} {s x : State} {a1} (g : Covers M [.nlc, .out] = true) (h : Agree M s x) :
    Agree M s (State.endReq x a1) := by
  unfold State.endReq
  repeat' first
    | with_reducible exact h
    | exact covers_trans (by decide) g
    | with_reducible apply State.launchWaiting_agree
    | with_reducible apply State.modNlc_agree
    | exact fun q => by simpa only [tkeys_tmap, tkeys_tmod] using q

theorem State.sendAckFrame_agree {M : List Comp} {s x : State} {a1 a2 a3 a4} (g : Covers M [.out] = true) (h : Agree M s x) :
    Agree M s (State.sendAckFrame x a1 a2 a3 a4) := by
  unfold State.sendAckFrame
  repeat' first
    | with_reducible exact h
    | exact covers_trans (by decide) g
    | with_reducible apply State.emit_agree

theorem State.linkOut_agree {M : List Comp} {s x : State} {a1 a2 a3 a4} (g : Covers M [.nlc, .out] = true) (h : Agree M s x) :
    Agree M s (State.linkOut x a1 a2 a3 a4) := by
  unfold State.linkOut
  repeat' first
    | with_reducible exact h
    | exact covers_trans (by decide) g
    | with_reducible apply State.modPort_agree
    | with_reducible apply State.sendFrame_agree

theorem State.linkFrame_agree {M : List Comp} {s x : State} {a1 a2 a3 a4} (g : Covers M [.nlc, .out] = true) (h : Agree M s x) :
    Agree M s (State.linkFrame x a1 a2 a3 a4) := by
  unfold State.linkFrame
  repeat' first
    | with_reducible exact h
    | exact covers_trans (by decide) g
    | with_reducible apply State.modPort_agree
    | with_reducible apply State.linkOut_agree
    | with_reducible apply Agree.ite
    | intro _

theorem State.drainPort_agree {M : List Comp} {s x : State} {a1 a2} (g : Covers M [.nlc, .out] = true) (h : Agree M s x) :
    Agree M s (State.drainPort x a1 a2) := by
  induction a2 generalizing x  with
  | zero =>
    unfold State.drainPort
    repeat' first
      | with_reducible exact h
  | succ n ih =>
    unfold State.drainPort
    repeat' first
      | with_reducible exact h
      | exact covers_trans (by decide) g
      | with_reducible apply ih
      | with_reducible apply State.modPort_agree
      | with_reducible apply State.frameOut_agree
      | with_reducible apply State.linkOut_agree
      | with_reducible apply Agree.ite
      | exact fun q => by simpa only [tkeys_tmap, tkeys_tmod] using q
      | intro _
      | split

theorem State.resendFrames_agree {M : List Comp} {s x : State} {a1} (g : Covers M [.out] = true) (h : Agree M s x) :
    Agree M s (State.resendFrames x a1) := by
  unfold State.resendFrames
  repeat' first
    | with_reducible exact h
    | exact covers_trans (by decide) g
    | with_reducible apply State.sendFrame_agree
    | with_reducible apply Agree.foldl
    | intro _

end Sys2Proof.Machine
end

