-- ==== Sys2Proof/Laws/FrameServe.lean ====
section
/-! SUPPORT. What each operation may change, as `Agree` with the parts that it leaves alone: serving, scheduling and teardown. -/
namespace Sys2Proof.Machine
set_option maxRecDepth 3000

theorem State.dropRecorded_agree {M : List Comp} {s x : State} {a1} (g : Covers M [.ctxs] = true) (h : Agree M s x) :
    Agree M s (State.dropRecorded x a1) := by
  unfold State.dropRecorded
  repeat' first
    | with_reducible exact h
    | exact covers_trans (by decide) g
    | with_reducible assumption
    | with_reducible apply State.modCtx_agree
    | with_reducible apply Agree.foldl
    | exact fun q => by simpa only [tkeys_tmap, tkeys_tmod] using q
    | intro _
    | split

theorem State.modReq_agree {M : List Comp} {s x : State} {a1 a2} (g : Covers M [.reqs] = true) (h : Agree M s x) :
    Agree M s (State.modReq x a1 a2) := by
  unfold State.modReq
  repeat' first
    | with_reducible exact h
    | exact covers_trans (by decide) g
    | exact fun q => by simpa only [tkeys_tmap, tkeys_tmod] using q
    | with_reducible apply Agree.upd_reqs

theorem State.faultReq_agree {M : List Comp} {s x : State} {a1 a2} (g : Covers M [.reqs, .srvErr] = true) (h : Agree M s x) :
    Agree M s (State.faultReq x a1 a2) := by
  unfold State.faultReq
  repeat' first
    | with_reducible exact h
    | exact covers_trans (by decide) g
    | with_reducible apply State.modReq_agree
    | exact fun q => by simpa only [tkeys_tmap, tkeys_tmod] using q
    | dsimp only
    | with_reducible apply Agree.upd_srvErr

theorem State.modExport_agree {M : List Comp} {s x : State} {a1 a2} (g : Covers M [.exports] = true) (h : Agree M s x) :
    Agree M s (State.modExport x a1 a2) := by
  unfold State.modExport
  repeat' first
    | with_reducible exact h
    | exact covers_trans (by decide) g
    | exact fun q => by simpa only [tkeys_tmap, tkeys_tmod] using q
    | with_reducible apply Agree.upd_exports

theorem State.unshipAll_agree {M : List Comp} {s x : State} {a1 a2} (g : Covers M [.flt, .st, .masts, .ctxs, .pmc, .cells] = true) (h : Agree M s x) :
    Agree M s (State.unshipAll x a1 a2) := by
  unfold State.unshipAll
  repeat' first
    | with_reducible exact h
    | exact covers_trans (by decide) g
    | with_reducible assumption
    | with_reducible apply State.setPool_agree
    | with_reducible apply Agree.foldl
    | exact fun q => by simpa only [tkeys_tmap, tkeys_tmod] using q
    | intro _
    | split

theorem State.noteSession_agree {M : List Comp} {s x : State} {a1 a2} (g : Covers M [.ctxs] = true) (h : Agree M s x) :
    Agree M s (State.noteSession x a1 a2) := by
  unfold State.noteSession
  repeat' first
    | with_reducible exact h
    | exact covers_trans (by decide) g
    | with_reducible apply State.modCtx_agree

theorem State.settleDraining_agree {M : List Comp} {s x : State} {a1} (g : Covers M [.flt, .st, .masts, .ctxs, .reqs, .sess, .pmc, .cells] = true) (h : Agree M s x) :
    Agree M s (State.settleDraining x a1) := by
  unfold State.settleDraining
  repeat' first
    | with_reducible exact h
    | exact covers_trans (by decide) g
    | with_reducible assumption
    | with_reducible apply State.noteSession_agree
    | with_reducible apply State.closeSession_agree
    | with_reducible apply State.modReq_agree
    | with_reducible apply Agree.ite
    | with_reducible apply Agree.foldl
    | exact fun q => by simpa only [tkeys_tmap, tkeys_tmod] using q
    | intro _
    | split

theorem State.finishExport_agree {M : List Comp} {s x : State} {a1} (g : Covers M [.flt, .hif, .st, .masts, .ctxs, .reqs, .sess, .exports, .pmc, .out, .cells] = true) (h : Agree M s x) :
    Agree M s (State.finishExport x a1) := by
  unfold State.finishExport
  repeat' first
    | with_reducible exact h
    | exact covers_trans (by decide) g
    | with_reducible apply State.complete_agree
    | with_reducible apply State.settleDraining_agree
    | with_reducible apply State.modCtx_agree
    | with_reducible apply Agree.ite
    | exact fun q => by simpa only [tkeys_tmap, tkeys_tmod] using q
    | intro _
    | split
    | with_reducible apply Agree.upd_exports

theorem State.stopExport_agree {M : List Comp} {s x : State} {a1} (g : Covers M [.flt, .hif, .st, .masts, .ctxs, .reqs, .sess, .exports, .pmc, .out, .cells] = true) (h : Agree M s x) :
    Agree M s (State.stopExport x a1) := by
  unfold State.stopExport
  repeat' first
    | with_reducible exact h
    | exact covers_trans (by decide) g
    | with_reducible apply State.modExport_agree
    | with_reducible apply State.unshipAll_agree
    | with_reducible apply State.finishExport_agree
    | exact fun q => by simpa only [tkeys_tmap, tkeys_tmod] using q
    | split

theorem State.emitFab_agree {M : List Comp} {s x : State} {a1 a2} (g : Covers M [.out] = true) (h : Agree M s x) :
    Agree M s (State.emitFab x a1 a2) := by
  unfold State.emitFab
  repeat' first
    | with_reducible exact h
    | exact covers_trans (by decide) g
    | with_reducible apply State.emit_agree
    | with_reducible apply Agree.ite
    | intro _

theorem State.flagOwed_agree {M : List Comp} {s x : State} {a1 a2 a3} (g : Covers M [.ctxs] = true) (h : Agree M s x) :
    Agree M s (State.flagOwed x a1 a2 a3) := by
  unfold State.flagOwed
  repeat' first
    | with_reducible exact h
    | exact covers_trans (by decide) g
    | with_reducible apply State.modCtx_agree

theorem State.openSession_agree {M : List Comp} {s x : State} {a1 a2 a3 a4} (g : Covers M [.flt, .st, .masts, .ctxs, .sess, .pmc, .cells] = true) (h : Agree M s x) :
    Agree M s (State.openSession x a1 a2 a3 a4) := by
  unfold State.openSession
  repeat' first
    | with_reducible exact h
    | exact covers_trans (by decide) g
    | with_reducible apply State.noteSession_agree
    | with_reducible apply State.mastWrite_agree
    | with_reducible apply State.closeSession_agree
    | with_reducible apply Agree.foldl
    | exact fun q => by simpa only [tkeys_tmap, tkeys_tmod] using q
    | intro _
    | split
    | with_reducible apply Agree.upd_sess

theorem State.pageStatus_agree {M : List Comp} {s x : State} {a1 a2 a3} (g : Covers M [.exports] = true) (h : Agree M s x) :
    Agree M s (State.pageStatus x a1 a2 a3) := by
  unfold State.pageStatus
  repeat' first
    | with_reducible exact h
    | exact covers_trans (by decide) g
    | with_reducible apply State.modExport_agree

theorem State.shipPage_agree {M : List Comp} {s x : State} {a1 a2} (g : Covers M [.flt, .st, .masts, .ctxs, .exports, .pmc, .cells] = true) (h : Agree M s x) :
    Agree M s (State.shipPage x a1 a2) := by
  unfold State.shipPage
  repeat' first
    | with_reducible exact h
    | exact covers_trans (by decide) g
    | with_reducible assumption
    | with_reducible apply State.modExport_agree
    | with_reducible apply State.pageStatus_agree
    | with_reducible apply State.setPool_agree
    | with_reducible apply Agree.ite
    | with_reducible apply Agree.foldl
    | exact fun q => by simpa only [tkeys_tmap, tkeys_tmod] using q
    | intro _
    | split

theorem State.sendHeader_agree {M : List Comp} {s x : State} {a1} (g : Covers M [.exports, .out] = true) (h : Agree M s x) :
    Agree M s (State.sendHeader x a1) := by
  unfold State.sendHeader
  repeat' first
    | with_reducible exact h
    | exact covers_trans (by decide) g
    | with_reducible apply State.modExport_agree
    | with_reducible apply State.emitFab_agree
    | with_reducible apply Agree.ite
    | exact fun q => by simpa only [tkeys_tmap, tkeys_tmod] using q
    | intro _
    | split

theorem State.readShipments_agree {M : List Comp} {s x : State} {a1 a2} (g : Covers M [.flt, .st, .masts, .ctxs, .pmc] = true) (h : Agree M s x) :
    Agree M s (State.readShipments x a1 a2).1 := by
  induction a2 generalizing x  with
  | nil =>
    unfold State.readShipments
    repeat' first
      | with_reducible exact h
  | cons b l ih =>
    unfold State.readShipments
    repeat' first
      | with_reducible exact h
      | exact covers_trans (by decide) g
      | with_reducible apply ih
      | with_reducible apply State.mastRead_agree
      | exact fun q => by simpa only [tkeys_tmap, tkeys_tmod] using q
      | split
      | dsimp only

theorem State.sendPage_agree {M : List Comp} {s x : State} {a1 a2} (g : Covers M [.flt, .st, .masts, .ctxs, .exports, .pmc, .out] = true) (h : Agree M s x) :
    Agree M s (State.sendPage x a1 a2) := by
  unfold State.sendPage
  repeat' first
    | with_reducible exact h
    | exact covers_trans (by decide) g
    | with_reducible apply State.pageStatus_agree
    | with_reducible apply State.readShipments_agree
    | with_reducible apply State.emitFab_agree
    | with_reducible apply Agree.ite
    | with_reducible apply Agree.foldl
    | exact fun q => by simpa only [tkeys_tmap, tkeys_tmod] using q
    | intro _
    | split
    | dsimp only

theorem State.eachPage_agree {M : List Comp} {s x : State} {a1 a2 a3} (h : Agree M s x)
    (k : ∀ y p, Agree M s y → Agree M s (a3 y p)) : Agree M s (State.eachPage x a1 a2 a3) := by
  unfold State.eachPage
  split
  · exact h
  · exact Agree.foldl h fun y a hy => k y _ hy

theorem State.driveExport_agree {M : List Comp} {s x : State} {a1} (g : Covers M [.flt, .hif, .st, .masts, .ctxs, .reqs, .sess, .exports, .pmc, .out, .cells] = true) (h : Agree M s x) :
    Agree M s (State.driveExport x a1) := by
  unfold State.driveExport
  have k : Agree M s (State.sendHeader (x.eachPage a1 4 fun s p => s.shipPage a1 p) a1) :=
    State.sendHeader_agree (covers_trans (by decide) g) (State.eachPage_agree h fun y p hy => State.shipPage_agree (covers_trans (by decide) g) hy)
  refine State.finishExport_agree (covers_trans (by decide) g) (Agree.ite (fun _ => ?_) fun _ => k)
  exact State.eachPage_agree k fun y p hy => State.sendPage_agree (covers_trans (by decide) g) hy

theorem State.sendWaiting_agree {M : List Comp} {s x : State} {a1} (g : Covers M [.flt, .hif, .st, .masts, .ctxs, .reqs, .sess, .exports, .pmc, .out, .cells] = true) (h : Agree M s x) :
    Agree M s (State.sendWaiting x a1) := by
  unfold State.sendWaiting
  repeat' first
    | with_reducible exact h
    | exact covers_trans (by decide) g
    | with_reducible apply State.driveExport_agree
    | with_reducible apply Agree.foldl
    | intro _

theorem State.copySession_agree {M : List Comp} {s x : State} {a1 a2} (g : Covers M [.flt, .hif, .st, .masts, .ctxs, .reqs, .sess, .exports, .nextExp, .pmc, .out, .cells] = true) (h : Agree M s x) :
    Agree M s (State.copySession x a1 a2) := by
  unfold State.copySession
  repeat' first
    | with_reducible exact h
    | exact covers_trans (by decide) g
    | with_reducible apply State.emitFab_agree
    | with_reducible apply State.sendWaiting_agree
    | exact fun q => by simpa only [tkeys_tmap, tkeys_tmod] using q
    | split
    | dsimp only
    | with_reducible apply Agree.upd_exports
    | with_reducible apply Agree.upd_nextExp
    | (refine Agree.upds (by dsimp only <;> exact rfl) ?_ ?_; rotate_left
       · intro c; cases c <;> first | exact Or.inl (covers_mem g (by decide)) | exact Or.inr rfl | exact Or.inr (fun q => q) | exact Or.inr (Nat.le_refl _) | exact Or.inr (fun _ q => q) | exact Or.inr (fun _ => ⟨rfl, rfl⟩) | exact Or.inr (said_same rfl rfl))

theorem State.releaseBundle_agree {M : List Comp} {s x : State} {a1 a2 a3} (g : Covers M [.ctxs, .reqs] = true) (h : Agree M s x) :
    Agree M s (State.releaseBundle x a1 a2 a3) := by
  unfold State.releaseBundle
  repeat' first
    | with_reducible exact h
    | exact covers_trans (by decide) g
    | with_reducible apply State.modReq_agree
    | with_reducible apply State.modCtx_agree
    | with_reducible apply Agree.foldl
    | intro _

theorem State.releaseBundles_agree {M : List Comp} {s x : State} {a1 a2} (g : Covers M [.flt, .hif, .st, .masts, .ctxs, .reqs, .sess, .exports, .pmc, .out, .cells] = true) (h : Agree M s x) :
    Agree M s (State.releaseBundles x a1 a2) := by
  induction a2 generalizing x  with
  | zero =>
    unfold State.releaseBundles
    repeat' first
      | with_reducible exact h
      | exact covers_trans (by decide) g
      | with_reducible apply State.settleDraining_agree
  | succ n ih =>
    unfold State.releaseBundles
    repeat' first
      | with_reducible exact h
      | exact covers_trans (by decide) g
      | with_reducible apply ih
      | with_reducible apply State.releaseBundle_agree
      | with_reducible apply State.settleDraining_agree
      | with_reducible apply State.modCtx_agree
      | with_reducible apply State.sendWaiting_agree
      | with_reducible apply Agree.ite
      | exact fun q => by simpa only [tkeys_tmap, tkeys_tmod] using q
      | intro _
      | split

theorem State.setMirror_agree {M : List Comp} {s x : State} {a1 a2 a3} (g : Covers M [.reqs, .sess] = true) (h : Agree M s x) :
    Agree M s (State.setMirror x a1 a2 a3) := by
  unfold State.setMirror
  repeat' first
    | with_reducible exact h
    | exact fun q => by simpa only [tkeys_tmap, tkeys_tmod] using q
    | (refine Agree.upds (by dsimp only <;> exact rfl) ?_ ?_; rotate_left
       · intro c; cases c <;> first | exact Or.inl (covers_mem g (by decide)) | exact Or.inr rfl | exact Or.inr (fun q => q) | exact Or.inr (Nat.le_refl _) | exact Or.inr (fun _ q => q) | exact Or.inr (fun _ => ⟨rfl, rfl⟩) | exact Or.inr (said_same rfl rfl))

theorem State.syncCheck_agree {M : List Comp} {s x : State} {a1} (g : Covers M [.flt, .hif, .st, .masts, .ctxs, .reqs, .sess, .exports, .pmc, .out, .cells] = true) (h : Agree M s x) :
    Agree M s (State.syncCheck x a1) := by
  unfold State.syncCheck
  repeat' first
    | with_reducible exact h
    | exact covers_trans (by decide) g
    | with_reducible apply State.releaseBundles_agree
    | with_reducible apply State.setMirror_agree
    | with_reducible apply Agree.ite
    | exact fun q => by simpa only [tkeys_tmap, tkeys_tmod] using q
    | intro _
    | split

theorem State.endCopies_agree {M : List Comp} {s x : State} {a1 a2} (g : Covers M [.flt, .hif, .st, .masts, .ctxs, .reqs, .sess, .exports, .pmc, .out, .cells] = true) (h : Agree M s x) :
    Agree M s (State.endCopies x a1 a2) := by
  unfold State.endCopies
  repeat' first
    | with_reducible exact h
    | exact covers_trans (by decide) g
    | with_reducible apply State.stopExport_agree
    | with_reducible apply Agree.foldl
    | intro _

theorem State.startResync_agree {M : List Comp} {s x : State} {a1 a2} (g : Covers M [.flt, .hif, .st, .masts, .ctxs, .reqs, .sess, .exports, .nextExp, .pmc, .out, .cells] = true) (h : Agree M s x) :
    Agree M s (State.startResync x a1 a2) := by
  unfold State.startResync
  repeat' first
    | with_reducible exact h
    | exact covers_trans (by decide) g
    | with_reducible apply State.copySession_agree
    | with_reducible apply State.syncCheck_agree
    | with_reducible apply State.endCopies_agree
    | with_reducible apply State.emitFab_agree
    | with_reducible apply State.modCtx_agree
    | with_reducible apply State.setMirror_agree
    | with_reducible apply Agree.foldl
    | exact fun q => by simpa only [tkeys_tmap, tkeys_tmod] using q
    | intro _
    | split
    | dsimp only
    | with_reducible apply Agree.upd_nextExp

theorem State.setPartner_agree {M : List Comp} {s x : State} {a1 a2 a3 a4 a5} (g : Covers M [.flt, .hif, .st, .masts, .ctxs, .reqs, .sess, .exports, .nextExp, .pmc, .out, .cells] = true) (h : Agree M s x) :
    Agree M s (State.setPartner x a1 a2 a3 a4 a5) := by
  unfold State.setPartner
  repeat' first
    | with_reducible exact h
    | exact covers_trans (by decide) g
    | with_reducible apply State.startResync_agree
    | with_reducible apply State.endCopies_agree
    | with_reducible apply State.modCtx_agree
    | with_reducible apply State.setMirror_agree
    | with_reducible apply Agree.ite
    | exact fun q => by simpa only [tkeys_tmap, tkeys_tmod] using q
    | intro _
    | split

theorem State.oweEntry_agree {M : List Comp} {s x : State} {a1 a2 a3 a4 a5} (g : Covers M [.ctxs] = true) (h : Agree M s x) :
    Agree M s (State.oweEntry x a1 a2 a3 a4 a5) := by
  unfold State.oweEntry
  repeat' first
    | with_reducible exact h
    | exact covers_trans (by decide) g
    | with_reducible apply State.modCtx_agree
    | exact fun q => by simpa only [tkeys_tmap, tkeys_tmod] using q
    | split

theorem State.stopReq_agree {M : List Comp} {s x : State} {a1 a2 a3} (g : Covers M [.ctxs, .reqs] = true) (h : Agree M s x) :
    Agree M s (State.stopReq x a1 a2 a3) := by
  unfold State.stopReq
  repeat' first
    | with_reducible exact h
    | exact covers_trans (by decide) g
    | with_reducible apply State.oweEntry_agree
    | with_reducible apply State.modReq_agree
    | exact fun q => by simpa only [tkeys_tmap, tkeys_tmod] using q
    | split

theorem State.submitReq_agree {M : List Comp} {s x : State} {a1 a2} (g : Covers M [.reqs] = true) (h : Agree M s x) :
    Agree M s (State.submitReq x a1 a2) := by
  unfold State.submitReq
  repeat' first
    | with_reducible exact h
    | exact covers_trans (by decide) g
    | exact fun q => by simpa only [tkeys_tmap, tkeys_tmod] using q
    | split
    | dsimp only
    | with_reducible apply Agree.upd_reqs

theorem State.applyConfig_agree {M : List Comp} {s x : State} {a1 a2} (g : Covers M [.flt, .hif, .st, .masts, .ctxs, .reqs, .sess, .exports, .nextExp, .pmc, .out, .cells] = true) (h : Agree M s x) :
    Agree M s (State.applyConfig x a1 a2) := by
  unfold State.applyConfig
  repeat' first
    | with_reducible exact h
    | exact covers_trans (by decide) g
    | with_reducible apply State.setPartner_agree
    | with_reducible apply State.modCtx_agree

theorem State.startExport_agree {M : List Comp} {s x : State} {a1} (g : Covers M [.flt, .hif, .st, .masts, .ctxs, .reqs, .sess, .exports, .pmc, .out, .cells] = true) (h : Agree M s x) :
    Agree M s (State.startExport x a1) := by
  unfold State.startExport
  repeat' first
    | with_reducible exact h
    | exact covers_trans (by decide) g
    | with_reducible apply State.modExport_agree
    | with_reducible apply State.complete_agree
    | with_reducible apply State.sendWaiting_agree
    | with_reducible apply Agree.ite
    | exact fun q => by simpa only [tkeys_tmap, tkeys_tmod] using q
    | intro _
    | split
    | with_reducible apply Agree.upd_exports

theorem State.applyCmd_agree {M : List Comp} {s x : State} {a1 a2} (g : Covers M [.flt, .hif, .st, .masts, .ctxs, .reqs, .sess, .exports, .nextExp, .pmc, .out, .cells] = true) (h : Agree M s x) :
    Agree M s (State.applyCmd x a1 a2) := by
  unfold State.applyCmd
  repeat' first
    | with_reducible exact h
    | exact covers_trans (by decide) g
    | with_reducible apply State.sharePages_agree
    | with_reducible apply State.modSession_agree
    | with_reducible apply State.noteSession_agree
    | with_reducible apply State.mastWrite_agree
    | with_reducible apply State.flagOwed_agree
    | with_reducible apply State.releasePages_agree
    | with_reducible apply State.openSession_agree
    | with_reducible apply State.setPartner_agree
    | with_reducible apply State.stopReq_agree
    | with_reducible apply State.closeSession_agree
    | with_reducible apply State.submitReq_agree
    | with_reducible apply State.modReq_agree
    | with_reducible apply State.sendWaiting_agree
    | with_reducible apply State.applyConfig_agree
    | with_reducible apply State.startExport_agree
    | with_reducible apply Agree.ite
    | with_reducible apply Agree.foldl
    | exact fun q => by simpa only [tkeys_tmap, tkeys_tmod] using q
    | intro _
    | split
    | with_reducible apply Agree.upd_reqs

theorem State.applyRecorded_agree {M : List Comp} {s x : State} {a1} (g : Covers M [.flt, .hif, .st, .masts, .ctxs, .reqs, .sess, .exports, .nextExp, .pmc, .out, .cells] = true) (h : Agree M s x) :
    Agree M s (State.applyRecorded x a1) := by
  unfold State.applyRecorded
  repeat' first
    | with_reducible exact h
    | exact covers_trans (by decide) g
    | with_reducible apply State.modCtx_agree
    | with_reducible apply State.applyCmd_agree
    | with_reducible apply Agree.foldl
    | exact fun q => by simpa only [tkeys_tmap, tkeys_tmod] using q
    | intro _
    | split

theorem State.logLine_agree {M : List Comp} {s x : State} {a1 a2} (g : Covers M [.ctxs, .srvErr, .nlc, .out] = true) (h : Agree M s x) :
    Agree M s (State.logLine x a1 a2) := by
  unfold State.logLine
  repeat' first
    | with_reducible exact h
    | exact covers_trans (by decide) g
    | with_reducible apply State.issue_agree
    | with_reducible apply State.modCtx_agree
    | with_reducible apply Agree.ite
    | exact fun q => by simpa only [tkeys_tmap, tkeys_tmod] using q
    | intro _
    | split
    | dsimp only
    | with_reducible apply Agree.upd_srvErr

theorem State.logRecord_agree {M : List Comp} {s x : State} {a1 a2 a3} (g : Covers M [.ctxs, .srvErr, .nlc, .out] = true) (h : Agree M s x) :
    Agree M s (State.logRecord x a1 a2 a3) := by
  unfold State.logRecord
  repeat' first
    | with_reducible exact h
    | exact covers_trans (by decide) g
    | with_reducible apply State.modCtx_agree
    | with_reducible apply State.logLine_agree
    | with_reducible apply Agree.ite
    | with_reducible apply Agree.foldl
    | exact fun q => by simpa only [tkeys_tmap, tkeys_tmod] using q
    | intro _
    | split

theorem State.startStep_agree {M : List Comp} {s x : State} {a1} (g : Covers M [.flt, .st, .masts, .ctxs, .reqs, .sess, .pmc, .cells] = true) (h : Agree M s x) :
    Agree M s (State.startStep x a1) := by
  unfold State.startStep
  repeat' first
    | with_reducible exact h
    | exact covers_trans (by decide) g
    | with_reducible assumption
    | with_reducible apply State.modMast_agree
    | with_reducible apply State.modReq_agree
    | with_reducible apply State.modCtx_agree
    | with_reducible apply State.walk_agree
    | with_reducible apply State.countH_agree
    | with_reducible apply Agree.ite
    | with_reducible apply Agree.foldl
    | exact fun q => by simpa only [tkeys_tmap, tkeys_tmod] using q
    | exact fun z => MastTo.same rfl rfl fun q => q
    | intro _
    | split

theorem State.rowResult_agree {M : List Comp} {s x : State} {a1 a2} (g : Covers M [.reqs, .sess, .srvErr] = true) (h : Agree M s x) :
    Agree M s (State.rowResult x a1 a2) := by
  unfold State.rowResult
  repeat' first
    | with_reducible exact h
    | exact covers_trans (by decide) g
    | with_reducible apply State.modSession_agree
    | with_reducible apply State.faultReq_agree
    | with_reducible apply State.modReq_agree
    | with_reducible apply Agree.ite
    | exact fun q => by simpa only [tkeys_tmap, tkeys_tmod] using q
    | intro _
    | split

theorem State.transitions_agree {M : List Comp} {s x : State} {a1} (g : Covers M [.reqs] = true) (h : Agree M s x) :
    Agree M s (State.transitions x a1) := by
  unfold State.transitions
  repeat' first
    | with_reducible exact h
    | exact covers_trans (by decide) g
    | with_reducible assumption
    | with_reducible apply State.modReq_agree
    | with_reducible apply Agree.ite
    | with_reducible apply Agree.foldl
    | exact fun q => by simpa only [tkeys_tmap, tkeys_tmod] using q
    | intro _
    | split

theorem State.closeStep_agree {M : List Comp} {s x : State} {a1 a2} (g : Covers M [.flt, .hif, .st, .masts, .ctxs, .reqs, .sess, .exports, .pmc, .out, .cells] = true) (h : Agree M s x) :
    Agree M s (State.closeStep x a1 a2) := by
  unfold State.closeStep
  repeat' first
    | with_reducible exact h
    | exact covers_trans (by decide) g
    | with_reducible apply State.releaseBundles_agree
    | with_reducible apply State.modCtx_agree

theorem State.showSessions_agree {M : List Comp} {s x : State} {a1} (g : Covers M [.sess] = true) (h : Agree M s x) :
    Agree M s (State.showSessions x a1) := by
  unfold State.showSessions
  repeat' first
    | with_reducible exact h
    | exact covers_trans (by decide) g
    | exact fun q => by simpa only [tkeys_tmap, tkeys_tmod] using q
    | split
    | dsimp only
    | with_reducible apply Agree.upd_sess

theorem State.deadlines_agree {M : List Comp} {s x : State} {a1} (g : Covers M [.ctxs, .reqs] = true) (h : Agree M s x) :
    Agree M s (State.deadlines x a1) := by
  unfold State.deadlines
  repeat' first
    | with_reducible exact h
    | exact covers_trans (by decide) g
    | with_reducible assumption
    | with_reducible apply State.stopReq_agree
    | with_reducible apply Agree.ite
    | with_reducible apply Agree.foldl
    | exact fun q => by simpa only [tkeys_tmap, tkeys_tmod] using q
    | intro _
    | split

theorem State.serveBoundary_agree {M : List Comp} {s x : State} {a1} (g : Covers M [.flt, .hif, .st, .masts, .ctxs, .reqs, .sess, .srvErr, .exports, .nextExp, .pmc, .out, .cells] = true) (h : Agree M s x) :
    Agree M s (State.serveBoundary x a1) := by
  unfold State.serveBoundary
  repeat' first
    | with_reducible exact h
    | exact covers_trans (by decide) g
    | with_reducible apply State.rowResult_agree
    | with_reducible apply State.applyRecorded_agree
    | with_reducible apply State.transitions_agree
    | with_reducible apply State.closeStep_agree
    | with_reducible apply State.releaseBundles_agree
    | with_reducible apply State.showSessions_agree
    | with_reducible apply State.deadlines_agree
    | with_reducible apply Agree.foldl
    | exact fun q => by simpa only [tkeys_tmap, tkeys_tmod] using q
    | intro _
    | split

theorem State.commitLog_agree {M : List Comp} {s x : State} {a1 a2} (g : Covers M [.ctxs, .srvErr, .nlc, .out] = true) (h : Agree M s x) :
    Agree M s (State.commitLog x a1 a2) := by
  unfold State.commitLog
  repeat' first
    | with_reducible exact h
    | exact covers_trans (by decide) g
    | with_reducible apply State.logRecord_agree
    | with_reducible apply State.modCtx_agree
    | with_reducible apply Agree.ite
    | exact fun q => by simpa only [tkeys_tmap, tkeys_tmod] using q
    | intro _
    | split

theorem State.record_agree {M : List Comp} {s x : State} {a1 a2} (g : Covers M [.ctxs] = true) (h : Agree M s x) :
    Agree M s (State.record x a1 a2) := by
  unfold State.record
  repeat' first
    | with_reducible exact h
    | exact covers_trans (by decide) g
    | with_reducible apply State.modCtx_agree

theorem State.projectedAll_agree {M : List Comp} {s x : State} (g : Covers M [.flt, .hif, .st, .masts, .ctxs, .reqs, .sess, .exports, .nextExp, .pmc, .out, .cells] = true) (h : Agree M s x) :
    Agree M s (State.projectedAll x) := by
  unfold State.projectedAll
  repeat' first
    | with_reducible exact h
    | exact covers_trans (by decide) g
    | with_reducible apply State.applyCmd_agree
    | with_reducible apply Agree.foldl
    | exact fun q => by simpa only [tkeys_tmap, tkeys_tmod] using q
    | intro _
    | with_reducible apply Agree.upd_ctxs

theorem State.drainLog_agree {M : List Comp} {s x : State} {a1} (g : Covers M [.ctxs, .srvErr, .nlc, .out] = true) (h : Agree M s x) :
    Agree M s (State.drainLog x a1) := by
  unfold State.drainLog
  repeat' first
    | with_reducible exact h
    | exact covers_trans (by decide) g
    | with_reducible apply State.modCtx_agree
    | with_reducible apply State.logLine_agree
    | with_reducible apply Agree.foldl
    | exact fun q => by simpa only [tkeys_tmap, tkeys_tmod] using q
    | intro _
    | split

theorem State.endPage_agree {M : List Comp} {s x : State} {a1 a2 a3} (g : Covers M [.flt, .hif, .st, .masts, .ctxs, .reqs, .sess, .srvErr, .exports, .pmc, .out, .cells] = true) (h : Agree M s x) :
    Agree M s (State.endPage x a1 a2 a3) := by
  unfold State.endPage
  repeat' first
    | with_reducible exact h
    | exact covers_trans (by decide) g
    | with_reducible apply State.modExport_agree
    | with_reducible apply State.unshipAll_agree
    | with_reducible apply State.modReq_agree
    | with_reducible apply State.sendWaiting_agree
    | with_reducible apply State.finishExport_agree
    | with_reducible apply Agree.ite
    | exact fun q => by simpa only [tkeys_tmap, tkeys_tmod] using q
    | intro _
    | split
    | with_reducible apply Agree.upd_srvErr

theorem State.servePmc_agree {M : List Comp} {s x : State} {a1 a2} (g : Covers M [.masts] = true) (h : Agree M s x) :
    Agree M s (State.servePmc x a1 a2) := by
  unfold State.servePmc
  repeat' first
    | with_reducible exact h
    | exact covers_trans (by decide) g
    | with_reducible apply State.modMast_agree
    | with_reducible apply Agree.ite
    | exact fun q => by simpa only [tkeys_tmap, tkeys_tmod] using q
    | exact fun z => MastTo.same rfl rfl fun q => q
    | intro _
    | split

theorem State.promote_agree {M : List Comp} {s x : State} {a1} (g : Covers M [.ctxs] = true) (h : Agree M s x) :
    Agree M s (State.promote x a1) := by
  unfold State.promote
  repeat' first
    | with_reducible exact h
    | exact covers_trans (by decide) g
    | with_reducible apply State.modCtx_agree
    | with_reducible apply Agree.ite
    | exact fun q => by simpa only [tkeys_tmap, tkeys_tmod] using q
    | intro _
    | split

theorem State.takeEngines_agree {M : List Comp} {s x : State} {a1 a2} (g : Covers M [.masts, .ctxs] = true) (h : Agree M s x) :
    Agree M s (State.takeEngines x a1 a2) := by
  unfold State.takeEngines
  repeat' first
    | with_reducible exact h
    | exact covers_trans (by decide) g
    | with_reducible apply State.modMast_agree
    | with_reducible apply State.promote_agree
    | with_reducible apply State.modCtx_agree
    | with_reducible apply State.servePmc_agree
    | exact fun q => by simpa only [tkeys_tmap, tkeys_tmod] using q
    | exact fun z => MastTo.same rfl rfl fun q => q
    | split
    | dsimp only

theorem State.serveWaiters_agree {M : List Comp} {s x : State} {a0 a1 a2} (g : Covers M [.masts, .ctxs] = true) (h : Agree M s x) :
    Agree M s (State.serveWaiters a0 a1 a2 x) := by
  induction a1 generalizing x a2 with
  | nil =>
    unfold State.serveWaiters
    repeat' first
      | with_reducible exact h
  | cons b l ih =>
    unfold State.serveWaiters
    repeat' first
      | with_reducible exact h
      | exact covers_trans (by decide) g
      | with_reducible apply ih
      | with_reducible apply State.takeEngines_agree
      | with_reducible apply Agree.ite
      | intro _

theorem State.displace_agree {M : List Comp} {s x : State} {a1 a2} (g : Covers M [.masts, .ctxs] = true) (h : Agree M s x) :
    Agree M s (State.displace x a1 a2) := by
  unfold State.displace
  repeat' first
    | with_reducible exact h
    | exact covers_trans (by decide) g
    | with_reducible apply State.modMast_agree
    | with_reducible apply State.modCtx_agree
    | exact fun z => MastTo.same rfl rfl fun q => q

theorem State.reeval_agree {M : List Comp} {s x : State} {a1 a2} (g : Covers M [.masts, .ctxs] = true) (h : Agree M s x) :
    Agree M s (State.reeval x a1 a2) := by
  unfold State.reeval
  repeat' first
    | with_reducible exact h
    | exact covers_trans (by decide) g
    | with_reducible assumption
    | with_reducible apply State.serveWaiters_agree
    | with_reducible apply State.displace_agree
    | with_reducible apply Agree.ite
    | with_reducible apply Agree.foldl
    | exact fun q => by simpa only [tkeys_tmap, tkeys_tmod] using q
    | intro _
    | with_reducible apply Agree.upd_ctxs

theorem State.freeEngines_agree {M : List Comp} {s x : State} {a1 a2} (g : Covers M [.masts, .ctxs, .cells] = true) (h : Agree M s x) :
    Agree M s (State.freeEngines x a1 a2) := by
  unfold State.freeEngines
  refine Agree.ite (fun _ => State.reeval_agree (covers_trans (by decide) g) (State.modMast_agree (covers_trans (by decide) g) h fun z => ?_)) fun _ => h
  exact MastTo.of_eq (MastTo.zeroSlices _ (covers_trans (by decide) g) (MastTo.refl z)) rfl rfl rfl

theorem State.reevalAll_agree {M : List Comp} {s x : State} {a1} (g : Covers M [.masts, .ctxs] = true) (h : Agree M s x) :
    Agree M s (State.reevalAll x a1) := by
  unfold State.reevalAll
  repeat' first
    | with_reducible exact h
    | exact covers_trans (by decide) g
    | with_reducible apply State.reeval_agree
    | with_reducible apply Agree.foldl
    | intro _

theorem State.modCol_agree {M : List Comp} {s x : State} {a1} (g : Covers M [.col] = true) (h : Agree M s x) :
    Agree M s (State.modCol x a1) := by
  unfold State.modCol
  repeat' first
    | with_reducible exact h
    | exact covers_trans (by decide) g
    | exact fun q => by simpa only [tkeys_tmap, tkeys_tmod] using q
    | with_reducible apply Agree.upd_col

theorem State.modGroup_agree {M : List Comp} {s x : State} {a1 a2} (g : Covers M [.col] = true) (h : Agree M s x) :
    Agree M s (State.modGroup x a1 a2) := by
  unfold State.modGroup
  repeat' first
    | with_reducible exact h
    | exact covers_trans (by decide) g
    | with_reducible apply State.modCol_agree

theorem State.sendCol_agree {M : List Comp} {s x : State} {a1 a2 a3} (g : Covers M [.nlc, .col, .out] = true) (h : Agree M s x) :
    Agree M s (State.sendCol x a1 a2 a3).1 := by
  unfold State.sendCol
  repeat' first
    | with_reducible exact h
    | exact covers_trans (by decide) g
    | with_reducible apply State.sendTo_agree
    | with_reducible apply State.modCol_agree
    | with_reducible apply Agree.ite_fst
    | intro _

theorem State.colNotice_agree {M : List Comp} {s x : State} {a1 a2 a3 a4 a5} (g : Covers M [.nlc, .col, .out] = true) (h : Agree M s x) :
    Agree M s (State.colNotice x a1 a2 a3 a4 a5) := by
  unfold State.colNotice
  repeat' first
    | with_reducible exact h
    | exact covers_trans (by decide) g
    | with_reducible apply State.sendCol_agree

theorem State.colTellAll_agree {M : List Comp} {s x : State} {a1 a2 a3} (g : Covers M [.nlc, .col, .out] = true) (h : Agree M s x) :
    Agree M s (State.colTellAll x a1 a2 a3) := by
  unfold State.colTellAll
  repeat' first
    | with_reducible exact h
    | exact covers_trans (by decide) g
    | with_reducible assumption
    | with_reducible apply State.colNotice_agree
    | with_reducible apply Agree.ite
    | with_reducible apply Agree.foldl
    | exact fun q => by simpa only [tkeys_tmap, tkeys_tmod] using q
    | intro _
    | split

theorem State.dropCall_agree {M : List Comp} {s x : State} {a1 a2 a3 a4} (g : Covers M [.masts, .col] = true) (h : Agree M s x) :
    Agree M s (State.dropCall x a1 a2 a3 a4) := by
  unfold State.dropCall
  repeat' first
    | with_reducible exact h
    | exact covers_trans (by decide) g
    | with_reducible apply State.modMast_agree
    | with_reducible apply State.modCol_agree
    | with_reducible apply Agree.ite
    | exact fun q => by simpa only [tkeys_tmap, tkeys_tmod] using q
    | exact fun z => MastTo.same rfl rfl fun q => q
    | intro _
    | split

theorem State.withdrawCtx_agree {M : List Comp} {s x : State} {a1} (g : Covers M [.masts, .nlc, .col, .out] = true) (h : Agree M s x) :
    Agree M s (State.withdrawCtx x a1) := by
  unfold State.withdrawCtx
  repeat' first
    | with_reducible exact h
    | exact covers_trans (by decide) g
    | with_reducible assumption
    | with_reducible apply State.modGroup_agree
    | with_reducible apply State.modCol_agree
    | with_reducible apply State.colTellAll_agree
    | with_reducible apply State.dropCall_agree
    | with_reducible apply Agree.foldl
    | intro _

theorem State.modCall_agree {M : List Comp} {s x : State} {a1 a2 a3} (g : Covers M [.col] = true) (h : Agree M s x) :
    Agree M s (State.modCall x a1 a2 a3) := by
  unfold State.modCall
  repeat' first
    | with_reducible exact h
    | exact covers_trans (by decide) g
    | with_reducible apply State.modCol_agree

theorem State.sendSwitch_agree {M : List Comp} {s x : State} {a1 a2 a3 a4} (g : Covers M [.nlc, .out] = true) (h : Agree M s x) :
    Agree M s (State.sendSwitch x a1 a2 a3 a4).1 := by
  unfold State.sendSwitch
  repeat' first
    | with_reducible exact h
    | exact covers_trans (by decide) g
    | with_reducible apply State.sendOn_agree
    | with_reducible apply Agree.ite_fst
    | exact fun q => by simpa only [tkeys_tmap, tkeys_tmod] using q
    | intro _
    | split

theorem State.sendChunk_agree {M : List Comp} {s x : State} {a1 a2 a3} (g : Covers M [.nlc, .col, .out] = true) (h : Agree M s x) :
    Agree M s (State.sendChunk x a1 a2 a3).1 := by
  unfold State.sendChunk
  repeat' first
    | with_reducible exact h
    | exact covers_trans (by decide) g
    | with_reducible apply State.sendCol_agree
    | with_reducible apply State.sendSwitch_agree
    | with_reducible apply Agree.ite_fst
    | intro _

theorem State.sendEnds_agree {M : List Comp} {s x : State} {a1 a2} (g : Covers M [.nlc, .col, .out] = true) (h : Agree M s x) :
    Agree M s (State.sendEnds x a1 a2) := by
  unfold State.sendEnds
  repeat' first
    | with_reducible exact h
    | exact covers_trans (by decide) g
    | with_reducible apply State.colNotice_agree
    | with_reducible apply State.modCall_agree
    | with_reducible apply Agree.foldl
    | exact fun q => by simpa only [tkeys_tmap, tkeys_tmod] using q
    | intro _
    | split

theorem launchList_agree {M : List Comp} {s x : State} {a0 a1 a2 a3} (g : Covers M [.nlc, .col, .out] = true) (h : Agree M s x) :
    Agree M s (launchList a0 a1 a2 a3 x).2 := by
  induction a2 generalizing x a3 with
  | nil =>
    unfold launchList
    repeat' first
      | with_reducible exact h
  | cons b l ih =>
    unfold launchList
    repeat' first
      | with_reducible exact h
      | exact covers_trans (by decide) g
      | with_reducible apply ih
      | with_reducible apply State.sendChunk_agree
      | exact fun q => by simpa only [tkeys_tmap, tkeys_tmod] using q
      | split

theorem State.launchChunks_agree {M : List Comp} {s x : State} {a1 a2} (g : Covers M [.nlc, .col, .out] = true) (h : Agree M s x) :
    Agree M s (State.launchChunks x a1 a2) := by
  unfold State.launchChunks
  repeat' first
    | with_reducible exact h
    | exact covers_trans (by decide) g
    | with_reducible apply State.sendEnds_agree
    | with_reducible apply launchList_agree
    | with_reducible apply State.modCall_agree
    | with_reducible apply Agree.ite
    | exact fun q => by simpa only [tkeys_tmap, tkeys_tmod] using q
    | intro _
    | split

theorem State.addChunks_agree {M : List Comp} {s x : State} {a1 a2 a3} (g : Covers M [.nlc, .col, .out] = true) (h : Agree M s x) :
    Agree M s (State.addChunks x a1 a2 a3) := by
  unfold State.addChunks
  repeat' first
    | with_reducible exact h
    | exact covers_trans (by decide) g
    | with_reducible apply State.launchChunks_agree
    | with_reducible apply State.modCall_agree

theorem State.sendPlane_agree {M : List Comp} {s x : State} {a1 a2} (g : Covers M [.nlc, .out] = true) (h : Agree M s x) :
    Agree M s (State.sendPlane x a1 a2) := by
  unfold State.sendPlane
  repeat' first
    | with_reducible exact h
    | exact covers_trans (by decide) g
    | with_reducible apply State.sendOn_agree
    | with_reducible apply Agree.ite
    | intro _

theorem State.sendAck_agree {M : List Comp} {s x : State} {a1 a2 a3} (g : Covers M [.nlc, .col, .out] = true) (h : Agree M s x) :
    Agree M s (State.sendAck x a1 a2 a3) := by
  unfold State.sendAck
  repeat' first
    | with_reducible exact h
    | exact covers_trans (by decide) g
    | with_reducible apply State.sendCol_agree
    | with_reducible apply State.modCall_agree
    | with_reducible apply State.sendPlane_agree
    | with_reducible apply Agree.ite
    | with_reducible apply Agree.foldl
    | exact fun q => by simpa only [tkeys_tmap, tkeys_tmod] using q
    | intro _
    | split

theorem State.modShard_agree {M : List Comp} {s x : State} {a1 a2} (g : Covers M [.hal] = true) (h : Agree M s x) :
    Agree M s (State.modShard x a1 a2) := by
  unfold State.modShard
  repeat' first
    | with_reducible exact h
    | exact covers_trans (by decide) g
    | exact fun q => by simpa only [tkeys_tmap, tkeys_tmod] using q
    | dsimp only
    | with_reducible apply Agree.upd_hal

theorem State.holdClass_agree {M : List Comp} {s x : State} {a1} (g : Covers M [.flt, .hal] = true) (h : Agree M s x) :
    Agree M s (State.holdClass x a1) := by
  unfold State.holdClass
  repeat' first
    | with_reducible exact h
    | exact covers_trans (by decide) g
    | with_reducible apply State.modShard_agree
    | with_reducible apply Agree.ite
    | exact fun q => by simpa only [tkeys_tmap, tkeys_tmod] using q
    | intro _
    | dsimp only
    | with_reducible apply Agree.upd_flt

theorem State.startQueued_agree {M : List Comp} {s x : State} {a1} (g : Covers M [.flt, .hal] = true) (h : Agree M s x) :
    Agree M s (State.startQueued x a1) := by
  unfold State.startQueued
  repeat' first
    | with_reducible exact h
    | exact covers_trans (by decide) g
    | with_reducible apply State.holdClass_agree
    | with_reducible apply Agree.ite
    | exact fun q => by simpa only [tkeys_tmap, tkeys_tmod] using q
    | intro _
    | split
    | dsimp only
    | with_reducible apply Agree.upd_flt

theorem State.releaseClass_agree {M : List Comp} {s x : State} {a1} (g : Covers M [.flt, .hal] = true) (h : Agree M s x) :
    Agree M s (State.releaseClass x a1) := by
  unfold State.releaseClass
  repeat' first
    | with_reducible exact h
    | exact covers_trans (by decide) g
    | with_reducible apply State.startQueued_agree
    | exact fun q => by simpa only [tkeys_tmap, tkeys_tmod] using q
    | dsimp only
    | with_reducible apply Agree.upd_flt

theorem State.endMaint_agree {M : List Comp} {s x : State} {a1 a2} (g : Covers M [.flt, .hif, .st, .hal, .out] = true) (h : Agree M s x) :
    Agree M s (State.endMaint x a1 a2) := by
  unfold State.endMaint
  repeat' first
    | with_reducible exact h
    | exact covers_trans (by decide) g
    | with_reducible apply State.complete_agree
    | with_reducible apply State.releaseClass_agree
    | with_reducible apply Agree.ite
    | exact fun q => by simpa only [tkeys_tmap, tkeys_tmod] using q
    | intro _
    | split

theorem State.retrainEnds_agree {M : List Comp} {s x : State} {a1 a2} (g : Covers M [.flt, .hif, .st, .hal, .out] = true) (h : Agree M s x) :
    Agree M s (State.retrainEnds x a1 a2) := by
  unfold State.retrainEnds
  repeat' first
    | with_reducible exact h
    | exact covers_trans (by decide) g
    | with_reducible apply State.endMaint_agree
    | with_reducible apply Agree.ite
    | exact fun q => by simpa only [tkeys_tmap, tkeys_tmod] using q
    | intro _
    | split

theorem State.deviceMaint_agree {M : List Comp} {s x : State} {a1} (g : Covers M [.flt, .hal] = true) (h : Agree M s x) :
    Agree M s (State.deviceMaint x a1) := by
  unfold State.deviceMaint
  repeat' first
    | with_reducible exact h
    | exact covers_trans (by decide) g
    | with_reducible apply State.startQueued_agree
    | exact fun q => by simpa only [tkeys_tmap, tkeys_tmod] using q
    | dsimp only
    | with_reducible apply Agree.upd_flt

theorem State.retarget_agree {M : List Comp} {s x : State} (g : Covers M [.pwr] = true) (h : Agree M s x) :
    Agree M s (State.retarget x) := by
  unfold State.retarget
  repeat' first
    | with_reducible exact h
    | exact covers_trans (by decide) g
    | exact fun q => by simpa only [tkeys_tmap, tkeys_tmod] using q
    | exact fun q => q
    | split
    | dsimp only
    | with_reducible apply Agree.upd_pwr

theorem State.modPwr_agree {M : List Comp} {s x : State} {f : Power → Power} (g : Covers M [.pwr] = true) (h : Agree M s x)
    (k : x.pwr.capsOk → (f x.pwr).capsOk) : Agree M s (State.modPwr x f) := by
  exact Agree.upd_pwr g h k

theorem State.callHint_agree {M : List Comp} {s x : State} {a1 a2} (g : Covers M [.pwr] = true) (h : Agree M s x) :
    Agree M s (State.callHint x a1 a2) := by
  unfold State.callHint
  exact State.modPwr_agree (covers_trans (by decide) g) h fun q => q

theorem State.hint_agree {M : List Comp} {s x : State} {a1 a2 a3} (g : Covers M [.pwr] = true) (h : Agree M s x) :
    Agree M s (State.hint x a1 a2 a3) := by
  unfold State.hint
  exact State.modPwr_agree (covers_trans (by decide) g) h fun q => q

theorem State.dropShard_agree {M : List Comp} {s x : State} {a1} (g : Covers M [.hal, .nlc] = true) (h : Agree M s x) :
    Agree M s (State.dropShard x a1) := by
  unfold State.dropShard
  repeat' first
    | with_reducible exact h
    | exact covers_trans (by decide) g
    | with_reducible apply State.modNlc_agree
    | exact fun q => by simpa only [tkeys_tmap, tkeys_tmod] using q
    | dsimp only
    | with_reducible apply Agree.upd_hal

theorem State.dropLoads_agree {M : List Comp} {s x : State} {a1} (g : Covers M [.hal, .nlc] = true) (h : Agree M s x) :
    Agree M s (State.dropLoads x a1) := by
  unfold State.dropLoads
  repeat' first
    | with_reducible exact h
    | exact covers_trans (by decide) g
    | with_reducible apply State.dropShard_agree
    | with_reducible apply Agree.foldl
    | intro _

theorem State.dropFabric_agree {M : List Comp} {s x : State} {a1} (g : Covers M [.nlc] = true) (h : Agree M s x) :
    Agree M s (State.dropFabric x a1) := by
  unfold State.dropFabric
  repeat' first
    | with_reducible exact h
    | exact covers_trans (by decide) g
    | with_reducible apply State.modNlc_agree
    | exact fun q => by simpa only [tkeys_tmap, tkeys_tmod] using q

theorem State.tearRequests_agree {M : List Comp} {s x : State} {a1} (g : Covers M [.reqs, .srvErr] = true) (h : Agree M s x) :
    Agree M s (State.tearRequests x a1) := by
  unfold State.tearRequests
  repeat' first
    | with_reducible exact h
    | exact covers_trans (by decide) g
    | with_reducible apply State.faultReq_agree
    | with_reducible apply Agree.foldl
    | intro _

theorem State.tearExports_agree {M : List Comp} {s x : State} {a1} (g : Covers M [.flt, .hif, .st, .masts, .ctxs, .reqs, .sess, .exports, .pmc, .out, .cells] = true) (h : Agree M s x) :
    Agree M s (State.tearExports x a1) := by
  unfold State.tearExports
  repeat' first
    | with_reducible exact h
    | exact covers_trans (by decide) g
    | with_reducible assumption
    | with_reducible apply State.stopExport_agree
    | with_reducible apply State.complete_agree
    | with_reducible apply Agree.foldl
    | exact fun q => by simpa only [tkeys_tmap, tkeys_tmod] using q
    | intro _
    | with_reducible apply Agree.upd_exports

theorem State.endLoads_agree {M : List Comp} {s x : State} {a1 a2} (g : Covers M [.hif, .st, .hal, .nlc, .out] = true) (h : Agree M s x) :
    Agree M s (State.endLoads x a1 a2) := by
  unfold State.endLoads
  repeat' first
    | with_reducible exact h
    | exact covers_trans (by decide) g
    | with_reducible assumption
    | with_reducible apply State.complete_agree
    | with_reducible apply State.dropShard_agree
    | with_reducible apply Agree.foldl
    | intro _

theorem State.stopAll_agree {M : List Comp} {s x : State} {a1} (g : Covers M [.masts] = true) (h : Agree M s x) :
    Agree M s (State.stopAll x a1) := by
  unfold State.stopAll
  repeat' first
    | with_reducible exact h
    | exact covers_trans (by decide) g
    | with_reducible assumption
    | with_reducible apply State.modMast_agree
    | with_reducible apply Agree.foldl
    | exact fun q => by simpa only [tkeys_tmap, tkeys_tmod] using q
    | refine mastKept_of fun z => ?_
    | exact MastTo.refl _
    | with_reducible apply MastTo.refreshes
    | intro _

theorem State.tearDown_agree {M : List Comp} {s x : State} {a1 a2} (g : Covers M [.pwr, .flt, .hif, .st, .masts, .ctxs, .reqs, .sess, .srvErr, .exports, .hal, .nlc, .col, .pmc, .out, .cells] = true) (h : Agree M s x) :
    Agree M s (State.tearDown x a1 a2) := by
  unfold State.tearDown
  repeat' first
    | with_reducible exact h
    | exact covers_trans (by decide) g
    | with_reducible apply State.notify_agree
    | with_reducible apply State.dropLoads_agree
    | with_reducible apply State.dropRecorded_agree
    | with_reducible apply State.dropFabric_agree
    | with_reducible apply State.freeEngines_agree
    | with_reducible apply State.withdrawCtx_agree
    | with_reducible apply State.retarget_agree
    | with_reducible apply State.tearRequests_agree
    | with_reducible apply State.tearExports_agree
    | with_reducible apply State.completeAll_agree
    | with_reducible apply State.endLoads_agree
    | with_reducible apply State.stopAll_agree
    | with_reducible apply State.modCtx_agree
    | with_reducible apply Agree.foldl
    | exact fun q => by simpa only [tkeys_tmap, tkeys_tmod] using q
    | intro _
    | split

theorem State.contained_agree {M : List Comp} {s x : State} {a1} (g : Covers M [.pwr, .flt, .hif, .st, .masts, .ctxs, .reqs, .sess, .srvErr, .exports, .hal, .nlc, .col, .pmc, .out, .cells] = true) (h : Agree M s x) :
    Agree M s (State.contained x a1) := by
  unfold State.contained
  repeat' first
    | with_reducible exact h
    | exact covers_trans (by decide) g
    | with_reducible apply State.tearDown_agree
    | with_reducible apply State.raise_agree

theorem State.containedAt_agree {M : List Comp} {s x : State} {a1 a2 a3 a4} (g : Covers M [.pwr, .flt, .hif, .st, .masts, .ctxs, .reqs, .sess, .srvErr, .exports, .hal, .nlc, .col, .pmc, .out, .cells] = true) (h : Agree M s x) :
    Agree M s (State.containedAt x a1 a2 a3 a4) := by
  unfold State.containedAt
  repeat' first
    | with_reducible exact h
    | exact covers_trans (by decide) g
    | with_reducible apply State.contained_agree

theorem State.quarantine_agree {M : List Comp} {s x : State} {a1 a2 a3} (g : Covers M [.pwr, .flt, .hif, .st, .masts, .ctxs, .reqs, .sess, .srvErr, .exports, .hal, .nlc, .col, .pmc, .out, .cells] = true) (h : Agree M s x) :
    Agree M s (State.quarantine x a1 a2 a3) := by
  unfold State.quarantine
  repeat' first
    | with_reducible exact h
    | exact covers_trans (by decide) g
    | with_reducible apply State.contained_agree
    | with_reducible apply State.endMaint_agree
    | with_reducible apply State.complete_agree
    | with_reducible apply State.modShard_agree
    | with_reducible apply State.raise_agree
    | with_reducible apply State.modNlc_agree
    | with_reducible apply Agree.ite
    | exact fun q => by simpa only [tkeys_tmap, tkeys_tmod] using q
    | intro _
    | split
    | dsimp only
    | with_reducible apply Agree.upd_hal

theorem State.raiseMet_agree {M : List Comp} {s x : State} {a1} (g : Covers M [.pwr, .flt, .hif, .st, .masts, .ctxs, .reqs, .sess, .srvErr, .exports, .hal, .nlc, .col, .pmc, .out, .cells] = true) (h : Agree M s x) :
    Agree M s (State.raiseMet x a1) := by
  unfold State.raiseMet
  repeat' first
    | with_reducible exact h
    | exact covers_trans (by decide) g
    | with_reducible apply State.contained_agree
    | with_reducible apply State.modCtx_agree
    | with_reducible apply Agree.foldl
    | exact fun q => by simpa only [tkeys_tmap, tkeys_tmod] using q
    | intro _
    | split

theorem State.fatalAt_agree {M : List Comp} {s x : State} {a1} (g : Covers M [.cn, .flt, .hif, .st, .nlc, .pmc, .out] = true) (h : Agree M s x) :
    Agree M s (State.fatalAt x a1) := by
  unfold State.fatalAt
  refine Agree.ite (fun _ => h) fun _ => ?_
  have k := State.raise_agree (a1 := { a1 with cls := clsFT }) (covers_trans (by decide) g) h
  refine State.emit_agree (covers_trans (by decide) g) (State.modNlc_agree (covers_trans (by decide) g) ?_ fun q => by simpa only [tkeys_tmap] using q)
  refine k.trans (Agree.mono (L := [.cn, .hif, .flt]) (covers_trans (by decide) g) ⟨?_⟩)
  intro c hc
  cases c <;> first | exact absurd (by decide) hc | exact rfl | exact fun q => q | exact Nat.le_refl _ | exact fun _ q => q | exact said_same rfl rfl | exact fun _ => ⟨rfl, rfl⟩ | exact fun _ => rfl | exact fun q => by simpa only [Comp.same, tkeys_tmap] using q

theorem State.fatalNow_agree {M : List Comp} {s x : State} {a1} (g : Covers M [.cn, .flt, .hif, .st, .nlc, .pmc, .out] = true) (h : Agree M s x) :
    Agree M s (State.fatalNow x a1) := by
  unfold State.fatalNow
  repeat' first
    | with_reducible exact h
    | exact covers_trans (by decide) g
    | with_reducible apply State.fatalAt_agree

theorem State.fenceLoads_agree {M : List Comp} {s x : State} {a1} (g : Covers M [.hif, .st, .hal, .nlc, .out] = true) (h : Agree M s x) :
    Agree M s (State.fenceLoads x a1) := by
  unfold State.fenceLoads
  repeat' first
    | with_reducible exact h
    | exact covers_trans (by decide) g
    | with_reducible assumption
    | with_reducible apply State.complete_agree
    | with_reducible apply State.dropShard_agree
    | with_reducible apply Agree.foldl
    | intro _

theorem State.fence_agree {M : List Comp} {s x : State} {a1 a2} (g : Covers M [.pwr, .flt, .hif, .st, .masts, .ctxs, .reqs, .sess, .srvErr, .exports, .hal, .nlc, .col, .pmc, .out, .cells] = true) (h : Agree M s x) :
    Agree M s (State.fence x a1 a2) := by
  unfold State.fence
  repeat' first
    | with_reducible exact h
    | exact covers_trans (by decide) g
    | with_reducible apply State.modMast_agree
    | with_reducible apply State.contained_agree
    | with_reducible apply State.fenceLoads_agree
    | with_reducible apply State.raise_agree
    | with_reducible apply State.quarantine_agree
    | with_reducible apply Agree.ite
    | with_reducible apply Agree.foldl
    | exact fun q => by simpa only [tkeys_tmap, tkeys_tmod] using q
    | refine mastKept_of fun z => ?_
    | exact MastTo.same rfl rfl fun _ => rfl
    | intro _
    | dsimp only
    | with_reducible apply Agree.upd_flt

end Sys2Proof.Machine
end

