-- ==== Sys2Proof/Laws/FrameUnits.lean ====
section
/-! SUPPORT. What each operation may change, as `Agree` with the parts that it leaves alone: units, step boundaries and the host link. -/
namespace Sys2Proof.Machine
set_option maxRecDepth 3000

theorem State.readAt_agree {M : List Comp} {s x : State} {a1 a2 a3 a4} (g : Covers M [.flt, .st, .masts, .pmc] = true) (h : Agree M s x) :
    Agree M s (State.readAt x a1 a2 a3 a4).1 := by
  unfold State.readAt
  repeat' first
    | with_reducible exact h
    | exact covers_trans (by decide) g
    | with_reducible apply State.modMast_agree
    | with_reducible apply State.readDram_agree
    | with_reducible apply Agree.ite_fst
    | exact fun z => MastTo.same rfl rfl fun q => q
    | intro _

theorem State.fetch_agree {M : List Comp} {s x : State} {a1 a2 a3 a4} (g : Covers M [.flt, .st, .masts, .pmc] = true) (h : Agree M s x) :
    Agree M s (State.fetch x a1 a2 a3 a4).1 := by
  unfold State.fetch
  repeat' first
    | with_reducible exact h
    | exact covers_trans (by decide) g
    | with_reducible apply State.readAt_agree

theorem State.firstLimit_agree {M : List Comp} {s x : State} {a1 a2 a3} (g : Covers M [.masts] = true) (h : Agree M s x) :
    Agree M s (State.firstLimit x a1 a2 a3).2 := by
  unfold State.firstLimit
  repeat' first
    | with_reducible exact h
    | exact covers_trans (by decide) g
    | with_reducible apply State.modMast_agree
    | exact fun q => by simpa only [tkeys_tmap, tkeys_tmod] using q
    | exact fun z => MastTo.same rfl rfl fun q => q
    | split

theorem State.limitRec_agree {M : List Comp} {s x : State} {a1 a2 a3 a4 a5 a6} (g : Covers M [.flt, .st, .masts, .pmc] = true) (h : Agree M s x) :
    Agree M s (State.limitRec x a1 a2 a3 a4 a5 a6) := by
  unfold State.limitRec
  repeat' first
    | with_reducible exact h
    | exact covers_trans (by decide) g
    | with_reducible apply State.firstLimit_agree
    | with_reducible apply State.raise_agree
    | with_reducible apply Agree.ite
    | intro _

theorem State.ioFail_agree {M : List Comp} {s x : State} {a1 a2 a3 a4} (g : Covers M [.pwr, .flt, .hif, .st, .masts, .ctxs, .reqs, .sess, .srvErr, .exports, .hal, .nlc, .col, .pmc, .out, .cells] = true) (h : Agree M s x) :
    Agree M s (State.ioFail x a1 a2 a3 a4) := by
  unfold State.ioFail
  repeat' first
    | with_reducible exact h
    | exact covers_trans (by decide) g
    | with_reducible apply State.contained_agree

theorem State.callEnded_agree {M : List Comp} {s x : State} {a1 a2 a3} (g : Covers M [.ctxs] = true) (h : Agree M s x) :
    Agree M s (State.callEnded x a1 a2 a3) := by
  unfold State.callEnded
  repeat' first
    | with_reducible exact h
    | exact covers_trans (by decide) g
    | with_reducible apply State.modCtx_agree

theorem State.writeAt_agree {M : List Comp} {s x : State} {a1 a2 a3 a4} (g : Covers M [.flt, .st, .masts, .pmc, .cells] = true) (h : Agree M s x) :
    Agree M s (State.writeAt x a1 a2 a3 a4).1 := by
  unfold State.writeAt
  repeat' first
    | with_reducible exact h
    | exact covers_trans (by decide) g
    | with_reducible apply State.modMast_agree
    | with_reducible apply State.writeDram_agree
    | with_reducible apply Agree.ite_fst
    | exact fun q => by simpa only [tkeys_tmap, tkeys_tmod] using q
    | refine mastKept_of fun z => ?_
    | exact MastTo.refl _
    | with_reducible apply MastTo.writeSpad
    | intro _

theorem State.withWrite_agree {M : List Comp} {s x : State} {a1 a2 a3 a4 a5 a6 a7} (g : Covers M [.pwr, .flt, .hif, .st, .masts, .ctxs, .reqs, .sess, .srvErr, .exports, .hal, .nlc, .col, .pmc, .out, .cells] = true) (h : Agree M s x)
    (k : ∀ y, Agree M s y → Agree M s (a7 y)) :
    Agree M s (State.withWrite x a1 a2 a3 a4 a5 a6 a7) := by
  unfold State.withWrite
  repeat' first
    | with_reducible exact h
    | exact covers_trans (by decide) g
    | with_reducible apply State.ioFail_agree
    | with_reducible apply State.writeAt_agree
    | exact fun q => by simpa only [tkeys_tmap, tkeys_tmod] using q
    | with_reducible apply k
    | split
    | dsimp only

theorem State.spadRange_agree {M : List Comp} {s x : State} {a1 a2 a3 a4} (g : Covers M [.pwr, .flt, .hif, .st, .masts, .ctxs, .reqs, .sess, .srvErr, .exports, .hal, .nlc, .col, .pmc, .out, .cells] = true) (h : Agree M s x) :
    Agree M s (State.spadRange x a1 a2 a3 a4) := by
  unfold State.spadRange
  repeat' first
    | with_reducible exact h
    | exact covers_trans (by decide) g
    | with_reducible apply State.modMast_agree
    | with_reducible apply State.contained_agree
    | exact fun z => MastTo.same rfl rfl fun q => q

theorem State.withRead_agree {M : List Comp} {s x : State} {a1 a2 a3 a4 a5 a6 a7} (g : Covers M [.pwr, .flt, .hif, .st, .masts, .ctxs, .reqs, .sess, .srvErr, .exports, .hal, .nlc, .col, .pmc, .out, .cells] = true) (h : Agree M s x)
    (k : ∀ y b, Agree M s y → Agree M s (a7 y b)) :
    Agree M s (State.withRead x a1 a2 a3 a4 a5 a6 a7) := by
  unfold State.withRead
  repeat' first
    | with_reducible exact h
    | exact covers_trans (by decide) g
    | with_reducible apply State.readAt_agree
    | with_reducible apply State.ioFail_agree
    | exact fun q => by simpa only [tkeys_tmap, tkeys_tmod] using q
    | with_reducible apply k
    | split
    | dsimp only

theorem State.withDesc_agree {M : List Comp} {s x : State} {a1 a2 a3 a4 a5 a6} (g : Covers M [.pwr, .flt, .hif, .st, .masts, .ctxs, .reqs, .sess, .srvErr, .exports, .hal, .nlc, .col, .pmc, .out, .cells] = true) (h : Agree M s x)
    (k : ∀ y b, Agree M s y → Agree M s (a6 y b)) :
    Agree M s (State.withDesc x a1 a2 a3 a4 a5 a6) := by
  unfold State.withDesc
  repeat' first
    | with_reducible exact h
    | exact covers_trans (by decide) g
    | with_reducible assumption
    | with_reducible apply State.contained_agree
    | with_reducible apply State.callHint_agree
    | with_reducible apply State.spadRange_agree
    | with_reducible apply State.withRead_agree
    | with_reducible apply Agree.ite
    | intro _

theorem State.atOnce_agree {M : List Comp} {s x : State} {a1 a2 a3 a4 a5 a6} (g : Covers M [.pwr, .flt, .hif, .st, .masts, .ctxs, .reqs, .sess, .srvErr, .exports, .hal, .nlc, .col, .pmc, .out, .cells] = true) (h : Agree M s x)
    (k : ∀ y b, Agree M s y → Agree M s (a6 y b)) :
    Agree M s (State.atOnce x a1 a2 a3 a4 a5 a6) := by
  unfold State.atOnce
  repeat' first
    | with_reducible exact h
    | exact covers_trans (by decide) g
    | with_reducible assumption
    | with_reducible apply State.callEnded_agree
    | with_reducible apply State.withDesc_agree

theorem State.regionFail_agree {M : List Comp} {s x : State} {a1 a2 a3 a4} (g : Covers M [.pwr, .flt, .hif, .st, .masts, .ctxs, .reqs, .sess, .srvErr, .exports, .hal, .nlc, .col, .pmc, .out, .cells] = true) (h : Agree M s x)
    (k : ∀ y, Agree M s y → Agree M s (a4 y)) :
    Agree M s (State.regionFail x a1 a2 a3 a4) := by
  unfold State.regionFail
  repeat' first
    | with_reducible exact h
    | exact covers_trans (by decide) g
    | with_reducible apply State.spadRange_agree
    | with_reducible apply Agree.ite
    | exact fun q => by simpa only [tkeys_tmap, tkeys_tmod] using q
    | exact k _ ‹_›
    | intro _

theorem State.withRegions_agree {M : List Comp} {s x : State} {a1 a2 a3 a4 a5} (g : Covers M [.pwr, .flt, .hif, .st, .masts, .ctxs, .reqs, .sess, .srvErr, .exports, .hal, .nlc, .col, .pmc, .out, .cells] = true) (h : Agree M s x)
    (k : ∀ y, Agree M s y → Agree M s (a4 y))
    (k2 : ∀ y, Agree M s y → Agree M s (a5 y)) :
    Agree M s (State.withRegions x a1 a2 a3 a4 a5) := by
  unfold State.withRegions
  repeat' first
    | with_reducible exact h
    | exact covers_trans (by decide) g
    | with_reducible assumption
    | with_reducible apply State.regionFail_agree
    | exact fun q => by simpa only [tkeys_tmap, tkeys_tmod] using q
    | with_reducible exact k2 _ h
    | split

theorem State.ttReset_agree {M : List Comp} {s x : State} {a1} (g : Covers M [.masts] = true) (h : Agree M s x) :
    Agree M s (State.ttReset x a1) := by
  unfold State.ttReset
  repeat' first
    | with_reducible exact h
    | exact covers_trans (by decide) g
    | with_reducible assumption
    | with_reducible apply State.modMast_agree
    | with_reducible apply Agree.foldl
    | exact fun z => MastTo.same rfl rfl fun q => q
    | intro _

theorem State.programTaken_agree {M : List Comp} {s x : State} {a1} (g : Covers M [.masts, .ctxs] = true) (h : Agree M s x) :
    Agree M s (State.programTaken x a1) := by
  unfold State.programTaken
  repeat' first
    | with_reducible exact h
    | exact covers_trans (by decide) g
    | with_reducible assumption
    | with_reducible apply State.modMast_agree
    | with_reducible apply State.ttReset_agree
    | with_reducible apply State.modCtx_agree
    | with_reducible apply Agree.foldl
    | exact fun z => MastTo.same rfl rfl fun q => q
    | intro _

theorem State.compareSample_agree {M : List Comp} {s x : State} {a1 a2} (g : Covers M [.masts] = true) (h : Agree M s x) :
    Agree M s (State.compareSample x a1 a2) := by
  unfold State.compareSample
  repeat' first
    | with_reducible exact h
    | exact covers_trans (by decide) g
    | with_reducible apply State.modMast_agree
    | with_reducible apply State.countM_agree
    | with_reducible apply Agree.ite
    | exact fun z => MastTo.same rfl rfl fun q => q
    | intro _

theorem State.setSamples_agree {M : List Comp} {s x : State} {a1 a2} (g : Covers M [.masts] = true) (h : Agree M s x) :
    Agree M s (State.setSamples x a1 a2) := by
  unfold State.setSamples
  repeat' first
    | with_reducible exact h
    | exact covers_trans (by decide) g
    | with_reducible apply State.modMast_agree
    | exact fun z => MastTo.same rfl rfl fun q => q

theorem State.compareAll_agree {M : List Comp} {s x : State} {a1 a2} (g : Covers M [.masts] = true) (h : Agree M s x) :
    Agree M s (State.compareAll x a1 a2) := by
  induction a2 generalizing x  with
  | zero =>
    unfold State.compareAll
    repeat' first
      | with_reducible exact h
      | exact covers_trans (by decide) g
      | with_reducible apply State.compareSample_agree
      | with_reducible apply State.setSamples_agree
      | with_reducible apply Agree.foldl
      | intro _
  | succ n ih =>
    unfold State.compareAll
    repeat' first
      | with_reducible exact h
      | exact covers_trans (by decide) g
      | with_reducible apply State.compareSample_agree
      | with_reducible apply State.setSamples_agree
      | with_reducible apply Agree.foldl
      | intro _

theorem State.layerEvents_agree {M : List Comp} {s x : State} {a1 a2 a3 a4 a5} (g : Covers M [.flt, .st, .masts, .pmc] = true) (h : Agree M s x) :
    Agree M s (State.layerEvents x a1 a2 a3 a4 a5) := by
  unfold State.layerEvents
  repeat' first
    | with_reducible exact h
    | exact covers_trans (by decide) g
    | with_reducible apply State.modMast_agree
    | with_reducible apply State.raise_agree
    | with_reducible apply Agree.ite
    | with_reducible apply Agree.foldl
    | exact fun z => MastTo.same rfl rfl fun q => q
    | intro _

theorem State.ttBoundary_agree {M : List Comp} {s x : State} {a1 a2 a3 a4} (g : Covers M [.flt, .st, .masts, .pmc] = true) (h : Agree M s x) :
    Agree M s (State.ttBoundary x a1 a2 a3 a4).1 := by
  unfold State.ttBoundary
  repeat' first
    | with_reducible exact h
    | exact covers_trans (by decide) g
    | with_reducible apply State.modMast_agree
    | with_reducible apply State.compareAll_agree
    | with_reducible apply State.layerEvents_agree
    | exact fun z => MastTo.same rfl rfl fun q => q

theorem State.storm_agree {M : List Comp} {s x : State} {a1 a2 a3} (g : Covers M [.flt, .st, .masts, .pmc] = true) (h : Agree M s x) :
    Agree M s (State.storm x a1 a2 a3) := by
  unfold State.storm
  repeat' first
    | with_reducible exact h
    | exact covers_trans (by decide) g
    | with_reducible assumption
    | with_reducible apply State.modMast_agree
    | with_reducible apply State.raise_agree
    | with_reducible apply Agree.ite
    | with_reducible apply Agree.foldl
    | exact fun z => MastTo.same rfl rfl fun q => q
    | intro _

theorem State.ttAll_agree {M : List Comp} {s x : State} {a1 a2} (g : Covers M [.flt, .st, .masts, .pmc] = true) (h : Agree M s x) :
    Agree M s (State.ttAll x a1 a2) := by
  unfold State.ttAll
  repeat' first
    | with_reducible exact h
    | exact covers_trans (by decide) g
    | with_reducible assumption
    | with_reducible apply State.ttBoundary_agree
    | with_reducible apply State.storm_agree
    | with_reducible apply Agree.ite
    | with_reducible apply Agree.ite_fst
    | with_reducible apply Agree.foldl_fst
    | exact fun q => by simpa only [tkeys_tmap, tkeys_tmod] using q
    | intro _
    | split

theorem State.compareTile_agree {M : List Comp} {s x : State} {a1} (g : Covers M [.masts] = true) (h : Agree M s x) :
    Agree M s (State.compareTile x a1) := by
  unfold State.compareTile
  repeat' first
    | with_reducible exact h
    | exact covers_trans (by decide) g
    | with_reducible apply State.compareSample_agree
    | with_reducible apply State.setSamples_agree
    | exact fun q => by simpa only [tkeys_tmap, tkeys_tmod] using q
    | split

theorem State.sealWait_agree {M : List Comp} {s x : State} {a1 a2} (g : Covers M [.masts, .ctxs] = true) (h : Agree M s x) :
    Agree M s (State.sealWait x a1 a2) := by
  unfold State.sealWait
  repeat' first
    | with_reducible exact h
    | exact covers_trans (by decide) g
    | with_reducible assumption
    | with_reducible apply State.modMast_agree
    | with_reducible apply State.countM_agree
    | with_reducible apply State.modCtx_agree
    | with_reducible apply Agree.foldl
    | exact fun z => MastTo.same rfl rfl fun q => q
    | intro _

theorem State.tryStart_agree {M : List Comp} {s x : State} {a1} (g : Covers M [.flt, .st, .masts, .ctxs, .reqs, .sess, .srvErr, .pmc, .cells] = true) (h : Agree M s x) :
    Agree M s (State.tryStart x a1) := by
  unfold State.tryStart
  repeat' first
    | with_reducible exact h
    | exact covers_trans (by decide) g
    | with_reducible apply State.startStep_agree
    | with_reducible apply Agree.ite
    | exact fun q => by simpa only [tkeys_tmap, tkeys_tmod] using q
    | intro _
    | split
    | with_reducible apply Agree.upd_srvErr

theorem State.pageBoundary_agree {M : List Comp} {s x : State} {a1 a2 a3 a4 a5 a6} (g : Covers M [.flt, .st, .masts, .ctxs, .pmc, .cells] = true) (h : Agree M s x) :
    Agree M s (State.pageBoundary x a1 a2 a3 a4 a5 a6) := by
  unfold State.pageBoundary
  repeat' first
    | with_reducible exact h
    | exact covers_trans (by decide) g
    | with_reducible apply State.commitSeals_agree
    | with_reducible apply State.setPool_agree

theorem State.pagesAll_agree {M : List Comp} {s x : State} {a1 a2 a3 a4} (g : Covers M [.flt, .hif, .st, .masts, .ctxs, .reqs, .sess, .exports, .pmc, .out, .cells] = true) (h : Agree M s x) :
    Agree M s (State.pagesAll x a1 a2 a3 a4) := by
  unfold State.pagesAll
  repeat' first
    | with_reducible exact h
    | exact covers_trans (by decide) g
    | with_reducible assumption
    | with_reducible apply State.pageBoundary_agree
    | with_reducible apply State.sendWaiting_agree
    | with_reducible apply Agree.ite
    | with_reducible apply Agree.foldl
    | exact fun q => by simpa only [tkeys_tmap, tkeys_tmod] using q
    | intro _
    | split

theorem State.shardCheck_agree {M : List Comp} {s x : State} {a1} (g : Covers M [.pwr, .flt, .hif, .st, .masts, .ctxs, .reqs, .sess, .srvErr, .exports, .hal, .nlc, .col, .pmc, .out, .cells] = true) (h : Agree M s x) :
    Agree M s (State.shardCheck x a1) := by
  unfold State.shardCheck
  repeat' first
    | with_reducible exact h
    | exact covers_trans (by decide) g
    | with_reducible apply State.contained_agree
    | exact fun q => by simpa only [tkeys_tmap, tkeys_tmod] using q
    | split

theorem State.boundary_agree {M : List Comp} {s x : State} {a1} (g : Covers M [.pwr, .flt, .hif, .st, .masts, .ctxs, .reqs, .sess, .srvErr, .exports, .nextExp, .hal, .nlc, .col, .pmc, .out, .cells] = true) (h : Agree M s x) :
    Agree M s (State.boundary x a1) := by
  unfold State.boundary
  repeat' first
    | with_reducible exact h
    | exact covers_trans (by decide) g
    | with_reducible apply State.sealWait_agree
    | with_reducible apply State.reevalAll_agree
    | with_reducible apply State.raiseMet_agree
    | with_reducible apply State.tryStart_agree
    | with_reducible apply State.modCtx_agree
    | with_reducible apply State.pagesAll_agree
    | with_reducible apply State.shardCheck_agree
    | with_reducible apply State.serveBoundary_agree
    | with_reducible apply State.programTaken_agree
    | with_reducible apply State.ttAll_agree
    | with_reducible apply Agree.ite
    | exact fun q => by simpa only [tkeys_tmap, tkeys_tmod] using q
    | intro _
    | split

theorem State.idle_agree {M : List Comp} {s x : State} {a1} (g : Covers M [.pwr, .flt, .hif, .st, .masts, .ctxs, .reqs, .sess, .srvErr, .exports, .nextExp, .hal, .nlc, .col, .pmc, .out, .cells] = true) (h : Agree M s x) :
    Agree M s (State.idle x a1) := by
  unfold State.idle
  repeat' first
    | with_reducible exact h
    | exact covers_trans (by decide) g
    | with_reducible apply State.reevalAll_agree
    | with_reducible apply State.raiseMet_agree
    | with_reducible apply State.boundary_agree
    | with_reducible apply Agree.ite
    | exact fun q => by simpa only [tkeys_tmap, tkeys_tmod] using q
    | intro _
    | split

theorem State.idleAll_agree {M : List Comp} {s x : State} (g : Covers M [.pwr, .flt, .hif, .st, .masts, .ctxs, .reqs, .sess, .srvErr, .exports, .nextExp, .hal, .nlc, .col, .pmc, .out, .cells] = true) (h : Agree M s x) :
    Agree M s (State.idleAll x) := by
  unfold State.idleAll
  repeat' first
    | with_reducible exact h
    | exact covers_trans (by decide) g
    | with_reducible apply State.idle_agree
    | with_reducible apply Agree.foldl
    | intro _

theorem State.haze_agree {M : List Comp} {s x : State} {a1 a2} (g : Covers M [.masts, .free, .cells] = true) (h : Agree M s x) :
    Agree M s (State.haze x a1 a2) := by
  unfold State.haze
  exact State.drawnN_agree (covers_trans (by decide) g) (State.modMast_agree (covers_trans (by decide) g) h fun z =>
    MastTo.dram (covers_trans (by decide) g) (MastTo.refl z) (memWrite_wf _ _))

theorem State.hazeRow_agree {M : List Comp} {s x : State} {a1 a2 a3 a4 a5} (g : Covers M [.masts, .free, .cells] = true) (h : Agree M s x) :
    Agree M s (State.hazeRow x a1 a2 a3 a4 a5) := by
  unfold State.hazeRow
  repeat' first
    | with_reducible exact h
    | exact covers_trans (by decide) g
    | with_reducible assumption
    | with_reducible apply State.haze_agree
    | with_reducible apply Agree.ite
    | with_reducible apply Agree.foldl
    | exact fun q => by simpa only [tkeys_tmap, tkeys_tmod] using q
    | intro _
    | split
    | dsimp only

theorem State.hazeUnnamed_agree {M : List Comp} {s x : State} {a1 a2} (g : Covers M [.masts, .free, .cells] = true) (h : Agree M s x) :
    Agree M s (State.hazeUnnamed x a1 a2) := by
  unfold State.hazeUnnamed
  repeat' first
    | with_reducible exact h
    | exact covers_trans (by decide) g
    | with_reducible assumption
    | with_reducible apply State.hazeRow_agree
    | with_reducible apply Agree.ite
    | with_reducible apply Agree.foldl
    | exact fun q => by simpa only [tkeys_tmap, tkeys_tmod] using q
    | intro _
    | split

theorem State.logUnsampled_agree {M : List Comp} {s x : State} {a1 a2} (g : Covers M [.ctxs, .srvErr, .nlc, .out] = true) (h : Agree M s x) :
    Agree M s (State.logUnsampled x a1 a2) := by
  unfold State.logUnsampled
  repeat' first
    | with_reducible exact h
    | exact covers_trans (by decide) g
    | with_reducible apply State.modCtx_agree
    | with_reducible apply State.commitLog_agree
    | with_reducible apply Agree.ite
    | intro _

theorem State.mirrorAck_agree {M : List Comp} {s x : State} {a1 a2 a3 a4} (g : Covers M [.pwr, .flt, .hif, .st, .masts, .ctxs, .reqs, .sess, .srvErr, .exports, .nextExp, .hal, .nlc, .col, .pmc, .out, .cells] = true) (h : Agree M s x) :
    Agree M s (State.mirrorAck x a1 a2 a3 a4) := by
  unfold State.mirrorAck
  repeat' first
    | with_reducible exact h
    | exact covers_trans (by decide) g
    | with_reducible apply State.syncCheck_agree
    | with_reducible apply State.drainLog_agree
    | with_reducible apply State.idle_agree
    | with_reducible apply State.endCopies_agree
    | with_reducible apply State.modCtx_agree
    | with_reducible apply State.countH_agree
    | with_reducible apply State.setMirror_agree
    | with_reducible apply Agree.ite
    | exact fun q => by simpa only [tkeys_tmap, tkeys_tmod] using q
    | intro _
    | split
    | with_reducible apply Agree.upd_srvErr

theorem State.mirrorLost_agree {M : List Comp} {s x : State} {a1} (g : Covers M [.pwr, .flt, .hif, .st, .masts, .ctxs, .reqs, .sess, .srvErr, .exports, .nextExp, .hal, .nlc, .col, .pmc, .out, .cells] = true) (h : Agree M s x) :
    Agree M s (State.mirrorLost x a1) := by
  unfold State.mirrorLost
  repeat' first
    | with_reducible exact h
    | exact covers_trans (by decide) g
    | with_reducible apply State.idle_agree
    | with_reducible apply State.raise_agree
    | with_reducible apply State.releaseBundles_agree
    | with_reducible apply State.modCtx_agree
    | with_reducible apply State.setMirror_agree
    | with_reducible apply Agree.ite
    | exact fun q => by simpa only [tkeys_tmap, tkeys_tmod] using q
    | intro _
    | split
    | dsimp only
    | with_reducible apply Agree.upd_srvErr

theorem State.sampleOne_agree {M : List Comp} {s x : State} {a1 a2 a3 a4} (g : Covers M [.masts, .srvErr] = true) (h : Agree M s x) :
    Agree M s (State.sampleOne x a1 a2 a3 a4).1 := by
  unfold State.sampleOne
  repeat' first
    | with_reducible exact h
    | exact covers_trans (by decide) g
    | with_reducible apply State.countM_agree
    | with_reducible apply Agree.ite
    | exact fun q => by simpa only [tkeys_tmap, tkeys_tmod] using q
    | intro _
    | split
    | with_reducible apply Agree.upd_srvErr

theorem State.sampleAll_agree {M : List Comp} {s x : State} {a1 a2 a3} (g : Covers M [.masts, .ctxs, .srvErr, .nlc, .out] = true) (h : Agree M s x) :
    Agree M s (State.sampleAll x a1 a2 a3) := by
  unfold State.sampleAll
  repeat' first
    | with_reducible exact h
    | exact covers_trans (by decide) g
    | with_reducible assumption
    | with_reducible apply State.sampleOne_agree
    | with_reducible apply State.modCtx_agree
    | with_reducible apply State.commitLog_agree
    | with_reducible apply Agree.ite_fst
    | with_reducible apply Agree.foldl_fst
    | exact fun q => by simpa only [tkeys_tmap, tkeys_tmod] using q
    | intro _
    | split

theorem State.sampling_agree {M : List Comp} {s x : State} {a1 a2} (g : Covers M [.masts, .ctxs, .srvErr, .nlc, .out] = true) (h : Agree M s x) :
    Agree M s (State.sampling x a1 a2) := by
  unfold State.sampling
  repeat' first
    | with_reducible exact h
    | exact covers_trans (by decide) g
    | with_reducible apply State.sampleAll_agree
    | with_reducible apply Agree.ite
    | exact fun q => by simpa only [tkeys_tmap, tkeys_tmod] using q
    | intro _
    | split

theorem State.sendParts_agree {M : List Comp} {s x : State} {a1 a2} (g : Covers M [.pwr, .flt, .hif, .st, .masts, .ctxs, .reqs, .sess, .srvErr, .exports, .nextExp, .hal, .nlc, .col, .pmc, .out, .cells] = true) (h : Agree M s x) :
    Agree M s (State.sendParts x a1 a2) := by
  induction a2 generalizing x with
  | zero => exact h
  | succ n ih =>
    unfold State.sendParts
    split
    · exact h
    · split
      · rename_i b bs gg _ _
        refine Agree.ite (fun _ => ?_) fun _ => h
        have k := State.transmit_agree (a1 := b.part a1 (if b.sent = 0 then gg.noticeCh else b.ch) b.sent) (covers_trans (by decide) g) h
        refine Agree.ite (fun _ => ih (State.modCtx_agree (covers_trans (by decide) g) k)) fun _ => ?_
        exact State.idle_agree (covers_trans (by decide) g) (State.pump_agree (covers_trans (by decide) g)
          (State.releaseBundles_agree (covers_trans (by decide) g) (State.modCtx_agree (covers_trans (by decide) g) k)))
      · exact h

theorem State.stepEnds_agree {M : List Comp} {s x : State} {a1} (g : Covers M [.pwr, .flt, .hif, .st, .masts, .ctxs, .reqs, .sess, .srvErr, .exports, .nextExp, .hal, .nlc, .col, .pmc, .out, .free, .cells] = true) (h : Agree M s x) :
    Agree M s (State.stepEnds x a1) := by
  unfold State.stepEnds
  repeat' first
    | with_reducible exact h
    | exact covers_trans (by decide) g
    | with_reducible apply State.hazeUnnamed_agree
    | with_reducible apply State.boundary_agree
    | with_reducible apply State.logUnsampled_agree
    | with_reducible apply State.modCtx_agree
    | with_reducible apply Agree.ite
    | exact fun q => by simpa only [tkeys_tmap, tkeys_tmod] using q
    | intro _
    | split

theorem State.lcCorrected_agree {M : List Comp} {s x : State} {a1 a2} (g : Covers M [.masts] = true) (h : Agree M s x) :
    Agree M s (State.lcCorrected x a1 a2) := by
  unfold State.lcCorrected
  repeat' first
    | with_reducible exact h
    | exact covers_trans (by decide) g
    | with_reducible apply State.countM_agree

theorem State.lcData_agree {M : List Comp} {s x : State} {a1 a2 a3} (g : Covers M [.flt, .st, .masts, .pmc] = true) (h : Agree M s x) :
    Agree M s (State.lcData x a1 a2 a3) := by
  unfold State.lcData
  refine State.raise_agree (covers_trans (by decide) g) (State.modMast_agree (covers_trans (by decide) g) h fun z => ?_)
  have k : MastTo M z { z.dropLine a3 with mc := { (z.dropLine a3).mc with err := (z.dropLine a3).mc.err ||| 4 } } :=
    (MastTo.dropLine _ (MastTo.refl z)).of_eq rfl rfl rfl
  exact MastTo.ite (k.of_eq rfl rfl rfl) k

theorem State.strike_agree {M : List Comp} {s x : State} {a1} (g : Covers M [.cn, .pwr, .flt, .hif, .st, .masts, .ctxs, .reqs, .sess, .srvErr, .exports, .hal, .nlc, .col, .pmc, .out, .cells] = true) (h : Agree M s x) :
    Agree M s (State.strike x a1) := by
  unfold State.strike
  repeat' first
    | with_reducible exact h
    | exact covers_trans (by decide) g
    | with_reducible apply State.modMast_agree
    | with_reducible apply State.lcData_agree
    | with_reducible apply State.fatalNow_agree
    | with_reducible apply State.fence_agree
    | with_reducible apply State.lcCorrected_agree
    | with_reducible apply Agree.ite
    | exact fun q => by simpa only [tkeys_tmap, tkeys_tmod] using q
    | refine mastKept_of fun z => ?_
    | exact MastTo.refl _
    | with_reducible apply MastTo.strikeDram
    | exact MastTo.same rfl (Spad.strike_cells _ _ _) fun q => q
    | intro _
    | split

theorem State.strikeAll_agree {M : List Comp} {s x : State} {a1} (g : Covers M [.cn, .pwr, .flt, .hif, .st, .masts, .ctxs, .reqs, .sess, .srvErr, .exports, .hal, .nlc, .col, .pmc, .out, .cells] = true) (h : Agree M s x) :
    Agree M s (State.strikeAll x a1) := by
  unfold State.strikeAll
  repeat' first
    | with_reducible exact h
    | exact covers_trans (by decide) g
    | with_reducible apply State.strike_agree
    | with_reducible apply Agree.foldl
    | intro _

theorem State.scrubHalf_agree {M : List Comp} {s x : State} {a1 a2} (g : Covers M [.flt, .st, .masts, .pmc] = true) (h : Agree M s x) :
    Agree M s (State.scrubHalf x a1 a2) := by
  unfold State.scrubHalf
  have k : Agree M s (x.modMast a1 fun z => Mast.noteMet ({ z with dram := z.dram.countRows (((x.mast a1).beneath (a2 / 2)).read a2).2.ce }.setBeneath
      (a2 / 2) ((z.beneath (a2 / 2)).read a2).1) maintReader (((x.mast a1).beneath (a2 / 2)).read a2).2) :=
    State.modMast_agree (covers_trans (by decide) g) h fun z => MastTo.noteMet _ _ (MastTo.setBeneath _ _ (MastTo.same rfl rfl fun q => q))
  dsimp only
  split
  · exact State.raise_agree (covers_trans (by decide) g) (Agree.foldl k fun y a hy => State.repairRow_agree (covers_trans (by decide) g) hy)
  · exact Agree.foldl k fun y a hy => State.repairRow_agree (covers_trans (by decide) g) hy

theorem State.scrubMast_agree {M : List Comp} {s x : State} {a1 a2} (g : Covers M [.flt, .st, .masts, .pmc] = true) (h : Agree M s x) :
    Agree M s (State.scrubMast x a1 a2) := by
  unfold State.scrubMast
  repeat' first
    | with_reducible exact h
    | exact covers_trans (by decide) g
    | with_reducible apply State.countM_agree
    | with_reducible apply State.scrubHalf_agree
    | with_reducible apply Agree.foldl
    | intro _

theorem State.sweep_agree {M : List Comp} {s x : State} {a1} (g : Covers M [.flt, .st, .masts, .pmc] = true) (h : Agree M s x) :
    Agree M s (State.sweep x a1) := by
  unfold State.sweep
  repeat' first
    | with_reducible exact h
    | exact covers_trans (by decide) g
    | with_reducible apply State.mapMasts_agree
    | with_reducible apply State.scrubMast_agree
    | with_reducible apply Agree.foldl
    | exact fun _ z => MastTo.same rfl rfl fun q => q
    | intro _

theorem State.writeRuns_agree {M : List Comp} {s x : State} {a1 a2 a3 a4} (g : Covers M [.flt, .st, .masts, .pmc, .cells] = true) (h : Agree M s x) :
    Agree M s (State.writeRuns x a1 a2 a3 a4).1 := by
  induction a3 generalizing x a4 with
  | nil =>
    unfold State.writeRuns
    repeat' first
      | with_reducible exact h
  | cons b l ih =>
    unfold State.writeRuns
    repeat' first
      | with_reducible exact h
      | exact covers_trans (by decide) g
      | with_reducible apply ih
      | with_reducible apply State.writeAt_agree
      | exact fun q => by simpa only [tkeys_tmap, tkeys_tmod] using q
      | split
      | (refine Agree.of_fst (by assumption) ?_)

theorem State.kvWrite_agree {M : List Comp} {s x : State} {a1 a2 a3 a4 a5 a6 a7 a8 a9} (g : Covers M [.flt, .st, .masts, .pmc, .cells] = true) (h : Agree M s x) :
    Agree M s (State.kvWrite x a1 a2 a3 a4 a5 a6 a7 a8 a9).1 := by
  unfold State.kvWrite
  repeat' first
    | with_reducible exact h
    | exact covers_trans (by decide) g
    | with_reducible apply State.writeRuns_agree
    | exact fun q => by simpa only [tkeys_tmap, tkeys_tmod] using q
    | split
    | (refine Agree.of_fst (by assumption) ?_)
    | dsimp only

theorem State.aeErr_agree {M : List Comp} {s x : State} {a1 a2} (g : Covers M [.masts] = true) (h : Agree M s x) :
    Agree M s (State.aeErr x a1 a2) := by
  unfold State.aeErr
  repeat' first
    | with_reducible exact h
    | exact covers_trans (by decide) g
    | with_reducible apply State.modMast_agree
    | exact fun z => MastTo.same rfl rfl fun q => q

theorem State.sealCounts_agree {M : List Comp} {s x : State} {a1 a2 a3 a4 a5} (g : Covers M [.masts] = true) (h : Agree M s x) :
    Agree M s (State.sealCounts x a1 a2 a3 a4 a5) := by
  unfold State.sealCounts
  repeat' first
    | with_reducible exact h
    | exact covers_trans (by decide) g
    | with_reducible apply State.countM_agree
    | with_reducible apply State.aeErr_agree
    | with_reducible apply Agree.ite
    | intro _

theorem State.readRuns_agree {M : List Comp} {s x : State} {a1 a2 a3} (g : Covers M [.flt, .st, .masts, .pmc] = true) (h : Agree M s x) :
    Agree M s (State.readRuns x a1 a2 a3).1 := by
  induction a3 generalizing x  with
  | nil =>
    unfold State.readRuns
    repeat' first
      | with_reducible exact h
  | cons b l ih =>
    unfold State.readRuns
    repeat' first
      | with_reducible exact h
      | exact covers_trans (by decide) g
      | with_reducible apply ih
      | with_reducible apply State.fetch_agree
      | exact fun q => by simpa only [tkeys_tmap, tkeys_tmod] using q
      | split
      | (refine Agree.of_fst (by assumption) ?_)

theorem State.kvRead_agree {M : List Comp} {s x : State} {a1 a2 a3 a4 a5 a6 a7} (g : Covers M [.flt, .st, .masts, .pmc] = true) (h : Agree M s x) :
    Agree M s (State.kvRead x a1 a2 a3 a4 a5 a6 a7).1 := by
  unfold State.kvRead
  repeat' first
    | with_reducible exact h
    | exact covers_trans (by decide) g
    | with_reducible apply State.readRuns_agree
    | exact fun q => by simpa only [tkeys_tmap, tkeys_tmod] using q
    | split
    | (refine Agree.of_fst (by assumption) ?_)
    | dsimp only

theorem State.cacheKv_agree {M : List Comp} {s : State} {x} {a0 a2} (g : Covers M [.flt, .st, .masts, .pmc] = true) (h : Agree M s x.1) :
    Agree M s (State.cacheKv a0 x a2).1 := by
  unfold State.cacheKv
  repeat' first
    | with_reducible exact h
    | exact covers_trans (by decide) g
    | with_reducible apply State.countM_agree
    | with_reducible apply State.kvRead_agree
    | with_reducible apply State.aeErr_agree
    | with_reducible apply Agree.ite
    | with_reducible apply Agree.ite_fst
    | exact fun q => by simpa only [tkeys_tmap, tkeys_tmod] using q
    | intro _
    | split
    | (refine Agree.of_fst (by assumption) ?_)

theorem State.attnFail_agree {M : List Comp} {s x : State} {a1 a2 a3 a4 a5 a6} (g : Covers M [.pwr, .flt, .hif, .st, .masts, .ctxs, .reqs, .sess, .srvErr, .exports, .hal, .nlc, .col, .pmc, .out, .cells] = true) (h : Agree M s x) :
    Agree M s (State.attnFail x a1 a2 a3 a4 a5 a6) := by
  unfold State.attnFail
  repeat' first
    | with_reducible exact h
    | exact covers_trans (by decide) g
    | with_reducible apply State.contained_agree
    | with_reducible apply State.aeErr_agree

theorem State.nonfinite_agree {M : List Comp} {s x : State} {a1 a2} (g : Covers M [.flt, .st, .masts, .pmc] = true) (h : Agree M s x) :
    Agree M s (State.nonfinite x a1 a2) := by
  unfold State.nonfinite
  repeat' first
    | with_reducible exact h
    | exact covers_trans (by decide) g
    | with_reducible apply State.countM_agree
    | with_reducible apply State.limitRec_agree
    | with_reducible apply Agree.ite
    | intro _

theorem State.attnOut_agree {M : List Comp} {s x : State} {a1 a2 a3 a4} (g : Covers M [.pwr, .flt, .hif, .st, .masts, .ctxs, .reqs, .sess, .srvErr, .exports, .hal, .nlc, .col, .pmc, .out, .cells] = true) (h : Agree M s x) :
    Agree M s (State.attnOut x a1 a2 a3 a4) := by
  unfold State.attnOut
  repeat' first
    | with_reducible exact h
    | exact covers_trans (by decide) g
    | with_reducible assumption
    | with_reducible apply State.withWrite_agree
    | with_reducible apply State.countM_agree
    | with_reducible apply State.nonfinite_agree
    | with_reducible apply State.aeErr_agree
    | with_reducible apply Agree.ite
    | exact fun q => by simpa only [tkeys_tmap, tkeys_tmod] using q
    | intro _

theorem State.attend_agree {M : List Comp} {s x : State} {a1 a2} (g : Covers M [.pwr, .flt, .hif, .st, .masts, .ctxs, .reqs, .sess, .srvErr, .exports, .hal, .nlc, .col, .pmc, .out, .cells] = true) (h : Agree M s x) :
    Agree M s (State.attend x a1 a2) := by
  unfold State.attend
  repeat' first
    | with_reducible exact h
    | exact covers_trans (by decide) g
    | with_reducible apply State.cacheKv_agree
    | with_reducible apply State.ioFail_agree
    | with_reducible apply State.attnFail_agree
    | with_reducible apply State.fetch_agree
    | with_reducible apply State.attnOut_agree
    | with_reducible apply Agree.ite
    | with_reducible apply Agree.foldl_fst
    | exact fun q => by simpa only [tkeys_tmap, tkeys_tmod] using q
    | intro _
    | split
    | (refine Agree.of_fst (by assumption) ?_)
    | dsimp only

theorem State.noteNamed_agree {M : List Comp} {s x : State} {a1 a2} (g : Covers M [.ctxs] = true) (h : Agree M s x) :
    Agree M s (State.noteNamed x a1 a2) := by
  unfold State.noteNamed
  repeat' first
    | with_reducible exact h
    | exact covers_trans (by decide) g
    | with_reducible apply State.modCtx_agree

theorem State.writeEntries_agree {M : List Comp} {s x : State} {a1 a2} (g : Covers M [.flt, .st, .masts, .pmc, .cells] = true) (h : Agree M s x) :
    Agree M s (State.writeEntries x a1 a2).1 := by
  induction a2 generalizing x  with
  | nil =>
    unfold State.writeEntries
    repeat' first
      | with_reducible exact h
  | cons b l ih =>
    unfold State.writeEntries
    repeat' first
      | with_reducible exact h
      | exact covers_trans (by decide) g
      | with_reducible apply ih
      | with_reducible apply State.kvWrite_agree
      | exact fun q => by simpa only [tkeys_tmap, tkeys_tmod] using q
      | split
      | (refine Agree.of_fst (by assumption) ?_)

theorem State.logEntries_agree {M : List Comp} {s x : State} {a1 a2} (g : Covers M [.ctxs, .srvErr, .nlc, .out] = true) (h : Agree M s x) :
    Agree M s (State.logEntries x a1 a2) := by
  unfold State.logEntries
  repeat' first
    | with_reducible exact h
    | exact covers_trans (by decide) g
    | with_reducible apply State.logRecord_agree

theorem State.attnRun_agree {M : List Comp} {s x : State} {a1 a2} (g : Covers M [.pwr, .flt, .hif, .st, .masts, .ctxs, .reqs, .sess, .srvErr, .exports, .hal, .nlc, .col, .pmc, .out, .cells] = true) (h : Agree M s x) :
    Agree M s (State.attnRun x a1 a2) := by
  unfold State.attnRun
  repeat' first
    | with_reducible exact h
    | exact covers_trans (by decide) g
    | with_reducible assumption
    | with_reducible apply State.noteNamed_agree
    | with_reducible apply State.attend_agree
    | with_reducible apply State.writeEntries_agree
    | with_reducible apply State.ioFail_agree
    | with_reducible apply State.nonfinite_agree
    | with_reducible apply State.attnFail_agree
    | with_reducible apply State.withRead_agree
    | with_reducible apply State.logEntries_agree
    | with_reducible apply Agree.ite
    | exact fun q => by simpa only [tkeys_tmap, tkeys_tmod] using q
    | intro _
    | split
    | (refine Agree.of_fst (by assumption) ?_)
    | dsimp only

theorem State.attnDesc_agree {M : List Comp} {s x : State} {a1 a2 a3 a4} (g : Covers M [.pwr, .flt, .hif, .st, .masts, .ctxs, .reqs, .sess, .srvErr, .exports, .hal, .nlc, .col, .pmc, .out, .cells] = true) (h : Agree M s x) :
    Agree M s (State.attnDesc x a1 a2 a3 a4) := by
  unfold State.attnDesc
  repeat' first
    | with_reducible exact h
    | exact covers_trans (by decide) g
    | with_reducible assumption
    | with_reducible apply State.attnRun_agree
    | with_reducible apply State.attnFail_agree
    | with_reducible apply State.withRead_agree
    | with_reducible apply Agree.ite
    | exact fun q => by simpa only [tkeys_tmap, tkeys_tmod] using q
    | intro _
    | split
    | dsimp only

theorem State.sealImage_agree {M : List Comp} {s x : State} {a1 a2 a3 a4} (g : Covers M [.pwr, .flt, .hif, .st, .masts, .ctxs, .reqs, .sess, .srvErr, .exports, .hal, .nlc, .col, .pmc, .out, .cells] = true) (h : Agree M s x) :
    Agree M s (State.sealImage x a1 a2 a3 a4) := by
  unfold State.sealImage
  repeat' first
    | with_reducible exact h
    | exact covers_trans (by decide) g
    | with_reducible apply State.contained_agree
    | with_reducible apply State.sealCounts_agree
    | with_reducible apply State.writeDram_agree
    | with_reducible apply State.ioFail_agree
    | with_reducible apply State.readRuns_agree
    | with_reducible apply State.setPool_agree
    | with_reducible apply State.aeErr_agree
    | exact fun q => by simpa only [tkeys_tmap, tkeys_tmod] using q
    | split
    | (refine Agree.of_fst (by assumption) ?_)
    | dsimp only

theorem State.sealDone_agree {M : List Comp} {s x : State} {a1} (g : Covers M [.pwr, .flt, .hif, .st, .masts, .ctxs, .reqs, .sess, .srvErr, .exports, .nextExp, .hal, .nlc, .col, .pmc, .out, .cells] = true) (h : Agree M s x) :
    Agree M s (State.sealDone x a1) := by
  unfold State.sealDone
  repeat' first
    | with_reducible exact h
    | exact covers_trans (by decide) g
    | with_reducible apply State.modMast_agree
    | with_reducible apply State.sealImage_agree
    | with_reducible apply State.raiseMet_agree
    | with_reducible apply State.boundary_agree
    | with_reducible apply Agree.ite
    | exact fun q => by simpa only [tkeys_tmap, tkeys_tmod] using q
    | exact fun z => MastTo.same rfl rfl fun q => q
    | intro _
    | split
    | dsimp only

theorem State.takeStages_agree {M : List Comp} {s x : State} {a1 a2} (g : Covers M [.flt, .st, .masts, .ctxs, .pmc, .cells] = true) (h : Agree M s x) :
    Agree M s (State.takeStages x a1 a2) := by
  unfold State.takeStages
  repeat' first
    | with_reducible exact h
    | exact covers_trans (by decide) g
    | with_reducible apply State.modMast_agree
    | with_reducible apply State.setPool_agree
    | with_reducible apply Agree.ite
    | exact fun q => by simpa only [tkeys_tmap, tkeys_tmod] using q
    | exact fun z => MastTo.same rfl rfl fun q => q
    | intro _
    | split

theorem State.modHolder_agree {M : List Comp} {s x : State} {a1 a2} (g : Covers M [.ctxs] = true) (h : Agree M s x) :
    Agree M s (State.modHolder x a1 a2) := by
  unfold State.modHolder
  repeat' first
    | with_reducible exact h
    | exact covers_trans (by decide) g
    | with_reducible apply State.modCtx_agree

theorem State.holderLoses_agree {M : List Comp} {s x : State} {a1 a2} (g : Covers M [.flt, .st, .masts, .ctxs, .sess, .pmc, .cells] = true) (h : Agree M s x) :
    Agree M s (State.holderLoses x a1 a2) := by
  unfold State.holderLoses
  repeat' first
    | with_reducible exact h
    | exact covers_trans (by decide) g
    | with_reducible apply State.closeSession_agree
    | with_reducible apply State.modHolder_agree
    | exact fun q => by simpa only [tkeys_tmap, tkeys_tmod] using q
    | split

theorem State.mirrorSession_agree {M : List Comp} {s x : State} {a1 a2 a3} (g : Covers M [.ctxs, .sess] = true) (h : Agree M s x) :
    Agree M s (State.mirrorSession x a1 a2 a3).1 := by
  unfold State.mirrorSession
  split
  · exact h
  · split
    · exact h
    · split
      · exact h
      · exact State.modCtx_agree (covers_trans (by decide) g) (Agree.upd_sess (covers_trans (by decide) g) h)

theorem State.answerPage_agree {M : List Comp} {s x : State} {a1 a2 a3 a4 a5} (g : Covers M [.imports, .out] = true) (h : Agree M s x) :
    Agree M s (State.answerPage x a1 a2 a3 a4 a5) := by
  unfold State.answerPage
  repeat' first
    | with_reducible exact h
    | exact covers_trans (by decide) g
    | with_reducible apply State.emitFab_agree
    | exact fun q => by simpa only [tkeys_tmap, tkeys_tmod] using q
    | with_reducible apply Agree.upd_imports

theorem State.setImport_agree {M : List Comp} {s x : State} {a1 a2} (g : Covers M [.imports] = true) (h : Agree M s x) :
    Agree M s (State.setImport x a1 a2) := by
  unfold State.setImport
  repeat' first
    | with_reducible exact h
    | exact covers_trans (by decide) g
    | exact fun q => by simpa only [tkeys_tmap, tkeys_tmod] using q
    | with_reducible apply Agree.upd_imports

theorem State.headerFor_agree {M : List Comp} {s x : State} {a1 a2} (g : Covers M [.pwr, .flt, .hif, .st, .masts, .ctxs, .reqs, .sess, .srvErr, .exports, .nextExp, .imports, .hal, .nlc, .col, .pmc, .out, .cells] = true) (h : Agree M s x) :
    Agree M s (State.headerFor x a1 a2) := by
  unfold State.headerFor
  repeat' first
    | with_reducible exact h
    | exact covers_trans (by decide) g
    | with_reducible apply State.modSession_agree
    | with_reducible apply State.oweEntry_agree
    | with_reducible apply State.setImport_agree
    | with_reducible apply State.faultReq_agree
    | with_reducible apply State.idle_agree
    | with_reducible apply State.modReq_agree
    | with_reducible apply Agree.ite
    | exact fun q => by simpa only [tkeys_tmap, tkeys_tmod] using q
    | intro _
    | split
    | with_reducible apply Agree.upd_srvErr

theorem State.renewRing_agree {M : List Comp} {s x : State} {a1 a2} (g : Covers M [.flt, .st, .masts, .ctxs, .sess, .pmc, .cells] = true) (h : Agree M s x) :
    Agree M s (State.renewRing x a1 a2) := by
  unfold State.renewRing
  repeat' first
    | with_reducible exact h
    | exact covers_trans (by decide) g
    | with_reducible apply State.closeSession_agree
    | with_reducible apply State.modHolder_agree
    | with_reducible apply Agree.ite
    | with_reducible apply Agree.foldl
    | exact fun q => by simpa only [tkeys_tmap, tkeys_tmod] using q
    | intro _
    | split

theorem State.headerToHolder_agree {M : List Comp} {s x : State} {a1 a2} (g : Covers M [.flt, .st, .masts, .ctxs, .sess, .imports, .pmc, .out, .cells] = true) (h : Agree M s x) :
    Agree M s (State.headerToHolder x a1 a2) := by
  unfold State.headerToHolder
  repeat' first
    | with_reducible exact h
    | exact covers_trans (by decide) g
    | with_reducible apply State.modSession_agree
    | with_reducible apply State.releasePages_agree
    | with_reducible apply State.setImport_agree
    | with_reducible apply State.renewRing_agree
    | with_reducible apply State.emitFab_agree
    | with_reducible apply State.mirrorSession_agree
    | with_reducible apply State.holderLoses_agree
    | with_reducible apply Agree.ite
    | exact fun q => by simpa only [tkeys_tmap, tkeys_tmod] using q
    | intro _
    | split
    | dsimp only

theorem State.headerIn_agree {M : List Comp} {s x : State} {a1} (g : Covers M [.pwr, .flt, .hif, .st, .masts, .ctxs, .reqs, .sess, .srvErr, .exports, .nextExp, .imports, .hal, .nlc, .col, .pmc, .out, .cells] = true) (h : Agree M s x) :
    Agree M s (State.headerIn x a1) := by
  unfold State.headerIn
  repeat' first
    | with_reducible exact h
    | exact covers_trans (by decide) g
    | with_reducible apply State.headerFor_agree
    | with_reducible apply State.setImport_agree
    | with_reducible apply State.headerToHolder_agree
    | with_reducible apply Agree.ite
    | exact fun q => by simpa only [tkeys_tmap, tkeys_tmod] using q
    | intro _
    | split

theorem State.pageEnds_agree {M : List Comp} {s x : State} {a1 a2 a3} (g : Covers M [.pwr, .flt, .hif, .st, .masts, .ctxs, .reqs, .sess, .srvErr, .exports, .nextExp, .hal, .nlc, .col, .pmc, .out, .cells] = true) (h : Agree M s x) :
    Agree M s (State.pageEnds x a1 a2 a3) := by
  unfold State.pageEnds
  repeat' first
    | with_reducible exact h
    | exact covers_trans (by decide) g
    | with_reducible apply State.syncCheck_agree
    | with_reducible apply State.idle_agree
    | with_reducible apply State.endPage_agree
    | with_reducible apply Agree.ite
    | exact fun q => by simpa only [tkeys_tmap, tkeys_tmod] using q
    | intro _
    | split

theorem State.takePage_agree {M : List Comp} {s x : State} {a1 a2 y} (g : Covers M [.flt, .st, .masts, .ctxs, .sess, .pmc, .cells] = true) (h : Agree M s x)
    (e : State.takePage x a1 a2 = some y) : Agree M s y := by
  unfold State.takePage at e
  split at e
  · exact absurd e (by simp)
  · split at e
    · exact absurd e (by simp)
    · split at e
      · exact absurd e (by simp)
      · split at e
        · exact absurd e (by simp)
        · cases Option.some.inj e
          exact State.setPage_agree (covers_trans (by decide) g) (State.writePage_agree (covers_trans (by decide) g) (State.setPool_agree (covers_trans (by decide) g) h))

theorem State.returnPage_agree {M : List Comp} {s x : State} {a1 a2 a3} (g : Covers M [.flt, .st, .masts, .ctxs, .sess, .imports, .pmc, .cells] = true) (h : Agree M s x) :
    Agree M s (State.returnPage x a1 a2 a3) := by
  unfold State.returnPage
  repeat' first
    | with_reducible exact h
    | exact covers_trans (by decide) g
    | with_reducible assumption
    | with_reducible apply State.setPage_agree
    | with_reducible apply State.dropRef_agree
    | with_reducible apply Agree.foldl
    | exact fun q => by simpa only [tkeys_tmap, tkeys_tmod] using q
    | intro _
    | split
    | dsimp only
    | with_reducible apply Agree.upd_imports

theorem State.pageIn_agree {M : List Comp} {s x : State} {a1} (g : Covers M [.pwr, .flt, .hif, .st, .masts, .ctxs, .reqs, .sess, .srvErr, .exports, .nextExp, .imports, .hal, .nlc, .col, .pmc, .out, .cells] = true) (h : Agree M s x) :
    Agree M s (State.pageIn x a1) := by
  unfold State.pageIn
  dsimp only
  split
  · exact State.emitFab_agree (covers_trans (by decide) g) h
  · rename_i i _
    refine Agree.ite (fun _ => h) fun _ => Agree.ite (fun _ => State.answerPage_agree (covers_trans (by decide) g) h) fun _ =>
      Agree.ite (fun _ => h) fun _ => ?_
    split
    · have k := State.answerPage_agree (a1 := importKey a1.srcPkg a1.exportId) (a2 := a1.srcPkg) (a3 := a1.exportId) (a4 := a1.page) (a5 := true) (covers_trans (by decide) g) (State.returnPage_agree (a1 := importKey a1.srcPkg a1.exportId) (a2 := i) (a3 := a1.page) (covers_trans (by decide) g) h)
      exact State.raiseMet_agree (covers_trans (by decide) g) (Agree.ite (fun _ => State.holderLoses_agree (covers_trans (by decide) g) k) fun _ => k)
    · rename_i t et
      have k : Agree M s t := by
        split at et
        · cases Option.some.inj et; exact h
        · cases e : x.takePage i a1 with
          | none => rw [e] at et; exact absurd et (by simp)
          | some y => rw [e] at et; cases Option.some.inj et; exact Agree.upd_imports (covers_trans (by decide) g) (State.takePage_agree (covers_trans (by decide) g) h e)
      exact Agree.ite (fun _ => State.idle_agree (covers_trans (by decide) g) (State.answerPage_agree (covers_trans (by decide) g) k)) fun _ =>
        State.raiseMet_agree (covers_trans (by decide) g) k

theorem State.linkDown_agree {M : List Comp} {s x : State} {a1} (g : Covers M [.flt, .hif, .st, .pmc] = true) (h : Agree M s x) :
    Agree M s (State.linkDown x a1) := by
  unfold State.linkDown
  repeat' first
    | with_reducible exact h
    | exact covers_trans (by decide) g
    | with_reducible apply State.raise_agree
    | exact fun q => by simpa only [tkeys_tmap, tkeys_tmod] using q
    | dsimp only
    | with_reducible apply Agree.upd_hif

theorem State.moduleOff_agree {M : List Comp} {s x : State} {a1} (g : Covers M [.flt, .hif, .st, .pmc] = true) (h : Agree M s x) :
    Agree M s (State.moduleOff x a1) := by
  unfold State.moduleOff
  repeat' first
    | with_reducible exact h
    | exact covers_trans (by decide) g
    | with_reducible apply State.modHmod_agree
    | with_reducible apply State.raise_agree
    | exact fun q => by simpa only [tkeys_tmap, tkeys_tmod] using q
    | dsimp only
    | with_reducible apply Agree.upd_hif

theorem State.allModulesDown_agree {M : List Comp} {s x : State} (g : Covers M [.flt, .hif, .st, .pmc] = true) (h : Agree M s x) :
    Agree M s (State.allModulesDown x) := by
  unfold State.allModulesDown
  repeat' first
    | with_reducible exact h
    | exact covers_trans (by decide) g
    | with_reducible apply State.linkDown_agree
    | with_reducible apply State.moduleOff_agree
    | with_reducible apply Agree.ite
    | with_reducible apply Agree.foldl
    | intro _

theorem State.pumpAll_agree {M : List Comp} {s x : State} (g : Covers M [.hif, .st, .out] = true) (h : Agree M s x) :
    Agree M s (State.pumpAll x) := by
  unfold State.pumpAll
  repeat' first
    | with_reducible exact h
    | exact covers_trans (by decide) g
    | with_reducible apply State.pump_agree
    | with_reducible apply Agree.foldl
    | intro _

theorem State.retryModules_agree {M : List Comp} {s x : State} {a1} (g : Covers M [.hif] = true) (h : Agree M s x) :
    Agree M s (State.retryModules x a1) := by
  unfold State.retryModules
  repeat' first
    | with_reducible exact h
    | exact covers_trans (by decide) g
    | with_reducible apply Agree.ite
    | exact fun q => by simpa only [tkeys_tmap, tkeys_tmod] using q
    | intro _
    | dsimp only
    | with_reducible apply Agree.upd_hif

theorem State.grantAll_agree {M : List Comp} {s x : State} (g : Covers M [.st, .out] = true) (h : Agree M s x) :
    Agree M s (State.grantAll x) := by
  unfold State.grantAll
  repeat' first
    | with_reducible exact h
    | exact covers_trans (by decide) g
    | with_reducible assumption
    | with_reducible apply State.modChan_agree
    | with_reducible apply State.sendCredit_agree
    | with_reducible apply Agree.foldl
    | exact fun _ _ q => q
    | intro _

theorem State.flush_agree {M : List Comp} {s x : State} (g : Covers M [.hif, .st, .out] = true) (h : Agree M s x) :
    Agree M s (State.flush x) := by
  unfold State.flush
  dsimp only
  refine Agree.ite (fun _ => State.grantAll_agree (covers_trans (by decide) g) ?_) fun _ => ?_
  all_goals
    refine h.trans (Agree.mono (L := [.hif, .st]) (covers_trans (by decide) g) ⟨?_⟩)
    intro c hc
    cases c <;> first | exact ⟨fun _ q => q, fun _ p q => Or.inr (Or.inl (answers_tmap (p := p) (f := fun _ c => { c with buf := [], skipping := false, lost := 0 }) (fun _ _ q => q) q))⟩ | exact absurd (by decide) hc | exact rfl | exact fun q => q | exact Nat.le_refl _ | exact fun _ q => q | exact said_same rfl rfl | exact fun _ => ⟨rfl, rfl⟩ | exact fun q => by simpa only [Comp.same, tkeys_tmap] using q

theorem State.sendResume_agree {M : List Comp} {s x : State} {a1} (g : Covers M [.hif, .out] = true) (h : Agree M s x) :
    Agree M s (State.sendResume x a1) := by
  unfold State.sendResume
  repeat' first
    | with_reducible exact h
    | exact covers_trans (by decide) g
    | with_reducible apply State.modHmod_agree
    | with_reducible apply State.sendFlits_agree
    | with_reducible apply Agree.ite
    | exact fun q => by simpa only [tkeys_tmap, tkeys_tmod] using q
    | intro _
    | split

theorem State.linkCheck_agree {M : List Comp} {s x : State} {a1} (g : Covers M [.flt, .hif, .st, .pmc] = true) (h : Agree M s x) :
    Agree M s (State.linkCheck x a1) := by
  unfold State.linkCheck
  repeat' first
    | with_reducible exact h
    | exact covers_trans (by decide) g
    | with_reducible apply State.linkDown_agree
    | with_reducible apply Agree.ite
    | intro _

theorem State.gather_agree {M : List Comp} {s x : State} {a1} (g : Covers M [.st] = true) (h : Agree M s x) :
    Agree M s (State.gather x a1) := by
  refine Agree.upd_st g h (fun q => by simpa only [tkeys_tmap] using q) fun c p q => ?_
  have k := answers_tmap (p := p) (f := fun _ c => if (x.hmod c.module).left then { c with module := a1 } else c)
    (fun _ z q => by split <;> exact q) q
  exact k

theorem State.rebindTo_agree {M : List Comp} {s x : State} {a1 a2} (g : Covers M [.hif, .st, .out] = true) (h : Agree M s x) :
    Agree M s (State.rebindTo x a1 a2) := by
  unfold State.rebindTo
  repeat' first
    | with_reducible exact h
    | exact covers_trans (by decide) g
    | with_reducible apply State.sendResume_agree
    | with_reducible apply State.gather_agree

theorem State.moduleDown_agree {M : List Comp} {s x : State} {a1} (g : Covers M [.flt, .hif, .st, .pmc, .out] = true) (h : Agree M s x) :
    Agree M s (State.moduleDown x a1) := by
  unfold State.moduleDown
  repeat' first
    | with_reducible exact h
    | exact covers_trans (by decide) g
    | with_reducible apply State.linkCheck_agree
    | with_reducible apply State.pumpAll_agree
    | with_reducible apply State.rebindTo_agree
    | with_reducible apply State.moduleOff_agree
    | with_reducible apply Agree.ite
    | exact fun q => by simpa only [tkeys_tmap, tkeys_tmod] using q
    | intro _
    | split
    | dsimp only

theorem State.resendFlits_agree {M : List Comp} {s x : State} {a1} (g : Covers M [.out] = true) (h : Agree M s x) :
    Agree M s (State.resendFlits x a1) := by
  unfold State.resendFlits
  repeat' first
    | with_reducible exact h
    | exact covers_trans (by decide) g
    | with_reducible apply State.putFlits_agree

theorem State.removeShard_agree {M : List Comp} {s x : State} {a1} (g : Covers M [.flt, .hif, .st, .hal, .nlc, .out] = true) (h : Agree M s x) :
    Agree M s (State.removeShard x a1) := by
  unfold State.removeShard
  repeat' first
    | with_reducible exact h
    | exact covers_trans (by decide) g
    | with_reducible apply State.endMaint_agree
    | with_reducible apply State.complete_agree
    | with_reducible apply State.dropShard_agree
    | with_reducible apply Agree.ite
    | exact fun q => by simpa only [tkeys_tmap, tkeys_tmod] using q
    | intro _
    | split
    | dsimp only

theorem Cmd.run_agree {M : List Comp} {s x : State} {k : Cmd} {r : Req} (g : Covers M [.hif, .st, .out] = true) (h : Agree M s x)
    (q : Cmd.Kept M s k) : Agree M s (k.run r x) := by
  exact q.2 _ _ _ (State.queueAnswers_agree g (q.1 _ _ h))

theorem State.arrive_agree {M : List Comp} {s x : State} {a1} (g : Covers M [.st] = true) (h : Agree M s x) :
    Agree M s (State.arrive x a1) := by
  unfold State.arrive
  repeat' first
    | with_reducible exact h
    | exact covers_trans (by decide) g
    | with_reducible apply State.modChan_agree
    | exact fun _ _ q => q
    | exact fun q => by simpa only [tkeys_tmap, tkeys_tmod] using q
    | dsimp only
    | with_reducible apply Agree.upd_st

theorem State.returnUnits_agree {M : List Comp} {s x : State} {a1} (g : Covers M [.st, .out] = true) (h : Agree M s x) :
    Agree M s (State.returnUnits x a1) := by
  unfold State.returnUnits
  repeat' first
    | with_reducible exact h
    | exact covers_trans (by decide) g
    | with_reducible apply State.modChan_agree
    | with_reducible apply State.giveCredit_agree
    | exact fun _ _ q => q

theorem State.refuseReq_agree {M : List Comp} {s x : State} {a1 a2 a3} (g : Covers M [.hif, .st, .out] = true) (h : Agree M s x) :
    Agree M s (State.refuseReq x a1 a2 a3) := by
  unfold State.refuseReq
  repeat' first
    | with_reducible exact h
    | exact covers_trans (by decide) g
    | with_reducible apply State.modChan_agree
    | with_reducible apply State.queueAnswers_agree
    | with_reducible apply Agree.ite
    | exact fun _ _ q => q
    | intro _

theorem State.tagged_agree {M : List Comp} {s x : State} {a1} (g : Covers M [.st] = true) (h : Agree M s x) :
    Agree M s (State.tagged x a1) := by
  unfold State.tagged
  repeat' first
    | with_reducible exact h
    | exact covers_trans (by decide) g
    | with_reducible apply State.modChan_agree
    | exact fun _ _ q => q

theorem examine_agree {M : List Comp} {s x : State} {k : Cmd} {r : Req} (g : Covers M [.hif, .st, .out] = true) (h : Agree M s x)
    (q : Cmd.Kept M s k) : Agree M s (examine k r x) := by
  unfold examine
  have k := State.returnUnits_agree (a1 := r) (covers_trans (by decide) g) h
  dsimp only
  split
  · exact State.refuseReq_agree g k
  · exact Cmd.run_agree g (State.tagged_agree (covers_trans (by decide) g) k) q

theorem examineUnknown_agree {M : List Comp} {s x : State} {a0 a1} (g : Covers M [.hif, .st, .out] = true) (h : Agree M s x) :
    Agree M s (examineUnknown a0 a1 x) := by
  unfold examineUnknown
  repeat' first
    | with_reducible exact h
    | exact covers_trans (by decide) g
    | with_reducible apply State.returnUnits_agree
    | with_reducible apply State.refuseReq_agree
    | exact fun q => by simpa only [tkeys_tmap, tkeys_tmod] using q
    | split
    | dsimp only

theorem guardAct_agree {M : List Comp} {s x : State} {a0 a2} (g : Covers M [] = true) (h : Agree M s x)
    (k : Agree M s a2.1) :
    Agree M s (guardAct a0 x a2).1 := by
  unfold guardAct
  repeat' first
    | with_reducible exact h
    | with_reducible assumption
    | exact fun q => by simpa only [tkeys_tmap, tkeys_tmod] using q
    | split

theorem State.heard_agree {M : List Comp} {s x : State} {a1} (g : Covers M [.st, .out] = true) (h : Agree M s x) :
    Agree M s (State.heard x a1) := by
  unfold State.heard
  repeat' first
    | with_reducible exact h
    | exact covers_trans (by decide) g
    | with_reducible apply State.returnUnits_agree
    | with_reducible apply State.tagged_agree
    | with_reducible apply State.arrive_agree

theorem receive_agree {M : List Comp} {s x : State} {k : Cmd} {r : Req} (g : Covers M [.hif, .st, .out] = true) (h : Agree M s x)
    (q : Cmd.Kept M s k) : Agree M s (receive k r x) := by
  unfold receive
  have w := State.arrive_agree (a1 := r) (covers_trans (by decide) g) h
  exact Agree.ite (fun _ => State.modChan_agree (covers_trans (by decide) g) w fun _ _ q => q) fun _ => examine_agree g w q

end Sys2Proof.Machine
end

