-- ==== Sys2Proof/Laws/FrameCommands.lean ====
section
/-! SUPPORT. What each operation may change, as `Agree` with the parts that it leaves alone: context, memory and serving commands. -/
namespace Sys2Proof.Machine
set_option maxRecDepth 3000

theorem State.addCtx_agree {M : List Comp} {s x : State} {a1 a2} (g : Covers M [.masts, .ctxs] = true) (h : Agree M s x) :
    Agree M s (State.addCtx x a1 a2) := by
  unfold State.addCtx
  repeat' first
    | with_reducible exact h
    | exact covers_trans (by decide) g
    | with_reducible apply State.mapMasts_agree
    | exact fun q => by simpa only [tkeys_tmap, tkeys_tmod] using q
    | exact fun _ z => MastTo.same rfl rfl fun q => q
    | dsimp only
    | with_reducible apply Agree.upd_ctxs

theorem State.claimEngines_agree {M : List Comp} {s x : State} {a1} (g : Covers M [.masts, .ctxs] = true) (h : Agree M s x) :
    Agree M s (State.claimEngines x a1) := by
  unfold State.claimEngines
  repeat' first
    | with_reducible exact h
    | exact covers_trans (by decide) g
    | with_reducible assumption
    | with_reducible apply State.reevalAll_agree
    | with_reducible apply State.takeEngines_agree
    | with_reducible apply Agree.ite
    | with_reducible apply Agree.foldl
    | exact fun q => by simpa only [tkeys_tmap, tkeys_tmod] using q
    | intro _
    | split

theorem State.discardCalls_agree {M : List Comp} {s x : State} {a1} (g : Covers M [.masts, .ctxs, .nlc, .col, .out] = true) (h : Agree M s x) :
    Agree M s (State.discardCalls x a1) := by
  unfold State.discardCalls
  repeat' first
    | with_reducible exact h
    | exact covers_trans (by decide) g
    | with_reducible apply State.dropFabric_agree
    | with_reducible apply State.withdrawCtx_agree
    | with_reducible apply State.stopAll_agree
    | with_reducible apply State.modCtx_agree

theorem State.savePlaces_agree {M : List Comp} {s x : State} {a1 a2 a3 a4 q} (g : Covers M [.free] = true) (h : Agree M s x)
    (e : State.savePlaces x a1 a2 a3 a4 = some q) : Agree M s q.1 := by
  induction a4 generalizing x q with
  | nil => simp only [State.savePlaces, Option.some.injEq] at e; subst e; exact h
  | cons b l ih =>
    simp only [State.savePlaces] at e
    split at e
    · exact absurd e (by simp)
    · split at e
      · exact absurd e (by simp)
      · rename_i t et
        cases Option.some.inj e
        exact ih (x := x.drawn) (q := t) (State.drawn_agree g h) et

theorem State.createSaves_agree {M : List Comp} {s x : State} {a1 a2 q} (g : Covers M [.free] = true) (h : Agree M s x)
    (e : State.createSaves x a1 a2 = some q) : Agree M s q.1 := by
  exact State.savePlaces_agree g h e

theorem ctxCreateAct_agree {M : List Comp} {s x : State} {a0} (g : Covers M [.masts, .ctxs, .free] = true) (h : Agree M s x) :
    Agree M s (ctxCreateAct a0 x).1 := by
  unfold ctxCreateAct
  refine guardAct_agree (covers_trans (by decide) g) h ?_
  split
  · exact h
  · rename_i q e
    exact State.addCtx_agree (covers_trans (by decide) g) (State.createSaves_agree (covers_trans (by decide) g) h e)

theorem ctxCreateCmd_agree {M : List Comp} {s : State} (g : Covers M [.hif, .st, .out, .masts, .ctxs, .free] = true) : Cmd.Kept M s ctxCreateCmd := by
  exact ⟨fun _ _ h => ctxCreateAct_agree (covers_trans (by decide) g) h, fun _ _ _ h => h⟩

theorem ctxUnfurlAct_agree {M : List Comp} {s x : State} {a0} (g : Covers M [.st, .ctxs] = true) (h : Agree M s x) :
    Agree M s (ctxUnfurlAct a0 x).1 := by
  unfold ctxUnfurlAct
  repeat' first
    | with_reducible exact h
    | exact covers_trans (by decide) g
    | with_reducible apply State.owe_agree
    | with_reducible apply State.modCtx_agree
    | with_reducible apply guardAct_agree
    | with_reducible apply Agree.ite_fst
    | exact fun q => by simpa only [tkeys_tmap, tkeys_tmod] using q
    | intro _
    | split
    | dsimp only

theorem ctxUnfurlCmd_agree {M : List Comp} {s : State} (g : Covers M [.hif, .st, .out, .ctxs] = true) : Cmd.Kept M s ctxUnfurlCmd := by
  exact ⟨fun _ _ h => ctxUnfurlAct_agree (covers_trans (by decide) g) h, fun _ _ _ h => h⟩

theorem State.exportsFurled_agree {M : List Comp} {s x : State} {a1} (g : Covers M [.hif, .st, .srvErr, .out] = true) (h : Agree M s x) :
    Agree M s (State.exportsFurled x a1) := by
  unfold State.exportsFurled
  repeat' first
    | with_reducible exact h
    | exact covers_trans (by decide) g
    | with_reducible apply State.complete_agree
    | with_reducible apply Agree.ite
    | with_reducible apply Agree.foldl
    | exact fun q => by simpa only [tkeys_tmap, tkeys_tmod] using q
    | intro _
    | with_reducible apply Agree.upd_srvErr

theorem State.dropExports_agree {M : List Comp} {s x : State} {a1} (g : Covers M [.flt, .st, .masts, .ctxs, .exports, .pmc, .cells] = true) (h : Agree M s x) :
    Agree M s (State.dropExports x a1) := by
  unfold State.dropExports
  repeat' first
    | with_reducible exact h
    | exact covers_trans (by decide) g
    | with_reducible assumption
    | with_reducible apply State.unshipAll_agree
    | with_reducible apply Agree.foldl
    | exact fun q => by simpa only [tkeys_tmap, tkeys_tmod] using q
    | intro _
    | dsimp only
    | with_reducible apply Agree.upd_exports

theorem State.startFurl_agree {M : List Comp} {s x : State} {a1 a2} (g : Covers M [.flt, .hif, .st, .masts, .ctxs, .srvErr, .exports, .hal, .nlc, .col, .pmc, .out, .cells] = true) (h : Agree M s x) :
    Agree M s (State.startFurl x a1 a2) := by
  unfold State.startFurl
  repeat' first
    | with_reducible exact h
    | exact covers_trans (by decide) g
    | with_reducible assumption
    | with_reducible apply State.discardCalls_agree
    | with_reducible apply State.modMast_agree
    | with_reducible apply State.dropLoads_agree
    | with_reducible apply State.dropRecorded_agree
    | with_reducible apply State.reevalAll_agree
    | with_reducible apply State.completeAll_agree
    | with_reducible apply State.owe_agree
    | with_reducible apply State.modCtx_agree
    | with_reducible apply State.exportsFurled_agree
    | with_reducible apply State.dropExports_agree
    | with_reducible apply Agree.ite
    | with_reducible apply Agree.foldl
    | exact fun q => by simpa only [tkeys_tmap, tkeys_tmod] using q
    | refine mastKept_of fun z => ?_
    | exact MastTo.refl _
    | with_reducible apply MastTo.refreshes
    | intro _
    | split

theorem ctxFurlAct_agree {M : List Comp} {s x : State} {a0} (g : Covers M [.flt, .hif, .st, .masts, .ctxs, .srvErr, .exports, .hal, .nlc, .col, .pmc, .out, .cells] = true) (h : Agree M s x) :
    Agree M s (ctxFurlAct a0 x).1 := by
  unfold ctxFurlAct
  repeat' first
    | with_reducible exact h
    | exact covers_trans (by decide) g
    | with_reducible apply State.startFurl_agree
    | with_reducible apply guardAct_agree
    | exact fun q => by simpa only [tkeys_tmap, tkeys_tmod] using q
    | split
    | dsimp only

theorem ctxFurlCmd_agree {M : List Comp} {s : State} (g : Covers M [.hif, .st, .out, .flt, .masts, .ctxs, .srvErr, .exports, .hal, .nlc, .col, .pmc, .cells] = true) : Cmd.Kept M s ctxFurlCmd := by
  exact ⟨fun _ _ h => ctxFurlAct_agree (covers_trans (by decide) g) h, fun _ _ _ h => h⟩

theorem State.destroy_agree {M : List Comp} {s x : State} {a1} (g : Covers M [.flt, .hif, .st, .masts, .ctxs, .zeroing, .hal, .nlc, .col, .pmc, .out, .cells] = true) (h : Agree M s x) :
    Agree M s (State.destroy x a1) := by
  unfold State.destroy
  repeat' first
    | with_reducible exact h
    | exact covers_trans (by decide) g
    | with_reducible apply State.removeShard_agree
    | with_reducible apply State.mapMasts_agree
    | with_reducible apply State.freeEngines_agree
    | with_reducible apply State.modCol_agree
    | with_reducible apply Agree.foldl
    | exact fun q => by simpa only [tkeys_tmap, tkeys_tmod] using q
    | exact fun _ z => MastTo.same rfl rfl fun q => q
    | intro _
    | split
    | dsimp only
    | (refine Agree.upds (by dsimp only <;> exact rfl) ?_ ?_; rotate_left
       · intro c; cases c <;> first | exact Or.inl (covers_mem g (by decide)) | exact Or.inr rfl | exact Or.inr (fun q => q) | exact Or.inr (Nat.le_refl _) | exact Or.inr (fun _ q => q) | exact Or.inr (fun _ => ⟨rfl, rfl⟩) | exact Or.inr (said_same rfl rfl))

theorem ctxDestroyAct_agree {M : List Comp} {s x : State} {a0} (g : Covers M [.flt, .hif, .st, .masts, .ctxs, .zeroing, .hal, .nlc, .col, .pmc, .out, .cells] = true) (h : Agree M s x) :
    Agree M s (ctxDestroyAct a0 x).1 := by
  unfold ctxDestroyAct
  repeat' first
    | with_reducible exact h
    | exact covers_trans (by decide) g
    | with_reducible apply State.destroy_agree
    | with_reducible apply State.completeAll_agree
    | with_reducible apply guardAct_agree

theorem ctxDestroyCmd_agree {M : List Comp} {s : State} (g : Covers M [.hif, .st, .out, .flt, .masts, .ctxs, .zeroing, .hal, .nlc, .col, .pmc, .cells] = true) : Cmd.Kept M s ctxDestroyCmd := by
  exact ⟨fun _ _ h => ctxDestroyAct_agree (covers_trans (by decide) g) h, fun _ _ _ h => h⟩

theorem ctxQueryAct_agree {M : List Comp} {s x : State} {a0} (g : Covers M [] = true) (h : Agree M s x) :
    Agree M s (ctxQueryAct a0 x).1 := by
  unfold ctxQueryAct
  repeat' first
    | with_reducible exact h
    | exact covers_trans (by decide) g
    | with_reducible apply guardAct_agree

theorem ctxQueryCmd_agree {M : List Comp} {s : State} (g : Covers M [.hif, .st, .out] = true) : Cmd.Kept M s ctxQueryCmd := by
  exact ⟨fun _ _ h => ctxQueryAct_agree (covers_trans (by decide) g) h, fun _ _ _ h => h⟩

theorem ctxPriorityAct_agree {M : List Comp} {s x : State} {a0} (g : Covers M [.masts, .ctxs] = true) (h : Agree M s x) :
    Agree M s (ctxPriorityAct a0 x).1 := by
  unfold ctxPriorityAct
  repeat' first
    | with_reducible exact h
    | exact covers_trans (by decide) g
    | with_reducible apply State.reevalAll_agree
    | with_reducible apply State.modCtx_agree
    | with_reducible apply guardAct_agree

theorem ctxPriorityCmd_agree {M : List Comp} {s : State} (g : Covers M [.hif, .st, .out, .masts, .ctxs] = true) : Cmd.Kept M s ctxPriorityCmd := by
  exact ⟨fun _ _ h => ctxPriorityAct_agree (covers_trans (by decide) g) h, fun _ _ _ h => h⟩

theorem State.unfurlDeferred_agree {M : List Comp} {s x : State} {a1} (g : Covers M [.ctxs] = true) (h : Agree M s x) :
    Agree M s (State.unfurlDeferred x a1) := by
  unfold State.unfurlDeferred
  repeat' first
    | with_reducible exact h
    | exact covers_trans (by decide) g
    | with_reducible apply State.modCtx_agree

theorem State.releaseServing_agree {M : List Comp} {s x : State} {a1} (g : Covers M [.flt, .st, .masts, .ctxs, .reqs, .sess, .imports, .pmc, .cells] = true) (h : Agree M s x) :
    Agree M s (State.releaseServing x a1) := by
  unfold State.releaseServing
  repeat' first
    | with_reducible exact h
    | exact covers_trans (by decide) g
    | with_reducible apply State.ttReset_agree
    | with_reducible apply State.setPool_agree
    | with_reducible apply Agree.foldl
    | exact fun q => by simpa only [tkeys_tmap, tkeys_tmod] using q
    | intro _
    | split
    | (refine Agree.upds (by dsimp only <;> exact rfl) ?_ ?_; rotate_left
       · intro c; cases c <;> first | exact Or.inl (covers_mem g (by decide)) | exact Or.inr rfl | exact Or.inr (fun q => q) | exact Or.inr (Nat.le_refl _) | exact Or.inr (fun _ q => q) | exact Or.inr (fun _ => ⟨rfl, rfl⟩) | exact Or.inr (said_same rfl rfl))

theorem State.zeroRegions_agree {M : List Comp} {s x : State} {a1} (g : Covers M [.masts, .cells] = true) (h : Agree M s x) :
    Agree M s (State.zeroRegions x a1) := by
  unfold State.zeroRegions
  repeat' first
    | with_reducible exact h
    | exact covers_trans (by decide) g
    | with_reducible assumption
    | with_reducible apply State.modMast_agree
    | with_reducible apply Agree.ite
    | with_reducible apply Agree.foldl
    | exact fun q => by simpa only [tkeys_tmap, tkeys_tmod] using q
    | refine mastKept_of fun z => ?_
    | exact MastTo.refl _
    | with_reducible apply MastTo.zeroDram
    | intro _

theorem State.furlZero_agree {M : List Comp} {s x : State} {a1 a2} (g : Covers M [.masts, .ctxs, .cells] = true) (h : Agree M s x) :
    Agree M s (State.furlZero x a1 a2) := by
  unfold State.furlZero
  split
  · exact h
  · refine Agree.foldl (State.mapMasts_agree (covers_trans (by decide) g) (State.zeroRegions_agree (covers_trans (by decide) g) h) fun _ z => ?_)
      fun y a hy => State.freeEngines_agree (covers_trans (by decide) g) hy
    exact (MastTo.dropLines _ (covers_trans (by decide) g) (MastTo.refl z)).of_eq rfl rfl rfl

theorem State.furlEnd_agree {M : List Comp} {s x : State} {a1} (g : Covers M [.pwr, .flt, .hif, .st, .masts, .ctxs, .reqs, .sess, .imports, .nlc, .pmc, .out, .cells] = true) (h : Agree M s x) :
    Agree M s (State.furlEnd x a1) := by
  unfold State.furlEnd
  repeat' first
    | with_reducible exact h
    | exact covers_trans (by decide) g
    | with_reducible assumption
    | with_reducible apply State.modMast_agree
    | with_reducible apply State.dropFabric_agree
    | with_reducible apply State.completeOf_agree
    | with_reducible apply State.unfurlDeferred_agree
    | with_reducible apply State.retarget_agree
    | with_reducible apply State.pumpAll_agree
    | with_reducible apply State.releaseServing_agree
    | with_reducible apply State.furlZero_agree
    | with_reducible apply State.modCtx_agree
    | with_reducible apply Agree.ite
    | with_reducible apply Agree.foldl
    | exact fun q => by simpa only [tkeys_tmap, tkeys_tmod] using q
    | exact fun z => MastTo.same rfl rfl fun q => q
    | intro _
    | split

theorem State.reborn_agree {M : List Comp} {s x : State} {a1} (g : Covers M [.flt, .st, .masts, .ctxs, .col, .pmc, .cells] = true) (h : Agree M s x) :
    Agree M s (State.reborn x a1) := by
  unfold State.reborn
  repeat' first
    | with_reducible exact h
    | exact covers_trans (by decide) g
    | with_reducible apply State.kvTables_agree
    | with_reducible apply State.claimEngines_agree
    | with_reducible apply State.ttReset_agree
    | with_reducible apply State.modCol_agree
    | with_reducible apply State.modCtx_agree
    | with_reducible apply State.programTaken_agree
    | with_reducible apply Agree.ite
    | intro _

theorem State.unfurled_agree {M : List Comp} {s x : State} {a1} (g : Covers M [.pwr, .flt, .hif, .st, .masts, .ctxs, .reqs, .sess, .srvErr, .exports, .nextExp, .hal, .nlc, .col, .pmc, .out, .cells] = true) (h : Agree M s x) :
    Agree M s (State.unfurled x a1) := by
  unfold State.unfurled
  repeat' first
    | with_reducible exact h
    | exact covers_trans (by decide) g
    | with_reducible apply State.completeOf_agree
    | with_reducible apply State.retarget_agree
    | with_reducible apply State.idle_agree
    | with_reducible apply State.reborn_agree

theorem State.unfurlEnd_agree {M : List Comp} {s x : State} {a1} (g : Covers M [.pwr, .flt, .hif, .st, .masts, .ctxs, .reqs, .sess, .srvErr, .exports, .nextExp, .hal, .nlc, .col, .pmc, .out, .cells] = true) (h : Agree M s x) :
    Agree M s (State.unfurlEnd x a1) := by
  unfold State.unfurlEnd
  repeat' first
    | with_reducible exact h
    | exact covers_trans (by decide) g
    | with_reducible apply State.completeOf_agree
    | with_reducible apply State.modCtx_agree
    | with_reducible apply State.unfurled_agree
    | with_reducible apply Agree.ite
    | exact fun q => by simpa only [tkeys_tmap, tkeys_tmod] using q
    | intro _
    | split

theorem State.zeroingEnd_agree {M : List Comp} {s x : State} {a1} (g : Covers M [.masts, .ctxs, .zeroing, .cells] = true) (h : Agree M s x) :
    Agree M s (State.zeroingEnd x a1) := by
  unfold State.zeroingEnd
  repeat' first
    | with_reducible exact h
    | exact covers_trans (by decide) g
    | with_reducible apply State.zeroRegions_agree
    | with_reducible apply State.unfurlDeferred_agree
    | with_reducible apply State.furlZero_agree
    | with_reducible apply State.modCtx_agree
    | with_reducible apply Agree.ite
    | exact fun q => by simpa only [tkeys_tmap, tkeys_tmod] using q
    | intro _
    | split
    | dsimp only
    | with_reducible apply Agree.upd_zeroing

theorem memGrantAct_agree {M : List Comp} {s x : State} {a0} (g : Covers M [.ctxs] = true) (h : Agree M s x) :
    Agree M s (memGrantAct a0 x).1 := by
  unfold memGrantAct
  repeat' first
    | with_reducible exact h
    | exact covers_trans (by decide) g
    | with_reducible apply State.modCtx_agree
    | with_reducible apply guardAct_agree

theorem memGrantCmd_agree {M : List Comp} {s : State} (g : Covers M [.hif, .st, .out, .ctxs] = true) : Cmd.Kept M s memGrantCmd := by
  exact ⟨fun _ _ h => memGrantAct_agree (covers_trans (by decide) g) h, fun _ _ _ h => h⟩

theorem memReleaseAct_agree {M : List Comp} {s x : State} {a0} (g : Covers M [.st, .ctxs] = true) (h : Agree M s x) :
    Agree M s (memReleaseAct a0 x).1 := by
  unfold memReleaseAct
  repeat' first
    | with_reducible exact h
    | exact covers_trans (by decide) g
    | with_reducible apply State.owe_agree
    | with_reducible apply State.modCtx_agree
    | with_reducible apply guardAct_agree

theorem memReleaseCmd_agree {M : List Comp} {s : State} (g : Covers M [.hif, .st, .out, .ctxs] = true) : Cmd.Kept M s memReleaseCmd := by
  exact ⟨fun _ _ h => memReleaseAct_agree (covers_trans (by decide) g) h, fun _ _ _ h => h⟩

theorem State.hostPoison_agree {M : List Comp} {s x : State} {a1 a2 a3} (g : Covers M [.flt, .st, .pmc] = true) (h : Agree M s x) :
    Agree M s (State.hostPoison x a1 a2 a3) := by
  unfold State.hostPoison
  repeat' first
    | with_reducible exact h
    | exact covers_trans (by decide) g
    | with_reducible apply State.raise_agree

theorem State.recordLines_agree {M : List Comp} {s x : State} {a1 a2 a3} (g : Covers M [.hal] = true) (h : Agree M s x) :
    Agree M s (State.recordLines x a1 a2 a3) := by
  unfold State.recordLines
  repeat' first
    | with_reducible exact h
    | exact covers_trans (by decide) g
    | with_reducible assumption
    | with_reducible apply State.modShard_agree
    | with_reducible apply Agree.ite
    | with_reducible apply Agree.foldl
    | exact fun q => by simpa only [tkeys_tmap, tkeys_tmod] using q
    | intro _
    | split

theorem memWritten_agree {M : List Comp} {s : State} {a0 a1 a2} {x : State × Option (Nat × Nat)} (g : Covers M [.flt, .st, .hal, .pmc] = true) (h : Agree M s x.1) :
    Agree M s (memWritten a0 a1 a2 x).1 := by
  unfold memWritten
  split
  · exact State.hostPoison_agree (covers_trans (by decide) g) h
  · exact Agree.ite (fun _ => State.recordLines_agree (covers_trans (by decide) g) h) fun _ => h

theorem memWriteAct_agree {M : List Comp} {s x : State} {a0} (g : Covers M [.flt, .st, .masts, .hal, .pmc, .cells] = true) (h : Agree M s x) :
    Agree M s (memWriteAct a0 x).1 := by
  unfold memWriteAct
  exact guardAct_agree (covers_trans (by decide) g) h (memWritten_agree (covers_trans (by decide) g) (State.writeAt_agree (covers_trans (by decide) g) h))

theorem memWriteCmd_agree {M : List Comp} {s : State} (g : Covers M [.hif, .st, .out, .flt, .masts, .hal, .pmc, .cells] = true) : Cmd.Kept M s memWriteCmd := by
  exact ⟨fun _ _ h => memWriteAct_agree (covers_trans (by decide) g) h, fun _ _ _ h => h⟩

theorem State.hostSpadRead_agree {M : List Comp} {s x : State} {a1 a2 a3 a4} (g : Covers M [.pwr, .flt, .hif, .st, .masts, .ctxs, .reqs, .sess, .srvErr, .exports, .hal, .nlc, .col, .pmc, .out, .free, .cells] = true) (h : Agree M s x) :
    Agree M s (State.hostSpadRead x a1 a2 a3 a4).1 := by
  unfold State.hostSpadRead
  repeat' first
    | with_reducible exact h
    | exact covers_trans (by decide) g
    | with_reducible apply State.readAt_agree
    | with_reducible apply State.ioFail_agree
    | with_reducible apply State.drawnN_agree
    | with_reducible apply Agree.ite_fst
    | exact fun q => by simpa only [tkeys_tmap, tkeys_tmod] using q
    | intro _
    | split
    | dsimp only

theorem memReadAct_agree {M : List Comp} {s x : State} {a0} (g : Covers M [.pwr, .flt, .hif, .st, .masts, .ctxs, .reqs, .sess, .srvErr, .exports, .hal, .nlc, .col, .pmc, .out, .free, .cells] = true) (h : Agree M s x) :
    Agree M s (memReadAct a0 x).1 := by
  unfold memReadAct
  repeat' first
    | with_reducible exact h
    | exact covers_trans (by decide) g
    | with_reducible apply State.hostSpadRead_agree
    | with_reducible apply State.readDram_agree
    | with_reducible apply State.hostPoison_agree
    | with_reducible apply guardAct_agree
    | with_reducible apply Agree.ite_fst
    | exact fun q => by simpa only [tkeys_tmap, tkeys_tmod] using q
    | intro _
    | split
    | dsimp only

theorem memReadCmd_agree {M : List Comp} {s : State} (g : Covers M [.hif, .st, .out, .pwr, .flt, .masts, .ctxs, .reqs, .sess, .srvErr, .exports, .hal, .nlc, .col, .pmc, .free, .cells] = true) : Cmd.Kept M s memReadCmd := by
  exact ⟨fun _ _ h => memReadAct_agree (covers_trans (by decide) g) h, fun _ _ _ h => h⟩

theorem State.releaseEnd_agree {M : List Comp} {s x : State} {a1 a2 a3} (g : Covers M [.hif, .st, .masts, .ctxs, .out, .cells] = true) (h : Agree M s x) :
    Agree M s (State.releaseEnd x a1 a2 a3) := by
  unfold State.releaseEnd
  repeat' first
    | with_reducible exact h
    | exact covers_trans (by decide) g
    | with_reducible apply State.zeroRegions_agree
    | with_reducible apply State.completeOf_agree
    | with_reducible apply State.modCtx_agree
    | with_reducible apply Agree.ite
    | exact fun q => by simpa only [tkeys_tmap, tkeys_tmod] using q
    | intro _
    | split

theorem recordAct_agree {M : List Comp} {s x : State} {a1 a2} (g : Covers M [.ctxs] = true) (h : Agree M s x) :
    Agree M s (recordAct x a1 a2).1 := by
  unfold recordAct
  repeat' first
    | with_reducible exact h
    | exact covers_trans (by decide) g
    | with_reducible apply State.record_agree

theorem reqSubmitAct_agree {M : List Comp} {s x : State} {a0} (g : Covers M [.ctxs] = true) (h : Agree M s x) :
    Agree M s (reqSubmitAct a0 x).1 := by
  unfold reqSubmitAct
  repeat' first
    | with_reducible exact h
    | exact covers_trans (by decide) g
    | with_reducible apply recordAct_agree
    | with_reducible apply guardAct_agree

theorem recordAfter_agree {M : List Comp} {s x : State} {a0 a1} (g : Covers M [.pwr, .flt, .hif, .st, .masts, .ctxs, .reqs, .sess, .srvErr, .exports, .nextExp, .hal, .nlc, .col, .pmc, .out, .cells] = true) (h : Agree M s x) :
    Agree M s (recordAfter a0 a1 x) := by
  unfold recordAfter
  repeat' first
    | with_reducible exact h
    | exact covers_trans (by decide) g
    | with_reducible apply State.idle_agree
    | with_reducible apply Agree.ite
    | intro _

theorem reqSubmitCmd_agree {M : List Comp} {s : State} (g : Covers M [.hif, .st, .out, .ctxs, .pwr, .flt, .masts, .reqs, .sess, .srvErr, .exports, .nextExp, .hal, .nlc, .col, .pmc, .cells] = true) : Cmd.Kept M s reqSubmitCmd := by
  exact ⟨fun _ _ h => reqSubmitAct_agree (covers_trans (by decide) g) h, fun r a x h => recordAfter_agree (a0 := r) (a1 := a) (x := x) (covers_trans (by decide) g) h⟩

theorem slotAct_agree {M : List Comp} {s x : State} {a0 a1 a2} (g : Covers M [.ctxs] = true) (h : Agree M s x) :
    Agree M s (slotAct a0 a1 a2 x).1 := by
  unfold slotAct
  repeat' first
    | with_reducible exact h
    | exact covers_trans (by decide) g
    | with_reducible apply recordAct_agree
    | with_reducible apply guardAct_agree

theorem reqCancelCmd_agree {M : List Comp} {s : State} (g : Covers M [.hif, .st, .out, .ctxs, .pwr, .flt, .masts, .reqs, .sess, .srvErr, .exports, .nextExp, .hal, .nlc, .col, .pmc, .cells] = true) : Cmd.Kept M s reqCancelCmd := by
  exact ⟨fun _ _ h => slotAct_agree (covers_trans (by decide) g) h, fun r a x h => recordAfter_agree (a0 := r) (a1 := a) (x := x) (covers_trans (by decide) g) h⟩

theorem reqParkCmd_agree {M : List Comp} {s : State} (g : Covers M [.hif, .st, .out, .ctxs, .pwr, .flt, .masts, .reqs, .sess, .srvErr, .exports, .nextExp, .hal, .nlc, .col, .pmc, .cells] = true) : Cmd.Kept M s reqParkCmd := by
  exact ⟨fun _ _ h => slotAct_agree (covers_trans (by decide) g) h, fun r a x h => recordAfter_agree (a0 := r) (a1 := a) (x := x) (covers_trans (by decide) g) h⟩

theorem reqResumeCmd_agree {M : List Comp} {s : State} (g : Covers M [.hif, .st, .out, .ctxs, .pwr, .flt, .masts, .reqs, .sess, .srvErr, .exports, .nextExp, .hal, .nlc, .col, .pmc, .cells] = true) : Cmd.Kept M s reqResumeCmd := by
  exact ⟨fun _ _ h => slotAct_agree (covers_trans (by decide) g) h, fun r a x h => recordAfter_agree (a0 := r) (a1 := a) (x := x) (covers_trans (by decide) g) h⟩

theorem reqReleaseCmd_agree {M : List Comp} {s : State} (g : Covers M [.hif, .st, .out, .ctxs, .pwr, .flt, .masts, .reqs, .sess, .srvErr, .exports, .nextExp, .hal, .nlc, .col, .pmc, .cells] = true) : Cmd.Kept M s reqReleaseCmd := by
  exact ⟨fun _ _ h => slotAct_agree (covers_trans (by decide) g) h, fun r a x h => recordAfter_agree (a0 := r) (a1 := a) (x := x) (covers_trans (by decide) g) h⟩

theorem sessionOpenAct_agree {M : List Comp} {s x : State} {a0} (g : Covers M [.ctxs] = true) (h : Agree M s x) :
    Agree M s (sessionOpenAct a0 x).1 := by
  unfold sessionOpenAct
  repeat' first
    | with_reducible exact h
    | exact covers_trans (by decide) g
    | with_reducible apply recordAct_agree
    | with_reducible apply guardAct_agree

theorem sessionOpenCmd_agree {M : List Comp} {s : State} (g : Covers M [.hif, .st, .out, .ctxs, .pwr, .flt, .masts, .reqs, .sess, .srvErr, .exports, .nextExp, .hal, .nlc, .col, .pmc, .cells] = true) : Cmd.Kept M s sessionOpenCmd := by
  exact ⟨fun _ _ h => sessionOpenAct_agree (covers_trans (by decide) g) h, fun r a x h => recordAfter_agree (a0 := r) (a1 := a) (x := x) (covers_trans (by decide) g) h⟩

theorem sessionCloseAct_agree {M : List Comp} {s x : State} {a0} (g : Covers M [.ctxs] = true) (h : Agree M s x) :
    Agree M s (sessionCloseAct a0 x).1 := by
  unfold sessionCloseAct
  repeat' first
    | with_reducible exact h
    | exact covers_trans (by decide) g
    | with_reducible apply recordAct_agree
    | with_reducible apply guardAct_agree

theorem sessionCloseCmd_agree {M : List Comp} {s : State} (g : Covers M [.hif, .st, .out, .ctxs, .pwr, .flt, .masts, .reqs, .sess, .srvErr, .exports, .nextExp, .hal, .nlc, .col, .pmc, .cells] = true) : Cmd.Kept M s sessionCloseCmd := by
  exact ⟨fun _ _ h => sessionCloseAct_agree (covers_trans (by decide) g) h, fun r a x h => recordAfter_agree (a0 := r) (a1 := a) (x := x) (covers_trans (by decide) g) h⟩

theorem sessionShareAct_agree {M : List Comp} {s x : State} {a0} (g : Covers M [.ctxs] = true) (h : Agree M s x) :
    Agree M s (sessionShareAct a0 x).1 := by
  unfold sessionShareAct
  repeat' first
    | with_reducible exact h
    | exact covers_trans (by decide) g
    | with_reducible apply recordAct_agree
    | with_reducible apply guardAct_agree

theorem sessionShareCmd_agree {M : List Comp} {s : State} (g : Covers M [.hif, .st, .out, .ctxs, .pwr, .flt, .masts, .reqs, .sess, .srvErr, .exports, .nextExp, .hal, .nlc, .col, .pmc, .cells] = true) : Cmd.Kept M s sessionShareCmd := by
  exact ⟨fun _ _ h => sessionShareAct_agree (covers_trans (by decide) g) h, fun r a x h => recordAfter_agree (a0 := r) (a1 := a) (x := x) (covers_trans (by decide) g) h⟩

theorem sessionTruncateAct_agree {M : List Comp} {s x : State} {a0} (g : Covers M [.ctxs] = true) (h : Agree M s x) :
    Agree M s (sessionTruncateAct a0 x).1 := by
  unfold sessionTruncateAct
  repeat' first
    | with_reducible exact h
    | exact covers_trans (by decide) g
    | with_reducible apply recordAct_agree
    | with_reducible apply guardAct_agree

theorem sessionTruncateCmd_agree {M : List Comp} {s : State} (g : Covers M [.hif, .st, .out, .ctxs, .pwr, .flt, .masts, .reqs, .sess, .srvErr, .exports, .nextExp, .hal, .nlc, .col, .pmc, .cells] = true) : Cmd.Kept M s sessionTruncateCmd := by
  exact ⟨fun _ _ h => sessionTruncateAct_agree (covers_trans (by decide) g) h, fun r a x h => recordAfter_agree (a0 := r) (a1 := a) (x := x) (covers_trans (by decide) g) h⟩

theorem sessionGlobalsAct_agree {M : List Comp} {s x : State} {a0} (g : Covers M [.ctxs] = true) (h : Agree M s x) :
    Agree M s (sessionGlobalsAct a0 x).1 := by
  unfold sessionGlobalsAct
  repeat' first
    | with_reducible exact h
    | exact covers_trans (by decide) g
    | with_reducible apply recordAct_agree
    | with_reducible apply guardAct_agree

theorem sessionGlobalsCmd_agree {M : List Comp} {s : State} (g : Covers M [.hif, .st, .out, .ctxs, .pwr, .flt, .masts, .reqs, .sess, .srvErr, .exports, .nextExp, .hal, .nlc, .col, .pmc, .cells] = true) : Cmd.Kept M s sessionGlobalsCmd := by
  exact ⟨fun _ _ h => sessionGlobalsAct_agree (covers_trans (by decide) g) h, fun r a x h => recordAfter_agree (a0 := r) (a1 := a) (x := x) (covers_trans (by decide) g) h⟩

theorem sessionQueryAct_agree {M : List Comp} {s x : State} {a0} (g : Covers M [] = true) (h : Agree M s x) :
    Agree M s (sessionQueryAct a0 x).1 := by
  unfold sessionQueryAct
  repeat' first
    | with_reducible exact h
    | exact covers_trans (by decide) g
    | with_reducible apply guardAct_agree

theorem sessionQueryCmd_agree {M : List Comp} {s : State} (g : Covers M [.hif, .st, .out] = true) : Cmd.Kept M s sessionQueryCmd := by
  exact ⟨fun _ _ h => sessionQueryAct_agree (covers_trans (by decide) g) h, fun _ _ _ h => h⟩

theorem kvExportAct_agree {M : List Comp} {s x : State} {a0} (g : Covers M [.flt, .hif, .st, .masts, .ctxs, .reqs, .sess, .exports, .nextExp, .pmc, .out, .cells] = true) (h : Agree M s x) :
    Agree M s (kvExportAct a0 x).1 := by
  unfold kvExportAct
  repeat' first
    | with_reducible exact h
    | exact covers_trans (by decide) g
    | with_reducible apply State.record_agree
    | with_reducible apply State.owe_agree
    | with_reducible apply guardAct_agree
    | exact fun q => by simpa only [tkeys_tmap, tkeys_tmod] using q
    | (refine Agree.upds (by dsimp only <;> exact rfl) ?_ ?_; rotate_left
       · intro c; cases c <;> first | exact Or.inl (covers_mem g (by decide)) | exact Or.inr rfl | exact Or.inr (fun q => q) | exact Or.inr (Nat.le_refl _) | exact Or.inr (fun _ q => q) | exact Or.inr (fun _ => ⟨rfl, rfl⟩) | exact Or.inr (said_same rfl rfl))

theorem kvExportCmd_agree {M : List Comp} {s : State} (g : Covers M [.hif, .st, .out, .flt, .masts, .ctxs, .reqs, .sess, .exports, .nextExp, .pmc, .pwr, .srvErr, .hal, .nlc, .col, .cells] = true) : Cmd.Kept M s kvExportCmd := by
  exact ⟨fun _ _ h => kvExportAct_agree (covers_trans (by decide) g) h, fun r a x h => recordAfter_agree (a0 := r) (a1 := a) (x := x) (covers_trans (by decide) g) h⟩

theorem mirrorSetAct_agree {M : List Comp} {s x : State} {a0} (g : Covers M [.ctxs] = true) (h : Agree M s x) :
    Agree M s (mirrorSetAct a0 x).1 := by
  unfold mirrorSetAct
  repeat' first
    | with_reducible exact h
    | exact covers_trans (by decide) g
    | with_reducible apply recordAct_agree
    | with_reducible apply guardAct_agree

theorem mirrorSetCmd_agree {M : List Comp} {s : State} (g : Covers M [.hif, .st, .out, .ctxs, .pwr, .flt, .masts, .reqs, .sess, .srvErr, .exports, .nextExp, .hal, .nlc, .col, .pmc, .cells] = true) : Cmd.Kept M s mirrorSetCmd := by
  exact ⟨fun _ _ h => mirrorSetAct_agree (covers_trans (by decide) g) h, fun r a x h => recordAfter_agree (a0 := r) (a1 := a) (x := x) (covers_trans (by decide) g) h⟩

theorem serveConfigAct_agree {M : List Comp} {s x : State} {a0} (g : Covers M [.ctxs] = true) (h : Agree M s x) :
    Agree M s (serveConfigAct a0 x).1 := by
  unfold serveConfigAct
  repeat' first
    | with_reducible exact h
    | exact covers_trans (by decide) g
    | with_reducible apply recordAct_agree
    | with_reducible apply guardAct_agree

theorem serveConfigCmd_agree {M : List Comp} {s : State} (g : Covers M [.hif, .st, .out, .ctxs, .pwr, .flt, .masts, .reqs, .sess, .srvErr, .exports, .nextExp, .hal, .nlc, .col, .pmc, .cells] = true) : Cmd.Kept M s serveConfigCmd := by
  exact ⟨fun _ _ h => serveConfigAct_agree (covers_trans (by decide) g) h, fun r a x h => recordAfter_agree (a0 := r) (a1 := a) (x := x) (covers_trans (by decide) g) h⟩

end Sys2Proof.Machine
end

