-- ==== Sys2Proof/Laws/FrameFabric.lean ====
section
/-! SUPPORT. What each operation may change, as `Agree` with the parts that it leaves alone: holders, collectives and the fabric. -/
namespace Sys2Proof.Machine
set_option maxRecDepth 3000

theorem State.ringRead_agree {M : List Comp} {s x : State} {a1 a2 a3 a4} (g : Covers M [.flt, .st, .masts, .ctxs, .pmc] = true) (h : Agree M s x) :
    Agree M s (State.ringRead x a1 a2 a3 a4).1 := by
  unfold State.ringRead
  repeat' first
    | with_reducible exact h
    | exact covers_trans (by decide) g
    | with_reducible apply State.mastRead_agree

theorem State.readHeads_agree {M : List Comp} {s x : State} {a1 a2 a3 a4 a5} (g : Covers M [.flt, .st, .masts, .ctxs, .pmc] = true) (h : Agree M s x) :
    Agree M s (State.readHeads x a1 a2 a3 a4 a5).1 := by
  induction a4 generalizing x a5 with
  | zero =>
    unfold State.readHeads
    repeat' first
      | with_reducible exact h
  | succ n ih =>
    unfold State.readHeads
    repeat' first
      | with_reducible exact h
      | exact covers_trans (by decide) g
      | with_reducible apply ih
      | with_reducible apply State.ringRead_agree
      | with_reducible apply Agree.ite_fst
      | intro _

theorem State.readSteps_agree {M : List Comp} {s x : State} {a1 a2 a3} (g : Covers M [.flt, .st, .masts, .ctxs, .pmc] = true) (h : Agree M s x) :
    Agree M s (State.readSteps x a1 a2 a3).1 := by
  induction a3 generalizing x  with
  | nil =>
    unfold State.readSteps
    repeat' first
      | with_reducible exact h
  | cons b l ih =>
    unfold State.readSteps
    repeat' first
      | with_reducible exact h
      | exact covers_trans (by decide) g
      | with_reducible apply ih
      | with_reducible apply State.readHeads_agree

theorem State.holdEntry_agree {M : List Comp} {s x : State} {a1 a2} (g : Covers M [.ctxs, .sess] = true) (h : Agree M s x) :
    Agree M s (State.holdEntry x a1 a2) := by
  unfold State.holdEntry
  repeat' first
    | with_reducible exact h
    | exact covers_trans (by decide) g
    | with_reducible apply State.modSession_agree
    | with_reducible apply State.modHolder_agree
    | with_reducible apply Agree.ite
    | exact fun q => by simpa only [tkeys_tmap, tkeys_tmod] using q
    | intro _
    | split
    | dsimp only

theorem State.holdEntries_agree {M : List Comp} {s x : State} {a1 a2} (g : Covers M [.ctxs, .sess] = true) (h : Agree M s x) :
    Agree M s (State.holdEntries x a1 a2) := by
  unfold State.holdEntries
  repeat' first
    | with_reducible exact h
    | exact covers_trans (by decide) g
    | with_reducible apply State.holdEntry_agree
    | with_reducible apply Agree.foldl
    | intro _

theorem State.holderPage_agree {M : List Comp} {s x : State} {a1 a2 a3 a4 a5} (g : Covers M [.flt, .st, .masts, .ctxs, .sess, .pmc, .cells] = true) (h : Agree M s x) :
    Agree M s (State.holderPage x a1 a2 a3 a4 a5).1 := by
  unfold State.holderPage
  repeat' first
    | with_reducible exact h
    | exact covers_trans (by decide) g
    | with_reducible apply State.openPage_agree
    | exact fun q => by simpa only [tkeys_tmap, tkeys_tmod] using q
    | split
    | dsimp only

theorem State.holdKv_agree {M : List Comp} {s x : State} {a1 a2 a3 a4} (g : Covers M [.pwr, .flt, .hif, .st, .masts, .ctxs, .reqs, .sess, .srvErr, .exports, .hal, .nlc, .col, .pmc, .out, .cells] = true) (h : Agree M s x) :
    Agree M s (State.holdKv x a1 a2 a3 a4) := by
  unfold State.holdKv
  repeat' first
    | with_reducible exact h
    | exact covers_trans (by decide) g
    | with_reducible apply State.ioFail_agree
    | with_reducible apply State.kvWrite_agree
    | with_reducible apply State.holderPage_agree
    | with_reducible apply State.holderLoses_agree
    | with_reducible apply Agree.ite
    | exact fun q => by simpa only [tkeys_tmap, tkeys_tmod] using q
    | intro _
    | split
    | dsimp only

theorem State.holdCmd_agree {M : List Comp} {s x : State} {a1 a2} (g : Covers M [.flt, .st, .masts, .ctxs, .sess, .pmc, .cells] = true) (h : Agree M s x) :
    Agree M s (State.holdCmd x a1 a2) := by
  unfold State.holdCmd
  repeat' first
    | with_reducible exact h
    | exact covers_trans (by decide) g
    | with_reducible apply State.sharePages_agree
    | with_reducible apply State.modSession_agree
    | with_reducible apply State.releasePages_agree
    | with_reducible apply State.closeSession_agree
    | with_reducible apply State.modHolder_agree
    | with_reducible apply State.mirrorSession_agree
    | with_reducible apply State.holderLoses_agree
    | with_reducible apply Agree.ite
    | exact fun q => by simpa only [tkeys_tmap, tkeys_tmod] using q
    | intro _
    | split
    | dsimp only

theorem State.holdCmds_agree {M : List Comp} {s x : State} {a1 a2 a3} (g : Covers M [.flt, .st, .masts, .ctxs, .sess, .pmc, .cells] = true) (h : Agree M s x) :
    Agree M s (State.holdCmds x a1 a2 a3) := by
  induction a2 generalizing x a3 with
  | zero =>
    unfold State.holdCmds
    repeat' first
      | with_reducible exact h
  | succ n ih =>
    unfold State.holdCmds
    repeat' first
      | with_reducible exact h
      | exact covers_trans (by decide) g
      | with_reducible apply ih
      | with_reducible apply State.holdCmd_agree

theorem State.holdRec_agree {M : List Comp} {s x : State} {a1 a2 a3} (g : Covers M [.pwr, .flt, .hif, .st, .masts, .ctxs, .reqs, .sess, .srvErr, .exports, .hal, .nlc, .col, .pmc, .out, .cells] = true) (h : Agree M s x) :
    Agree M s (State.holdRec x a1 a2 a3).1 := by
  unfold State.holdRec
  repeat' first
    | with_reducible exact h
    | exact covers_trans (by decide) g
    | with_reducible apply State.holdEntries_agree
    | with_reducible apply State.holdKv_agree
    | with_reducible apply State.holdCmds_agree
    | with_reducible apply Agree.foldl
    | exact fun q => by simpa only [tkeys_tmap, tkeys_tmod] using q
    | intro _
    | split

theorem State.holdRecs_agree {M : List Comp} {s x : State} {a1 a2 a3 a4 a5 a6 a7} (g : Covers M [.pwr, .flt, .hif, .st, .masts, .ctxs, .reqs, .sess, .srvErr, .exports, .hal, .nlc, .col, .pmc, .out, .cells] = true) (h : Agree M s x) :
    Agree M s (State.holdRecs x a1 a2 a3 a4 a5 a6 a7).1 := by
  induction a5 generalizing x a6 a7 with
  | zero =>
    unfold State.holdRecs
    repeat' first
      | with_reducible exact h
  | succ n ih =>
    unfold State.holdRecs
    repeat' first
      | with_reducible exact h
      | exact covers_trans (by decide) g
      | with_reducible apply ih
      | with_reducible apply State.holdRec_agree
      | with_reducible apply State.ringRead_agree
      | with_reducible apply Agree.ite_fst
      | exact fun q => by simpa only [tkeys_tmap, tkeys_tmod] using q
      | intro _
      | split
      | dsimp only

theorem State.sealNow_agree {M : List Comp} {s x : State} {a1 a2 a3 a4 a5} (g : Covers M [.pwr, .flt, .hif, .st, .masts, .ctxs, .reqs, .sess, .srvErr, .exports, .hal, .nlc, .col, .pmc, .out, .cells] = true) (h : Agree M s x) :
    Agree M s (State.sealNow x a1 a2 a3 a4 a5) := by
  unfold State.sealNow
  repeat' first
    | with_reducible exact h
    | exact covers_trans (by decide) g
    | with_reducible apply State.modMast_agree
    | with_reducible apply State.contained_agree
    | with_reducible apply State.sealCounts_agree
    | with_reducible apply State.writeDram_agree
    | with_reducible apply State.ioFail_agree
    | with_reducible apply State.readRuns_agree
    | with_reducible apply State.setPool_agree
    | with_reducible apply State.aeErr_agree
    | exact fun q => by simpa only [tkeys_tmap, tkeys_tmod] using q
    | exact fun z => MastTo.same rfl rfl fun q => q
    | split
    | (refine Agree.of_fst (by assumption) ?_)
    | dsimp only

theorem State.sealThose_agree {M : List Comp} {s x : State} {a1 a2 a3 a4} (g : Covers M [.pwr, .flt, .hif, .st, .masts, .ctxs, .reqs, .sess, .srvErr, .exports, .hal, .nlc, .col, .pmc, .out, .cells] = true) (h : Agree M s x) :
    Agree M s (State.sealThose x a1 a2 a3 a4) := by
  unfold State.sealThose
  repeat' first
    | with_reducible exact h
    | exact covers_trans (by decide) g
    | with_reducible apply State.sealNow_agree
    | with_reducible apply Agree.foldl
    | exact fun q => by simpa only [tkeys_tmap, tkeys_tmod] using q
    | intro _
    | split

theorem State.holderBoundary_agree {M : List Comp} {s x : State} {a1 a2 a3} (g : Covers M [.pwr, .flt, .hif, .st, .masts, .ctxs, .reqs, .sess, .srvErr, .exports, .hal, .nlc, .col, .pmc, .out, .cells] = true) (h : Agree M s x) :
    Agree M s (State.holderBoundary x a1 a2 a3) := by
  unfold State.holderBoundary
  repeat' first
    | with_reducible exact h
    | exact covers_trans (by decide) g
    | with_reducible assumption
    | with_reducible apply State.sealThose_agree
    | with_reducible apply State.setPool_agree
    | with_reducible apply Agree.ite
    | with_reducible apply Agree.foldl
    | exact fun q => by simpa only [tkeys_tmap, tkeys_tmod] using q
    | intro _
    | split

theorem State.applyStep_agree {M : List Comp} {s x : State} {a1 a2 a3} (g : Covers M [.pwr, .flt, .hif, .st, .masts, .ctxs, .reqs, .sess, .srvErr, .exports, .hal, .nlc, .col, .pmc, .out, .cells] = true) (h : Agree M s x) :
    Agree M s (State.applyStep x a1 a2 a3) := by
  unfold State.applyStep
  repeat' first
    | with_reducible exact h
    | exact covers_trans (by decide) g
    | with_reducible apply State.holdRecs_agree
    | with_reducible apply State.modHolder_agree
    | with_reducible apply State.holderBoundary_agree
    | exact fun q => by simpa only [tkeys_tmap, tkeys_tmod] using q
    | split

theorem State.applyReady_agree {M : List Comp} {s x : State} {a1 a2 a3} (g : Covers M [.pwr, .flt, .hif, .st, .masts, .ctxs, .reqs, .sess, .srvErr, .exports, .hal, .nlc, .col, .pmc, .out, .cells] = true) (h : Agree M s x) :
    Agree M s (State.applyReady x a1 a2 a3) := by
  induction a3 generalizing x  with
  | zero =>
    unfold State.applyReady
    repeat' first
      | with_reducible exact h
  | succ n ih =>
    unfold State.applyReady
    repeat' first
      | with_reducible exact h
      | exact covers_trans (by decide) g
      | with_reducible apply ih
      | with_reducible apply State.applyStep_agree
      | with_reducible apply Agree.ite
      | exact fun q => by simpa only [tkeys_tmap, tkeys_tmod] using q
      | intro _
      | split

theorem State.ackStep_agree {M : List Comp} {s x : State} {a1 a2} (g : Covers M [.ctxs, .out] = true) (h : Agree M s x) :
    Agree M s (State.ackStep x a1 a2) := by
  unfold State.ackStep
  repeat' first
    | with_reducible exact h
    | exact covers_trans (by decide) g
    | with_reducible apply State.emitFab_agree
    | with_reducible apply State.modHolder_agree
    | exact fun q => by simpa only [tkeys_tmap, tkeys_tmod] using q
    | split

theorem State.ringLine_agree {M : List Comp} {s x : State} {a1 a2} (g : Covers M [.pwr, .flt, .hif, .st, .masts, .ctxs, .reqs, .sess, .srvErr, .exports, .hal, .nlc, .col, .pmc, .out, .cells] = true) (h : Agree M s x) :
    Agree M s (State.ringLine x a1 a2) := by
  unfold State.ringLine
  repeat' first
    | with_reducible exact h
    | exact covers_trans (by decide) g
    | with_reducible apply State.raiseMet_agree
    | with_reducible apply State.readSteps_agree
    | with_reducible apply State.applyReady_agree
    | with_reducible apply State.ackStep_agree
    | with_reducible apply State.modHolder_agree
    | with_reducible apply Agree.ite
    | with_reducible apply Agree.foldl
    | exact fun q => by simpa only [tkeys_tmap, tkeys_tmod] using q
    | intro _
    | split
    | dsimp only

theorem mirrorPromoteAct_agree {M : List Comp} {s x : State} {a0} (g : Covers M [.st] = true) (h : Agree M s x) :
    Agree M s (mirrorPromoteAct a0 x).1 := by
  unfold mirrorPromoteAct
  repeat' first
    | with_reducible exact h
    | exact covers_trans (by decide) g
    | with_reducible apply State.owe_agree
    | with_reducible apply guardAct_agree

theorem State.parkMirrored_agree {M : List Comp} {s x : State} {a1 a2} (g : Covers M [.reqs] = true) (h : Agree M s x) :
    Agree M s (State.parkMirrored x a1 a2) := by
  unfold State.parkMirrored
  split
  · exact Agree.upd_reqs g h
  · exact h

theorem State.promoteHolder_agree {M : List Comp} {s x : State} {a1} (g : Covers M [.pwr, .flt, .hif, .st, .masts, .ctxs, .reqs, .sess, .srvErr, .exports, .nextExp, .hal, .nlc, .col, .pmc, .out, .cells] = true) (h : Agree M s x) :
    Agree M s (State.promoteHolder x a1) := by
  unfold State.promoteHolder
  repeat' first
    | with_reducible exact h
    | exact covers_trans (by decide) g
    | with_reducible assumption
    | with_reducible apply State.completeOf_agree
    | with_reducible apply State.applyStep_agree
    | with_reducible apply State.parkMirrored_agree
    | with_reducible apply State.sealThose_agree
    | with_reducible apply State.idle_agree
    | with_reducible apply State.modHolder_agree
    | with_reducible apply Agree.ite
    | with_reducible apply Agree.foldl
    | exact fun q => by simpa only [tkeys_tmap, tkeys_tmod] using q
    | intro _
    | split
    | dsimp only

theorem mirrorPromoteCmd_agree {M : List Comp} {s : State} (g : Covers M [.hif, .st, .out, .pwr, .flt, .masts, .ctxs, .reqs, .sess, .srvErr, .exports, .nextExp, .hal, .nlc, .col, .pmc, .cells] = true) : Cmd.Kept M s mirrorPromoteCmd := by
  exact ⟨fun _ _ h => mirrorPromoteAct_agree (covers_trans (by decide) g) h, fun _ _ _ h => Agree.ite (fun _ => State.promoteHolder_agree (covers_trans (by decide) g) h) fun _ => h⟩

theorem State.promoteOwed_agree {M : List Comp} {s x : State} (g : Covers M [.pwr, .flt, .hif, .st, .masts, .ctxs, .reqs, .sess, .srvErr, .exports, .nextExp, .hal, .nlc, .col, .pmc, .out, .cells] = true) (h : Agree M s x) :
    Agree M s (State.promoteOwed x) := by
  unfold State.promoteOwed
  repeat' first
    | with_reducible exact h
    | exact covers_trans (by decide) g
    | with_reducible apply State.promoteHolder_agree
    | with_reducible apply Agree.foldl
    | intro _

theorem State.colErr_agree {M : List Comp} {s x : State} {a1} (g : Covers M [.col] = true) (h : Agree M s x) :
    Agree M s (State.colErr x a1) := by
  unfold State.colErr
  repeat' first
    | with_reducible exact h
    | exact covers_trans (by decide) g
    | with_reducible apply State.modCol_agree

theorem State.failCall_agree {M : List Comp} {s x : State} {a1 a2 a3} (g : Covers M [.pwr, .flt, .hif, .st, .masts, .ctxs, .reqs, .sess, .srvErr, .exports, .hal, .nlc, .col, .pmc, .out, .cells] = true) (h : Agree M s x) :
    Agree M s (State.failCall x a1 a2 a3) := by
  unfold State.failCall
  repeat' first
    | with_reducible exact h
    | exact covers_trans (by decide) g
    | with_reducible apply State.modGroup_agree
    | with_reducible apply State.containedAt_agree
    | with_reducible apply State.colErr_agree
    | with_reducible apply State.colTellAll_agree
    | with_reducible apply State.dropCall_agree
    | exact fun q => by simpa only [tkeys_tmap, tkeys_tmod] using q
    | split

theorem State.failIo_agree {M : List Comp} {s x : State} {a1 a2 a3} (g : Covers M [.pwr, .flt, .hif, .st, .masts, .ctxs, .reqs, .sess, .srvErr, .exports, .hal, .nlc, .col, .pmc, .out, .cells] = true) (h : Agree M s x) :
    Agree M s (State.failIo x a1 a2 a3) := by
  unfold State.failIo
  repeat' first
    | with_reducible exact h
    | exact covers_trans (by decide) g
    | with_reducible apply State.modGroup_agree
    | with_reducible apply State.ioFail_agree
    | with_reducible apply State.colTellAll_agree
    | with_reducible apply State.dropCall_agree
    | exact fun q => by simpa only [tkeys_tmap, tkeys_tmod] using q
    | split

theorem State.rereadSource_agree {M : List Comp} {s x : State} {a1} (g : Covers M [.flt, .st, .masts, .pmc] = true) (h : Agree M s x) :
    Agree M s (State.rereadSource x a1).1 := by
  unfold State.rereadSource
  repeat' first
    | with_reducible exact h
    | exact covers_trans (by decide) g
    | with_reducible apply State.fetch_agree
    | with_reducible apply Agree.ite_fst
    | intro _

theorem State.runMethod_agree {M : List Comp} {s x : State} {a1 a2 a3} (g : Covers M [.nlc, .col, .out] = true) (h : Agree M s x) :
    Agree M s (State.runMethod x a1 a2 a3) := by
  unfold State.runMethod
  repeat' first
    | with_reducible exact h
    | exact covers_trans (by decide) g
    | with_reducible apply State.addChunks_agree
    | with_reducible apply State.modCall_agree
    | exact fun q => by simpa only [tkeys_tmap, tkeys_tmod] using q
    | split
    | dsimp only

theorem State.fallBack_agree {M : List Comp} {s x : State} {a1 a2} (g : Covers M [.pwr, .flt, .hif, .st, .masts, .ctxs, .reqs, .sess, .srvErr, .exports, .hal, .nlc, .col, .pmc, .out, .cells] = true) (h : Agree M s x) :
    Agree M s (State.fallBack x a1 a2) := by
  unfold State.fallBack
  repeat' first
    | with_reducible exact h
    | exact covers_trans (by decide) g
    | with_reducible apply State.modCall_agree
    | with_reducible apply State.colErr_agree
    | with_reducible apply State.failIo_agree
    | with_reducible apply State.rereadSource_agree
    | with_reducible apply State.runMethod_agree
    | with_reducible apply State.countH_agree
    | with_reducible apply Agree.ite
    | exact fun q => by simpa only [tkeys_tmap, tkeys_tmod] using q
    | intro _
    | split
    | (refine Agree.of_fst (by assumption) ?_)
    | dsimp only

theorem State.agree_agree {M : List Comp} {s x : State} {a1} (g : Covers M [.pwr, .ctxs] = true) (h : Agree M s x) :
    Agree M s (State.agree x a1) := by
  unfold State.agree
  repeat' first
    | with_reducible exact h
    | exact covers_trans (by decide) g
    | with_reducible apply State.retarget_agree
    | with_reducible apply State.modCtx_agree
    | with_reducible apply Agree.ite
    | intro _

theorem State.colComplete_agree {M : List Comp} {s x : State} {a1 a2} (g : Covers M [.pwr, .masts, .ctxs, .nlc, .col, .out] = true) (h : Agree M s x) :
    Agree M s (State.colComplete x a1 a2) := by
  unfold State.colComplete
  repeat' first
    | with_reducible exact h
    | exact covers_trans (by decide) g
    | with_reducible apply State.modGroup_agree
    | with_reducible apply State.agree_agree
    | with_reducible apply State.sendAck_agree
    | with_reducible apply State.callEnded_agree
    | with_reducible apply State.dropCall_agree
    | with_reducible apply Agree.foldl
    | exact fun q => by simpa only [tkeys_tmap, tkeys_tmod] using q
    | intro _
    | split

theorem State.finishCall_agree {M : List Comp} {s x : State} {a1 a2 a3} (g : Covers M [.pwr, .flt, .hif, .st, .masts, .ctxs, .reqs, .sess, .srvErr, .exports, .hal, .nlc, .col, .pmc, .out, .cells] = true) (h : Agree M s x) :
    Agree M s (State.finishCall x a1 a2 a3) := by
  unfold State.finishCall
  repeat' first
    | with_reducible exact h
    | exact covers_trans (by decide) g
    | with_reducible apply State.failCall_agree
    | with_reducible apply State.colComplete_agree
    | with_reducible apply State.writeAt_agree
    | with_reducible apply State.failIo_agree
    | with_reducible apply Agree.ite
    | exact fun q => by simpa only [tkeys_tmap, tkeys_tmod] using q
    | intro _
    | split
    | dsimp only

theorem State.checkDone_agree {M : List Comp} {s x : State} {a1 a2} (g : Covers M [.pwr, .flt, .hif, .st, .masts, .ctxs, .reqs, .sess, .srvErr, .exports, .hal, .nlc, .col, .pmc, .out, .cells] = true) (h : Agree M s x) :
    Agree M s (State.checkDone x a1 a2) := by
  unfold State.checkDone
  repeat' first
    | with_reducible exact h
    | exact covers_trans (by decide) g
    | with_reducible apply State.finishCall_agree
    | with_reducible apply Agree.ite
    | exact fun q => by simpa only [tkeys_tmap, tkeys_tmod] using q
    | intro _
    | split

theorem State.checkGroup_agree {M : List Comp} {s x : State} {a1} (g : Covers M [.pwr, .flt, .hif, .st, .masts, .ctxs, .reqs, .sess, .srvErr, .exports, .hal, .nlc, .col, .pmc, .out, .cells] = true) (h : Agree M s x) :
    Agree M s (State.checkGroup x a1) := by
  unfold State.checkGroup
  repeat' first
    | with_reducible exact h
    | exact covers_trans (by decide) g
    | with_reducible apply State.checkDone_agree
    | with_reducible apply Agree.foldl
    | intro _

theorem State.failDead_agree {M : List Comp} {s x : State} {a1} (g : Covers M [.pwr, .flt, .hif, .st, .masts, .ctxs, .reqs, .sess, .srvErr, .exports, .hal, .nlc, .col, .pmc, .out, .cells] = true) (h : Agree M s x) :
    Agree M s (State.failDead x a1) := by
  unfold State.failDead
  repeat' first
    | with_reducible exact h
    | exact covers_trans (by decide) g
    | with_reducible apply State.failCall_agree
    | with_reducible apply Agree.foldl
    | intro _

theorem State.strayRow_agree {M : List Comp} {s x : State} {a1 a2} (g : Covers M [.pwr, .flt, .hif, .st, .masts, .ctxs, .reqs, .sess, .srvErr, .exports, .hal, .nlc, .col, .pmc, .out, .cells] = true) (h : Agree M s x) :
    Agree M s (State.strayRow x a1 a2) := by
  unfold State.strayRow
  repeat' first
    | with_reducible exact h
    | exact covers_trans (by decide) g
    | with_reducible apply State.modMast_agree
    | with_reducible apply State.contained_agree
    | with_reducible apply State.countM_agree
    | exact fun z => MastTo.same rfl rfl fun q => q

theorem State.placeDispatch_agree {M : List Comp} {s x : State} {a1 a2 a3 a4} (g : Covers M [.pwr, .flt, .hif, .st, .masts, .ctxs, .reqs, .sess, .srvErr, .exports, .hal, .nlc, .col, .pmc, .out, .cells] = true) (h : Agree M s x) :
    Agree M s (State.placeDispatch x a1 a2 a3 a4) := by
  unfold State.placeDispatch
  repeat' first
    | with_reducible exact h
    | exact covers_trans (by decide) g
    | with_reducible apply State.modCall_agree
    | with_reducible apply State.writeAt_agree
    | with_reducible apply State.failIo_agree
    | with_reducible apply Agree.ite
    | exact fun q => by simpa only [tkeys_tmap, tkeys_tmod] using q
    | intro _
    | split
    | dsimp only

theorem State.placeReturn_agree {M : List Comp} {s x : State} {a1 a2 a3 a4} (g : Covers M [.pwr, .flt, .hif, .st, .masts, .ctxs, .reqs, .sess, .srvErr, .exports, .hal, .nlc, .col, .pmc, .out, .cells] = true) (h : Agree M s x) :
    Agree M s (State.placeReturn x a1 a2 a3 a4) := by
  unfold State.placeReturn
  repeat' first
    | with_reducible exact h
    | exact covers_trans (by decide) g
    | with_reducible apply State.readAt_agree
    | with_reducible apply State.strayRow_agree
    | with_reducible apply State.writeAt_agree
    | with_reducible apply State.failIo_agree
    | with_reducible apply Agree.ite
    | exact fun q => by simpa only [tkeys_tmap, tkeys_tmod] using q
    | intro _
    | split
    | dsimp only

theorem State.rowArrived_agree {M : List Comp} {s x : State} {a1 a2 a3 a4 a5} (g : Covers M [.pwr, .flt, .hif, .st, .masts, .ctxs, .reqs, .sess, .srvErr, .exports, .hal, .nlc, .col, .pmc, .out, .cells] = true) (h : Agree M s x) :
    Agree M s (State.rowArrived x a1 a2 a3 a4 a5) := by
  unfold State.rowArrived
  repeat' first
    | with_reducible exact h
    | exact covers_trans (by decide) g
    | with_reducible apply State.countM_agree
    | with_reducible apply State.strayRow_agree
    | with_reducible apply State.placeDispatch_agree
    | with_reducible apply State.colErr_agree
    | with_reducible apply State.placeReturn_agree
    | with_reducible apply State.countH_agree
    | with_reducible apply Agree.ite
    | exact fun q => by simpa only [tkeys_tmap, tkeys_tmod] using q
    | intro _
    | split

theorem State.rowChunk_agree {M : List Comp} {s x : State} {a1 a2 a3 a4 a5} (g : Covers M [.pwr, .flt, .hif, .st, .masts, .ctxs, .reqs, .sess, .srvErr, .exports, .hal, .nlc, .col, .pmc, .out, .cells] = true) (h : Agree M s x) :
    Agree M s (State.rowChunk x a1 a2 a3 a4 a5) := by
  unfold State.rowChunk
  repeat' first
    | with_reducible exact h
    | exact covers_trans (by decide) g
    | with_reducible apply State.rowArrived_agree
    | with_reducible apply State.modCall_agree
    | with_reducible apply Agree.ite
    | exact fun q => by simpa only [tkeys_tmap, tkeys_tmod] using q
    | intro _
    | split

theorem State.rereadChunk_agree {M : List Comp} {s x : State} {a1 a2} (g : Covers M [.flt, .st, .masts, .pmc] = true) (h : Agree M s x) :
    Agree M s (State.rereadChunk x a1 a2).1 := by
  unfold State.rereadChunk
  repeat' first
    | with_reducible exact h
    | exact covers_trans (by decide) g
    | with_reducible apply State.fetch_agree
    | exact fun q => by simpa only [tkeys_tmap, tkeys_tmod] using q
    | split

theorem State.resendAs_agree {M : List Comp} {s x : State} {a1 a2 a3 a4} (g : Covers M [.pwr, .flt, .hif, .st, .masts, .ctxs, .reqs, .sess, .srvErr, .exports, .hal, .nlc, .col, .pmc, .out, .cells] = true) (h : Agree M s x) :
    Agree M s (State.resendAs x a1 a2 a3 a4) := by
  unfold State.resendAs
  repeat' first
    | with_reducible exact h
    | exact covers_trans (by decide) g
    | with_reducible apply State.rereadChunk_agree
    | with_reducible apply State.modCall_agree
    | with_reducible apply State.sendChunk_agree
    | with_reducible apply State.failIo_agree
    | exact fun q => by simpa only [tkeys_tmap, tkeys_tmod] using q
    | split
    | (refine Agree.of_fst (by assumption) ?_)

theorem State.rerouteChunk_agree {M : List Comp} {s x : State} {a1 a2 a3} (g : Covers M [.pwr, .flt, .hif, .st, .masts, .ctxs, .reqs, .sess, .srvErr, .exports, .hal, .nlc, .col, .pmc, .out, .cells] = true) (h : Agree M s x) :
    Agree M s (State.rerouteChunk x a1 a2 a3) := by
  unfold State.rerouteChunk
  repeat' first
    | with_reducible exact h
    | exact covers_trans (by decide) g
    | with_reducible apply State.resendAs_agree
    | with_reducible apply State.countH_agree
    | exact fun q => by simpa only [tkeys_tmap, tkeys_tmod] using q
    | split

theorem State.failReq_agree {M : List Comp} {s x : State} {a1 a2} (g : Covers M [.pwr, .flt, .hif, .st, .masts, .ctxs, .reqs, .sess, .srvErr, .exports, .hal, .nlc, .col, .pmc, .out, .cells] = true) (h : Agree M s x) :
    Agree M s (State.failReq x a1 a2) := by
  unfold State.failReq
  repeat' first
    | with_reducible exact h
    | exact covers_trans (by decide) g
    | with_reducible apply State.contained_agree
    | with_reducible apply State.endReq_agree
    | with_reducible apply State.modNlc_agree
    | with_reducible apply State.quarantine_agree
    | exact fun q => by simpa only [tkeys_tmap, tkeys_tmod] using q
    | split

theorem State.declareDead_agree {M : List Comp} {s x : State} {a1} (g : Covers M [.pwr, .flt, .hif, .st, .masts, .ctxs, .reqs, .sess, .srvErr, .exports, .hal, .nlc, .col, .pmc, .out, .cells] = true) (h : Agree M s x) :
    Agree M s (State.declareDead x a1) := by
  unfold State.declareDead
  repeat' first
    | with_reducible exact h
    | exact covers_trans (by decide) g
    | with_reducible apply State.failDead_agree
    | with_reducible apply State.mail_agree
    | with_reducible apply State.modNlc_agree
    | with_reducible apply State.failReq_agree
    | with_reducible apply Agree.ite
    | with_reducible apply Agree.foldl
    | exact fun q => by simpa only [tkeys_tmap, tkeys_tmod] using q
    | intro _

theorem State.rerouteReq_agree {M : List Comp} {s x : State} {a1} (g : Covers M [.nlc, .out] = true) (h : Agree M s x) :
    Agree M s (State.rerouteReq x a1) := by
  unfold State.rerouteReq
  repeat' first
    | with_reducible exact h
    | exact covers_trans (by decide) g
    | with_reducible apply State.modNlc_agree
    | with_reducible apply State.launchAs_agree
    | exact fun q => by simpa only [tkeys_tmap, tkeys_tmod] using q

theorem State.resendChunk_agree {M : List Comp} {s x : State} {a1 a2 a3 a4 a5} (g : Covers M [.pwr, .flt, .hif, .st, .masts, .ctxs, .reqs, .sess, .srvErr, .exports, .hal, .nlc, .col, .pmc, .out, .cells] = true) (h : Agree M s x) :
    Agree M s (State.resendChunk x a1 a2 a3 a4 a5) := by
  unfold State.resendChunk
  repeat' first
    | with_reducible exact h
    | exact covers_trans (by decide) g
    | with_reducible apply State.declareDead_agree
    | with_reducible apply State.resendAs_agree
    | with_reducible apply State.countH_agree
    | with_reducible apply Agree.ite
    | exact fun q => by simpa only [tkeys_tmap, tkeys_tmod] using q
    | intro _
    | split

theorem State.retryReq_agree {M : List Comp} {s x : State} {a1} (g : Covers M [.pwr, .flt, .hif, .st, .masts, .ctxs, .reqs, .sess, .srvErr, .exports, .hal, .nlc, .col, .pmc, .out, .cells] = true) (h : Agree M s x) :
    Agree M s (State.retryReq x a1) := by
  unfold State.retryReq
  repeat' first
    | with_reducible exact h
    | exact covers_trans (by decide) g
    | with_reducible apply State.launch_agree
    | with_reducible apply State.declareDead_agree
    | with_reducible apply State.modNlc_agree
    | with_reducible apply State.failReq_agree
    | with_reducible apply Agree.ite
    | exact fun q => by simpa only [tkeys_tmap, tkeys_tmod] using q
    | intro _
    | split

theorem State.copyLine_agree {M : List Comp} {s x : State} {a1 a2 a3 a4 a5} (g : Covers M [.pwr, .flt, .hif, .st, .masts, .ctxs, .reqs, .sess, .srvErr, .exports, .hal, .nlc, .col, .pmc, .out, .cells] = true) (h : Agree M s x) :
    Agree M s (State.copyLine x a1 a2 a3 a4 a5) := by
  unfold State.copyLine
  repeat' first
    | with_reducible exact h
    | exact covers_trans (by decide) g
    | with_reducible assumption
    | with_reducible apply State.contained_agree
    | with_reducible apply State.issue_agree
    | with_reducible apply State.withRead_agree
    | with_reducible apply Agree.ite
    | intro _

theorem State.windowFail_agree {M : List Comp} {s x : State} {a1 a2 a3} (g : Covers M [.pwr, .flt, .hif, .st, .masts, .ctxs, .reqs, .sess, .srvErr, .exports, .hal, .nlc, .col, .pmc, .out, .cells] = true) (h : Agree M s x) :
    Agree M s (State.windowFail x a1 a2 a3) := by
  unfold State.windowFail
  repeat' first
    | with_reducible exact h
    | exact covers_trans (by decide) g
    | with_reducible apply State.contained_agree

theorem State.copyRun_agree {M : List Comp} {s x : State} {a1 a2 a3 a4} (g : Covers M [.pwr, .flt, .hif, .st, .masts, .ctxs, .reqs, .sess, .srvErr, .exports, .hal, .nlc, .col, .pmc, .out, .cells] = true) (h : Agree M s x) :
    Agree M s (State.copyRun x a1 a2 a3 a4) := by
  unfold State.copyRun
  repeat' first
    | with_reducible exact h
    | exact covers_trans (by decide) g
    | with_reducible apply State.modMast_agree
    | with_reducible apply State.containedAt_agree
    | with_reducible apply State.spadRange_agree
    | with_reducible apply State.windowFail_agree
    | with_reducible apply State.copyLine_agree
    | with_reducible apply Agree.ite
    | with_reducible apply Agree.foldl
    | exact fun q => by simpa only [tkeys_tmap, tkeys_tmod] using q
    | exact fun z => MastTo.same rfl rfl fun q => q
    | intro _
    | split

theorem State.counterRun_agree {M : List Comp} {s x : State} {a1 a2 a3} (g : Covers M [.pwr, .flt, .hif, .st, .masts, .ctxs, .reqs, .sess, .srvErr, .exports, .hal, .nlc, .col, .pmc, .out, .cells] = true) (h : Agree M s x) :
    Agree M s (State.counterRun x a1 a2 a3) := by
  unfold State.counterRun
  repeat' first
    | with_reducible exact h
    | exact covers_trans (by decide) g
    | with_reducible apply State.withWrite_agree
    | with_reducible apply State.spadRange_agree
    | with_reducible apply Agree.ite
    | exact fun q => by simpa only [tkeys_tmap, tkeys_tmod] using q
    | intro _
    | split

theorem State.staleDropped_agree {M : List Comp} {s x : State} (g : Covers M [.nlc] = true) (h : Agree M s x) :
    Agree M s (State.staleDropped x) := by
  unfold State.staleDropped
  repeat' first
    | with_reducible exact h
    | exact covers_trans (by decide) g
    | with_reducible apply State.modNlc_agree
    | exact fun q => by simpa only [tkeys_tmap, tkeys_tmod] using q

theorem State.answerFab_agree {M : List Comp} {s x : State} {a1 a2 a3 a4} (g : Covers M [.nlc, .out] = true) (h : Agree M s x) :
    Agree M s (State.answerFab x a1 a2 a3 a4) := by
  unfold State.answerFab
  repeat' first
    | with_reducible exact h
    | exact covers_trans (by decide) g
    | with_reducible apply State.sendOn_agree
    | exact fun q => by simpa only [tkeys_tmap, tkeys_tmod] using q
    | split

theorem State.applyWrite_agree {M : List Comp} {s x : State} {a1 a2} (g : Covers M [.pwr, .flt, .hif, .st, .masts, .ctxs, .reqs, .sess, .srvErr, .exports, .hal, .nlc, .col, .pmc, .out, .cells] = true) (h : Agree M s x) :
    Agree M s (State.applyWrite x a1 a2) := by
  unfold State.applyWrite
  repeat' first
    | with_reducible exact h
    | exact covers_trans (by decide) g
    | with_reducible apply State.writeDram_agree
    | with_reducible apply State.answerFab_agree
    | with_reducible apply State.modNlc_agree
    | with_reducible apply State.ringLine_agree
    | exact fun q => by simpa only [tkeys_tmap, tkeys_tmod] using q
    | split
    | dsimp only

theorem State.serveWrite_agree {M : List Comp} {s x : State} {a1} (g : Covers M [.pwr, .flt, .hif, .st, .masts, .ctxs, .reqs, .sess, .srvErr, .exports, .hal, .nlc, .col, .pmc, .out, .cells] = true) (h : Agree M s x) :
    Agree M s (State.serveWrite x a1) := by
  unfold State.serveWrite
  repeat' first
    | with_reducible exact h
    | exact covers_trans (by decide) g
    | with_reducible apply State.staleDropped_agree
    | with_reducible apply State.answerFab_agree
    | with_reducible apply State.applyWrite_agree
    | with_reducible apply State.modNlc_agree
    | with_reducible apply Agree.ite
    | exact fun q => by simpa only [tkeys_tmap, tkeys_tmod] using q
    | intro _
    | split

theorem State.ingestLine_agree {M : List Comp} {s x : State} {a1 a2 a3 a4} (g : Covers M [.flt, .st, .masts, .hal, .pmc, .cells] = true) (h : Agree M s x) :
    Agree M s (State.ingestLine x a1 a2 a3 a4) := by
  unfold State.ingestLine
  repeat' first
    | with_reducible exact h
    | exact covers_trans (by decide) g
    | with_reducible apply State.writeDram_agree
    | with_reducible apply State.modShard_agree

theorem State.copyDone_agree {M : List Comp} {s x : State} {a1 a2} (g : Covers M [.masts, .ctxs] = true) (h : Agree M s x) :
    Agree M s (State.copyDone x a1 a2) := by
  unfold State.copyDone
  repeat' first
    | with_reducible exact h
    | exact covers_trans (by decide) g
    | with_reducible apply State.modMast_agree
    | with_reducible apply State.callEnded_agree
    | with_reducible apply Agree.foldl
    | exact fun z => MastTo.same rfl rfl fun q => q
    | intro _

theorem State.reqDone_agree {M : List Comp} {s x : State} {a1 a2 a3} (g : Covers M [.pwr, .flt, .hif, .st, .masts, .ctxs, .reqs, .sess, .srvErr, .exports, .hal, .nlc, .col, .pmc, .out, .cells] = true) (h : Agree M s x) :
    Agree M s (State.reqDone x a1 a2 a3) := by
  unfold State.reqDone
  repeat' first
    | with_reducible exact h
    | exact covers_trans (by decide) g
    | with_reducible apply State.withWrite_agree
    | with_reducible apply State.ingestLine_agree
    | with_reducible apply State.endReq_agree
    | with_reducible apply State.copyDone_agree
    | with_reducible apply Agree.ite
    | exact fun q => by simpa only [tkeys_tmap, tkeys_tmod] using q
    | intro _
    | split

theorem State.response_agree {M : List Comp} {s x : State} {a1 a2} (g : Covers M [.pwr, .flt, .hif, .st, .masts, .ctxs, .reqs, .sess, .srvErr, .exports, .hal, .nlc, .col, .pmc, .out, .cells] = true) (h : Agree M s x) :
    Agree M s (State.response x a1 a2) := by
  unfold State.response
  repeat' first
    | with_reducible exact h
    | exact covers_trans (by decide) g
    | with_reducible apply State.declareDead_agree
    | with_reducible apply State.reqDone_agree
    | with_reducible apply State.modNlc_agree
    | with_reducible apply State.failReq_agree
    | with_reducible apply Agree.ite
    | exact fun q => by simpa only [tkeys_tmap, tkeys_tmod] using q
    | intro _
    | split

theorem State.partDropped_agree {M : List Comp} {s x : State} {a1} (g : Covers M [.nlc, .pmc, .out] = true) (h : Agree M s x) :
    Agree M s (State.partDropped x a1) := by
  unfold State.partDropped
  repeat' first
    | with_reducible exact h
    | exact covers_trans (by decide) g
    | with_reducible apply State.modPort_agree
    | with_reducible apply State.mail_agree
    | with_reducible apply State.modNlc_agree
    | with_reducible apply State.countH_agree
    | with_reducible apply Agree.ite
    | exact fun q => by simpa only [tkeys_tmap, tkeys_tmod] using q
    | intro _

theorem State.withPacket_agree {M : List Comp} {s x : State} {a1 a2} (g : Covers M [.nlc, .pmc, .out] = true) (h : Agree M s x)
    (k : ∀ y, Agree M s y → Agree M s (a2 y)) :
    Agree M s (State.withPacket x a1 a2) := by
  unfold State.withPacket
  repeat' first
    | with_reducible exact h
    | exact covers_trans (by decide) g
    | with_reducible apply State.partDropped_agree
    | with_reducible apply Agree.ite
    | exact fun q => by simpa only [tkeys_tmap, tkeys_tmod] using q
    | exact k _ ‹_›
    | intro _

theorem State.serveRead_agree {M : List Comp} {s x : State} {a1} (g : Covers M [.flt, .st, .masts, .nlc, .pmc, .out] = true) (h : Agree M s x) :
    Agree M s (State.serveRead x a1) := by
  unfold State.serveRead
  repeat' first
    | with_reducible exact h
    | exact covers_trans (by decide) g
    | with_reducible apply State.readDram_agree
    | with_reducible apply State.staleDropped_agree
    | with_reducible apply State.answerFab_agree
    | with_reducible apply Agree.ite
    | exact fun q => by simpa only [tkeys_tmap, tkeys_tmod] using q
    | intro _
    | split
    | dsimp only

theorem State.takeAck_agree {M : List Comp} {s x : State} {a1 a2 a3 a4} (g : Covers M [.pwr, .flt, .hif, .st, .masts, .ctxs, .reqs, .sess, .srvErr, .exports, .hal, .nlc, .col, .pmc, .out, .cells] = true) (h : Agree M s x) :
    Agree M s (State.takeAck x a1 a2 a3 a4) := by
  unfold State.takeAck
  repeat' first
    | with_reducible exact h
    | exact covers_trans (by decide) g
    | with_reducible apply State.launchChunks_agree
    | with_reducible apply State.checkGroup_agree
    | with_reducible apply State.failCall_agree
    | with_reducible apply State.modCall_agree
    | with_reducible apply Agree.ite
    | exact fun q => by simpa only [tkeys_tmap, tkeys_tmod] using q
    | intro _
    | split

theorem State.noteReef_agree {M : List Comp} {s x : State} {a1 a2} (g : Covers M [.col] = true) (h : Agree M s x) :
    Agree M s (State.noteReef x a1 a2) := by
  unfold State.noteReef
  repeat' first
    | with_reducible exact h
    | exact covers_trans (by decide) g
    | with_reducible apply State.modCall_agree
    | with_reducible apply State.modCol_agree
    | with_reducible apply Agree.ite
    | exact fun q => by simpa only [tkeys_tmap, tkeys_tmod] using q
    | intro _
    | split
    | dsimp only

theorem State.colUnreach_agree {M : List Comp} {s x : State} {a1} (g : Covers M [.pwr, .flt, .hif, .st, .masts, .ctxs, .reqs, .sess, .srvErr, .exports, .hal, .nlc, .col, .pmc, .out, .cells] = true) (h : Agree M s x) :
    Agree M s (State.colUnreach x a1) := by
  unfold State.colUnreach
  repeat' first
    | with_reducible exact h
    | exact covers_trans (by decide) g
    | with_reducible apply State.declareDead_agree
    | with_reducible apply Agree.ite
    | intro _

theorem State.withColCall_agree {M : List Comp} {s x : State} {a1 a2 a3} (g : Covers M [.pwr, .flt, .hif, .st, .masts, .ctxs, .reqs, .sess, .srvErr, .exports, .hal, .nlc, .col, .pmc, .out, .cells] = true) (h : Agree M s x)
    (k : ∀ y b d, Agree M s y → Agree M s (a3 y b d)) :
    Agree M s (State.withColCall x a1 a2 a3) := by
  unfold State.withColCall
  repeat' first
    | with_reducible exact h
    | exact covers_trans (by decide) g
    | with_reducible apply State.failCall_agree
    | with_reducible apply Agree.ite
    | exact fun q => by simpa only [tkeys_tmap, tkeys_tmod] using q
    | exact k _ _ _ ‹_›
    | intro _
    | split
    | dsimp only

theorem State.dupDropped_agree {M : List Comp} {s x : State} {a1} (g : Covers M [.col, .pmc] = true) (h : Agree M s x) :
    Agree M s (State.dupDropped x a1) := by
  unfold State.dupDropped
  repeat' first
    | with_reducible exact h
    | exact covers_trans (by decide) g
    | with_reducible apply State.colErr_agree
    | with_reducible apply State.countH_agree

theorem State.colAnswer_agree {M : List Comp} {s x : State} {a1 a2 a3 a4 a5} (g : Covers M [.nlc, .col, .out] = true) (h : Agree M s x) :
    Agree M s (State.colAnswer x a1 a2 a3 a4 a5) := by
  unfold State.colAnswer
  repeat' first
    | with_reducible exact h
    | exact covers_trans (by decide) g
    | with_reducible apply State.sendCol_agree
    | with_reducible apply State.sendPlane_agree
    | with_reducible apply Agree.ite
    | intro _

theorem State.ackEarly_agree {M : List Comp} {s x : State} {a1 a2} (g : Covers M [.nlc, .col, .out] = true) (h : Agree M s x) :
    Agree M s (State.ackEarly x a1 a2) := by
  unfold State.ackEarly
  repeat' first
    | with_reducible exact h
    | exact covers_trans (by decide) g
    | with_reducible apply State.colAnswer_agree

theorem State.holdEarly_agree {M : List Comp} {s x : State} {a1 a2} (g : Covers M [.nlc, .col, .pmc, .out] = true) (h : Agree M s x) :
    Agree M s (State.holdEarly x a1 a2) := by
  unfold State.holdEarly
  repeat' first
    | with_reducible exact h
    | exact covers_trans (by decide) g
    | with_reducible apply State.dupDropped_agree
    | with_reducible apply State.ackEarly_agree
    | with_reducible apply State.modCol_agree
    | with_reducible apply State.colAnswer_agree
    | with_reducible apply Agree.ite
    | intro _

theorem State.orEarly_agree {M : List Comp} {s x : State} {a1 a2 a3} (g : Covers M [.pwr, .flt, .hif, .st, .masts, .ctxs, .reqs, .sess, .srvErr, .exports, .hal, .nlc, .col, .pmc, .out, .cells] = true) (h : Agree M s x)
    (k : ∀ y b d, Agree M s y → Agree M s (a3 y b d)) :
    Agree M s (State.orEarly x a1 a2 a3) := by
  unfold State.orEarly
  repeat' first
    | with_reducible exact h
    | exact covers_trans (by decide) g
    | with_reducible assumption
    | with_reducible apply State.withColCall_agree
    | with_reducible apply State.holdEarly_agree
    | with_reducible apply State.colAnswer_agree
    | with_reducible apply Agree.ite
    | intro _

theorem State.takeChunk_agree {M : List Comp} {s x : State} {a1 a2 a3 a4} (g : Covers M [.pwr, .flt, .hif, .st, .masts, .ctxs, .reqs, .sess, .srvErr, .exports, .hal, .nlc, .col, .pmc, .out, .cells] = true) (h : Agree M s x) :
    Agree M s (State.takeChunk x a1 a2 a3 a4) := by
  unfold State.takeChunk
  repeat' first
    | with_reducible exact h
    | exact covers_trans (by decide) g
    | with_reducible apply State.checkGroup_agree
    | with_reducible apply State.rowChunk_agree
    | with_reducible apply State.addChunks_agree
    | with_reducible apply State.dupDropped_agree
    | with_reducible apply State.modCall_agree
    | with_reducible apply State.holdEarly_agree
    | with_reducible apply Agree.ite
    | exact fun q => by simpa only [tkeys_tmap, tkeys_tmod] using q
    | intro _
    | split

theorem State.colData_agree {M : List Comp} {s x : State} {a1 a2} (g : Covers M [.pwr, .flt, .hif, .st, .masts, .ctxs, .reqs, .sess, .srvErr, .exports, .hal, .nlc, .col, .pmc, .out, .cells] = true) (h : Agree M s x) :
    Agree M s (State.colData x a1 a2) := by
  unfold State.colData
  repeat' first
    | with_reducible exact h
    | exact covers_trans (by decide) g
    | with_reducible apply State.dupDropped_agree
    | with_reducible apply State.withColCall_agree
    | with_reducible apply State.holdEarly_agree
    | with_reducible apply State.colAnswer_agree
    | with_reducible apply State.takeChunk_agree
    | with_reducible apply Agree.ite
    | intro _

theorem State.colPacket_agree {M : List Comp} {s x : State} {a1} (g : Covers M [.pwr, .flt, .hif, .st, .masts, .ctxs, .reqs, .sess, .srvErr, .exports, .hal, .nlc, .col, .pmc, .out, .cells] = true) (h : Agree M s x) :
    Agree M s (State.colPacket x a1) := by
  unfold State.colPacket
  repeat' first
    | with_reducible exact h
    | exact covers_trans (by decide) g
    | with_reducible assumption
    | with_reducible apply State.takeAck_agree
    | with_reducible apply State.checkGroup_agree
    | with_reducible apply State.noteReef_agree
    | with_reducible apply State.failCall_agree
    | with_reducible apply State.colUnreach_agree
    | with_reducible apply State.withColCall_agree
    | with_reducible apply State.modCall_agree
    | with_reducible apply State.fallBack_agree
    | with_reducible apply State.orEarly_agree
    | with_reducible apply State.colData_agree
    | with_reducible apply Agree.ite
    | exact fun q => by simpa only [tkeys_tmap, tkeys_tmod] using q
    | intro _
    | split

theorem State.hubDrain_agree {M : List Comp} {s x : State} {a1} (g : Covers M [.pwr, .flt, .hif, .st, .masts, .ctxs, .reqs, .sess, .srvErr, .exports, .hal, .nlc, .col, .pmc, .out, .cells] = true) (h : Agree M s x) :
    Agree M s (State.hubDrain x a1) := by
  induction a1 generalizing x  with
  | zero =>
    unfold State.hubDrain
    repeat' first
      | with_reducible exact h
  | succ n ih =>
    unfold State.hubDrain
    repeat' first
      | with_reducible exact h
      | exact covers_trans (by decide) g
      | with_reducible apply ih
      | with_reducible apply State.modCol_agree
      | with_reducible apply State.colPacket_agree
      | exact fun q => by simpa only [tkeys_tmap, tkeys_tmod] using q
      | split

theorem State.hubSettle_agree {M : List Comp} {s x : State} (g : Covers M [.pwr, .flt, .hif, .st, .masts, .ctxs, .reqs, .sess, .srvErr, .exports, .hal, .nlc, .col, .pmc, .out, .cells] = true) (h : Agree M s x) :
    Agree M s (State.hubSettle x) := by
  unfold State.hubSettle
  repeat' first
    | with_reducible exact h
    | exact covers_trans (by decide) g
    | with_reducible apply State.hubDrain_agree

theorem State.replayEarly_agree {M : List Comp} {s x : State} {a1 a2 a3} (g : Covers M [.pwr, .flt, .hif, .st, .masts, .ctxs, .reqs, .sess, .srvErr, .exports, .hal, .nlc, .col, .pmc, .out, .cells] = true) (h : Agree M s x) :
    Agree M s (State.replayEarly x a1 a2 a3) := by
  unfold State.replayEarly
  repeat' first
    | with_reducible exact h
    | exact covers_trans (by decide) g
    | with_reducible apply State.modCol_agree
    | with_reducible apply State.colPacket_agree
    | with_reducible apply Agree.foldl
    | intro _

theorem State.replayGroup_agree {M : List Comp} {s x : State} {a1} (g : Covers M [.pwr, .flt, .hif, .st, .masts, .ctxs, .reqs, .sess, .srvErr, .exports, .hal, .nlc, .col, .pmc, .out, .cells] = true) (h : Agree M s x) :
    Agree M s (State.replayGroup x a1) := by
  unfold State.replayGroup
  repeat' first
    | with_reducible exact h
    | exact covers_trans (by decide) g
    | with_reducible apply State.replayEarly_agree
    | with_reducible apply Agree.foldl
    | intro _

theorem State.replayFallen_agree {M : List Comp} {s x : State} {a1} (g : Covers M [.pwr, .flt, .hif, .st, .masts, .ctxs, .reqs, .sess, .srvErr, .exports, .hal, .nlc, .col, .pmc, .out, .cells] = true) (h : Agree M s x) :
    Agree M s (State.replayFallen x a1) := by
  unfold State.replayFallen
  repeat' first
    | with_reducible exact h
    | exact covers_trans (by decide) g
    | with_reducible apply State.replayGroup_agree
    | with_reducible apply Agree.ite
    | intro _

theorem State.colArrives_agree {M : List Comp} {s x : State} {a1} (g : Covers M [.pwr, .flt, .hif, .st, .masts, .ctxs, .reqs, .sess, .srvErr, .exports, .hal, .nlc, .col, .pmc, .out, .cells] = true) (h : Agree M s x) :
    Agree M s (State.colArrives x a1) := by
  unfold State.colArrives
  repeat' first
    | with_reducible exact h
    | exact covers_trans (by decide) g
    | with_reducible assumption
    | with_reducible apply State.hubSettle_agree
    | with_reducible apply State.staleDropped_agree
    | with_reducible apply State.replayFallen_agree
    | with_reducible apply State.withPacket_agree
    | with_reducible apply State.colPacket_agree
    | with_reducible apply Agree.ite
    | intro _

theorem State.rtuErr_agree {M : List Comp} {s x : State} {a1 a2} (g : Covers M [.masts] = true) (h : Agree M s x) :
    Agree M s (State.rtuErr x a1 a2) := by
  unfold State.rtuErr
  repeat' first
    | with_reducible exact h
    | exact covers_trans (by decide) g
    | with_reducible apply State.modMast_agree
    | exact fun z => MastTo.same rfl rfl fun q => q

theorem State.rtuFail_agree {M : List Comp} {s x : State} {a1 a2} (g : Covers M [.pwr, .flt, .hif, .st, .masts, .ctxs, .reqs, .sess, .srvErr, .exports, .hal, .nlc, .col, .pmc, .out, .cells] = true) (h : Agree M s x) :
    Agree M s (State.rtuFail x a1 a2) := by
  unfold State.rtuFail
  repeat' first
    | with_reducible exact h
    | exact covers_trans (by decide) g
    | with_reducible apply State.contained_agree
    | with_reducible apply State.rtuErr_agree

theorem State.combineMissing_agree {M : List Comp} {s x : State} {a1 a2 a3 a4} (g : Covers M [.pwr, .flt, .hif, .st, .masts, .ctxs, .reqs, .sess, .srvErr, .exports, .hal, .nlc, .col, .pmc, .out, .free, .cells] = true) (h : Agree M s x) :
    Agree M s (State.combineMissing x a1 a2 a3 a4) := by
  unfold State.combineMissing
  repeat' first
    | with_reducible exact h
    | exact covers_trans (by decide) g
    | with_reducible apply State.rtuFail_agree
    | with_reducible apply State.drawn_agree
    | exact fun q => by simpa only [tkeys_tmap, tkeys_tmod] using q
    | split

theorem State.resultRows_agree {M : List Comp} {s x : State} {a1 a2 a3 a4 a5} (g : Covers M [.flt, .st, .masts, .pmc] = true) (h : Agree M s x) :
    Agree M s (State.resultRows x a1 a2 a3 a4 a5).1 := by
  induction a5 generalizing x  with
  | nil =>
    unfold State.resultRows
    repeat' first
      | with_reducible exact h
  | cons b l ih =>
    unfold State.resultRows
    repeat' first
      | with_reducible exact h
      | exact covers_trans (by decide) g
      | with_reducible apply ih
      | with_reducible apply State.fetch_agree
      | with_reducible apply Agree.ite_fst
      | exact fun q => by simpa only [tkeys_tmap, tkeys_tmod] using q
      | intro _
      | split
      | (refine Agree.of_fst (by assumption) ?_)

theorem State.combineToken_agree {M : List Comp} {s : State} {x} {a0 a1 a2 a3 a5} (g : Covers M [.flt, .st, .masts, .pmc, .cells] = true) (h : Agree M s x.1) :
    Agree M s (State.combineToken a0 a1 a2 a3 x a5).1 := by
  unfold State.combineToken
  repeat' first
    | with_reducible exact h
    | exact covers_trans (by decide) g
    | with_reducible apply State.writeAt_agree
    | with_reducible apply State.resultRows_agree
    | with_reducible apply State.fetch_agree
    | exact fun q => by simpa only [tkeys_tmap, tkeys_tmod] using q
    | split
    | (refine Agree.of_fst (by assumption) ?_)
    | dsimp only

theorem State.combineRun_agree {M : List Comp} {s x : State} {a1 a2 a3} (g : Covers M [.pwr, .flt, .hif, .st, .masts, .ctxs, .reqs, .sess, .srvErr, .exports, .hal, .nlc, .col, .pmc, .out, .free, .cells] = true) (h : Agree M s x) :
    Agree M s (State.combineRun x a1 a2 a3) := by
  unfold State.combineRun
  repeat' first
    | with_reducible exact h
    | exact covers_trans (by decide) g
    | with_reducible assumption
    | with_reducible apply State.combineMissing_agree
    | with_reducible apply State.combineToken_agree
    | with_reducible apply State.ioFail_agree
    | with_reducible apply State.rtuFail_agree
    | with_reducible apply State.withRead_agree
    | with_reducible apply State.withRegions_agree
    | with_reducible apply Agree.ite
    | with_reducible apply Agree.foldl_fst
    | exact fun q => by simpa only [tkeys_tmap, tkeys_tmod] using q
    | intro _
    | split
    | dsimp only

theorem State.intakeExpert_agree {M : List Comp} {s : State} {x} {a0 a1 a2 a3 a4 a6} (g : Covers M [.pwr, .flt, .hif, .st, .masts, .ctxs, .reqs, .sess, .srvErr, .exports, .hal, .nlc, .col, .pmc, .out, .cells] = true) (h : Agree M s x.1) :
    Agree M s (State.intakeExpert a0 a1 a2 a3 a4 x a6).1 := by
  unfold State.intakeExpert
  repeat' first
    | with_reducible exact h
    | exact covers_trans (by decide) g
    | with_reducible assumption
    | with_reducible apply State.ioFail_agree
    | with_reducible apply State.writeAt_agree
    | with_reducible apply State.regionFail_agree
    | with_reducible apply State.rtuFail_agree
    | with_reducible apply State.fetch_agree
    | with_reducible apply Agree.ite_fst
    | with_reducible apply Agree.foldl_fst
    | exact fun q => by simpa only [tkeys_tmap, tkeys_tmod] using q
    | intro _
    | split
    | (refine Agree.of_fst (by assumption) ?_)
    | dsimp only

theorem State.intakeRows_agree {M : List Comp} {s x : State} {a1 a2 a3 a4 a5} (g : Covers M [.pwr, .flt, .hif, .st, .masts, .ctxs, .reqs, .sess, .srvErr, .exports, .hal, .nlc, .col, .pmc, .out, .cells] = true) (h : Agree M s x) :
    Agree M s (State.intakeRows x a1 a2 a3 a4 a5) := by
  unfold State.intakeRows
  repeat' first
    | with_reducible exact h
    | exact covers_trans (by decide) g
    | with_reducible apply State.intakeExpert_agree
    | with_reducible apply State.countM_agree
    | with_reducible apply State.rtuFail_agree
    | with_reducible apply Agree.ite
    | with_reducible apply Agree.foldl_fst
    | intro _

theorem State.intakeRun_agree {M : List Comp} {s x : State} {a1 a2 a3} (g : Covers M [.pwr, .flt, .hif, .st, .masts, .ctxs, .reqs, .sess, .srvErr, .exports, .hal, .nlc, .col, .pmc, .out, .cells] = true) (h : Agree M s x) :
    Agree M s (State.intakeRun x a1 a2 a3) := by
  unfold State.intakeRun
  repeat' first
    | with_reducible exact h
    | exact covers_trans (by decide) g
    | with_reducible assumption
    | with_reducible apply State.intakeRows_agree
    | with_reducible apply State.ioFail_agree
    | with_reducible apply State.regionFail_agree
    | with_reducible apply State.rtuFail_agree
    | with_reducible apply State.fetch_agree
    | with_reducible apply State.withRead_agree
    | with_reducible apply State.withRegions_agree
    | with_reducible apply Agree.ite
    | with_reducible apply Agree.foldl_fst
    | exact fun q => by simpa only [tkeys_tmap, tkeys_tmod] using q
    | intro _
    | split
    | (refine Agree.of_fst (by assumption) ?_)
    | dsimp only

theorem State.routeWrite_agree {M : List Comp} {s x : State} {a1 a2 a3 a4 a5} (g : Covers M [.pwr, .flt, .hif, .st, .masts, .ctxs, .reqs, .sess, .srvErr, .exports, .hal, .nlc, .col, .pmc, .out, .cells] = true) (h : Agree M s x) :
    Agree M s (State.routeWrite x a1 a2 a3 a4 a5) := by
  unfold State.routeWrite
  repeat' first
    | with_reducible exact h
    | exact covers_trans (by decide) g
    | with_reducible assumption
    | with_reducible apply State.modMast_agree
    | with_reducible apply State.withWrite_agree
    | with_reducible apply State.countM_agree
    | with_reducible apply State.rtuErr_agree
    | with_reducible apply State.limitRec_agree
    | with_reducible apply Agree.ite
    | exact fun z => MastTo.same rfl rfl fun q => q
    | intro _

theorem State.routeRun_agree {M : List Comp} {s x : State} {a1 a2 a3} (g : Covers M [.pwr, .flt, .hif, .st, .masts, .ctxs, .reqs, .sess, .srvErr, .exports, .hal, .nlc, .col, .pmc, .out, .cells] = true) (h : Agree M s x) :
    Agree M s (State.routeRun x a1 a2 a3) := by
  unfold State.routeRun
  repeat' first
    | with_reducible exact h
    | exact covers_trans (by decide) g
    | with_reducible assumption
    | with_reducible apply State.routeWrite_agree
    | with_reducible apply State.rtuFail_agree
    | with_reducible apply State.withRead_agree
    | with_reducible apply Agree.ite
    | intro _

theorem State.rtuDesc_agree {M : List Comp} {s x : State} {a1 a2 a3 a4 a5 a6} (g : Covers M [.pwr, .flt, .hif, .st, .masts, .ctxs, .reqs, .sess, .srvErr, .exports, .hal, .nlc, .col, .pmc, .out, .cells] = true) (h : Agree M s x)
    (k : ∀ y b, Agree M s y → Agree M s (a6 y b)) :
    Agree M s (State.rtuDesc x a1 a2 a3 a4 a5 a6) := by
  unfold State.rtuDesc
  repeat' first
    | with_reducible exact h
    | exact covers_trans (by decide) g
    | with_reducible assumption
    | with_reducible apply State.atOnce_agree
    | with_reducible apply State.rtuErr_agree
    | with_reducible apply Agree.ite
    | intro _

theorem State.beginCall_agree {M : List Comp} {s x : State} {a1 a2 a3 a4} (g : Covers M [.masts, .col] = true) (h : Agree M s x) :
    Agree M s (State.beginCall x a1 a2 a3 a4) := by
  unfold State.beginCall
  repeat' first
    | with_reducible exact h
    | exact covers_trans (by decide) g
    | with_reducible apply State.modMast_agree
    | with_reducible apply State.modGroup_agree
    | with_reducible apply State.modCol_agree
    | exact fun q => by simpa only [tkeys_tmap, tkeys_tmod] using q
    | refine mastKept_of fun z => ?_
    | exact MastTo.refl _
    | with_reducible apply MastTo.ite

theorem State.releaseRows_agree {M : List Comp} {s x : State} {a1} (g : Covers M [.pwr, .flt, .hif, .st, .masts, .ctxs, .reqs, .sess, .srvErr, .exports, .hal, .nlc, .col, .pmc, .out, .cells] = true) (h : Agree M s x) :
    Agree M s (State.releaseRows x a1) := by
  unfold State.releaseRows
  repeat' first
    | with_reducible exact h
    | exact covers_trans (by decide) g
    | with_reducible assumption
    | with_reducible apply State.rowArrived_agree
    | with_reducible apply State.modCall_agree
    | with_reducible apply Agree.foldl
    | intro _

theorem State.fetchAll_agree {M : List Comp} {s x : State} {a1 a2} (g : Covers M [.flt, .st, .masts, .pmc] = true) (h : Agree M s x) :
    Agree M s (State.fetchAll x a1 a2).1 := by
  induction a2 generalizing x  with
  | nil =>
    unfold State.fetchAll
    repeat' first
      | with_reducible exact h
  | cons b l ih =>
    unfold State.fetchAll
    repeat' first
      | with_reducible exact h
      | exact covers_trans (by decide) g
      | with_reducible apply ih
      | with_reducible apply State.fetch_agree
      | exact fun q => by simpa only [tkeys_tmap, tkeys_tmod] using q
      | split
      | (refine Agree.of_fst (by assumption) ?_)

theorem State.returnEntry_agree {M : List Comp} {s x : State} {a1 a2 a3 a4 a5 a6 a7} (g : Covers M [.flt, .st, .masts, .pmc] = true) (h : Agree M s x) :
    Agree M s (State.returnEntry x a1 a2 a3 a4 a5 a6 a7).1 := by
  unfold State.returnEntry
  repeat' first
    | with_reducible exact h
    | exact covers_trans (by decide) g
    | with_reducible apply State.fetchAll_agree
    | with_reducible apply State.fetch_agree
    | with_reducible apply Agree.ite_fst
    | exact fun q => by simpa only [tkeys_tmap, tkeys_tmod] using q
    | intro _
    | split
    | (refine Agree.of_fst (by assumption) ?_)

theorem State.returnAll_agree {M : List Comp} {s x : State} {a1 a2 a3 a4 a5 a6} (g : Covers M [.flt, .st, .masts, .pmc] = true) (h : Agree M s x) :
    Agree M s (State.returnAll x a1 a2 a3 a4 a5 a6).1 := by
  induction a6 generalizing x  with
  | nil =>
    unfold State.returnAll
    repeat' first
      | with_reducible exact h
  | cons b l ih =>
    unfold State.returnAll
    repeat' first
      | with_reducible exact h
      | exact covers_trans (by decide) g
      | with_reducible apply ih
      | with_reducible apply State.returnEntry_agree
      | exact fun q => by simpa only [tkeys_tmap, tkeys_tmod] using q
      | split
      | (refine Agree.of_fst (by assumption) ?_)

theorem State.returnRows_agree {M : List Comp} {s x : State} {a1 a2 a3 a4} (g : Covers M [.flt, .st, .masts, .pmc] = true) (h : Agree M s x) :
    Agree M s (State.returnRows x a1 a2 a3 a4).1 := by
  unfold State.returnRows
  repeat' first
    | with_reducible exact h
    | exact covers_trans (by decide) g
    | with_reducible apply State.fetch_agree
    | with_reducible apply State.returnAll_agree
    | with_reducible apply Agree.ite_fst
    | exact fun q => by simpa only [tkeys_tmap, tkeys_tmod] using q
    | intro _
    | split
    | (refine Agree.of_fst (by assumption) ?_)
    | dsimp only

theorem State.sendRows_agree {M : List Comp} {s x : State} {a1 a2 a3 a4 a5} (g : Covers M [.pwr, .flt, .hif, .st, .masts, .ctxs, .reqs, .sess, .srvErr, .exports, .hal, .nlc, .col, .pmc, .out, .cells] = true) (h : Agree M s x) :
    Agree M s (State.sendRows x a1 a2 a3 a4 a5) := by
  unfold State.sendRows
  repeat' first
    | with_reducible exact h
    | exact covers_trans (by decide) g
    | with_reducible apply State.releaseRows_agree
    | with_reducible apply State.addChunks_agree
    | with_reducible apply State.modCall_agree

theorem State.launchRows_agree {M : List Comp} {s x : State} {a1 a2 a3 a4 a5} (g : Covers M [.pwr, .flt, .hif, .st, .masts, .ctxs, .reqs, .sess, .srvErr, .exports, .hal, .nlc, .col, .pmc, .out, .cells] = true) (h : Agree M s x)
    (k : ∀ y, Agree M s y → Agree M s (a5 y).1) :
    Agree M s (State.launchRows x a1 a2 a3 a4 a5) := by
  unfold State.launchRows
  repeat' first
    | exact covers_trans (by decide) g
    | with_reducible apply State.failCall_agree
    | with_reducible apply State.failIo_agree
    | with_reducible apply State.sendRows_agree
    | exact fun q => by simpa only [tkeys_tmap, tkeys_tmod] using q
    | exact k _ ‹_›
    | split
    | (refine Agree.of_fst (by assumption) ?_)

theorem State.returnKeys_agree {M : List Comp} {s x : State} {a1 a2 a3} (g : Covers M [.flt, .st, .masts, .pmc] = true) (h : Agree M s x) :
    Agree M s (State.returnKeys x a1 a2 a3).1 := by
  unfold State.returnKeys
  repeat' first
    | with_reducible exact h
    | exact covers_trans (by decide) g
    | with_reducible apply State.fetch_agree
    | with_reducible apply Agree.ite_fst
    | exact fun q => by simpa only [tkeys_tmap, tkeys_tmod] using q
    | intro _
    | split
    | (refine Agree.of_fst (by assumption) ?_)
    | dsimp only

theorem State.startReturn_agree {M : List Comp} {s x : State} {a1 a2 a3 a4} (g : Covers M [.pwr, .flt, .hif, .st, .masts, .ctxs, .reqs, .sess, .srvErr, .exports, .hal, .nlc, .col, .pmc, .out, .cells] = true) (h : Agree M s x) :
    Agree M s (State.startReturn x a1 a2 a3 a4) := by
  unfold State.startReturn
  repeat' first
    | with_reducible exact h
    | exact covers_trans (by decide) g
    | with_reducible apply State.returnRows_agree
    | with_reducible apply State.failCall_agree
    | with_reducible apply State.modCall_agree
    | with_reducible apply State.raise_agree
    | with_reducible apply State.failIo_agree
    | with_reducible apply State.launchRows_agree
    | with_reducible apply State.returnKeys_agree
    | exact fun q => by simpa only [tkeys_tmap, tkeys_tmod] using q
    | intro _
    | split
    | (refine Agree.of_fst (by assumption) ?_)
    | dsimp only

theorem State.dispatchRows_agree {M : List Comp} {s x : State} {a1 a2 a3 a4} (g : Covers M [.flt, .st, .masts, .pmc] = true) (h : Agree M s x) :
    Agree M s (State.dispatchRows x a1 a2 a3 a4).1 := by
  unfold State.dispatchRows
  repeat' first
    | with_reducible exact h
    | exact covers_trans (by decide) g
    | with_reducible apply State.fetchAll_agree
    | with_reducible apply State.fetch_agree
    | with_reducible apply Agree.ite_fst
    | exact fun q => by simpa only [tkeys_tmap, tkeys_tmod] using q
    | intro _
    | split
    | (refine Agree.of_fst (by assumption) ?_)
    | dsimp only

theorem State.callGoes_agree {M : List Comp} {s x : State} {a1 a2 a3 a4} (g : Covers M [.pwr, .flt, .hif, .st, .masts, .ctxs, .reqs, .sess, .srvErr, .exports, .hal, .nlc, .col, .pmc, .out, .cells] = true) (h : Agree M s x) :
    Agree M s (State.callGoes x a1 a2 a3 a4) := by
  unfold State.callGoes
  repeat' first
    | with_reducible exact h
    | exact covers_trans (by decide) g
    | with_reducible apply State.checkGroup_agree
    | with_reducible apply State.releaseRows_agree
    | with_reducible apply State.failCall_agree
    | with_reducible apply State.startReturn_agree
    | with_reducible apply State.modCall_agree
    | with_reducible apply State.dispatchRows_agree
    | with_reducible apply State.replayFallen_agree
    | with_reducible apply State.failIo_agree
    | with_reducible apply State.fetch_agree
    | with_reducible apply State.launchRows_agree
    | with_reducible apply State.runMethod_agree
    | with_reducible apply State.replayGroup_agree
    | with_reducible apply Agree.ite
    | exact fun q => by simpa only [tkeys_tmap, tkeys_tmod] using q
    | intro _
    | split
    | dsimp only

theorem State.colKind_agree {M : List Comp} {s x : State} {a1 a2} (g : Covers M [.pwr, .flt, .hif, .st, .masts, .ctxs, .reqs, .sess, .srvErr, .exports, .hal, .nlc, .col, .pmc, .out, .cells] = true) (h : Agree M s x) :
    Agree M s (State.colKind x a1 a2) := by
  unfold State.colKind
  repeat' first
    | with_reducible exact h
    | exact covers_trans (by decide) g
    | with_reducible apply State.colArrives_agree
    | with_reducible apply Agree.ite
    | intro _

theorem State.colRefused_agree {M : List Comp} {s x : State} {a1 a2 a3} (g : Covers M [.pwr, .flt, .hif, .st, .masts, .ctxs, .reqs, .sess, .srvErr, .exports, .hal, .nlc, .col, .pmc, .out, .cells] = true) (h : Agree M s x) :
    Agree M s (State.colRefused x a1 a2 a3) := by
  unfold State.colRefused
  repeat' first
    | with_reducible exact h
    | exact covers_trans (by decide) g
    | with_reducible apply State.modGroup_agree
    | with_reducible apply State.containedAt_agree
    | with_reducible apply State.colErr_agree
    | with_reducible apply State.colTellAll_agree
    | exact fun q => by simpa only [tkeys_tmap, tkeys_tmod] using q
    | split
    | dsimp only

theorem State.collective_agree {M : List Comp} {s x : State} {a1 a2 a3 a4} (g : Covers M [.pwr, .flt, .hif, .st, .masts, .ctxs, .reqs, .sess, .srvErr, .exports, .hal, .nlc, .col, .pmc, .out, .cells] = true) (h : Agree M s x) :
    Agree M s (State.collective x a1 a2 a3 a4) := by
  unfold State.collective
  repeat' first
    | with_reducible exact h
    | exact covers_trans (by decide) g
    | with_reducible apply State.callGoes_agree
    | with_reducible apply State.beginCall_agree
    | with_reducible apply State.hubSettle_agree
    | with_reducible apply State.colRefused_agree
    | with_reducible apply Agree.ite
    | exact fun q => by simpa only [tkeys_tmap, tkeys_tmod] using q
    | intro _
    | split

end Sys2Proof.Machine
end

