-- ==== Sys2Proof/Laws/FrameRegisters.lean ====
section
/-! SUPPORT. What each operation may change, as `Agree` with the parts that it leaves alone: registers, power, counters and the device. -/
namespace Sys2Proof.Machine
set_option maxRecDepth 3000

theorem State.unlatch_agree {M : List Comp} {s x : State} {a1} (g : Covers M [.cn] = true) (h : Agree M s x) :
    Agree M s (State.unlatch x a1) := by
  unfold State.unlatch
  repeat' first
    | with_reducible exact h
    | exact covers_trans (by decide) g
    | with_reducible apply Agree.ite
    | exact fun q => by simpa only [tkeys_tmap, tkeys_tmod] using q
    | intro _
    | dsimp only
    | with_reducible apply Agree.upd_cn

theorem State.writeCap_agree {M : List Comp} {s x : State} {a1 a2} (g : Covers M [.pwr, .flt, .hif, .st, .masts, .ctxs, .reqs, .sess, .srvErr, .exports, .nextExp, .hal, .nlc, .col, .pmc, .out, .cells] = true) (h : Agree M s x) :
    Agree M s (State.writeCap x a1 a2) := by
  unfold State.writeCap
  have key : ∀ w, capRange (clampCap w) := fun w => by unfold clampCap capRange; omega
  have k : ∀ v : Power, (x.pwr.capsOk → v.capsOk) → Agree M s { x with pwr := v } := fun v q => Agree.upd_pwr (covers_trans (by decide) g) h q
  have k' := k { (if a1 = 1 then { x.pwr with cap := clampCap a2, capLow := decide (a2 < 450), floorCap := decide (a2 < 450) }
                  else { x.pwr with capMgmt := clampCap a2, mgmtLow := decide (a2 < 450), floorMgmt := decide (a2 < 450) }) with
    err := if decide (a2 < 450) = true then (if a1 = 1 then { x.pwr with cap := clampCap a2, capLow := decide (a2 < 450), floorCap := decide (a2 < 450) }
                  else { x.pwr with capMgmt := clampCap a2, mgmtLow := decide (a2 < 450), floorMgmt := decide (a2 < 450) }).err ||| 0x100 else (if a1 = 1 then { x.pwr with cap := clampCap a2, capLow := decide (a2 < 450), floorCap := decide (a2 < 450) }
                  else { x.pwr with capMgmt := clampCap a2, mgmtLow := decide (a2 < 450), floorMgmt := decide (a2 < 450) }).err } (fun q => by
      split
      · exact ⟨key _, q.2.1, q.2.2⟩
      · exact ⟨q.1, key _, q.2.2⟩)
  refine Agree.ite (fun _ => State.raise_agree (covers_trans (by decide) g) k') fun _ =>
    Agree.ite (fun _ => State.idleAll_agree (covers_trans (by decide) g) k') fun _ => k'

theorem State.clearDead_agree {M : List Comp} {s x : State} {a1 a2} (g : Covers M [.nlc] = true) (h : Agree M s x) :
    Agree M s (State.clearDead x a1 a2) := by
  unfold State.clearDead
  repeat' first
    | with_reducible exact h
    | exact covers_trans (by decide) g
    | with_reducible assumption
    | with_reducible apply State.modNlc_agree
    | with_reducible apply Agree.foldl
    | exact fun q => by simpa only [tkeys_tmap, tkeys_tmod] using q
    | intro _

theorem State.readWords_agree {M : List Comp} {s x : State} {a1 a2} (g : Covers M [.cn] = true) (h : Agree M s x) :
    Agree M s (State.readWords x a1 a2).1 := by
  induction a2 generalizing x a1 with
  | zero =>
    unfold State.readWords
    repeat' first
      | with_reducible exact h
  | succ n ih =>
    unfold State.readWords
    repeat' first
      | with_reducible exact h
      | exact covers_trans (by decide) g
      | with_reducible apply ih
      | with_reducible apply State.unlatch_agree

theorem writeFlt_agree {M : List Comp} {s x : State} {a1 a2} (g : Covers M [.flt] = true) (h : Agree M s x) :
    Agree M s (writeFlt x a1 a2) := by
  unfold writeFlt
  repeat' first
    | with_reducible exact h
    | exact covers_trans (by decide) g
    | with_reducible apply Agree.ite
    | exact fun q => by simpa only [tkeys_tmap, tkeys_tmod] using q
    | intro _
    | with_reducible apply Agree.upd_flt

theorem writeNlc_agree {M : List Comp} {s x : State} {a1 a2} (g : Covers M [.nlc] = true) (h : Agree M s x) :
    Agree M s (writeNlc x a1 a2) := by
  unfold writeNlc
  repeat' first
    | with_reducible exact h
    | exact covers_trans (by decide) g
    | with_reducible apply State.clearDead_agree
    | with_reducible apply State.modNlc_agree
    | with_reducible apply Agree.ite
    | exact fun q => by simpa only [tkeys_tmap, tkeys_tmod] using q
    | intro _

theorem writePmcMast_agree {M : List Comp} {s x : State} {a1 a2 a3} (g : Covers M [.masts] = true) (h : Agree M s x) :
    Agree M s (writePmcMast x a1 a2 a3) := by
  unfold writePmcMast
  repeat' first
    | with_reducible exact h
    | exact covers_trans (by decide) g
    | with_reducible apply State.modMast_agree
    | with_reducible apply Agree.ite
    | exact fun z => MastTo.same rfl rfl fun q => q
    | intro _

theorem State.writeBand_agree {M : List Comp} {s x : State} {a1 a2 a3} (g : Covers M [.masts] = true) (h : Agree M s x) :
    Agree M s (State.writeBand x a1 a2 a3).1 := by
  unfold State.writeBand
  repeat' first
    | with_reducible exact h
    | exact covers_trans (by decide) g
    | with_reducible apply State.modMast_agree
    | with_reducible apply Agree.ite_fst
    | exact fun z => MastTo.same rfl rfl fun q => q
    | intro _

theorem writeMc_agree {M : List Comp} {s x : State} {a1 a2 a3} (g : Covers M [.masts] = true) (h : Agree M s x) :
    Agree M s (writeMc x a1 a2 a3).1 := by
  unfold writeMc
  repeat' first
    | with_reducible exact h
    | exact covers_trans (by decide) g
    | with_reducible apply State.modMast_agree
    | with_reducible apply State.writeBand_agree
    | with_reducible apply Agree.ite_fst
    | exact fun z => MastTo.same rfl rfl fun q => q
    | intro _

theorem State.layerCmd_agree {M : List Comp} {s x : State} {a1 a2} (g : Covers M [.masts] = true) (h : Agree M s x) :
    Agree M s (State.layerCmd x a1 a2) := by
  unfold State.layerCmd
  repeat' first
    | with_reducible exact h
    | exact covers_trans (by decide) g
    | with_reducible apply State.modMast_agree
    | with_reducible apply Agree.ite
    | exact fun z => MastTo.same rfl rfl fun q => q
    | intro _

theorem writeTt_agree {M : List Comp} {s x : State} {a1 a2 a3} (g : Covers M [.masts] = true) (h : Agree M s x) :
    Agree M s (writeTt x a1 a2 a3) := by
  unfold writeTt
  repeat' first
    | with_reducible exact h
    | exact covers_trans (by decide) g
    | with_reducible apply State.modMast_agree
    | with_reducible apply State.layerCmd_agree
    | with_reducible apply Agree.ite
    | exact fun z => MastTo.same rfl rfl fun q => q
    | intro _

theorem writeMast_agree {M : List Comp} {s x : State} {a1 a2 a3 a4} (g : Covers M [.masts] = true) (h : Agree M s x) :
    Agree M s (writeMast x a1 a2 a3 a4).1 := by
  unfold writeMast
  repeat' first
    | with_reducible exact h
    | exact covers_trans (by decide) g
    | with_reducible apply State.modMast_agree
    | with_reducible apply writePmcMast_agree
    | with_reducible apply writeMc_agree
    | with_reducible apply writeTt_agree
    | with_reducible apply Agree.ite_fst
    | exact fun q => by simpa only [tkeys_tmap, tkeys_tmod] using q
    | exact fun z => MastTo.same rfl rfl fun q => q
    | intro _
    | split

theorem writeHal_agree {M : List Comp} {s x : State} {a1 a2} (g : Covers M [.hal] = true) (h : Agree M s x) :
    Agree M s (writeHal x a1 a2) := by
  unfold writeHal
  repeat' first
    | with_reducible exact h
    | exact covers_trans (by decide) g
    | with_reducible apply Agree.ite
    | exact fun q => by simpa only [tkeys_tmap, tkeys_tmod] using q
    | intro _
    | with_reducible apply Agree.upd_hal

theorem writeSrv_agree {M : List Comp} {s x : State} {a1 a2} (g : Covers M [.srvSel, .srvErr] = true) (h : Agree M s x) :
    Agree M s (writeSrv x a1 a2) := by
  unfold writeSrv
  repeat' first
    | with_reducible exact h
    | exact covers_trans (by decide) g
    | with_reducible apply Agree.ite
    | exact fun q => by simpa only [tkeys_tmap, tkeys_tmod] using q
    | intro _
    | with_reducible apply Agree.upd_srvErr
    | with_reducible apply Agree.upd_srvSel

theorem writeHif_agree {M : List Comp} {s x : State} {a1 a2} (g : Covers M [.hif, .st, .out] = true) (h : Agree M s x) :
    Agree M s (writeHif x a1 a2) := by
  unfold writeHif
  repeat' first
    | with_reducible exact h
    | exact covers_trans (by decide) g
    | with_reducible apply State.retryModules_agree
    | with_reducible apply State.flush_agree
    | with_reducible apply Agree.ite
    | exact fun q => by simpa only [tkeys_tmap, tkeys_tmod] using q
    | intro _
    | dsimp only
    | with_reducible apply Agree.upd_hif

theorem State.writeReefLimit_agree {M : List Comp} {s x : State} {a1} (g : Covers M [.pwr] = true) (h : Agree M s x) :
    Agree M s (State.writeReefLimit x a1) := by
  unfold State.writeReefLimit
  repeat' first
    | with_reducible exact h
    | exact covers_trans (by decide) g
    | with_reducible apply State.retarget_agree
    | exact fun q => by simpa only [tkeys_tmap, tkeys_tmod] using q
    | exact fun q => q
    | dsimp only
    | with_reducible apply Agree.upd_pwr

theorem writePwr_agree {M : List Comp} {s x : State} {a1 a2} (g : Covers M [.pwr, .flt, .hif, .st, .masts, .ctxs, .reqs, .sess, .srvErr, .exports, .nextExp, .hal, .nlc, .col, .pmc, .out, .cells] = true) (h : Agree M s x) :
    Agree M s (writePwr x a1 a2) := by
  unfold writePwr
  refine Agree.ite (fun _ => State.writeCap_agree (covers_trans (by decide) g) h) fun _ => Agree.ite (fun _ => ?_) fun _ =>
    Agree.ite (fun _ => State.writeReefLimit_agree (covers_trans (by decide) g) h) fun _ => Agree.ite (fun _ => ?_) fun _ =>
    Agree.ite (fun _ => State.retarget_agree (covers_trans (by decide) g) (State.modCtx_agree (covers_trans (by decide) g) h)) fun _ =>
    Agree.ite (fun _ => ?_) fun _ => h
  · exact Agree.upd_pwr (covers_trans (by decide) g) h fun q => ⟨q.1, q.2.1, by show capRange (clampCap _); unfold clampCap capRange; omega⟩
  · exact Agree.upd_pwr (covers_trans (by decide) g) h fun q => q
  · exact Agree.upd_pwr (covers_trans (by decide) g) h fun q => q

theorem State.writeShsel_agree {M : List Comp} {s x : State} {a1 a2 a3} (g : Covers M [.masts, .ctxs] = true) (h : Agree M s x) :
    Agree M s (State.writeShsel x a1 a2 a3) := by
  unfold State.writeShsel
  repeat' first
    | with_reducible exact h
    | exact covers_trans (by decide) g
    | with_reducible apply State.mapMasts_agree
    | with_reducible apply State.modCtx_agree
    | with_reducible apply Agree.ite
    | (refine (fun _ z => ?_ : ∀ n : Nat, MastKept _ _); dsimp only; split <;> exact MastTo.same rfl rfl fun q => q)
    | intro _

theorem State.writeCompat_agree {M : List Comp} {s x : State} {a1 a2} (g : Covers M [.masts, .ctxs] = true) (h : Agree M s x) :
    Agree M s (State.writeCompat x a1 a2).1 := by
  unfold State.writeCompat
  repeat' first
    | with_reducible exact h
    | exact covers_trans (by decide) g
    | with_reducible assumption
    | with_reducible apply State.modMast_agree
    | with_reducible apply State.modCtx_agree
    | with_reducible apply Agree.ite_fst
    | with_reducible apply Agree.foldl
    | exact fun q => by simpa only [tkeys_tmap, tkeys_tmod] using q
    | refine mastKept_of fun z => ?_
    | exact MastTo.refl _
    | with_reducible apply MastTo.compatSet
    | intro _
    | split

theorem writePmcHub_agree {M : List Comp} {s x : State} {a1 a2} (g : Covers M [.masts, .ctxs, .pmc] = true) (h : Agree M s x) :
    Agree M s (writePmcHub x a1 a2).1 := by
  unfold writePmcHub
  repeat' first
    | with_reducible exact h
    | exact covers_trans (by decide) g
    | with_reducible apply State.writeShsel_agree
    | with_reducible apply State.writeCompat_agree
    | with_reducible apply Agree.ite_fst
    | exact fun q => by simpa only [tkeys_tmap, tkeys_tmod] using q
    | intro _
    | dsimp only
    | with_reducible apply Agree.upd_pmc

theorem writeCol_agree {M : List Comp} {s x : State} {a1 a2} (g : Covers M [.col] = true) (h : Agree M s x) :
    Agree M s (writeCol x a1 a2) := by
  unfold writeCol
  repeat' first
    | with_reducible exact h
    | exact covers_trans (by decide) g
    | with_reducible apply State.modCol_agree
    | with_reducible apply Agree.ite
    | intro _

theorem writeReg_agree {M : List Comp} {s x : State} {a1 a2} (g : Covers M [.cn, .pwr, .flt, .btb, .hif, .st, .masts, .ctxs, .reqs, .sess, .srvSel, .srvErr, .exports, .nextExp, .hal, .nlc, .col, .pmc, .out, .cells] = true) (h : Agree M s x) :
    Agree M s (writeReg x a1 a2).1 := by
  unfold writeReg
  repeat' first
    | with_reducible exact h
    | exact covers_trans (by decide) g
    | with_reducible apply writeFlt_agree
    | with_reducible apply writeNlc_agree
    | with_reducible apply writeMast_agree
    | with_reducible apply writeHal_agree
    | with_reducible apply writeSrv_agree
    | with_reducible apply writeHif_agree
    | with_reducible apply writePwr_agree
    | with_reducible apply writePmcHub_agree
    | with_reducible apply writeCol_agree
    | with_reducible apply Agree.ite
    | with_reducible apply Agree.ite_fst
    | exact fun q => by simpa only [tkeys_tmap, tkeys_tmod] using q
    | exact Nat.le_refl _
    | intro _
    | split
    | dsimp only
    | with_reducible apply Agree.upd_btb
    | with_reducible apply Agree.upd_cn

theorem State.writeWords_agree {M : List Comp} {s x : State} {a1 a2} (g : Covers M [.cn, .pwr, .flt, .btb, .hif, .st, .masts, .ctxs, .reqs, .sess, .srvSel, .srvErr, .exports, .nextExp, .hal, .nlc, .col, .pmc, .out, .cells] = true) (h : Agree M s x) :
    Agree M s (State.writeWords x a1 a2).1 := by
  induction a2 generalizing x a1 with
  | nil =>
    unfold State.writeWords
    repeat' first
      | with_reducible exact h
  | cons b l ih =>
    unfold State.writeWords
    repeat' first
      | with_reducible exact h
      | exact covers_trans (by decide) g
      | with_reducible apply ih
      | with_reducible apply writeReg_agree
      | with_reducible apply Agree.ite_fst
      | intro _

theorem State.hostWrite_agree {M : List Comp} {s x : State} {a1 a2} (g : Covers M [.cn, .pwr, .flt, .btb, .hif, .st, .masts, .ctxs, .reqs, .sess, .srvSel, .srvErr, .exports, .nextExp, .hal, .nlc, .col, .pmc, .out, .cells] = true) (h : Agree M s x) :
    Agree M s (State.hostWrite x a1 a2) := by
  unfold State.hostWrite
  repeat' first
    | with_reducible exact h
    | exact covers_trans (by decide) g
    | with_reducible apply writeReg_agree
    | with_reducible apply Agree.ite
    | intro _

theorem State.bandDone_agree {M : List Comp} {s x : State} {a1 a2} (g : Covers M [.masts, .cells] = true) (h : Agree M s x) :
    Agree M s (State.bandDone x a1 a2) := by
  unfold State.bandDone
  split
  · exact h
  · refine Agree.ite (fun _ => h) fun _ => State.modMast_agree (covers_trans (by decide) g) h fun z => ?_
    exact MastTo.of_eq (MastTo.zeroDram _ _ (covers_trans (by decide) g) (MastTo.refl z)) rfl rfl rfl

theorem State.latchTime_agree {M : List Comp} {s x : State} {a1} (g : Covers M [.cn] = true) (h : Agree M s x) :
    Agree M s (State.latchTime x a1) := by
  unfold State.latchTime
  repeat' first
    | with_reducible exact h
    | exact covers_trans (by decide) g
    | with_reducible apply Agree.ite
    | exact fun q => by simpa only [tkeys_tmap, tkeys_tmod] using q
    | intro _
    | dsimp only
    | with_reducible apply Agree.upd_cn

theorem State.sidebandRead_agree {M : List Comp} {s x : State} {a1} (g : Covers M [.cn, .out] = true) (h : Agree M s x) :
    Agree M s (State.sidebandRead x a1) := by
  unfold State.sidebandRead
  repeat' first
    | with_reducible exact h
    | exact covers_trans (by decide) g
    | with_reducible apply State.latchTime_agree
    | with_reducible apply State.emit_agree
    | with_reducible apply Agree.ite
    | intro _

theorem capSetAct_agree {M : List Comp} {s x : State} {a0} (g : Covers M [.pwr, .flt, .hif, .st, .masts, .ctxs, .reqs, .sess, .srvErr, .exports, .nextExp, .hal, .nlc, .col, .pmc, .out, .cells] = true) (h : Agree M s x) :
    Agree M s (capSetAct a0 x).1 := by
  unfold capSetAct
  repeat' first
    | with_reducible exact h
    | exact covers_trans (by decide) g
    | with_reducible apply State.writeCap_agree
    | with_reducible apply guardAct_agree

theorem capSetCmd_agree {M : List Comp} {s : State} (g : Covers M [.hif, .st, .out, .pwr, .flt, .masts, .ctxs, .reqs, .sess, .srvErr, .exports, .nextExp, .hal, .nlc, .col, .pmc, .cells] = true) : Cmd.Kept M s capSetCmd := by
  exact ⟨fun _ _ h => capSetAct_agree (covers_trans (by decide) g) h, fun _ _ _ h => h⟩

theorem powerHintAct_agree {M : List Comp} {s x : State} {a0} (g : Covers M [.pwr] = true) (h : Agree M s x) :
    Agree M s (powerHintAct a0 x).1 := by
  unfold powerHintAct
  repeat' first
    | with_reducible exact h
    | exact covers_trans (by decide) g
    | with_reducible apply State.hint_agree
    | with_reducible apply guardAct_agree

theorem powerHintCmd_agree {M : List Comp} {s : State} (g : Covers M [.hif, .st, .out, .pwr] = true) : Cmd.Kept M s powerHintCmd := by
  exact ⟨fun _ _ h => powerHintAct_agree (covers_trans (by decide) g) h, fun _ _ _ h => h⟩

theorem reefLimitAct_agree {M : List Comp} {s x : State} {a0} (g : Covers M [.pwr] = true) (h : Agree M s x) :
    Agree M s (reefLimitAct a0 x).1 := by
  unfold reefLimitAct
  repeat' first
    | with_reducible exact h
    | exact covers_trans (by decide) g
    | with_reducible apply State.writeReefLimit_agree
    | with_reducible apply guardAct_agree

theorem reefLimitCmd_agree {M : List Comp} {s : State} (g : Covers M [.hif, .st, .out, .pwr] = true) : Cmd.Kept M s reefLimitCmd := by
  exact ⟨fun _ _ h => reefLimitAct_agree (covers_trans (by decide) g) h, fun _ _ _ h => h⟩

theorem State.endCoolstop_agree {M : List Comp} {s x : State} (g : Covers M [.pwr, .flt, .st, .masts, .ctxs, .hal, .pmc, .cells] = true) (h : Agree M s x) :
    Agree M s (State.endCoolstop x) := by
  unfold State.endCoolstop
  repeat' first
    | with_reducible exact h
    | exact covers_trans (by decide) g
    | with_reducible apply State.mapMasts_agree
    | with_reducible apply State.startQueued_agree
    | with_reducible apply State.writeLate_agree
    | with_reducible apply Agree.ite
    | with_reducible apply Agree.foldl
    | exact fun q => by simpa only [tkeys_tmap, tkeys_tmod] using q
    | exact fun q => q
    | exact fun _ z => MastTo.same rfl rfl fun q => q
    | intro _
    | dsimp only
    | with_reducible apply Agree.upd_pwr

theorem State.resumeCtx_agree {M : List Comp} {s x : State} {a1} (g : Covers M [.pwr, .flt, .hif, .st, .masts, .ctxs, .reqs, .sess, .srvErr, .exports, .nextExp, .hal, .nlc, .col, .pmc, .out, .cells] = true) (h : Agree M s x) :
    Agree M s (State.resumeCtx x a1) := by
  unfold State.resumeCtx
  repeat' first
    | with_reducible exact h
    | exact covers_trans (by decide) g
    | with_reducible assumption
    | with_reducible apply State.launchChunks_agree
    | with_reducible apply State.reevalAll_agree
    | with_reducible apply State.freeEngines_agree
    | with_reducible apply State.claimEngines_agree
    | with_reducible apply State.retarget_agree
    | with_reducible apply State.idle_agree
    | with_reducible apply State.promote_agree
    | with_reducible apply State.checkDone_agree
    | with_reducible apply State.modCtx_agree
    | with_reducible apply Agree.ite
    | with_reducible apply Agree.foldl
    | exact fun q => by simpa only [tkeys_tmap, tkeys_tmod] using q
    | intro _
    | split

theorem coolResumeAct_agree {M : List Comp} {s x : State} {a0} (g : Covers M [.pwr, .flt, .hif, .st, .masts, .ctxs, .reqs, .sess, .srvErr, .exports, .nextExp, .hal, .nlc, .col, .pmc, .out, .cells] = true) (h : Agree M s x) :
    Agree M s (coolResumeAct a0 x).1 := by
  unfold coolResumeAct
  repeat' first
    | with_reducible exact h
    | exact covers_trans (by decide) g
    | with_reducible apply State.endCoolstop_agree
    | with_reducible apply State.resumeCtx_agree
    | with_reducible apply guardAct_agree

theorem coolResumeCmd_agree {M : List Comp} {s : State} (g : Covers M [.hif, .st, .out, .pwr, .flt, .masts, .ctxs, .reqs, .sess, .srvErr, .exports, .nextExp, .hal, .nlc, .col, .pmc, .cells] = true) : Cmd.Kept M s coolResumeCmd := by
  exact ⟨fun _ _ h => coolResumeAct_agree (covers_trans (by decide) g) h, fun _ _ _ h => Agree.ite (fun _ => State.promoteOwed_agree (covers_trans (by decide) g) h) fun _ => h⟩

theorem ctrReadAct_agree {M : List Comp} {s x : State} {a0} (g : Covers M [] = true) (h : Agree M s x) :
    Agree M s (ctrReadAct a0 x).1 := by
  unfold ctrReadAct
  repeat' first
    | with_reducible exact h
    | exact covers_trans (by decide) g
    | with_reducible apply guardAct_agree

theorem ctrReadCmd_agree {M : List Comp} {s : State} (g : Covers M [.hif, .st, .out] = true) : Cmd.Kept M s ctrReadCmd := by
  exact ⟨fun _ _ h => ctrReadAct_agree (covers_trans (by decide) g) h, fun _ _ _ h => h⟩

theorem State.modPmc_agree {M : List Comp} {s x : State} {a1 a2} (g : Covers M [.masts, .pmc] = true) (h : Agree M s x) :
    Agree M s (State.modPmc x a1 a2) := by
  unfold State.modPmc
  repeat' first
    | with_reducible exact h
    | exact covers_trans (by decide) g
    | with_reducible apply State.modMast_agree
    | with_reducible apply Agree.ite
    | exact fun q => by simpa only [tkeys_tmap, tkeys_tmod] using q
    | exact fun z => MastTo.same rfl rfl fun q => q
    | intro _
    | with_reducible apply Agree.upd_pmc

theorem ctrProgramAct_agree {M : List Comp} {s x : State} {a0} (g : Covers M [.masts, .pmc] = true) (h : Agree M s x) :
    Agree M s (ctrProgramAct a0 x).1 := by
  unfold ctrProgramAct
  repeat' first
    | with_reducible exact h
    | exact covers_trans (by decide) g
    | with_reducible apply guardAct_agree
    | with_reducible apply State.modPmc_agree

theorem ctrProgramCmd_agree {M : List Comp} {s : State} (g : Covers M [.hif, .st, .out, .masts, .pmc] = true) : Cmd.Kept M s ctrProgramCmd := by
  exact ⟨fun _ _ h => ctrProgramAct_agree (covers_trans (by decide) g) h, fun _ _ _ h => h⟩

theorem ctrGrantAct_agree {M : List Comp} {s x : State} {a0} (g : Covers M [.ctxs] = true) (h : Agree M s x) :
    Agree M s (ctrGrantAct a0 x).1 := by
  unfold ctrGrantAct
  repeat' first
    | with_reducible exact h
    | exact covers_trans (by decide) g
    | with_reducible apply State.modCtx_agree
    | with_reducible apply guardAct_agree

theorem ctrGrantCmd_agree {M : List Comp} {s : State} (g : Covers M [.hif, .st, .out, .ctxs] = true) : Cmd.Kept M s ctrGrantCmd := by
  exact ⟨fun _ _ h => ctrGrantAct_agree (covers_trans (by decide) g) h, fun _ _ _ h => h⟩

theorem telemetryAct_agree {M : List Comp} {s x : State} {a0} (g : Covers M [] = true) (h : Agree M s x) :
    Agree M s (telemetryAct a0 x).1 := by
  unfold telemetryAct
  repeat' first
    | with_reducible exact h
    | exact covers_trans (by decide) g
    | with_reducible apply guardAct_agree

theorem telemetryCmd_agree {M : List Comp} {s : State} (g : Covers M [.hif, .st, .out] = true) : Cmd.Kept M s telemetryCmd := by
  exact ⟨fun _ _ h => telemetryAct_agree (covers_trans (by decide) g) h, fun _ _ _ h => h⟩

theorem helloAct_agree {M : List Comp} {s x : State} {a0} (g : Covers M [.hif, .st, .out] = true) (h : Agree M s x) :
    Agree M s (helloAct a0 x).1 := by
  unfold helloAct
  repeat' first
    | with_reducible exact h
    | exact covers_trans (by decide) g
    | with_reducible apply State.pumpAll_agree
    | with_reducible apply guardAct_agree
    | exact fun _ _ q => q
    | exact fun q => by simpa only [tkeys_tmap, tkeys_tmod] using q
    | dsimp only
    | with_reducible apply Agree.upd_st

theorem helloCmd_agree {M : List Comp} {s : State} (g : Covers M [.hif, .st, .out] = true) : Cmd.Kept M s helloCmd := by
  exact ⟨fun _ _ h => helloAct_agree (covers_trans (by decide) g) h, fun _ _ _ h => h⟩

theorem devConfigAct_agree {M : List Comp} {s x : State} {a0} (g : Covers M [.st] = true) (h : Agree M s x) :
    Agree M s (devConfigAct a0 x).1 := by
  unfold devConfigAct
  repeat' first
    | with_reducible exact h
    | exact covers_trans (by decide) g
    | with_reducible apply guardAct_agree
    | exact fun _ _ q => q
    | exact fun q => by simpa only [tkeys_tmap, tkeys_tmod] using q
    | dsimp only
    | with_reducible apply Agree.upd_st

theorem devConfigCmd_agree {M : List Comp} {s : State} (g : Covers M [.hif, .st, .out] = true) : Cmd.Kept M s devConfigCmd := by
  exact ⟨fun _ _ h => devConfigAct_agree (covers_trans (by decide) g) h, fun _ _ _ h => h⟩

theorem markAct_agree {M : List Comp} {s x : State} {a0} (g : Covers M [.flt, .st, .pmc] = true) (h : Agree M s x) :
    Agree M s (markAct a0 x).1 := by
  unfold markAct
  repeat' first
    | with_reducible exact h
    | exact covers_trans (by decide) g
    | with_reducible apply State.raise_agree
    | with_reducible apply guardAct_agree

theorem markCmd_agree {M : List Comp} {s : State} (g : Covers M [.hif, .st, .out, .flt, .pmc] = true) : Cmd.Kept M s markCmd := by
  exact ⟨fun _ _ h => markAct_agree (covers_trans (by decide) g) h, fun _ _ _ h => h⟩

theorem echoAct_agree {M : List Comp} {s x : State} {a0} (g : Covers M [] = true) (h : Agree M s x) :
    Agree M s (echoAct a0 x).1 := by
  unfold echoAct
  repeat' first
    | with_reducible exact h
    | exact covers_trans (by decide) g
    | with_reducible apply guardAct_agree

theorem echoCmd_agree {M : List Comp} {s : State} (g : Covers M [.hif, .st, .out] = true) : Cmd.Kept M s echoCmd := by
  exact ⟨fun _ _ h => echoAct_agree (covers_trans (by decide) g) h, fun _ _ _ h => h⟩

theorem regReadAct_agree {M : List Comp} {s x : State} {a0} (g : Covers M [.cn] = true) (h : Agree M s x) :
    Agree M s (regReadAct a0 x).1 := by
  unfold regReadAct
  repeat' first
    | with_reducible exact h
    | exact covers_trans (by decide) g
    | with_reducible apply State.readWords_agree
    | with_reducible apply guardAct_agree

theorem regReadCmd_agree {M : List Comp} {s : State} (g : Covers M [.hif, .st, .out, .cn] = true) : Cmd.Kept M s regReadCmd := by
  exact ⟨fun _ _ h => regReadAct_agree (covers_trans (by decide) g) h, fun _ _ _ h => h⟩

theorem regWriteAct_agree {M : List Comp} {s x : State} {a0} (g : Covers M [.cn, .pwr, .flt, .btb, .hif, .st, .masts, .ctxs, .reqs, .sess, .srvSel, .srvErr, .exports, .nextExp, .hal, .nlc, .col, .pmc, .out, .cells] = true) (h : Agree M s x) :
    Agree M s (regWriteAct a0 x).1 := by
  unfold regWriteAct
  repeat' first
    | with_reducible exact h
    | exact covers_trans (by decide) g
    | with_reducible apply State.writeWords_agree
    | with_reducible apply guardAct_agree

theorem regWriteCmd_agree {M : List Comp} {s : State} (g : Covers M [.hif, .st, .out, .cn, .pwr, .flt, .btb, .masts, .ctxs, .reqs, .sess, .srvSel, .srvErr, .exports, .nextExp, .hal, .nlc, .col, .pmc, .cells] = true) : Cmd.Kept M s regWriteCmd := by
  exact ⟨fun _ _ h => regWriteAct_agree (covers_trans (by decide) g) h, fun _ _ _ h => h⟩

theorem State.callPortLeft_agree {M : List Comp} {s x : State} {a1 a2 a3} (g : Covers M [.pwr, .flt, .hif, .st, .masts, .ctxs, .reqs, .sess, .srvErr, .exports, .hal, .nlc, .col, .pmc, .out, .cells] = true) (h : Agree M s x) :
    Agree M s (State.callPortLeft x a1 a2 a3) := by
  unfold State.callPortLeft
  repeat' first
    | with_reducible exact h
    | exact covers_trans (by decide) g
    | with_reducible apply State.failCall_agree
    | with_reducible apply State.rerouteChunk_agree
    | with_reducible apply State.modCall_agree
    | with_reducible apply State.fallBack_agree
    | with_reducible apply State.colErr_agree
    | with_reducible apply State.raise_agree
    | with_reducible apply Agree.ite
    | with_reducible apply Agree.foldl
    | exact fun q => by simpa only [tkeys_tmap, tkeys_tmod] using q
    | intro _
    | split

theorem State.portLeft_agree {M : List Comp} {s x : State} {a1} (g : Covers M [.pwr, .flt, .hif, .st, .masts, .ctxs, .reqs, .sess, .srvErr, .exports, .hal, .nlc, .col, .pmc, .out, .cells] = true) (h : Agree M s x) :
    Agree M s (State.portLeft x a1) := by
  unfold State.portLeft
  repeat' first
    | with_reducible exact h
    | exact covers_trans (by decide) g
    | with_reducible apply State.callPortLeft_agree
    | with_reducible apply State.hubSettle_agree
    | with_reducible apply State.replayFallen_agree
    | with_reducible apply Agree.foldl
    | intro _

theorem State.rerouteReqs_agree {M : List Comp} {s x : State} {a1} (g : Covers M [.nlc, .out] = true) (h : Agree M s x) :
    Agree M s (State.rerouteReqs x a1) := by
  unfold State.rerouteReqs
  repeat' first
    | with_reducible exact h
    | exact covers_trans (by decide) g
    | with_reducible apply State.rerouteReq_agree
    | with_reducible apply Agree.foldl
    | intro _

theorem State.portOut_agree {M : List Comp} {s x : State} {a1 a2 a3} (g : Covers M [.pwr, .flt, .hif, .st, .masts, .ctxs, .reqs, .sess, .srvErr, .exports, .hal, .nlc, .col, .pmc, .out, .cells] = true) (h : Agree M s x) :
    Agree M s (State.portOut x a1 a2 a3) := by
  unfold State.portOut
  repeat' first
    | with_reducible exact h
    | exact covers_trans (by decide) g
    | with_reducible apply State.modPort_agree
    | with_reducible apply State.portLeft_agree
    | with_reducible apply State.rerouteReqs_agree
    | with_reducible apply State.retrainEnds_agree
    | with_reducible apply Agree.ite
    | intro _

theorem State.portRetrain_agree {M : List Comp} {s x : State} {a1} (g : Covers M [.pwr, .flt, .hif, .st, .masts, .ctxs, .reqs, .sess, .srvErr, .exports, .hal, .nlc, .col, .pmc, .out, .cells] = true) (h : Agree M s x) :
    Agree M s (State.portRetrain x a1) := by
  unfold State.portRetrain
  repeat' first
    | with_reducible exact h
    | exact covers_trans (by decide) g
    | with_reducible apply State.modPort_agree
    | with_reducible apply State.portLeft_agree
    | with_reducible apply State.raise_agree
    | with_reducible apply Agree.ite
    | intro _

theorem State.portDown_agree {M : List Comp} {s x : State} {a1} (g : Covers M [.pwr, .flt, .hif, .st, .masts, .ctxs, .reqs, .sess, .srvErr, .exports, .hal, .nlc, .col, .pmc, .out, .cells] = true) (h : Agree M s x) :
    Agree M s (State.portDown x a1) := by
  unfold State.portDown
  repeat' first
    | with_reducible exact h
    | exact covers_trans (by decide) g
    | with_reducible apply State.modPort_agree
    | with_reducible apply State.notify_agree
    | with_reducible apply State.mail_agree
    | with_reducible apply State.raise_agree
    | with_reducible apply State.modNlc_agree
    | with_reducible apply State.portOut_agree
    | exact fun q => by simpa only [tkeys_tmap, tkeys_tmod] using q

theorem State.reportVerdict_agree {M : List Comp} {s x : State} {a1 a2 a3} (g : Covers M [.flt, .st, .nlc, .pmc, .out] = true) (h : Agree M s x) :
    Agree M s (State.reportVerdict x a1 a2 a3) := by
  unfold State.reportVerdict
  repeat' first
    | with_reducible exact h
    | exact covers_trans (by decide) g
    | with_reducible apply State.notify_agree
    | with_reducible apply State.mail_agree
    | with_reducible apply State.raise_agree
    | with_reducible apply State.modNlc_agree
    | with_reducible apply Agree.ite
    | exact fun q => by simpa only [tkeys_tmap, tkeys_tmod] using q
    | intro _

theorem State.checkPort_agree {M : List Comp} {s x : State} {a1} (g : Covers M [.pwr, .flt, .hif, .st, .masts, .ctxs, .reqs, .sess, .srvErr, .exports, .hal, .nlc, .col, .pmc, .out, .cells] = true) (h : Agree M s x) :
    Agree M s (State.checkPort x a1) := by
  unfold State.checkPort
  repeat' first
    | with_reducible exact h
    | exact covers_trans (by decide) g
    | with_reducible apply State.modPort_agree
    | with_reducible apply State.reportVerdict_agree
    | with_reducible apply State.launchWaiting_agree
    | with_reducible apply State.portOut_agree
    | with_reducible apply State.retrainEnds_agree
    | with_reducible apply Agree.ite
    | exact fun q => by simpa only [tkeys_tmap, tkeys_tmod] using q
    | intro _
    | split
    | dsimp only

theorem State.installKey_agree {M : List Comp} {s x : State} {a1 a2 a3} (g : Covers M [.nlc, .out] = true) (h : Agree M s x) :
    Agree M s (State.installKey x a1 a2 a3) := by
  unfold State.installKey
  repeat' first
    | with_reducible exact h
    | exact covers_trans (by decide) g
    | with_reducible apply State.modPort_agree
    | with_reducible apply State.linkFrame_agree
    | with_reducible apply State.emit_agree
    | with_reducible apply Agree.ite
    | intro _

theorem State.checkPorts_agree {M : List Comp} {s x : State} (g : Covers M [.pwr, .flt, .hif, .st, .masts, .ctxs, .reqs, .sess, .srvErr, .exports, .hal, .nlc, .col, .pmc, .out, .cells] = true) (h : Agree M s x) :
    Agree M s (State.checkPorts x) := by
  unfold State.checkPorts
  repeat' first
    | with_reducible exact h
    | exact covers_trans (by decide) g
    | with_reducible apply State.checkPort_agree
    | with_reducible apply Agree.foldl
    | intro _

theorem State.sendIdent_agree {M : List Comp} {s x : State} {a1} (g : Covers M [.nlc, .out] = true) (h : Agree M s x) :
    Agree M s (State.sendIdent x a1) := by
  unfold State.sendIdent
  repeat' first
    | with_reducible exact h
    | exact covers_trans (by decide) g
    | with_reducible apply State.linkFrame_agree
    | with_reducible apply State.emit_agree

end Sys2Proof.Machine
end

