-- ==== Sys2Proof/Laws/FrameControl.lean ====
section
/-! SUPPORT. What each operation may change, as `Agree` with the parts that it leaves alone: fabric, grouped call, shard, program, security and maintenance commands. -/
namespace Sys2Proof.Machine
set_option maxRecDepth 3000

theorem State.startTraining_agree {M : List Comp} {s x : State} {a1} (g : Covers M [.nlc] = true) (h : Agree M s x) :
    Agree M s (State.startTraining x a1) := by
  unfold State.startTraining
  repeat' first
    | with_reducible exact h
    | exact covers_trans (by decide) g
    | with_reducible apply State.modPort_agree

theorem linkTrainAct_agree {M : List Comp} {s x : State} {a0} (g : Covers M [.st, .nlc] = true) (h : Agree M s x) :
    Agree M s (linkTrainAct a0 x).1 := by
  unfold linkTrainAct
  repeat' first
    | with_reducible exact h
    | exact covers_trans (by decide) g
    | with_reducible apply State.startTraining_agree
    | with_reducible apply State.owe_agree
    | with_reducible apply guardAct_agree
    | with_reducible apply Agree.foldl
    | intro _

theorem linkTrainCmd_agree {M : List Comp} {s : State} (g : Covers M [.hif, .st, .out, .nlc] = true) : Cmd.Kept M s linkTrainCmd := by
  exact ⟨fun _ _ h => linkTrainAct_agree (covers_trans (by decide) g) h, fun _ _ _ h => h⟩

theorem State.stopPort_agree {M : List Comp} {s x : State} {a1} (g : Covers M [.pwr, .flt, .hif, .st, .masts, .ctxs, .reqs, .sess, .srvErr, .exports, .hal, .nlc, .col, .pmc, .out, .cells] = true) (h : Agree M s x) :
    Agree M s (State.stopPort x a1) := by
  unfold State.stopPort
  repeat' first
    | with_reducible exact h
    | exact covers_trans (by decide) g
    | with_reducible apply State.modPort_agree
    | with_reducible apply State.portOut_agree

theorem linkStopAct_agree {M : List Comp} {s x : State} {a0} (g : Covers M [.pwr, .flt, .hif, .st, .masts, .ctxs, .reqs, .sess, .srvErr, .exports, .hal, .nlc, .col, .pmc, .out, .cells] = true) (h : Agree M s x) :
    Agree M s (linkStopAct a0 x).1 := by
  unfold linkStopAct
  repeat' first
    | with_reducible exact h
    | exact covers_trans (by decide) g
    | with_reducible apply State.stopPort_agree
    | with_reducible apply guardAct_agree
    | with_reducible apply Agree.foldl
    | intro _

theorem linkStopCmd_agree {M : List Comp} {s : State} (g : Covers M [.hif, .st, .out, .pwr, .flt, .masts, .ctxs, .reqs, .sess, .srvErr, .exports, .hal, .nlc, .col, .pmc, .cells] = true) : Cmd.Kept M s linkStopCmd := by
  exact ⟨fun _ _ h => linkStopAct_agree (covers_trans (by decide) g) h, fun _ _ _ h => h⟩

theorem State.takePlan_agree {M : List Comp} {s x : State} {a1} (g : Covers M [.pwr, .flt, .hif, .st, .masts, .ctxs, .reqs, .sess, .srvErr, .exports, .hal, .nlc, .col, .pmc, .out, .cells] = true) (h : Agree M s x) :
    Agree M s (State.takePlan x a1) := by
  unfold State.takePlan
  repeat' first
    | with_reducible exact h
    | exact covers_trans (by decide) g
    | with_reducible apply State.checkPorts_agree
    | with_reducible apply State.modNlc_agree
    | exact fun q => by simpa only [tkeys_tmap, tkeys_tmod] using q

theorem planLoadAct_agree {M : List Comp} {s x : State} {a0} (g : Covers M [.pwr, .flt, .hif, .st, .masts, .ctxs, .reqs, .sess, .srvErr, .exports, .hal, .nlc, .col, .pmc, .out, .cells] = true) (h : Agree M s x) :
    Agree M s (planLoadAct a0 x).1 := by
  unfold planLoadAct
  repeat' first
    | with_reducible exact h
    | exact covers_trans (by decide) g
    | with_reducible apply State.takePlan_agree
    | with_reducible apply guardAct_agree

theorem planLoadCmd_agree {M : List Comp} {s : State} (g : Covers M [.hif, .st, .out, .pwr, .flt, .masts, .ctxs, .reqs, .sess, .srvErr, .exports, .hal, .nlc, .col, .pmc, .cells] = true) : Cmd.Kept M s planLoadCmd := by
  exact ⟨fun _ _ h => planLoadAct_agree (covers_trans (by decide) g) h, fun _ _ _ h => h⟩

theorem State.takePartition_agree {M : List Comp} {s x : State} {a1 a2} (g : Covers M [.pwr, .flt, .hif, .st, .masts, .ctxs, .reqs, .sess, .srvErr, .exports, .hal, .nlc, .col, .pmc, .out, .cells] = true) (h : Agree M s x) :
    Agree M s (State.takePartition x a1 a2) := by
  unfold State.takePartition
  repeat' first
    | with_reducible exact h
    | exact covers_trans (by decide) g
    | with_reducible apply State.sendIdent_agree
    | with_reducible apply State.checkPorts_agree
    | with_reducible apply State.modNlc_agree
    | with_reducible apply Agree.foldl
    | exact fun q => by simpa only [tkeys_tmap, tkeys_tmod] using q
    | intro _

theorem partitionSetAct_agree {M : List Comp} {s x : State} {a0} (g : Covers M [.pwr, .flt, .hif, .st, .masts, .ctxs, .reqs, .sess, .srvErr, .exports, .hal, .nlc, .col, .pmc, .out, .cells] = true) (h : Agree M s x) :
    Agree M s (partitionSetAct a0 x).1 := by
  unfold partitionSetAct
  repeat' first
    | with_reducible exact h
    | exact covers_trans (by decide) g
    | with_reducible apply State.takePartition_agree
    | with_reducible apply guardAct_agree

theorem partitionSetCmd_agree {M : List Comp} {s : State} (g : Covers M [.hif, .st, .out, .pwr, .flt, .masts, .ctxs, .reqs, .sess, .srvErr, .exports, .hal, .nlc, .col, .pmc, .cells] = true) : Cmd.Kept M s partitionSetCmd := by
  exact ⟨fun _ _ h => partitionSetAct_agree (covers_trans (by decide) g) h, fun _ _ _ h => h⟩

theorem windowMapAct_agree {M : List Comp} {s x : State} {a0} (g : Covers M [.nlc] = true) (h : Agree M s x) :
    Agree M s (windowMapAct a0 x).1 := by
  unfold windowMapAct
  repeat' first
    | with_reducible exact h
    | exact covers_trans (by decide) g
    | with_reducible apply State.modNlc_agree
    | with_reducible apply guardAct_agree
    | exact fun q => by simpa only [tkeys_tmap, tkeys_tmod] using q

theorem windowMapCmd_agree {M : List Comp} {s : State} (g : Covers M [.hif, .st, .out, .nlc] = true) : Cmd.Kept M s windowMapCmd := by
  exact ⟨fun _ _ h => windowMapAct_agree (covers_trans (by decide) g) h, fun _ _ _ h => h⟩

theorem groupLoadAct_agree {M : List Comp} {s x : State} {a0} (g : Covers M [.col] = true) (h : Agree M s x) :
    Agree M s (groupLoadAct a0 x).1 := by
  unfold groupLoadAct
  repeat' first
    | with_reducible exact h
    | exact covers_trans (by decide) g
    | with_reducible apply State.modCol_agree
    | with_reducible apply guardAct_agree

theorem groupLoadCmd_agree {M : List Comp} {s : State} (g : Covers M [.hif, .st, .out, .col] = true) : Cmd.Kept M s groupLoadCmd := by
  exact ⟨fun _ _ h => groupLoadAct_agree (covers_trans (by decide) g) h, fun _ _ _ h => h⟩

theorem groupUnloadAct_agree {M : List Comp} {s x : State} {a0} (g : Covers M [.col] = true) (h : Agree M s x) :
    Agree M s (groupUnloadAct a0 x).1 := by
  unfold groupUnloadAct
  repeat' first
    | with_reducible exact h
    | exact covers_trans (by decide) g
    | with_reducible apply State.modCol_agree
    | with_reducible apply guardAct_agree

theorem groupUnloadCmd_agree {M : List Comp} {s : State} (g : Covers M [.hif, .st, .out, .col] = true) : Cmd.Kept M s groupUnloadCmd := by
  exact ⟨fun _ _ h => groupUnloadAct_agree (covers_trans (by decide) g) h, fun _ _ _ h => h⟩

theorem State.trainingEnds_agree {M : List Comp} {s x : State} (g : Covers M [.flt, .hif, .st, .hal, .nlc, .out] = true) (h : Agree M s x) :
    Agree M s (State.trainingEnds x) := by
  unfold State.trainingEnds
  repeat' first
    | with_reducible exact h
    | exact covers_trans (by decide) g
    | with_reducible assumption
    | with_reducible apply State.modPort_agree
    | with_reducible apply State.complete_agree
    | with_reducible apply State.retrainEnds_agree
    | with_reducible apply Agree.foldl
    | exact fun q => by simpa only [tkeys_tmap, tkeys_tmod] using q
    | intro _
    | split

theorem State.bootChanged_agree {M : List Comp} {s x : State} (g : Covers M [.out] = true) (h : Agree M s x) :
    Agree M s (State.bootChanged x) := by
  unfold State.bootChanged
  repeat' first
    | with_reducible exact h
    | exact covers_trans (by decide) g
    | with_reducible apply State.emit_agree
    | with_reducible apply Agree.ite
    | intro _

theorem State.startVerify_agree {M : List Comp} {s x : State} (g : Covers M [.btb, .hif, .out] = true) (h : Agree M s x) :
    Agree M s (State.startVerify x) := by
  unfold State.startVerify
  repeat' first
    | with_reducible exact h
    | exact covers_trans (by decide) g
    | with_reducible apply State.bootChanged_agree
    | with_reducible apply Agree.ite
    | exact fun q => by simpa only [tkeys_tmap, tkeys_tmod] using q
    | intro _
    | dsimp only
    | (refine Agree.upds (by dsimp only <;> exact rfl) ?_ ?_; rotate_left
       · intro c; cases c <;> first | exact Or.inl (covers_mem g (by decide)) | exact Or.inr rfl | exact Or.inr (fun q => q) | exact Or.inr (Nat.le_refl _) | exact Or.inr (fun _ q => q) | exact Or.inr (fun _ => ⟨rfl, rfl⟩) | exact Or.inr (said_same rfl rfl))

theorem State.fwChunk_agree {M : List Comp} {s x : State} {a1 a2} (g : Covers M [.hif] = true) (h : Agree M s x) :
    Agree M s (State.fwChunk x a1 a2) := by
  unfold State.fwChunk
  repeat' first
    | with_reducible exact h
    | exact covers_trans (by decide) g
    | with_reducible apply Agree.ite
    | exact fun q => by simpa only [tkeys_tmap, tkeys_tmod] using q
    | intro _
    | dsimp only
    | with_reducible apply Agree.upd_hif

theorem State.fwDone_agree {M : List Comp} {s x : State} {a1} (g : Covers M [.btb, .hif, .out] = true) (h : Agree M s x) :
    Agree M s (State.fwDone x a1) := by
  unfold State.fwDone
  repeat' first
    | with_reducible exact h
    | exact covers_trans (by decide) g
    | with_reducible apply State.startVerify_agree
    | with_reducible apply State.bootChanged_agree
    | with_reducible apply Agree.ite
    | exact fun q => by simpa only [tkeys_tmap, tkeys_tmod] using q
    | intro _
    | dsimp only
    | with_reducible apply Agree.upd_hif

theorem State.fwRejected_agree {M : List Comp} {s x : State} {a1} (g : Covers M [.flt, .btb, .hif, .st, .pmc, .out] = true) (h : Agree M s x) :
    Agree M s (State.fwRejected x a1) := by
  unfold State.fwRejected
  repeat' first
    | with_reducible exact h
    | exact covers_trans (by decide) g
    | with_reducible apply State.raise_agree
    | with_reducible apply State.bootChanged_agree
    | exact fun q => by simpa only [tkeys_tmap, tkeys_tmod] using q
    | dsimp only
    | (refine Agree.upds (by dsimp only <;> exact rfl) ?_ ?_; rotate_left
       · intro c; cases c <;> first | exact Or.inl (covers_mem g (by decide)) | exact Or.inr rfl | exact Or.inr (fun q => q) | exact Or.inr (Nat.le_refl _) | exact Or.inr (fun _ q => q) | exact Or.inr (fun _ => ⟨rfl, rfl⟩) | exact Or.inr (said_same rfl rfl))

theorem State.fwRuns_agree {M : List Comp} {s x : State} (g : Covers M [.cn, .pwr, .btb, .hif, .st, .out, .free] = true) (h : Agree M s x) :
    Agree M s (State.fwRuns x) := by
  unfold State.fwRuns
  repeat' first
    | with_reducible exact h
    | exact covers_trans (by decide) g
    | with_reducible apply State.grantAll_agree
    | with_reducible apply State.bootChanged_agree
    | with_reducible apply State.drawn_agree
    | exact fun q => by simpa only [tkeys_tmap, tkeys_tmod] using q
    | dsimp only
    | (refine Agree.upds (by dsimp only <;> exact rfl) ?_ ?_; rotate_left
       · intro c; cases c <;> first | exact Or.inl (covers_mem g (by decide)) | exact Or.inr rfl | exact Or.inr (fun q => q) | exact Or.inr (Nat.le_refl _) | exact Or.inr (fun _ q => q) | exact Or.inr (fun _ => ⟨rfl, rfl⟩) | exact Or.inr (said_same rfl rfl))

theorem State.fwVerify_agree {M : List Comp} {s x : State} (g : Covers M [.cn, .pwr, .flt, .btb, .hif, .st, .pmc, .out, .free] = true) (h : Agree M s x) :
    Agree M s (State.fwVerify x) := by
  unfold State.fwVerify
  repeat' first
    | with_reducible exact h
    | exact covers_trans (by decide) g
    | with_reducible apply State.fwRuns_agree
    | with_reducible apply State.fwRejected_agree
    | with_reducible apply Agree.ite
    | exact fun q => by simpa only [tkeys_tmap, tkeys_tmod] using q
    | intro _
    | split

theorem State.plainTile_agree {M : List Comp} {s x : State} {a1 a2 a3 a4} (g : Covers M [.flt, .st, .masts, .pmc] = true) (h : Agree M s x) :
    Agree M s (State.plainTile x a1 a2 a3 a4).1 := by
  unfold State.plainTile
  repeat' first
    | with_reducible exact h
    | exact covers_trans (by decide) g
    | with_reducible apply State.countM_agree
    | with_reducible apply State.fetch_agree
    | exact fun q => by simpa only [tkeys_tmap, tkeys_tmod] using q
    | split
    | (refine Agree.of_fst (by assumption) ?_)
    | dsimp only

theorem State.burstResiduals_agree {M : List Comp} {s x : State} {a1 a2 a3 a4 a5 a6 a7} (g : Covers M [.flt, .st, .masts, .pmc] = true) (h : Agree M s x) :
    Agree M s (State.burstResiduals x a1 a2 a3 a4 a5 a6 a7).1 := by
  unfold State.burstResiduals
  repeat' first
    | with_reducible exact h
    | exact covers_trans (by decide) g
    | with_reducible apply State.fetch_agree
    | with_reducible apply Agree.ite_fst
    | exact fun q => by simpa only [tkeys_tmap, tkeys_tmod] using q
    | intro _
    | split
    | dsimp only

theorem State.tileBurst_agree {M : List Comp} {s x : State} {a1 a2 a3 a4 a5} (g : Covers M [.flt, .st, .masts, .pmc] = true) (h : Agree M s x) :
    Agree M s (State.tileBurst x a1 a2 a3 a4 a5).1 := by
  unfold State.tileBurst
  repeat' first
    | with_reducible exact h
    | exact covers_trans (by decide) g
    | with_reducible apply State.burstResiduals_agree
    | with_reducible apply State.fetch_agree
    | exact fun q => by simpa only [tkeys_tmap, tkeys_tmod] using q
    | split
    | dsimp only

theorem State.tileBursts_agree {M : List Comp} {s x : State} {a1 a2 a3 a4 a5} (g : Covers M [.flt, .st, .masts, .pmc] = true) (h : Agree M s x) :
    Agree M s (State.tileBursts x a1 a2 a3 a4 a5).1 := by
  induction a5 generalizing x a4 with
  | nil =>
    unfold State.tileBursts
    repeat' first
      | with_reducible exact h
  | cons b l ih =>
    unfold State.tileBursts
    repeat' first
      | with_reducible exact h
      | exact covers_trans (by decide) g
      | with_reducible apply ih
      | with_reducible apply State.tileBurst_agree
      | exact fun q => by simpa only [tkeys_tmap, tkeys_tmod] using q
      | split
      | (refine Agree.of_fst (by assumption) ?_)

theorem State.packedTile_agree {M : List Comp} {s x : State} {a1 a2 a3 a4} (g : Covers M [.flt, .st, .masts, .pmc] = true) (h : Agree M s x) :
    Agree M s (State.packedTile x a1 a2 a3 a4).1 := by
  unfold State.packedTile
  repeat' first
    | with_reducible exact h
    | exact covers_trans (by decide) g
    | with_reducible apply State.tileBursts_agree
    | with_reducible apply State.fetch_agree
    | exact fun q => by simpa only [tkeys_tmap, tkeys_tmod] using q
    | split
    | (refine Agree.of_fst (by assumption) ?_)

theorem State.weightTile_agree {M : List Comp} {s x : State} {a1 a2 a3 a4} (g : Covers M [.flt, .st, .masts, .pmc] = true) (h : Agree M s x) :
    Agree M s (State.weightTile x a1 a2 a3 a4).1 := by
  unfold State.weightTile
  repeat' first
    | with_reducible exact h
    | exact covers_trans (by decide) g
    | with_reducible apply State.plainTile_agree
    | with_reducible apply State.packedTile_agree
    | with_reducible apply Agree.ite_fst
    | intro _

theorem State.columnTiles_agree {M : List Comp} {s x : State} {a1 a2 a3 a4 a5} (g : Covers M [.flt, .st, .masts, .pmc] = true) (h : Agree M s x) :
    Agree M s (State.columnTiles x a1 a2 a3 a4 a5).1 := by
  induction a5 generalizing x  with
  | nil =>
    unfold State.columnTiles
    repeat' first
      | with_reducible exact h
  | cons b l ih =>
    unfold State.columnTiles
    repeat' first
      | with_reducible exact h
      | exact covers_trans (by decide) g
      | with_reducible apply ih
      | with_reducible apply State.weightTile_agree
      | exact fun q => by simpa only [tkeys_tmap, tkeys_tmod] using q
      | split
      | (refine Agree.of_fst (by assumption) ?_)

theorem GrpRun.beside_agree {M : List Comp} {s : State} {x : GrpRun} {a1 a2 a3 a4} (g : Covers M [.free, .flt, .st, .masts, .pmc] = true) (h : Agree M s x.s) :
    Agree M s (GrpRun.beside a1 a2 a3 x a4).s := by
  unfold GrpRun.beside
  repeat' first
    | with_reducible exact h
    | exact covers_trans (by decide) g
    | with_reducible apply State.columnTiles_agree
    | with_reducible apply State.drawn_agree
    | split
    | (refine Agree.of_fst (by assumption) ?_)
    | dsimp only

theorem GrpRun.tileNo_agree {M : List Comp} {s : State} {x : GrpRun} {a1} (g : Covers M [.masts] = true) (h : Agree M s x.s) :
    Agree M s (GrpRun.tileNo x a1).1.s := by
  unfold GrpRun.tileNo
  exact State.modMast_agree (covers_trans (by decide) g) h fun z => MastTo.same rfl rfl fun q => q

theorem GrpRun.tileNos_agree {M : List Comp} {s : State} {x : GrpRun} {a1 a2} (g : Covers M [.masts] = true) (h : Agree M s x.s) :
    Agree M s (GrpRun.tileNos x a1 a2).1.s := by
  induction a2 generalizing x with
  | nil => exact h
  | cons c cs ih => exact ih (GrpRun.tileNo_agree g h)

theorem State.ttErr_agree {M : List Comp} {s x : State} {a1 a2} (g : Covers M [.masts] = true) (h : Agree M s x) :
    Agree M s (State.ttErr x a1 a2) := by
  unfold State.ttErr
  repeat' first
    | with_reducible exact h
    | exact covers_trans (by decide) g
    | with_reducible apply State.modMast_agree
    | exact fun z => MastTo.same rfl rfl fun q => q

theorem State.meErr_agree {M : List Comp} {s x : State} {a1 a2} (g : Covers M [.masts] = true) (h : Agree M s x) :
    Agree M s (State.meErr x a1 a2) := by
  unfold State.meErr
  repeat' first
    | with_reducible exact h
    | exact covers_trans (by decide) g
    | with_reducible apply State.modMast_agree
    | exact fun z => MastTo.same rfl rfl fun q => q

theorem State.countStream_agree {M : List Comp} {s x : State} {a1 a2 a3 a4 a5 a6 a7} (g : Covers M [.flt, .st, .masts, .pmc] = true) (h : Agree M s x) :
    Agree M s (State.countStream x a1 a2 a3 a4 a5 a6 a7) := by
  unfold State.countStream
  repeat' first
    | with_reducible exact h
    | exact covers_trans (by decide) g
    | with_reducible apply State.countM_agree
    | with_reducible apply State.ttErr_agree
    | with_reducible apply State.limitRec_agree
    | with_reducible apply State.meErr_agree
    | with_reducible apply Agree.ite
    | intro _

theorem GrpRun.compute_agree {M : List Comp} {s : State} {x : GrpRun} {a1 a2 a3 a4 a5 a6 a7 a8 a9 a10} (g : Covers M [.masts, .flt, .st, .pmc] = true) (h : Agree M s x.s) :
    Agree M s (GrpRun.compute x a1 a2 a3 a4 a5 a6 a7 a8 a9 a10).1.s := by
  unfold GrpRun.compute
  exact GrpRun.tileNos_agree (covers_trans (by decide) g) (State.countStream_agree (covers_trans (by decide) g) h)

theorem State.actPart_agree {M : List Comp} {s x : State} {a1 a2 a3 a4 a5} (g : Covers M [.flt, .st, .masts, .pmc] = true) (h : Agree M s x) :
    Agree M s (State.actPart x a1 a2 a3 a4 a5).1 := by
  unfold State.actPart
  repeat' first
    | with_reducible exact h
    | exact covers_trans (by decide) g
    | with_reducible apply State.fetch_agree
    | with_reducible apply Agree.ite_fst
    | exact fun q => by simpa only [tkeys_tmap, tkeys_tmod] using q
    | intro _
    | split
    | (refine Agree.of_fst (by assumption) ?_)
    | dsimp only

theorem State.actParts_agree {M : List Comp} {s x : State} {a1 a2 a3 a4 a5} (g : Covers M [.flt, .st, .masts, .pmc] = true) (h : Agree M s x) :
    Agree M s (State.actParts x a1 a2 a3 a4 a5).1 := by
  induction a5 generalizing x  with
  | nil =>
    unfold State.actParts
    repeat' first
      | with_reducible exact h
  | cons b l ih =>
    unfold State.actParts
    repeat' first
      | with_reducible exact h
      | exact covers_trans (by decide) g
      | with_reducible apply ih
      | with_reducible apply State.actPart_agree
      | exact fun q => by simpa only [tkeys_tmap, tkeys_tmod] using q
      | split
      | (refine Agree.of_fst (by assumption) ?_)

theorem State.ktWalk_agree {M : List Comp} {s x : State} {a1 a2 a3 a4 a5 a6 a7 a8} (g : Covers M [.flt, .st, .masts, .pmc] = true) (h : Agree M s x) :
    Agree M s (State.ktWalk x a1 a2 a3 a4 a5 a6 a7 a8).1 := by
  induction a8 generalizing x  with
  | nil =>
    unfold State.ktWalk
    repeat' first
      | with_reducible exact h
  | cons b l ih =>
    unfold State.ktWalk
    repeat' first
      | with_reducible exact h
      | exact covers_trans (by decide) g
      | with_reducible apply ih
      | with_reducible apply State.weightTile_agree
      | with_reducible apply State.actParts_agree
      | exact fun q => by simpa only [tkeys_tmap, tkeys_tmod] using q
      | split
      | (refine Agree.of_fst (by assumption) ?_)

theorem State.startRow_agree {M : List Comp} {s x : State} {a1 a2 a3 a4 a5} (g : Covers M [.flt, .st, .masts, .pmc] = true) (h : Agree M s x) :
    Agree M s (State.startRow x a1 a2 a3 a4 a5).1 := by
  unfold State.startRow
  repeat' first
    | with_reducible exact h
    | exact covers_trans (by decide) g
    | with_reducible apply State.fetch_agree
    | with_reducible apply Agree.ite_fst
    | exact fun q => by simpa only [tkeys_tmap, tkeys_tmod] using q
    | intro _
    | split
    | (refine Agree.of_fst (by assumption) ?_)

theorem State.startRows_agree {M : List Comp} {s x : State} {a1 a2 a3 a4 a5} (g : Covers M [.flt, .st, .masts, .pmc] = true) (h : Agree M s x) :
    Agree M s (State.startRows x a1 a2 a3 a4 a5).1 := by
  induction a5 generalizing x  with
  | nil =>
    unfold State.startRows
    repeat' first
      | with_reducible exact h
  | cons b l ih =>
    unfold State.startRows
    repeat' first
      | with_reducible exact h
      | exact covers_trans (by decide) g
      | with_reducible apply ih
      | with_reducible apply State.startRow_agree
      | exact fun q => by simpa only [tkeys_tmap, tkeys_tmod] using q
      | split
      | (refine Agree.of_fst (by assumption) ?_)

theorem GrpRun.group_agree {M : List Comp} {s : State} {x : GrpRun} {a1 a2 a3 a4 a5 a6} (g : Covers M [.masts, .flt, .st, .pmc] = true) (h : Agree M s x.s) :
    Agree M s (GrpRun.group a1 a2 a3 a4 a5 x a6).1.s := by
  unfold GrpRun.group
  repeat' first
    | with_reducible exact h
    | exact covers_trans (by decide) g
    | with_reducible apply GrpRun.compute_agree
    | with_reducible apply State.ktWalk_agree
    | with_reducible apply State.startRows_agree
    | split
    | (refine Agree.of_fst (by assumption) ?_)
    | dsimp only

theorem GrpRun.column_agree {M : List Comp} {s : State} {x : GrpRun × List Piece} {a1 a2 a3 a4 a5} (g : Covers M [.masts, .flt, .st, .pmc, .free] = true) (h : Agree M s x.1.s) :
    Agree M s (GrpRun.column a1 a2 a3 a4 x a5).1.s := by
  unfold GrpRun.column
  have key : ∀ (l : List Nat) (y : GrpRun × List Piece), Agree M s y.1.s →
      Agree M s (l.foldl (fun (a : GrpRun × List Piece) grp => let w := a.1.group a1 a2 a3 a5 a4 grp; (w.1, a.2 ++ w.2)) y).1.s := by
    intro l
    induction l with
    | nil => exact fun y hy => hy
    | cons b l ih => exact fun y hy => ih _ (GrpRun.group_agree (covers_trans (by decide) g) hy)
  dsimp only
  split
  · split
    · exact h
    · exact GrpRun.beside_agree (covers_trans (by decide) g) h
  · exact key _ x h

theorem GrpRun.besideEntry_agree {M : List Comp} {s : State} {x : GrpRun} {a1 a2 a3} (g : Covers M [.masts, .flt, .st, .pmc, .free] = true) (h : Agree M s x.s) :
    Agree M s (GrpRun.besideEntry a1 x a2 a3).s := by
  unfold GrpRun.besideEntry
  have key : ∀ (e : GrpEntry) (l : List Nat) (y : GrpRun × List Piece), Agree M s y.1.s →
      Agree M s (l.foldl (GrpRun.column a1 e a3 []) y).1.s := by
    intro e l
    induction l with
    | nil => exact fun y hy => hy
    | cons b l ih => exact fun y hy => ih _ (GrpRun.column_agree (covers_trans (by decide) g) hy)
  repeat' first
    | with_reducible exact h
    | exact covers_trans (by decide) g
    | with_reducible apply key
    | with_reducible apply State.fetch_agree
    | split
    | (refine Agree.of_fst (by assumption) ?_)
    | dsimp only

theorem GrpRun.columns_agree {M : List Comp} {s : State} {x : GrpRun} {a1 a2 a3} (g : Covers M [.masts, .flt, .st, .pmc, .free] = true) (h : Agree M s x.s) :
    Agree M s (GrpRun.columns a1 a2 a3 x).s := by
  unfold GrpRun.columns
  have key : ∀ (l st : List Nat) (y : GrpRun × List Piece), Agree M s y.1.s →
      Agree M s (l.foldl (GrpRun.column a1 a2 a3 st) y).1.s := by
    intro l st
    induction l with
    | nil => exact fun y hy => hy
    | cons b l ih => exact fun y hy => ih _ (GrpRun.column_agree (covers_trans (by decide) g) hy)
  exact key _ _ (x, []) h

theorem GrpRun.entry_agree {M : List Comp} {s : State} {x : GrpRun} {a1 a2} (g : Covers M [.masts, .flt, .st, .pmc, .free] = true) (h : Agree M s x.s) :
    Agree M s (GrpRun.entry a1 x a2).s := by
  unfold GrpRun.entry
  repeat' first
    | with_reducible exact h
    | exact covers_trans (by decide) g
    | with_reducible apply GrpRun.columns_agree
    | with_reducible apply State.fetch_agree
    | with_reducible apply GrpRun.besideEntry_agree
    | split
    | (refine Agree.of_fst (by assumption) ?_)
    | dsimp only

theorem State.pickTiles_agree {M : List Comp} {s x : State} {a0 a1 a3} (g : Covers M [.masts, .free] = true) (h : Agree M s x) :
    Agree M s (State.pickTiles a0 a1 x a3).1 := by
  induction a1 generalizing x a3 with
  | nil =>
    unfold State.pickTiles
    repeat' first
      | with_reducible exact h
  | cons b l ih =>
    unfold State.pickTiles
    repeat' first
      | with_reducible exact h
      | exact covers_trans (by decide) g
      | with_reducible apply ih
      | with_reducible apply State.countM_agree
      | with_reducible apply State.ttErr_agree
      | with_reducible apply State.drawn_agree
      | with_reducible apply Agree.ite
      | with_reducible apply Agree.ite_fst
      | intro _

theorem GrpRun.settle_agree {M : List Comp} {s : State} {x : GrpRun} {a1} (g : Covers M [.masts, .free] = true) (h : Agree M s x.s) :
    Agree M s (GrpRun.settle a1 x).s := by
  unfold GrpRun.settle
  dsimp only
  split
  · exact h
  · exact State.modMast_agree (covers_trans (by decide) g) (State.pickTiles_agree (covers_trans (by decide) g) h) fun z => MastTo.same rfl rfl fun q => q

theorem GrpRun.walk_agree {M : List Comp} {s x : State} {a1} (g : Covers M [.masts, .flt, .st, .pmc, .free] = true) (h : Agree M s x) :
    Agree M s (GrpRun.walk a1 x).s := by
  unfold GrpRun.walk
  have key : ∀ (l : List Nat) (y : GrpRun), Agree M s y.s → Agree M s (l.foldl (GrpRun.entry a1) y).s := by
    intro l
    induction l with
    | nil => exact fun y hy => hy
    | cons b l ih => exact fun y hy => ih _ (GrpRun.entry_agree (covers_trans (by decide) g) hy)
  exact GrpRun.settle_agree (covers_trans (by decide) g) (key _ (GrpRun.start x) h)

theorem State.callFails_agree {M : List Comp} {s x : State} {a1 a2} (g : Covers M [.pwr, .flt, .hif, .st, .masts, .ctxs, .reqs, .sess, .srvErr, .exports, .hal, .nlc, .col, .pmc, .out, .cells] = true) (h : Agree M s x) :
    Agree M s (State.callFails x a1 a2) := by
  unfold State.callFails
  repeat' first
    | with_reducible exact h
    | exact covers_trans (by decide) g
    | with_reducible apply State.contained_agree
    | with_reducible apply State.raise_agree
    | with_reducible apply State.spadRange_agree
    | with_reducible apply State.meErr_agree
    | with_reducible apply Agree.ite
    | with_reducible apply Agree.foldl
    | intro _

theorem State.engineError_agree {M : List Comp} {s : State} {x} {a0 a2} (g : Covers M [.pwr, .flt, .hif, .st, .masts, .ctxs, .reqs, .sess, .srvErr, .exports, .hal, .nlc, .col, .pmc, .out, .cells] = true) (h : Agree M s x.1) :
    Agree M s (State.engineError a0 x a2).1 := by
  unfold State.engineError
  repeat' first
    | with_reducible exact h
    | exact covers_trans (by decide) g
    | with_reducible apply State.contained_agree
    | with_reducible apply State.raise_agree
    | with_reducible apply State.fence_agree
    | with_reducible apply State.meErr_agree
    | with_reducible apply Agree.ite_fst
    | exact fun q => by simpa only [tkeys_tmap, tkeys_tmod] using q
    | intro _
    | split

theorem State.writePieces_agree {M : List Comp} {s x : State} {a1 a2} (g : Covers M [.flt, .st, .masts, .pmc, .cells] = true) (h : Agree M s x) :
    Agree M s (State.writePieces x a1 a2).1 := by
  induction a2 generalizing x  with
  | nil =>
    unfold State.writePieces
    repeat' first
      | with_reducible exact h
  | cons b l ih =>
    unfold State.writePieces
    repeat' first
      | with_reducible exact h
      | exact covers_trans (by decide) g
      | with_reducible apply ih
      | with_reducible apply State.writeAt_agree
      | exact fun q => by simpa only [tkeys_tmap, tkeys_tmod] using q
      | split
      | (refine Agree.of_fst (by assumption) ?_)

theorem State.settleLine_agree {M : List Comp} {s x : State} {a1 a2 a3} (g : Covers M [.flt, .st, .masts, .pmc, .free, .cells] = true) (h : Agree M s x) :
    Agree M s (State.settleLine x a1 a2 a3).1 := by
  unfold State.settleLine
  repeat' first
    | with_reducible exact h
    | exact covers_trans (by decide) g
    | with_reducible apply State.writePieces_agree
    | with_reducible apply State.drawn_agree

theorem State.writeOutputs_agree {M : List Comp} {s x : State} {a1 a2 a3} (g : Covers M [.flt, .st, .masts, .pmc, .free, .cells] = true) (h : Agree M s x) :
    Agree M s (State.writeOutputs x a1 a2 a3).1 := by
  unfold State.writeOutputs
  repeat' first
    | with_reducible exact h
    | exact covers_trans (by decide) g
    | with_reducible assumption
    | with_reducible apply State.writePieces_agree
    | with_reducible apply State.settleLine_agree
    | with_reducible apply Agree.foldl_fst
    | exact fun q => by simpa only [tkeys_tmap, tkeys_tmod] using q
    | intro _
    | split

theorem State.holdEngines_agree {M : List Comp} {s x : State} {a1} (g : Covers M [.masts, .free] = true) (h : Agree M s x) :
    Agree M s (State.holdEngines x a1) := by
  unfold State.holdEngines
  repeat' first
    | with_reducible exact h
    | exact covers_trans (by decide) g
    | with_reducible apply State.modMast_agree
    | with_reducible apply State.drawnN_agree
    | exact fun z => MastTo.same rfl rfl fun q => q

theorem State.groupsRan_agree {M : List Comp} {s : State} {x : GrpRun} {a0} (g : Covers M [.pwr, .flt, .hif, .st, .masts, .ctxs, .reqs, .sess, .srvErr, .exports, .hal, .nlc, .col, .pmc, .out, .free, .cells] = true) (h : Agree M s x.s) :
    Agree M s (State.groupsRan a0 x) := by
  unfold State.groupsRan
  dsimp only
  split
  · exact State.callFails_agree (covers_trans (by decide) g) (State.writeOutputs_agree (covers_trans (by decide) g) h)
  · exact State.callFails_agree (covers_trans (by decide) g) (State.writeOutputs_agree (covers_trans (by decide) g) h)
  · exact State.holdEngines_agree (covers_trans (by decide) g) (State.writeOutputs_agree (covers_trans (by decide) g) h)

theorem State.runGrouped_agree {M : List Comp} {s x : State} {a1 a2} (g : Covers M [.pwr, .flt, .hif, .st, .masts, .ctxs, .reqs, .sess, .srvErr, .exports, .hal, .nlc, .col, .pmc, .out, .cells, .free] = true) (h : Agree M s x) :
    Agree M s (State.runGrouped x a1 a2) := by
  unfold State.runGrouped
  have k : Agree M s (a2.foldl (State.engineError a1) (x, true)).1 :=
    Agree.foldl_fst h fun y a hy => State.engineError_agree (covers_trans (by decide) g) hy
  exact Agree.ite (fun _ => k) fun _ => State.groupsRan_agree (covers_trans (by decide) g) (GrpRun.walk_agree (covers_trans (by decide) g) k)

theorem State.groupedDesc_agree {M : List Comp} {s x : State} {a1 a2 a3 a4 a5} (g : Covers M [.pwr, .flt, .hif, .st, .masts, .ctxs, .reqs, .sess, .srvErr, .exports, .hal, .nlc, .col, .pmc, .out, .cells, .free] = true) (h : Agree M s x) :
    Agree M s (State.groupedDesc x a1 a2 a3 a4 a5) := by
  unfold State.groupedDesc
  repeat' first
    | with_reducible exact h
    | exact covers_trans (by decide) g
    | with_reducible apply State.contained_agree
    | with_reducible apply State.meErr_agree
    | with_reducible apply State.runGrouped_agree
    | with_reducible apply Agree.ite
    | exact fun q => by simpa only [tkeys_tmap, tkeys_tmod] using q
    | intro _
    | split
    | dsimp only

theorem State.checkRoot_agree {M : List Comp} {s x : State} {a1} (g : Covers M [.pwr, .flt, .hif, .st, .masts, .ctxs, .reqs, .sess, .srvErr, .exports, .hal, .nlc, .col, .pmc, .out, .cells] = true) (h : Agree M s x) :
    Agree M s (State.checkRoot x a1) := by
  unfold State.checkRoot
  repeat' first
    | with_reducible exact h
    | exact covers_trans (by decide) g
    | with_reducible apply State.modShard_agree
    | with_reducible apply State.quarantine_agree
    | with_reducible apply Agree.ite
    | exact fun q => by simpa only [tkeys_tmap, tkeys_tmod] using q
    | intro _
    | split

theorem State.readShard_agree {M : List Comp} {s x : State} {a1 a2 a3 a4} (g : Covers M [.flt, .st, .masts, .pmc] = true) (h : Agree M s x) :
    Agree M s (State.readShard x a1 a2 a3 a4).1 := by
  unfold State.readShard
  repeat' first
    | with_reducible exact h
    | exact covers_trans (by decide) g
    | with_reducible apply State.readDram_agree
    | with_reducible apply Agree.foldl_fst
    | intro _

theorem State.hashChunk_agree {M : List Comp} {s x : State} {a1 a2 a3} (g : Covers M [.pwr, .flt, .hif, .st, .masts, .ctxs, .reqs, .sess, .srvErr, .exports, .hal, .nlc, .col, .pmc, .out, .cells] = true) (h : Agree M s x) :
    Agree M s (State.hashChunk x a1 a2 a3) := by
  unfold State.hashChunk
  repeat' first
    | with_reducible exact h
    | exact covers_trans (by decide) g
    | with_reducible apply State.modShard_agree
    | with_reducible apply State.readShard_agree
    | with_reducible apply State.quarantine_agree
    | exact fun q => by simpa only [tkeys_tmap, tkeys_tmod] using q
    | split
    | dsimp only

theorem State.chunkHashed_agree {M : List Comp} {s x : State} {a1} (g : Covers M [.pwr, .flt, .hif, .st, .masts, .ctxs, .reqs, .sess, .srvErr, .exports, .hal, .nlc, .col, .pmc, .out, .cells] = true) (h : Agree M s x) :
    Agree M s (State.chunkHashed x a1) := by
  unfold State.chunkHashed
  repeat' first
    | with_reducible exact h
    | exact covers_trans (by decide) g
    | with_reducible apply State.hashChunk_agree
    | with_reducible apply State.checkRoot_agree
    | with_reducible apply Agree.ite
    | exact fun q => by simpa only [tkeys_tmap, tkeys_tmod] using q
    | intro _
    | split

theorem State.slSigned_agree {M : List Comp} {s x : State} {a1 a2} (g : Covers M [.flt, .st, .masts, .pmc] = true) (h : Agree M s x) :
    Agree M s (State.slSigned x a1 a2).1 := by
  unfold State.slSigned
  repeat' first
    | with_reducible exact h
    | exact covers_trans (by decide) g
    | with_reducible apply State.readDram_agree
    | with_reducible apply State.hostPoison_agree
    | exact fun q => by simpa only [tkeys_tmap, tkeys_tmod] using q
    | split
    | dsimp only

theorem shardLoadAct_agree {M : List Comp} {s x : State} {a0} (g : Covers M [.flt, .btb, .st, .masts, .hal, .pmc] = true) (h : Agree M s x) :
    Agree M s (shardLoadAct a0 x).1 := by
  unfold shardLoadAct
  repeat' first
    | with_reducible exact h
    | exact covers_trans (by decide) g
    | with_reducible apply State.slSigned_agree
    | with_reducible apply State.owe_agree
    | with_reducible apply guardAct_agree
    | with_reducible apply Agree.ite_fst
    | exact fun q => by simpa only [tkeys_tmap, tkeys_tmod] using q
    | exact Nat.le_refl _
    | intro _
    | dsimp only
    | with_reducible apply Agree.upd_btb
    | with_reducible apply Agree.upd_hal

theorem State.startIngest_agree {M : List Comp} {s x : State} {a1} (g : Covers M [.pwr, .flt, .hif, .st, .masts, .ctxs, .reqs, .sess, .srvErr, .exports, .hal, .nlc, .col, .pmc, .out, .cells] = true) (h : Agree M s x) :
    Agree M s (State.startIngest x a1) := by
  unfold State.startIngest
  repeat' first
    | with_reducible exact h
    | exact covers_trans (by decide) g
    | with_reducible assumption
    | with_reducible apply State.issue_agree
    | with_reducible apply State.quarantine_agree
    | with_reducible apply Agree.ite
    | with_reducible apply Agree.foldl
    | exact fun q => by simpa only [tkeys_tmap, tkeys_tmod] using q
    | intro _
    | split

theorem shardLoadCmd_agree {M : List Comp} {s : State} (g : Covers M [.hif, .st, .out, .flt, .btb, .masts, .hal, .pmc, .pwr, .ctxs, .reqs, .sess, .srvErr, .exports, .nlc, .col, .cells] = true) : Cmd.Kept M s shardLoadCmd := by
  exact ⟨fun _ _ h => shardLoadAct_agree (covers_trans (by decide) g) h, fun _ _ _ h => Agree.ite (fun _ => State.startIngest_agree (covers_trans (by decide) g) h) fun _ => h⟩

theorem shardDropAct_agree {M : List Comp} {s x : State} {a0} (g : Covers M [.flt, .hif, .st, .hal, .nlc, .out] = true) (h : Agree M s x) :
    Agree M s (shardDropAct a0 x).1 := by
  unfold shardDropAct
  repeat' first
    | with_reducible exact h
    | exact covers_trans (by decide) g
    | with_reducible apply State.removeShard_agree
    | with_reducible apply guardAct_agree

theorem shardDropCmd_agree {M : List Comp} {s : State} (g : Covers M [.hif, .st, .out, .flt, .hal, .nlc] = true) : Cmd.Kept M s shardDropCmd := by
  exact ⟨fun _ _ h => shardDropAct_agree (covers_trans (by decide) g) h, fun _ _ _ h => h⟩

theorem shardQueryAct_agree {M : List Comp} {s x : State} {a0} (g : Covers M [] = true) (h : Agree M s x) :
    Agree M s (shardQueryAct a0 x).1 := by
  unfold shardQueryAct
  repeat' first
    | with_reducible exact h
    | exact covers_trans (by decide) g
    | with_reducible apply guardAct_agree

theorem shardQueryCmd_agree {M : List Comp} {s : State} (g : Covers M [.hif, .st, .out] = true) : Cmd.Kept M s shardQueryCmd := by
  exact ⟨fun _ _ h => shardQueryAct_agree (covers_trans (by decide) g) h, fun _ _ _ h => h⟩

theorem State.hashRest_agree {M : List Comp} {s x : State} {a1 a2} (g : Covers M [.pwr, .flt, .hif, .st, .masts, .ctxs, .reqs, .sess, .srvErr, .exports, .hal, .nlc, .col, .pmc, .out, .cells] = true) (h : Agree M s x) :
    Agree M s (State.hashRest x a1 a2) := by
  induction a2 generalizing x  with
  | zero =>
    unfold State.hashRest
    repeat' first
      | with_reducible exact h
  | succ n ih =>
    unfold State.hashRest
    repeat' first
      | with_reducible exact h
      | exact covers_trans (by decide) g
      | with_reducible apply ih
      | with_reducible apply State.hashChunk_agree
      | with_reducible apply Agree.ite
      | exact fun q => by simpa only [tkeys_tmap, tkeys_tmod] using q
      | intro _
      | split

theorem State.recheckVerdict_agree {M : List Comp} {s x : State} {a1} (g : Covers M [.pwr, .flt, .hif, .st, .masts, .ctxs, .reqs, .sess, .srvErr, .exports, .hal, .nlc, .col, .pmc, .out, .cells] = true) (h : Agree M s x) :
    Agree M s (State.recheckVerdict x a1) := by
  unfold State.recheckVerdict
  repeat' first
    | with_reducible exact h
    | exact covers_trans (by decide) g
    | with_reducible apply State.endMaint_agree
    | with_reducible apply State.modShard_agree
    | with_reducible apply State.quarantine_agree
    | with_reducible apply Agree.ite
    | exact fun q => by simpa only [tkeys_tmap, tkeys_tmod] using q
    | intro _
    | split

theorem State.recheckEnd_agree {M : List Comp} {s x : State} (g : Covers M [.pwr, .flt, .hif, .st, .masts, .ctxs, .reqs, .sess, .srvErr, .exports, .hal, .nlc, .col, .pmc, .out, .cells] = true) (h : Agree M s x) :
    Agree M s (State.recheckEnd x) := by
  unfold State.recheckEnd
  split
  · exact h
  · refine Agree.ite (fun _ => h) fun _ => ?_
    split
    · exact State.endMaint_agree (covers_trans (by decide) g) h
    · exact State.recheckVerdict_agree (covers_trans (by decide) g) (State.hashRest_agree (covers_trans (by decide) g) h)

theorem State.scanEntry_agree {M : List Comp} {s x : State} {a1 a2} (g : Covers M [.flt, .st, .masts, .pmc] = true) (h : Agree M s x) :
    Agree M s (State.scanEntry x a1 a2).1 := by
  unfold State.scanEntry
  repeat' first
    | with_reducible exact h
    | exact covers_trans (by decide) g
    | with_reducible apply State.readShard_agree
    | with_reducible apply Agree.ite_fst
    | exact fun q => by simpa only [tkeys_tmap, tkeys_tmod] using q
    | intro _
    | split
    | dsimp only

theorem State.scanDir_agree {M : List Comp} {s x : State} {a1 a2} (g : Covers M [.flt, .st, .masts, .pmc] = true) (h : Agree M s x) :
    Agree M s (State.scanDir x a1 a2).1 := by
  induction a2 generalizing x  with
  | nil =>
    unfold State.scanDir
    repeat' first
      | with_reducible exact h
  | cons b l ih =>
    unfold State.scanDir
    repeat' first
      | with_reducible exact h
      | exact covers_trans (by decide) g
      | with_reducible apply ih
      | with_reducible apply State.scanEntry_agree
      | exact fun q => by simpa only [tkeys_tmap, tkeys_tmod] using q
      | split
      | (refine Agree.of_fst (by assumption) ?_)

theorem State.scanEnd_agree {M : List Comp} {s x : State} {a1} (g : Covers M [.pwr, .flt, .hif, .st, .masts, .ctxs, .reqs, .sess, .srvErr, .exports, .nextExp, .hal, .nlc, .col, .pmc, .out, .cells] = true) (h : Agree M s x) :
    Agree M s (State.scanEnd x a1) := by
  unfold State.scanEnd
  repeat' first
    | with_reducible exact h
    | exact covers_trans (by decide) g
    | with_reducible apply State.complete_agree
    | with_reducible apply State.modShard_agree
    | with_reducible apply State.idle_agree
    | with_reducible apply State.scanDir_agree
    | with_reducible apply State.quarantine_agree
    | with_reducible apply Agree.ite
    | exact fun q => by simpa only [tkeys_tmap, tkeys_tmod] using q
    | intro _
    | split
    | (refine Agree.of_fst (by assumption) ?_)

theorem progLoadAct_agree {M : List Comp} {s x : State} {a0} (g : Covers M [.st] = true) (h : Agree M s x) :
    Agree M s (progLoadAct a0 x).1 := by
  unfold progLoadAct
  repeat' first
    | with_reducible exact h
    | exact covers_trans (by decide) g
    | with_reducible apply State.owe_agree
    | with_reducible apply guardAct_agree

theorem progLoadCmd_agree {M : List Comp} {s : State} (g : Covers M [.hif, .st, .out] = true) : Cmd.Kept M s progLoadCmd := by
  exact ⟨fun _ _ h => progLoadAct_agree (covers_trans (by decide) g) h, fun _ _ _ h => h⟩

theorem progQueryAct_agree {M : List Comp} {s x : State} {a0} (g : Covers M [] = true) (h : Agree M s x) :
    Agree M s (progQueryAct a0 x).1 := by
  unfold progQueryAct
  repeat' first
    | with_reducible exact h
    | exact covers_trans (by decide) g
    | with_reducible apply guardAct_agree

theorem progQueryCmd_agree {M : List Comp} {s : State} (g : Covers M [.hif, .st, .out] = true) : Cmd.Kept M s progQueryCmd := by
  exact ⟨fun _ _ h => progQueryAct_agree (covers_trans (by decide) g) h, fun _ _ _ h => h⟩

theorem State.progTake_agree {M : List Comp} {s x : State} {a1 a2 a3 a4} (g : Covers M [.pwr, .flt, .hif, .st, .masts, .ctxs, .reqs, .sess, .srvErr, .exports, .nextExp, .hal, .nlc, .col, .pmc, .out, .cells] = true) (h : Agree M s x) :
    Agree M s (State.progTake x a1 a2 a3 a4) := by
  unfold State.progTake
  repeat' first
    | with_reducible exact h
    | exact covers_trans (by decide) g
    | with_reducible apply State.completeOf_agree
    | with_reducible apply State.idle_agree
    | with_reducible apply State.modCtx_agree
    | exact fun q => by simpa only [tkeys_tmap, tkeys_tmod] using q
    | split

theorem State.progRead_agree {M : List Comp} {s : State} {a0 a1 a2 a3} {x : State × Bytes × Option (Nat × Nat)} (g : Covers M [.pwr, .flt, .hif, .st, .masts, .ctxs, .reqs, .sess, .srvErr, .exports, .nextExp, .hal, .nlc, .col, .pmc, .out, .cells] = true) (h : Agree M s x.1) :
    Agree M s (State.progRead a0 a1 a2 a3 x) := by
  unfold State.progRead
  split
  · exact State.progTake_agree (covers_trans (by decide) g) h
  · exact State.completeOf_agree (covers_trans (by decide) g) (Agree.ite (fun _ => State.hostPoison_agree (covers_trans (by decide) g) h) fun _ =>
      State.ioFail_agree (covers_trans (by decide) g) h)

theorem State.progChecked_agree {M : List Comp} {s x : State} {a1} (g : Covers M [.pwr, .flt, .hif, .st, .masts, .ctxs, .reqs, .sess, .srvErr, .exports, .nextExp, .hal, .nlc, .col, .pmc, .out, .cells] = true) (h : Agree M s x) :
    Agree M s (State.progChecked x a1) := by
  unfold State.progChecked
  split
  · exact h
  · exact Agree.ite (fun _ => State.completeOf_agree (covers_trans (by decide) g) h) fun _ => Agree.ite (fun _ => h) fun _ =>
      State.progRead_agree (covers_trans (by decide) g) (State.readAt_agree (covers_trans (by decide) g) h)

theorem State.modBtb_agree {M : List Comp} {s x : State} {f : Trust → Trust} (g : Covers M [.btb] = true) (h : Agree M s x)
    (k : x.btb.fusedSvn ≤ (f x.btb).fusedSvn) : Agree M s (State.modBtb x f) := by
  exact Agree.upd_btb g h k

theorem State.acceptKey_agree {M : List Comp} {s x : State} {a1 a2} (g : Covers M [.pwr, .flt, .btb, .hif, .st, .masts, .ctxs, .reqs, .sess, .srvErr, .exports, .hal, .nlc, .col, .pmc, .out, .cells] = true) (h : Agree M s x) :
    Agree M s (State.acceptKey x a1 a2) := by
  unfold State.acceptKey
  repeat' first
    | with_reducible exact h
    | exact covers_trans (by decide) g
    | with_reducible apply State.modBtb_agree
    | with_reducible apply State.installKey_agree
    | with_reducible apply State.checkPort_agree
    | exact fun q => by simpa only [tkeys_tmap, tkeys_tmod] using q
    | exact Nat.le_refl _

theorem State.captureReport_agree {M : List Comp} {s x : State} {a1 a2} (g : Covers M [.btb] = true) (h : Agree M s x) :
    Agree M s (State.captureReport x a1 a2) := by
  unfold State.captureReport
  repeat' first
    | with_reducible exact h
    | exact covers_trans (by decide) g
    | with_reducible apply State.modBtb_agree
    | exact fun q => by simpa only [tkeys_tmap, tkeys_tmod] using q
    | exact Nat.le_refl _

theorem State.completeOldest_agree {M : List Comp} {s x : State} {a1 a2} (g : Covers M [.hif, .st, .out] = true) (h : Agree M s x) :
    Agree M s (State.completeOldest x a1 a2) := by
  unfold State.completeOldest
  repeat' first
    | with_reducible exact h
    | exact covers_trans (by decide) g
    | with_reducible apply State.queueAnswers_agree
    | exact fun _ _ q => q
    | exact fun q => by simpa only [tkeys_tmap, tkeys_tmod] using q
    | split
    | dsimp only
    | with_reducible apply Agree.upd_st

theorem attestAct_agree {M : List Comp} {s x : State} {a0} (g : Covers M [.btb, .st] = true) (h : Agree M s x) :
    Agree M s (attestAct a0 x).1 := by
  unfold attestAct
  repeat' first
    | with_reducible exact h
    | exact covers_trans (by decide) g
    | with_reducible apply State.captureReport_agree
    | with_reducible apply State.owe_agree
    | with_reducible apply guardAct_agree

theorem attestCmd_agree {M : List Comp} {s : State} (g : Covers M [.hif, .st, .out, .btb] = true) : Cmd.Kept M s attestCmd := by
  exact ⟨fun _ _ h => attestAct_agree (covers_trans (by decide) g) h, fun _ _ _ h => h⟩

theorem certReadAct_agree {M : List Comp} {s x : State} {a0} (g : Covers M [] = true) (h : Agree M s x) :
    Agree M s (certReadAct a0 x).1 := by
  unfold certReadAct
  repeat' first
    | with_reducible exact h
    | exact covers_trans (by decide) g
    | with_reducible apply guardAct_agree

theorem certReadCmd_agree {M : List Comp} {s : State} (g : Covers M [.hif, .st, .out] = true) : Cmd.Kept M s certReadCmd := by
  exact ⟨fun _ _ h => certReadAct_agree (covers_trans (by decide) g) h, fun _ _ _ h => h⟩

theorem linkKeyAct_agree {M : List Comp} {s x : State} {a0} (g : Covers M [.pwr, .flt, .btb, .hif, .st, .masts, .ctxs, .reqs, .sess, .srvErr, .exports, .hal, .nlc, .col, .pmc, .out, .cells] = true) (h : Agree M s x) :
    Agree M s (linkKeyAct a0 x).1 := by
  unfold linkKeyAct
  repeat' first
    | with_reducible exact h
    | exact covers_trans (by decide) g
    | with_reducible apply State.modBtb_agree
    | with_reducible apply State.acceptKey_agree
    | with_reducible apply Agree.ite_fst
    | exact fun q => by simpa only [tkeys_tmap, tkeys_tmod] using q
    | exact Nat.le_refl _
    | intro _
    | split
    | dsimp only

theorem linkKeyCmd_agree {M : List Comp} {s : State} (g : Covers M [.hif, .st, .out, .pwr, .flt, .btb, .masts, .ctxs, .reqs, .sess, .srvErr, .exports, .hal, .nlc, .col, .pmc, .cells] = true) : Cmd.Kept M s linkKeyCmd := by
  exact ⟨fun _ _ h => linkKeyAct_agree (covers_trans (by decide) g) h, fun _ _ _ h => h⟩

theorem State.startCommit_agree {M : List Comp} {s x : State} {a1} (g : Covers M [.btb] = true) (h : Agree M s x) :
    Agree M s (State.startCommit x a1) := by
  unfold State.startCommit
  repeat' first
    | with_reducible exact h
    | exact covers_trans (by decide) g
    | with_reducible apply State.modBtb_agree
    | exact fun q => by simpa only [tkeys_tmap, tkeys_tmod] using q
    | exact Nat.le_refl _

theorem svnCommitAct_agree {M : List Comp} {s x : State} {a0} (g : Covers M [.btb, .st] = true) (h : Agree M s x) :
    Agree M s (svnCommitAct a0 x).1 := by
  unfold svnCommitAct
  repeat' first
    | with_reducible exact h
    | exact covers_trans (by decide) g
    | with_reducible apply State.modBtb_agree
    | with_reducible apply State.startCommit_agree
    | with_reducible apply State.owe_agree
    | with_reducible apply Agree.ite_fst
    | exact fun q => by simpa only [tkeys_tmap, tkeys_tmod] using q
    | exact Nat.le_refl _
    | intro _
    | split

theorem svnCommitAfter_agree {M : List Comp} {s x : State} {a0 a1} (g : Covers M [.hif, .st, .out] = true) (h : Agree M s x) :
    Agree M s (svnCommitAfter a0 a1 x) := by
  unfold svnCommitAfter
  repeat' first
    | with_reducible exact h
    | exact covers_trans (by decide) g
    | with_reducible apply State.complete_agree
    | with_reducible apply Agree.ite
    | intro _

theorem svnCommitCmd_agree {M : List Comp} {s : State} (g : Covers M [.hif, .st, .out, .btb] = true) : Cmd.Kept M s svnCommitCmd := by
  exact ⟨fun _ _ h => svnCommitAct_agree (covers_trans (by decide) g) h, fun r a x h => svnCommitAfter_agree (a0 := r) (a1 := a) (x := x) (covers_trans (by decide) g) h⟩

theorem State.fuseDone_agree {M : List Comp} {s x : State} (g : Covers M [.btb, .hif, .st, .out] = true) (h : Agree M s x) :
    Agree M s (State.fuseDone x) := by
  unfold State.fuseDone
  dsimp only
  refine Agree.ite (fun _ => ?_) fun _ => State.complete_agree (covers_trans (by decide) g) ?_
  all_goals exact State.modBtb_agree (covers_trans (by decide) g) h (Nat.le_succ _)

theorem State.reportDone_agree {M : List Comp} {s x : State} (g : Covers M [.btb, .hif, .st, .out, .free] = true) (h : Agree M s x) :
    Agree M s (State.reportDone x) := by
  unfold State.reportDone
  repeat' first
    | with_reducible exact h
    | exact covers_trans (by decide) g
    | with_reducible apply State.modBtb_agree
    | with_reducible apply State.completeOldest_agree
    | with_reducible apply State.drawn_agree
    | with_reducible apply State.emit_agree
    | with_reducible apply Agree.ite
    | exact fun q => by simpa only [tkeys_tmap, tkeys_tmod] using q
    | exact Nat.le_refl _
    | intro _
    | split

theorem State.startRetrain_agree {M : List Comp} {s x : State} {a1} (g : Covers M [.pwr, .flt, .hif, .st, .masts, .ctxs, .reqs, .sess, .srvErr, .exports, .hal, .nlc, .col, .pmc, .out, .cells] = true) (h : Agree M s x) :
    Agree M s (State.startRetrain x a1) := by
  unfold State.startRetrain
  repeat' first
    | with_reducible exact h
    | exact covers_trans (by decide) g
    | with_reducible apply State.portRetrain_agree
    | with_reducible apply State.startTraining_agree
    | with_reducible apply Agree.ite
    | intro _

theorem maintStartAct_agree {M : List Comp} {s x : State} {a0} (g : Covers M [.pwr, .flt, .hif, .st, .masts, .ctxs, .reqs, .sess, .srvErr, .exports, .hal, .nlc, .col, .pmc, .out, .cells] = true) (h : Agree M s x) :
    Agree M s (maintStartAct a0 x).1 := by
  unfold maintStartAct
  repeat' first
    | with_reducible exact h
    | exact covers_trans (by decide) g
    | with_reducible apply State.owe_agree
    | with_reducible apply State.startRetrain_agree
    | with_reducible apply State.holdClass_agree
    | with_reducible apply Agree.ite
    | exact fun q => by simpa only [tkeys_tmap, tkeys_tmod] using q
    | intro _
    | split
    | dsimp only
    | with_reducible apply Agree.upd_flt

theorem maintStartCmd_agree {M : List Comp} {s : State} (g : Covers M [.hif, .st, .out, .pwr, .flt, .masts, .ctxs, .reqs, .sess, .srvErr, .exports, .hal, .nlc, .col, .pmc, .cells] = true) : Cmd.Kept M s maintStartCmd := by
  exact ⟨fun _ _ h => maintStartAct_agree (covers_trans (by decide) g) h, fun _ _ _ h => h⟩

theorem maintQueryAct_agree {M : List Comp} {s x : State} {a0} (g : Covers M [] = true) (h : Agree M s x) :
    Agree M s (maintQueryAct a0 x).1 := by
  unfold maintQueryAct
  repeat' first
    | with_reducible exact h
    | exact covers_trans (by decide) g
    | with_reducible apply guardAct_agree

theorem maintQueryCmd_agree {M : List Comp} {s : State} (g : Covers M [.hif, .st, .out] = true) : Cmd.Kept M s maintQueryCmd := by
  exact ⟨fun _ _ h => maintQueryAct_agree (covers_trans (by decide) g) h, fun _ _ _ h => h⟩

theorem logReadAct_agree {M : List Comp} {s x : State} {a0} (g : Covers M [] = true) (h : Agree M s x) :
    Agree M s (logReadAct a0 x).1 := by
  unfold logReadAct
  repeat' first
    | with_reducible exact h
    | exact covers_trans (by decide) g
    | with_reducible apply guardAct_agree

theorem logReadCmd_agree {M : List Comp} {s : State} (g : Covers M [.hif, .st, .out] = true) : Cmd.Kept M s logReadCmd := by
  exact ⟨fun _ _ h => logReadAct_agree (covers_trans (by decide) g) h, fun _ _ _ h => h⟩

theorem State.refreshEnd_agree {M : List Comp} {s x : State} (g : Covers M [.flt, .hif, .st, .masts, .hal, .out] = true) (h : Agree M s x) :
    Agree M s (State.refreshEnd x) := by
  unfold State.refreshEnd
  repeat' first
    | with_reducible exact h
    | exact covers_trans (by decide) g
    | with_reducible apply State.mapMasts_agree
    | with_reducible apply State.endMaint_agree
    | with_reducible apply Agree.ite
    | exact fun q => by simpa only [tkeys_tmap, tkeys_tmod] using q
    | exact fun _ z => MastTo.same rfl rfl fun q => q
    | intro _
    | split

theorem State.scrubEnd_agree {M : List Comp} {s x : State} {a1} (g : Covers M [.cn, .pwr, .flt, .hif, .st, .masts, .ctxs, .reqs, .sess, .srvErr, .exports, .hal, .nlc, .col, .pmc, .out, .cells] = true) (h : Agree M s x) :
    Agree M s (State.scrubEnd x a1) := by
  unfold State.scrubEnd
  repeat' first
    | with_reducible exact h
    | exact covers_trans (by decide) g
    | with_reducible apply State.endMaint_agree
    | with_reducible apply State.strikeAll_agree
    | with_reducible apply State.sweep_agree
    | with_reducible apply Agree.ite
    | exact fun q => by simpa only [tkeys_tmap, tkeys_tmod] using q
    | intro _
    | split

theorem allCmds_agree {M : List Comp} {s : State} (g : Covers M [.hif, .st, .out, .flt, .pmc, .cn, .pwr, .btb, .masts, .ctxs, .reqs, .sess, .srvSel, .srvErr, .exports, .nextExp, .hal, .nlc, .col, .free, .zeroing, .cells] = true) : ∀ k ∈ allCmds, Cmd.Kept M s k := by
  simp only [allCmds, List.cons_append, List.nil_append, List.forall_mem_cons]
  exact ⟨helloCmd_agree (covers_trans (by decide) g), devConfigCmd_agree (covers_trans (by decide) g), markCmd_agree (covers_trans (by decide) g), echoCmd_agree (covers_trans (by decide) g), regReadCmd_agree (covers_trans (by decide) g), regWriteCmd_agree (covers_trans (by decide) g), ctxCreateCmd_agree (covers_trans (by decide) g), ctxUnfurlCmd_agree (covers_trans (by decide) g), ctxFurlCmd_agree (covers_trans (by decide) g), ctxDestroyCmd_agree (covers_trans (by decide) g), ctxQueryCmd_agree (covers_trans (by decide) g), ctxPriorityCmd_agree (covers_trans (by decide) g), memGrantCmd_agree (covers_trans (by decide) g), memReleaseCmd_agree (covers_trans (by decide) g), memWriteCmd_agree (covers_trans (by decide) g), memReadCmd_agree (covers_trans (by decide) g), shardLoadCmd_agree (covers_trans (by decide) g), shardDropCmd_agree (covers_trans (by decide) g), shardQueryCmd_agree (covers_trans (by decide) g), progLoadCmd_agree (covers_trans (by decide) g), progQueryCmd_agree (covers_trans (by decide) g), reqSubmitCmd_agree (covers_trans (by decide) g), reqCancelCmd_agree (covers_trans (by decide) g), reqParkCmd_agree (covers_trans (by decide) g), reqResumeCmd_agree (covers_trans (by decide) g), reqReleaseCmd_agree (covers_trans (by decide) g), sessionOpenCmd_agree (covers_trans (by decide) g), sessionCloseCmd_agree (covers_trans (by decide) g), sessionShareCmd_agree (covers_trans (by decide) g), sessionTruncateCmd_agree (covers_trans (by decide) g), sessionGlobalsCmd_agree (covers_trans (by decide) g), sessionQueryCmd_agree (covers_trans (by decide) g), kvExportCmd_agree (covers_trans (by decide) g), mirrorSetCmd_agree (covers_trans (by decide) g), mirrorPromoteCmd_agree (covers_trans (by decide) g), serveConfigCmd_agree (covers_trans (by decide) g), linkTrainCmd_agree (covers_trans (by decide) g), linkStopCmd_agree (covers_trans (by decide) g), planLoadCmd_agree (covers_trans (by decide) g), partitionSetCmd_agree (covers_trans (by decide) g), windowMapCmd_agree (covers_trans (by decide) g), groupLoadCmd_agree (covers_trans (by decide) g), groupUnloadCmd_agree (covers_trans (by decide) g), capSetCmd_agree (covers_trans (by decide) g), powerHintCmd_agree (covers_trans (by decide) g), reefLimitCmd_agree (covers_trans (by decide) g), coolResumeCmd_agree (covers_trans (by decide) g), ctrReadCmd_agree (covers_trans (by decide) g), ctrProgramCmd_agree (covers_trans (by decide) g), ctrGrantCmd_agree (covers_trans (by decide) g), telemetryCmd_agree (covers_trans (by decide) g), attestCmd_agree (covers_trans (by decide) g), certReadCmd_agree (covers_trans (by decide) g), linkKeyCmd_agree (covers_trans (by decide) g), svnCommitCmd_agree (covers_trans (by decide) g), maintStartCmd_agree (covers_trans (by decide) g), maintQueryCmd_agree (covers_trans (by decide) g), logReadCmd_agree (covers_trans (by decide) g), fun _ h => absurd h List.not_mem_nil⟩

theorem State.examineOp_agree {M : List Comp} {s x : State} {a1 a2} (g : Covers M [.hif, .st, .out, .flt, .pmc, .cn, .pwr, .btb, .masts, .ctxs, .reqs, .sess, .srvSel, .srvErr, .exports, .nextExp, .hal, .nlc, .col, .free, .zeroing, .cells] = true) (h : Agree M s x) :
    Agree M s (State.examineOp x a1 a2) := by
  unfold State.examineOp
  split
  · rename_i k e
    exact examine_agree (covers_trans (by decide) g) h (allCmds_agree (covers_trans (by decide) g) k (List.mem_of_find?_eq_some e))
  · exact examineUnknown_agree (covers_trans (by decide) g) h

theorem State.receiveOp_agree {M : List Comp} {s x : State} {a1 a2} (g : Covers M [.hif, .st, .out, .flt, .pmc, .cn, .pwr, .btb, .masts, .ctxs, .reqs, .sess, .srvSel, .srvErr, .exports, .nextExp, .hal, .nlc, .col, .free, .zeroing, .cells] = true) (h : Agree M s x) :
    Agree M s (State.receiveOp x a1 a2) := by
  unfold State.receiveOp
  repeat' first
    | with_reducible exact h
    | exact covers_trans (by decide) g
    | with_reducible apply State.modChan_agree
    | with_reducible apply State.arrive_agree
    | with_reducible apply State.examineOp_agree
    | with_reducible apply Agree.ite
    | exact fun _ _ q => q
    | intro _

theorem State.drainWaiting_agree {M : List Comp} {s x : State} {a1 a2} (g : Covers M [.hif, .st, .out, .flt, .pmc, .cn, .pwr, .btb, .masts, .ctxs, .reqs, .sess, .srvSel, .srvErr, .exports, .nextExp, .hal, .nlc, .col, .free, .zeroing, .cells] = true) (h : Agree M s x) :
    Agree M s (State.drainWaiting x a1 a2) := by
  induction a2 generalizing x  with
  | zero =>
    unfold State.drainWaiting
    repeat' first
      | with_reducible exact h
  | succ n ih =>
    unfold State.drainWaiting
    repeat' first
      | with_reducible exact h
      | exact covers_trans (by decide) g
      | with_reducible apply ih
      | with_reducible apply State.modChan_agree
      | with_reducible apply State.examineOp_agree
      | with_reducible apply Agree.ite
      | exact fun _ _ q => q
      | exact fun q => by simpa only [tkeys_tmap, tkeys_tmod] using q
      | intro _
      | split
      | dsimp only
      | with_reducible apply Agree.upd_st

theorem State.drainAll_agree {M : List Comp} {s x : State} (g : Covers M [.hif, .st, .out, .flt, .pmc, .cn, .pwr, .btb, .masts, .ctxs, .reqs, .sess, .srvSel, .srvErr, .exports, .nextExp, .hal, .nlc, .col, .free, .zeroing, .cells] = true) (h : Agree M s x) :
    Agree M s (State.drainAll x) := by
  unfold State.drainAll
  repeat' first
    | with_reducible exact h
    | exact covers_trans (by decide) g
    | with_reducible apply State.drainWaiting_agree
    | with_reducible apply Agree.foldl
    | intro _

theorem State.sendAnswer_agree {M : List Comp} {s x : State} {a1} (g : Covers M [.hif, .st, .out, .flt, .pmc, .cn, .pwr, .btb, .masts, .ctxs, .reqs, .sess, .srvSel, .srvErr, .exports, .nextExp, .hal, .nlc, .col, .free, .zeroing, .cells] = true) (h : Agree M s x) :
    Agree M s (State.sendAnswer x a1) := by
  unfold State.sendAnswer
  repeat' first
    | with_reducible exact h
    | exact covers_trans (by decide) g
    | with_reducible apply State.pump_agree
    | with_reducible apply State.drainWaiting_agree

theorem State.sendNotice_agree {M : List Comp} {s x : State} (g : Covers M [.hif, .st, .out] = true) (h : Agree M s x) :
    Agree M s (State.sendNotice x) := by
  unfold State.sendNotice
  repeat' first
    | with_reducible exact h
    | exact covers_trans (by decide) g
    | with_reducible apply State.transmit_agree
    | with_reducible apply Agree.ite
    | exact fun _ _ q => q
    | exact fun q => by simpa only [tkeys_tmap, tkeys_tmod] using q
    | intro _
    | split
    | dsimp only
    | with_reducible apply Agree.upd_st

end Sys2Proof.Machine
end

