-- ==== Sys2Proof/Laws/FrameEvents.lean ====
section
/-! SUPPORT. What each operation may change, as `Agree` with the parts that it leaves alone: the events that reach the package. -/
namespace Sys2Proof.Machine
set_option maxRecDepth 3000

theorem State.creditIn_agree {M : List Comp} {s x : State} {a1 a2} (g : Covers M [.st] = true) (h : Agree M s x) :
    Agree M s (State.creditIn x a1 a2) := by
  unfold State.creditIn
  repeat' first
    | with_reducible exact h
    | exact covers_trans (by decide) g
    | with_reducible apply State.modChan_agree
    | with_reducible apply Agree.ite
    | exact fun _ _ q => q
    | intro _

theorem State.packetWhole_agree {M : List Comp} {s x : State} {a1 a2} (g : Covers M [.hif, .st, .out, .flt, .pmc, .cn, .pwr, .btb, .masts, .ctxs, .reqs, .sess, .srvSel, .srvErr, .exports, .nextExp, .hal, .nlc, .col, .free, .zeroing, .cells] = true) (h : Agree M s x) :
    Agree M s (State.packetWhole x a1 a2) := by
  unfold State.packetWhole
  have k := State.receiveOp_agree (a1 := (parseReq a1 a2).1) (a2 := (parseReq a1 a2).2) (covers_trans (by decide) g) h
  unfold State.whenAlive
  exact Agree.ite (fun _ => k) fun _ => h

theorem State.framingError_agree {M : List Comp} {s x : State} {a1 a2} (g : Covers M [.st, .out] = true) (h : Agree M s x) :
    Agree M s (State.framingError x a1 a2) := by
  unfold State.framingError
  repeat' first
    | with_reducible exact h
    | exact covers_trans (by decide) g
    | with_reducible apply State.modChan_agree
    | with_reducible apply State.giveCredit_agree
    | with_reducible apply Agree.ite
    | exact fun _ _ q => q
    | intro _

theorem State.takeSlots_agree {M : List Comp} {s x : State} {a1 a2 a3} (g : Covers M [.hif, .st, .out, .flt, .pmc, .cn, .pwr, .btb, .masts, .ctxs, .reqs, .sess, .srvSel, .srvErr, .exports, .nextExp, .hal, .nlc, .col, .free, .zeroing, .cells] = true) (h : Agree M s x) :
    Agree M s (State.takeSlots x a1 a2 a3) := by
  induction a2 generalizing x a3 with
  | zero =>
    unfold State.takeSlots
    repeat' first
      | with_reducible exact h
  | succ n ih =>
    unfold State.takeSlots
    repeat' first
      | with_reducible exact h
      | exact covers_trans (by decide) g
      | with_reducible apply ih
      | with_reducible apply State.modChan_agree
      | with_reducible apply State.packetWhole_agree
      | with_reducible apply State.framingError_agree
      | with_reducible apply Agree.ite
      | exact fun _ _ q => q
      | intro _

theorem State.framingNotice_agree {M : List Comp} {s x : State} {a1 a2} (g : Covers M [.hif, .st, .out] = true) (h : Agree M s x) :
    Agree M s (State.framingNotice x a1 a2) := by
  unfold State.framingNotice
  repeat' first
    | with_reducible exact h
    | exact covers_trans (by decide) g
    | with_reducible apply State.queueAnswers_agree

theorem State.framingEnds_agree {M : List Comp} {s x : State} {a1 a2} (g : Covers M [.hif, .st, .out, .free] = true) (h : Agree M s x) :
    Agree M s (State.framingEnds x a1 a2) := by
  unfold State.framingEnds
  repeat' first
    | with_reducible exact h
    | exact covers_trans (by decide) g
    | with_reducible apply State.modChan_agree
    | with_reducible apply State.framingNotice_agree
    | with_reducible apply State.giveCredit_agree
    | with_reducible apply State.drawn_agree
    | exact fun _ _ q => q

theorem State.dataIn_agree {M : List Comp} {s x : State} {a1} (g : Covers M [.hif, .st, .out, .free, .flt, .pmc, .cn, .pwr, .btb, .masts, .ctxs, .reqs, .sess, .srvSel, .srvErr, .exports, .nextExp, .hal, .nlc, .col, .zeroing, .cells] = true) (h : Agree M s x) :
    Agree M s (State.dataIn x a1) := by
  unfold State.dataIn
  repeat' first
    | with_reducible exact h
    | exact covers_trans (by decide) g
    | with_reducible apply State.modChan_agree
    | with_reducible apply State.takeSlots_agree
    | with_reducible apply State.framingError_agree
    | with_reducible apply State.framingEnds_agree
    | with_reducible apply Agree.ite
    | exact fun _ _ q => q
    | intro _

theorem State.moveFlit_agree {M : List Comp} {s x : State} {a1} (g : Covers M [.hif, .out] = true) (h : Agree M s x) :
    Agree M s (State.moveFlit x a1) := by
  unfold State.moveFlit
  repeat' first
    | with_reducible exact h
    | exact covers_trans (by decide) g
    | with_reducible apply State.modHmod_agree
    | with_reducible apply State.sendFlits_agree
    | with_reducible apply Agree.ite
    | intro _

theorem State.fillRoom_agree {M : List Comp} {s x : State} (g : Covers M [.hif, .out] = true) (h : Agree M s x) :
    Agree M s (State.fillRoom x) := by
  unfold State.fillRoom
  repeat' first
    | with_reducible exact h
    | exact covers_trans (by decide) g
    | with_reducible apply State.sendResume_agree
    | with_reducible apply State.moveFlit_agree
    | with_reducible apply Agree.foldl
    | intro _

theorem State.flitAcked_agree {M : List Comp} {s x : State} {a1 a2} (g : Covers M [.hif, .out] = true) (h : Agree M s x) :
    Agree M s (State.flitAcked x a1 a2) := by
  unfold State.flitAcked
  repeat' first
    | with_reducible exact h
    | exact covers_trans (by decide) g
    | with_reducible apply State.modHmod_agree
    | with_reducible apply State.fillRoom_agree
    | with_reducible apply Agree.ite
    | intro _

theorem State.oweLost_agree {M : List Comp} {s x : State} {a1} (g : Covers M [.hif] = true) (h : Agree M s x) :
    Agree M s (State.oweLost x a1) := by
  unfold State.oweLost
  repeat' first
    | with_reducible exact h
    | exact covers_trans (by decide) g
    | with_reducible apply State.modHmod_agree
    | with_reducible apply Agree.foldl
    | intro _

theorem State.resumed_agree {M : List Comp} {s x : State} {a1 a2 a3} (g : Covers M [.flt, .hif, .st, .pmc, .out] = true) (h : Agree M s x) :
    Agree M s (State.resumed x a1 a2 a3) := by
  unfold State.resumed
  repeat' first
    | with_reducible exact h
    | exact covers_trans (by decide) g
    | with_reducible apply State.modHmod_agree
    | with_reducible apply State.moduleDown_agree
    | with_reducible apply State.oweLost_agree
    | with_reducible apply State.resendFlits_agree
    | with_reducible apply State.fillRoom_agree
    | with_reducible apply Agree.ite
    | intro _

theorem State.flitEffect_agree {M : List Comp} {s x : State} {a1 a2} (g : Covers M [.flt, .hif, .st, .pmc, .out, .free, .cn, .pwr, .btb, .masts, .ctxs, .reqs, .sess, .srvSel, .srvErr, .exports, .nextExp, .hal, .nlc, .col, .zeroing, .cells] = true) (h : Agree M s x) :
    Agree M s (State.flitEffect x a1 a2) := by
  unfold State.flitEffect
  repeat' first
    | with_reducible exact h
    | exact covers_trans (by decide) g
    | with_reducible apply State.dataIn_agree
    | with_reducible apply State.resumed_agree
    | exact fun q => by simpa only [tkeys_tmap, tkeys_tmod] using q
    | split

theorem State.moduleRetrain_agree {M : List Comp} {s x : State} {a1} (g : Covers M [.flt, .hif, .st, .pmc, .out] = true) (h : Agree M s x) :
    Agree M s (State.moduleRetrain x a1) := by
  unfold State.moduleRetrain
  repeat' first
    | with_reducible exact h
    | exact covers_trans (by decide) g
    | with_reducible apply State.modHmod_agree
    | with_reducible apply State.moduleDown_agree
    | with_reducible apply State.raise_agree
    | with_reducible apply Agree.ite
    | exact fun q => by simpa only [tkeys_tmap, tkeys_tmod] using q
    | intro _
    | dsimp only
    | with_reducible apply Agree.upd_hif

theorem State.flitNak_agree {M : List Comp} {s x : State} {a1} (g : Covers M [.flt, .hif, .st, .pmc, .out] = true) (h : Agree M s x) :
    Agree M s (State.flitNak x a1) := by
  unfold State.flitNak
  repeat' first
    | with_reducible exact h
    | exact covers_trans (by decide) g
    | with_reducible apply State.modHmod_agree
    | with_reducible apply State.moduleRetrain_agree
    | with_reducible apply State.raise_agree
    | with_reducible apply State.resendFlits_agree
    | with_reducible apply Agree.ite
    | exact fun q => by simpa only [tkeys_tmap, tkeys_tmod] using q
    | intro _
    | dsimp only
    | with_reducible apply Agree.upd_hif

theorem State.flitFields_agree {M : List Comp} {s x : State} {a1 a2} (g : Covers M [.flt, .hif, .st, .pmc, .out] = true) (h : Agree M s x) :
    Agree M s (State.flitFields x a1 a2) := by
  unfold State.flitFields
  repeat' first
    | with_reducible exact h
    | exact covers_trans (by decide) g
    | with_reducible apply State.creditIn_agree
    | with_reducible apply State.flitAcked_agree
    | with_reducible apply State.flitNak_agree
    | with_reducible apply Agree.ite
    | intro _

theorem State.nakIn_agree {M : List Comp} {s x : State} {a1} (g : Covers M [.out] = true) (h : Agree M s x) :
    Agree M s (State.nakIn x a1) := by
  unfold State.nakIn
  repeat' first
    | with_reducible exact h
    | exact covers_trans (by decide) g
    | with_reducible apply State.ackFlit_agree

theorem State.goodFlit_agree {M : List Comp} {s x : State} {a1 a2} (g : Covers M [.flt, .hif, .st, .pmc, .out, .free, .cn, .pwr, .btb, .masts, .ctxs, .reqs, .sess, .srvSel, .srvErr, .exports, .nextExp, .hal, .nlc, .col, .zeroing, .cells] = true) (h : Agree M s x) :
    Agree M s (State.goodFlit x a1 a2) := by
  unfold State.goodFlit
  repeat' first
    | with_reducible exact h
    | exact covers_trans (by decide) g
    | with_reducible apply State.modHmod_agree
    | with_reducible apply State.flitEffect_agree
    | with_reducible apply State.flitFields_agree
    | with_reducible apply State.nakIn_agree
    | with_reducible apply State.ackFlit_agree
    | with_reducible apply Agree.ite
    | intro _

theorem State.flitIn_agree {M : List Comp} {s x : State} {a1 a2} (g : Covers M [.flt, .hif, .st, .pmc, .out, .free, .cn, .pwr, .btb, .masts, .ctxs, .reqs, .sess, .srvSel, .srvErr, .exports, .nextExp, .hal, .nlc, .col, .zeroing, .cells] = true) (h : Agree M s x) :
    Agree M s (State.flitIn x a1 a2) := by
  unfold State.flitIn State.whenAlive
  refine Agree.ite (fun _ => h) fun _ => ?_
  have k : Agree M s (if flitOk a2 = true then x.goodFlit a1 (parseFlit a2) else x.nakIn a1) :=
    Agree.ite (fun _ => State.goodFlit_agree (covers_trans (by decide) g) h) fun _ => State.nakIn_agree (covers_trans (by decide) g) h
  exact Agree.ite (fun _ => State.drainAll_agree (covers_trans (by decide) g) k) fun _ => k

theorem State.moduleHeld_agree {M : List Comp} {s x : State} {a1} (g : Covers M [.flt, .hif, .st, .pmc] = true) (h : Agree M s x) :
    Agree M s (State.moduleHeld x a1) := by
  unfold State.moduleHeld
  repeat' first
    | with_reducible exact h
    | exact covers_trans (by decide) g
    | with_reducible apply State.modHmod_agree
    | with_reducible apply State.linkCheck_agree
    | with_reducible apply State.gather_agree
    | exact fun q => by simpa only [tkeys_tmap, tkeys_tmod] using q
    | split
    | dsimp only

theorem State.moduleRetrainFails_agree {M : List Comp} {s x : State} {a1} (g : Covers M [.flt, .hif, .st, .pmc, .out] = true) (h : Agree M s x) :
    Agree M s (State.moduleRetrainFails x a1) := by
  unfold State.moduleRetrainFails
  repeat' first
    | with_reducible exact h
    | exact covers_trans (by decide) g
    | with_reducible apply State.modHmod_agree
    | with_reducible apply State.moduleDown_agree
    | with_reducible apply State.moduleRetrain_agree
    | with_reducible apply Agree.ite
    | intro _

theorem State.moduleUp_agree {M : List Comp} {s x : State} {a1 a2 a3} (g : Covers M [.hif, .st, .out] = true) (h : Agree M s x) :
    Agree M s (State.moduleUp x a1 a2 a3) := by
  unfold State.moduleUp
  repeat' first
    | with_reducible exact h
    | exact covers_trans (by decide) g
    | with_reducible apply State.modHmod_agree
    | with_reducible apply State.sendCredit_agree
    | with_reducible apply State.fillRoom_agree
    | with_reducible apply State.gather_agree
    | with_reducible apply Agree.foldl
    | exact fun q => by simpa only [tkeys_tmap, tkeys_tmod] using q
    | intro _
    | dsimp only
    | with_reducible apply Agree.upd_hif

theorem State.moduleRetrained_agree {M : List Comp} {s x : State} {a1 a2 a3} (g : Covers M [.hif, .st, .out] = true) (h : Agree M s x) :
    Agree M s (State.moduleRetrained x a1 a2 a3) := by
  unfold State.moduleRetrained
  repeat' first
    | with_reducible exact h
    | exact covers_trans (by decide) g
    | with_reducible apply State.moduleUp_agree
    | with_reducible apply State.resendFlits_agree

theorem State.moduleTrained_agree {M : List Comp} {s x : State} {a1 a2 a3 a4} (g : Covers M [.flt, .hif, .st, .pmc, .out] = true) (h : Agree M s x) :
    Agree M s (State.moduleTrained x a1 a2 a3 a4) := by
  unfold State.moduleTrained
  repeat' first
    | with_reducible exact h
    | exact covers_trans (by decide) g
    | with_reducible apply State.modHmod_agree
    | with_reducible apply State.moduleHeld_agree
    | with_reducible apply State.moduleUp_agree
    | with_reducible apply Agree.ite
    | intro _

theorem State.identIn_agree {M : List Comp} {s x : State} {a1 a2} (g : Covers M [.pwr, .flt, .hif, .st, .masts, .ctxs, .reqs, .sess, .srvErr, .exports, .hal, .nlc, .col, .pmc, .out, .cells] = true) (h : Agree M s x) :
    Agree M s (State.identIn x a1 a2) := by
  unfold State.identIn
  repeat' first
    | with_reducible exact h
    | exact covers_trans (by decide) g
    | with_reducible apply State.modPort_agree
    | with_reducible apply State.checkPort_agree
    | with_reducible apply Agree.ite
    | intro _

theorem State.packetIn_agree {M : List Comp} {s x : State} {a1} (g : Covers M [.pwr, .flt, .hif, .st, .masts, .ctxs, .reqs, .sess, .srvErr, .exports, .hal, .nlc, .col, .pmc, .out, .cells] = true) (h : Agree M s x) :
    Agree M s (State.packetIn x a1) := by
  unfold State.packetIn
  repeat' first
    | with_reducible exact h
    | exact covers_trans (by decide) g
    | with_reducible assumption
    | with_reducible apply State.serveWrite_agree
    | with_reducible apply State.response_agree
    | with_reducible apply State.colArrives_agree
    | with_reducible apply State.withPacket_agree
    | with_reducible apply State.serveRead_agree
    | with_reducible apply Agree.ite
    | exact fun q => by simpa only [tkeys_tmap, tkeys_tmod] using q
    | intro _
    | split

theorem State.keysyncIn_agree {M : List Comp} {s x : State} {a1} (g : Covers M [.nlc] = true) (h : Agree M s x) :
    Agree M s (State.keysyncIn x a1) := by
  unfold State.keysyncIn
  repeat' first
    | with_reducible exact h
    | exact covers_trans (by decide) g
    | with_reducible apply State.modPort_agree
    | with_reducible apply Agree.ite
    | intro _

theorem State.frameIn_agree {M : List Comp} {s x : State} {a1 a2 a3} (g : Covers M [.pwr, .flt, .hif, .st, .masts, .ctxs, .reqs, .sess, .srvErr, .exports, .hal, .nlc, .col, .pmc, .out, .cells] = true) (h : Agree M s x) :
    Agree M s (State.frameIn x a1 a2 a3) := by
  unfold State.frameIn
  repeat' first
    | with_reducible exact h
    | exact covers_trans (by decide) g
    | with_reducible apply State.identIn_agree
    | with_reducible apply State.packetIn_agree
    | with_reducible apply State.keysyncIn_agree
    | with_reducible apply Agree.foldl
    | exact fun q => by simpa only [tkeys_tmap, tkeys_tmod] using q
    | intro _
    | split

theorem State.acceptFrame_agree {M : List Comp} {s x : State} {a1 a2 a3} (g : Covers M [.pwr, .flt, .hif, .st, .masts, .ctxs, .reqs, .sess, .srvErr, .exports, .hal, .nlc, .col, .pmc, .out, .cells] = true) (h : Agree M s x) :
    Agree M s (State.acceptFrame x a1 a2 a3) := by
  unfold State.acceptFrame
  repeat' first
    | with_reducible exact h
    | exact covers_trans (by decide) g
    | with_reducible apply State.modPort_agree
    | with_reducible apply State.frameIn_agree
    | with_reducible apply State.sendAckFrame_agree

theorem State.nakFrame_agree {M : List Comp} {s x : State} {a1} (g : Covers M [.out] = true) (h : Agree M s x) :
    Agree M s (State.nakFrame x a1) := by
  unfold State.nakFrame
  repeat' first
    | with_reducible exact h
    | exact covers_trans (by decide) g
    | with_reducible apply State.sendAckFrame_agree

theorem State.linkNak_agree {M : List Comp} {s x : State} {a1} (g : Covers M [.pwr, .flt, .hif, .st, .masts, .ctxs, .reqs, .sess, .srvErr, .exports, .hal, .nlc, .col, .pmc, .out, .cells] = true) (h : Agree M s x) :
    Agree M s (State.linkNak x a1) := by
  unfold State.linkNak
  repeat' first
    | with_reducible exact h
    | exact covers_trans (by decide) g
    | with_reducible apply State.modPort_agree
    | with_reducible apply State.portRetrain_agree
    | with_reducible apply State.raise_agree
    | with_reducible apply State.modNlc_agree
    | with_reducible apply State.resendFrames_agree
    | with_reducible apply State.emit_agree
    | with_reducible apply Agree.ite
    | exact fun q => by simpa only [tkeys_tmap, tkeys_tmod] using q
    | intro _
    | split
    | dsimp only

theorem State.linkAcked_agree {M : List Comp} {s x : State} {a1 a2} (g : Covers M [.nlc, .out] = true) (h : Agree M s x) :
    Agree M s (State.linkAcked x a1 a2) := by
  unfold State.linkAcked
  repeat' first
    | with_reducible exact h
    | exact covers_trans (by decide) g
    | with_reducible apply State.modPort_agree
    | with_reducible apply State.drainPort_agree
    | with_reducible apply Agree.ite
    | intro _

theorem State.linkFields_agree {M : List Comp} {s x : State} {a1 a2} (g : Covers M [.pwr, .flt, .hif, .st, .masts, .ctxs, .reqs, .sess, .srvErr, .exports, .hal, .nlc, .col, .pmc, .out, .cells] = true) (h : Agree M s x) :
    Agree M s (State.linkFields x a1 a2) := by
  unfold State.linkFields
  repeat' first
    | with_reducible exact h
    | exact covers_trans (by decide) g
    | with_reducible apply State.modPort_agree
    | with_reducible apply State.drainPort_agree
    | with_reducible apply State.linkNak_agree
    | with_reducible apply State.linkAcked_agree
    | with_reducible apply Agree.ite
    | intro _

theorem State.goodFrame_agree {M : List Comp} {s x : State} {a1 a2 a3} (g : Covers M [.pwr, .flt, .hif, .st, .masts, .ctxs, .reqs, .sess, .srvErr, .exports, .hal, .nlc, .col, .pmc, .out, .cells] = true) (h : Agree M s x) :
    Agree M s (State.goodFrame x a1 a2 a3) := by
  unfold State.goodFrame
  repeat' first
    | with_reducible exact h
    | exact covers_trans (by decide) g
    | with_reducible apply State.modPort_agree
    | with_reducible apply State.nakFrame_agree
    | with_reducible apply State.linkFields_agree
    | with_reducible apply State.acceptFrame_agree
    | with_reducible apply State.modNlc_agree
    | with_reducible apply Agree.ite
    | exact fun q => by simpa only [tkeys_tmap, tkeys_tmod] using q
    | intro _
    | split

theorem State.keyExhausted_agree {M : List Comp} {s x : State} {a1} (g : Covers M [.pwr, .flt, .hif, .st, .masts, .ctxs, .reqs, .sess, .srvErr, .exports, .hal, .nlc, .col, .pmc, .out, .cells] = true) (h : Agree M s x) :
    Agree M s (State.keyExhausted x a1) := by
  unfold State.keyExhausted
  repeat' first
    | with_reducible exact h
    | exact covers_trans (by decide) g
    | with_reducible apply State.portDown_agree
    | with_reducible apply State.raise_agree
    | with_reducible apply State.modNlc_agree
    | exact fun q => by simpa only [tkeys_tmap, tkeys_tmod] using q

theorem State.linkFrameIn_agree {M : List Comp} {s x : State} {a1 a2} (g : Covers M [.pwr, .flt, .hif, .st, .masts, .ctxs, .reqs, .sess, .srvErr, .exports, .hal, .nlc, .col, .pmc, .out, .cells] = true) (h : Agree M s x) :
    Agree M s (State.linkFrameIn x a1 a2) := by
  unfold State.linkFrameIn
  repeat' first
    | with_reducible exact h
    | exact covers_trans (by decide) g
    | with_reducible apply State.nakFrame_agree
    | with_reducible apply State.goodFrame_agree
    | with_reducible apply Agree.ite
    | intro _

theorem State.portRetrainFails_agree {M : List Comp} {s x : State} {a1} (g : Covers M [.pwr, .flt, .hif, .st, .masts, .ctxs, .reqs, .sess, .srvErr, .exports, .hal, .nlc, .col, .pmc, .out, .cells] = true) (h : Agree M s x) :
    Agree M s (State.portRetrainFails x a1) := by
  unfold State.portRetrainFails
  repeat' first
    | with_reducible exact h
    | exact covers_trans (by decide) g
    | with_reducible apply State.modPort_agree
    | with_reducible apply State.portDown_agree
    | with_reducible apply State.portRetrain_agree
    | with_reducible apply State.retrainEnds_agree
    | with_reducible apply Agree.ite
    | intro _

theorem State.retrainedTo_agree {M : List Comp} {s x : State} {a1} (g : Covers M [.pwr, .flt, .hif, .st, .masts, .ctxs, .reqs, .sess, .srvErr, .exports, .hal, .nlc, .col, .pmc, .out, .cells] = true) (h : Agree M s x) :
    Agree M s (State.retrainedTo x a1) := by
  unfold State.retrainedTo
  repeat' first
    | with_reducible exact h
    | exact covers_trans (by decide) g
    | with_reducible apply State.modPort_agree
    | with_reducible apply State.launchWaiting_agree
    | with_reducible apply State.retrainEnds_agree
    | with_reducible apply State.checkPort_agree
    | with_reducible apply Agree.ite
    | exact fun q => by simpa only [tkeys_tmap, tkeys_tmod] using q
    | intro _
    | split

theorem State.portRetrained_agree {M : List Comp} {s x : State} {a1} (g : Covers M [.pwr, .flt, .hif, .st, .masts, .ctxs, .reqs, .sess, .srvErr, .exports, .hal, .nlc, .col, .pmc, .out, .cells] = true) (h : Agree M s x) :
    Agree M s (State.portRetrained x a1) := by
  unfold State.portRetrained
  repeat' first
    | with_reducible exact h
    | exact covers_trans (by decide) g
    | with_reducible apply State.modPort_agree
    | with_reducible apply State.retrainedTo_agree
    | with_reducible apply State.resendFrames_agree
    | with_reducible apply State.drainPort_agree
    | with_reducible apply State.emit_agree
    | exact fun q => by simpa only [tkeys_tmap, tkeys_tmod] using q
    | split

theorem State.portTrains_agree {M : List Comp} {s x : State} {a1 a2} (g : Covers M [.flt, .hif, .st, .hal, .nlc, .out] = true) (h : Agree M s x) :
    Agree M s (State.portTrains x a1 a2) := by
  unfold State.portTrains
  repeat' first
    | with_reducible exact h
    | exact covers_trans (by decide) g
    | with_reducible apply State.modPort_agree
    | with_reducible apply State.sendIdent_agree
    | with_reducible apply State.retrainEnds_agree
    | with_reducible apply Agree.ite
    | intro _

theorem State.contend_agree {M : List Comp} {s x : State} {a1 a2 a3} (g : Covers M [.flt, .st, .masts, .pmc] = true) (h : Agree M s x) :
    Agree M s (State.contend x a1 a2 a3) := by
  unfold State.contend
  repeat' first
    | with_reducible exact h
    | exact covers_trans (by decide) g
    | with_reducible apply State.modMast_agree
    | with_reducible apply State.raise_agree
    | with_reducible apply Agree.ite
    | exact fun z => MastTo.same rfl rfl fun q => q
    | intro _

theorem State.promptFault_agree {M : List Comp} {s x : State} {a1 a2} (g : Covers M [.ctxs] = true) (h : Agree M s x) :
    Agree M s (State.promptFault x a1 a2) := by
  unfold State.promptFault
  repeat' first
    | with_reducible exact h
    | exact covers_trans (by decide) g
    | with_reducible apply State.modCtx_agree

theorem State.promptIds_agree {M : List Comp} {s x : State} {a1 a2 a3 a4} (g : Covers M [.flt, .st, .masts, .pmc, .free] = true) (h : Agree M s x) :
    Agree M s (State.promptIds x a1 a2 a3 a4).1 := by
  unfold State.promptIds
  repeat' first
    | with_reducible exact h
    | exact covers_trans (by decide) g
    | with_reducible apply State.drawnN_agree
    | with_reducible apply State.fetch_agree
    | with_reducible apply Agree.ite_fst
    | intro _

theorem State.rowIds_agree {M : List Comp} {s x : State} {a1 a2 a3} (g : Covers M [.flt, .st, .masts, .pmc, .free] = true) (h : Agree M s x) :
    Agree M s (State.rowIds x a1 a2 a3).1 := by
  unfold State.rowIds
  repeat' first
    | with_reducible exact h
    | exact covers_trans (by decide) g
    | with_reducible apply State.promptIds_agree
    | with_reducible apply Agree.ite_fst
    | exact fun q => by simpa only [tkeys_tmap, tkeys_tmod] using q
    | intro _
    | split

theorem State.embedRow_agree {M : List Comp} {s x : State} {a1 a2 a3 a4 a5 a6 a7} (g : Covers M [.pwr, .flt, .hif, .st, .masts, .ctxs, .reqs, .sess, .srvErr, .exports, .hal, .nlc, .col, .pmc, .out, .free, .cells] = true) (h : Agree M s x)
    (k : ∀ y, Agree M s y → Agree M s (a7 y)) :
    Agree M s (State.embedRow x a1 a2 a3 a4 a5 a6 a7) := by
  unfold State.embedRow
  repeat' first
    | with_reducible exact h
    | exact covers_trans (by decide) g
    | with_reducible assumption
    | with_reducible apply State.promptFault_agree
    | with_reducible apply State.withWrite_agree
    | with_reducible apply State.ioFail_agree
    | with_reducible apply State.drawnN_agree
    | with_reducible apply State.withRead_agree
    | with_reducible apply State.rowIds_agree
    | with_reducible apply Agree.ite
    | exact fun q => by simpa only [tkeys_tmap, tkeys_tmod] using q
    | exact k _ ‹_›
    | intro _
    | split
    | dsimp only

theorem State.patrolUc_agree {M : List Comp} {s x : State} {a1 a2} (g : Covers M [.flt, .st, .pmc] = true) (h : Agree M s x) :
    Agree M s (State.patrolUc x a1 a2) := by
  unfold State.patrolUc
  repeat' first
    | with_reducible exact h
    | exact covers_trans (by decide) g
    | with_reducible apply State.raise_agree

theorem State.patrol_agree {M : List Comp} {s x : State} {a1} (g : Covers M [.flt, .st, .masts, .pmc] = true) (h : Agree M s x) :
    Agree M s (State.patrol x a1) := by
  unfold State.patrol
  repeat' first
    | with_reducible exact h
    | exact covers_trans (by decide) g
    | with_reducible apply State.modMast_agree
    | with_reducible apply State.patrolUc_agree
    | with_reducible apply Agree.foldl
    | exact fun z => MastTo.same rfl rfl fun q => q
    | intro _

theorem State.vuRegions_agree {M : List Comp} {s x : State} {a1 a2 a3} (g : Covers M [.pwr, .flt, .hif, .st, .masts, .ctxs, .reqs, .sess, .srvErr, .exports, .hal, .nlc, .col, .pmc, .out, .cells] = true) (h : Agree M s x)
    (k : ∀ y, Agree M s y → Agree M s (a3 y)) :
    Agree M s (State.vuRegions x a1 a2 a3) := by
  unfold State.vuRegions
  repeat' first
    | with_reducible exact h
    | exact covers_trans (by decide) g
    | with_reducible apply State.spadRange_agree
    | with_reducible apply Agree.ite
    | exact fun q => by simpa only [tkeys_tmap, tkeys_tmod] using q
    | exact k _ ‹_›
    | intro _
    | split

theorem State.vuStore_agree {M : List Comp} {s x : State} {a1 a2 a3 a4 a5 a6} (g : Covers M [.pwr, .flt, .hif, .st, .masts, .ctxs, .reqs, .sess, .srvErr, .exports, .hal, .nlc, .col, .pmc, .out, .cells] = true) (h : Agree M s x)
    (k : ∀ y, Agree M s y → Agree M s (a6 y)) :
    Agree M s (State.vuStore x a1 a2 a3 a4 a5 a6) := by
  unfold State.vuStore
  repeat' first
    | with_reducible exact h
    | exact covers_trans (by decide) g
    | with_reducible assumption
    | with_reducible apply State.withWrite_agree
    | with_reducible apply Agree.ite
    | exact fun q => by simpa only [tkeys_tmap, tkeys_tmod] using q
    | exact k _ ‹_›
    | intro _

theorem State.vuSubst_agree {M : List Comp} {s x : State} {a1 a2} (g : Covers M [.flt, .st, .masts, .pmc] = true) (h : Agree M s x) :
    Agree M s (State.vuSubst x a1 a2) := by
  unfold State.vuSubst
  repeat' first
    | with_reducible exact h
    | exact covers_trans (by decide) g
    | with_reducible apply State.countM_agree
    | with_reducible apply State.limitRec_agree
    | with_reducible apply Agree.ite
    | intro _

theorem State.vuConvert_agree {M : List Comp} {s x : State} {a1 a2 a3 a4 a5 a6 a7} (g : Covers M [.pwr, .flt, .hif, .st, .masts, .ctxs, .reqs, .sess, .srvErr, .exports, .hal, .nlc, .col, .pmc, .out, .cells] = true) (h : Agree M s x) :
    Agree M s (State.vuConvert x a1 a2 a3 a4 a5 a6 a7) := by
  unfold State.vuConvert
  repeat' first
    | with_reducible exact h
    | exact covers_trans (by decide) g
    | with_reducible assumption
    | with_reducible apply State.vuRegions_agree
    | with_reducible apply State.vuStore_agree
    | with_reducible apply State.vuSubst_agree
    | with_reducible apply State.withRead_agree
    | with_reducible apply Agree.ite
    | intro _

theorem embedRows_agree {M : List Comp} {s x : State} {a0 a1 a2 a3 a4 a5} (g : Covers M [.pwr, .flt, .hif, .st, .masts, .ctxs, .reqs, .sess, .srvErr, .exports, .hal, .nlc, .col, .pmc, .out, .free, .cells] = true) (h : Agree M s x) :
    Agree M s (embedRows a0 a1 a2 a3 a4 a5 x) := by
  induction a4 generalizing x a5 with
  | nil =>
    unfold embedRows
    repeat' first
      | with_reducible exact h
  | cons b l ih =>
    unfold embedRows
    repeat' first
      | with_reducible exact h
      | exact covers_trans (by decide) g
      | with_reducible apply ih
      | with_reducible apply State.embedRow_agree
      | intro _

theorem State.vuOther_agree {M : List Comp} {s x : State} {a1 a2 a3 a4} (g : Covers M [.pwr, .flt, .hif, .st, .masts, .ctxs, .reqs, .sess, .srvErr, .exports, .hal, .nlc, .col, .pmc, .out, .free, .cells] = true) (h : Agree M s x) :
    Agree M s (State.vuOther x a1 a2 a3 a4) := by
  unfold State.vuOther
  repeat' first
    | with_reducible exact h
    | exact covers_trans (by decide) g
    | with_reducible assumption
    | with_reducible apply State.vuRegions_agree
    | with_reducible apply State.vuStore_agree
    | with_reducible apply State.vuSubst_agree
    | with_reducible apply State.drawnN_agree
    | with_reducible apply Agree.ite
    | intro _

theorem State.vuOp_agree {M : List Comp} {s x : State} {a1 a2} (g : Covers M [.pwr, .flt, .hif, .st, .masts, .ctxs, .reqs, .sess, .srvErr, .exports, .hal, .nlc, .col, .pmc, .out, .free, .cells] = true) (h : Agree M s x) :
    Agree M s (State.vuOp x a1 a2) := by
  unfold State.vuOp
  repeat' first
    | with_reducible exact h
    | exact covers_trans (by decide) g
    | with_reducible apply State.vuConvert_agree
    | with_reducible apply State.vuRegions_agree
    | with_reducible apply embedRows_agree
    | with_reducible apply State.vuOther_agree
    | exact fun q => by simpa only [tkeys_tmap, tkeys_tmod] using q
    | intro _
    | split

theorem State.abandonScrub_agree {M : List Comp} {s x : State} (g : Covers M [.flt, .hif, .st, .hal, .out] = true) (h : Agree M s x) :
    Agree M s (State.abandonScrub x) := by
  unfold State.abandonScrub
  repeat' first
    | with_reducible exact h
    | exact covers_trans (by decide) g
    | with_reducible apply State.endMaint_agree
    | with_reducible apply Agree.ite
    | exact fun q => by simpa only [tkeys_tmap, tkeys_tmod] using q
    | intro _
    | split

theorem State.flowGate_agree {M : List Comp} {s x : State} (g : Covers M [.cn] = true) (h : Agree M s x) :
    Agree M s (State.flowGate x) := by
  unfold State.flowGate
  repeat' first
    | with_reducible exact h
    | exact covers_trans (by decide) g
    | with_reducible apply Agree.ite
    | exact fun q => by simpa only [tkeys_tmap, tkeys_tmod] using q
    | intro _
    | dsimp only
    | with_reducible apply Agree.upd_cn

theorem State.brownoutOn_agree {M : List Comp} {s x : State} (g : Covers M [.cn, .pwr] = true) (h : Agree M s x) :
    Agree M s (State.brownoutOn x) := by
  unfold State.brownoutOn
  repeat' first
    | with_reducible exact h
    | exact fun q => by simpa only [tkeys_tmap, tkeys_tmod] using q
    | dsimp only
    | (refine Agree.upds (by dsimp only <;> exact rfl) ?_ ?_; rotate_left
       · intro c; cases c <;> first | exact Or.inl (covers_mem g (by decide)) | exact Or.inr rfl | exact Or.inr (fun q => q) | exact Or.inr (Nat.le_refl _) | exact Or.inr (fun _ q => q) | exact Or.inr (fun _ => ⟨rfl, rfl⟩) | exact Or.inr (said_same rfl rfl))

theorem State.faultPair_agree {M : List Comp} {s x : State} {a1} (g : Covers M [.flt, .out] = true) (h : Agree M s x) :
    Agree M s (State.faultPair x a1) := by
  unfold State.faultPair
  repeat' first
    | with_reducible exact h
    | exact covers_trans (by decide) g
    | with_reducible apply State.emit_agree
    | with_reducible apply Agree.ite
    | exact fun q => by simpa only [tkeys_tmap, tkeys_tmod] using q
    | intro _
    | dsimp only
    | with_reducible apply Agree.upd_flt

theorem State.brownoutOver_agree {M : List Comp} {s x : State} (g : Covers M [.cn, .pwr, .flt, .btb, .hif, .st, .masts, .ctxs, .reqs, .sess, .srvErr, .exports, .nextExp, .hal, .nlc, .col, .pmc, .out, .cells] = true) (h : Agree M s x) :
    Agree M s (State.brownoutOver x) := by
  unfold State.brownoutOver
  repeat' first
    | with_reducible exact h
    | exact covers_trans (by decide) g
    | with_reducible apply State.modPwr_agree
    | with_reducible apply State.startVerify_agree
    | with_reducible apply State.faultPair_agree
    | with_reducible apply State.idleAll_agree
    | with_reducible apply State.startQueued_agree
    | with_reducible apply Agree.ite
    | with_reducible apply Agree.foldl
    | exact fun q => by simpa only [tkeys_tmap, tkeys_tmod] using q
    | exact fun q => q
    | exact Nat.le_refl _
    | intro _
    | dsimp only
    | with_reducible apply Agree.upd_btb
    | with_reducible apply Agree.upd_cn

theorem State.coolCtx_agree {M : List Comp} {s x : State} {a1} (g : Covers M [.masts, .ctxs, .nlc, .col, .out] = true) (h : Agree M s x) :
    Agree M s (State.coolCtx x a1) := by
  unfold State.coolCtx
  repeat' first
    | with_reducible exact h
    | exact covers_trans (by decide) g
    | with_reducible apply State.discardCalls_agree
    | with_reducible apply State.modCtx_agree
    | with_reducible apply Agree.ite
    | exact fun q => by simpa only [tkeys_tmap, tkeys_tmod] using q
    | intro _
    | split

theorem State.stopMasts_agree {M : List Comp} {s x : State} (g : Covers M [.pwr, .flt, .hif, .st, .masts, .hal, .out] = true) (h : Agree M s x) :
    Agree M s (State.stopMasts x) := by
  unfold State.stopMasts
  repeat' first
    | with_reducible exact h
    | exact covers_trans (by decide) g
    | with_reducible apply State.abandonScrub_agree
    | with_reducible apply State.modPwr_agree
    | with_reducible apply State.mapMasts_agree
    | exact fun q => by simpa only [tkeys_tmap, tkeys_tmod] using q
    | exact fun q => q
    | refine mastKept_of fun z => ?_
    | exact MastTo.refl _
    | with_reducible apply MastTo.freezeCopies
    | intro _

theorem State.pwrEvent_agree {M : List Comp} {s x : State} {a1 a2} (g : Covers M [.pwr, .flt, .st, .pmc] = true) (h : Agree M s x) :
    Agree M s (State.pwrEvent x a1 a2) := by
  unfold State.pwrEvent
  repeat' first
    | with_reducible exact h
    | exact covers_trans (by decide) g
    | with_reducible apply State.modPwr_agree
    | with_reducible apply State.raise_agree
    | exact fun q => q

theorem State.coolantStop_agree {M : List Comp} {s x : State} (g : Covers M [.pwr, .flt, .hif, .st, .masts, .ctxs, .hal, .nlc, .col, .pmc, .out] = true) (h : Agree M s x) :
    Agree M s (State.coolantStop x) := by
  unfold State.coolantStop
  repeat' first
    | with_reducible exact h
    | exact covers_trans (by decide) g
    | with_reducible apply State.modPwr_agree
    | with_reducible apply State.stopMasts_agree
    | with_reducible apply State.pwrEvent_agree
    | with_reducible apply State.coolCtx_agree
    | with_reducible apply Agree.ite
    | with_reducible apply Agree.foldl
    | exact fun q => q
    | intro _

theorem State.suppress_agree {M : List Comp} {s x : State} {a1 a2} (g : Covers M [.masts] = true) (h : Agree M s x) :
    Agree M s (State.suppress x a1 a2) := by
  unfold State.suppress
  repeat' first
    | with_reducible exact h
    | exact covers_trans (by decide) g
    | with_reducible apply State.countM_agree

theorem State.droopClear_agree {M : List Comp} {s x : State} {a1 a2} (g : Covers M [.pwr, .masts] = true) (h : Agree M s x) :
    Agree M s (State.droopClear x a1 a2) := by
  unfold State.droopClear
  repeat' first
    | with_reducible exact h
    | exact covers_trans (by decide) g
    | with_reducible apply State.modMast_agree
    | with_reducible apply State.modPwr_agree
    | with_reducible apply State.suppress_agree
    | with_reducible apply Agree.ite
    | exact fun q => q
    | exact fun z => MastTo.same rfl rfl fun q => q
    | intro _

theorem State.droopTrip_agree {M : List Comp} {s x : State} {a1} (g : Covers M [.pwr, .masts] = true) (h : Agree M s x) :
    Agree M s (State.droopTrip x a1) := by
  unfold State.droopTrip
  repeat' first
    | with_reducible exact h
    | exact covers_trans (by decide) g
    | with_reducible apply State.modMast_agree
    | with_reducible apply State.modPwr_agree
    | with_reducible apply State.countM_agree
    | with_reducible apply Agree.ite
    | exact fun q => q
    | exact fun z => MastTo.same rfl rfl fun q => q
    | intro _

theorem State.flowLost_agree {M : List Comp} {s x : State} (g : Covers M [.cn, .pwr, .flt, .hif, .st, .masts, .ctxs, .hal, .nlc, .col, .pmc, .out] = true) (h : Agree M s x) :
    Agree M s (State.flowLost x) := by
  unfold State.flowLost
  repeat' first
    | with_reducible exact h
    | exact covers_trans (by decide) g
    | with_reducible apply State.mapMasts_agree
    | with_reducible apply State.coolantStop_agree
    | with_reducible apply State.flowGate_agree
    | with_reducible apply Agree.ite
    | exact fun q => by simpa only [tkeys_tmap, tkeys_tmod] using q
    | exact fun _ z => MastTo.same rfl rfl fun q => q
    | intro _
    | dsimp only
    | with_reducible apply Agree.upd_cn

theorem State.mastFigures_agree {M : List Comp} {s x : State} (g : Covers M [.masts] = true) (h : Agree M s x) :
    Agree M s (State.mastFigures x) := by
  unfold State.mastFigures
  repeat' first
    | with_reducible exact h
    | exact covers_trans (by decide) g
    | with_reducible apply State.mapMasts_agree
    | exact fun _ z => MastTo.same rfl rfl fun q => q

theorem State.governor_agree {M : List Comp} {s x : State} (g : Covers M [.pwr, .masts, .pmc] = true) (h : Agree M s x) :
    Agree M s (State.governor x) := by
  unfold State.governor
  have k0 : Agree M s x.mastFigures := State.mastFigures_agree (covers_trans (by decide) g) h
  have k := State.countH_agree (a1 := pwrOcc 0x001 1) (covers_trans (by decide) g) (State.modPwr_agree (x := x.mastFigures) (f := fun p => { p with
    avgW := x.pwr.govIn.sum / x.pwr.govIn.n, peakW := maxD (p.samples.map (·.inputW)) p.peakW, samples := [], capEff := p.effCap }) (covers_trans (by decide) g) k0 fun q => q)
  refine Agree.ite (fun _ => k) fun _ => State.retarget_agree (covers_trans (by decide) g) (State.modPwr_agree (covers_trans (by decide) g) k fun q => ?_)
  unfold Power.govern
  repeat' first
    | exact q
    | split

theorem State.wireSeen_agree {M : List Comp} {s x : State} {a1 a2} (g : Covers M [.flt] = true) (h : Agree M s x) :
    Agree M s (State.wireSeen x a1 a2) := by
  unfold State.wireSeen
  repeat' first
    | with_reducible exact h
    | exact covers_trans (by decide) g
    | exact fun q => by simpa only [tkeys_tmap, tkeys_tmod] using q
    | split
    | dsimp only
    | with_reducible apply Agree.upd_flt

theorem State.pairRecords_agree {M : List Comp} {s x : State} (g : Covers M [.pwr, .flt, .st, .pmc] = true) (h : Agree M s x) :
    Agree M s (State.pairRecords x) := by
  unfold State.pairRecords
  repeat' first
    | with_reducible exact h
    | exact covers_trans (by decide) g
    | with_reducible apply State.pwrEvent_agree
    | with_reducible apply State.wireSeen_agree
    | with_reducible apply State.raise_agree
    | with_reducible apply Agree.ite
    | intro _

theorem State.limit_agree {M : List Comp} {s x : State} {a1} (g : Covers M [.pwr, .masts, .pmc] = true) (h : Agree M s x) :
    Agree M s (State.limit x a1) := by
  unfold State.limit
  repeat' first
    | with_reducible exact h
    | exact covers_trans (by decide) g
    | with_reducible apply State.modPwr_agree
    | with_reducible apply State.suppress_agree
    | with_reducible apply State.countH_agree
    | with_reducible apply Agree.foldl
    | exact fun q => q
    | intro _

theorem State.reefSwitch_agree {M : List Comp} {s x : State} (g : Covers M [.pwr] = true) (h : Agree M s x) :
    Agree M s (State.reefSwitch x) := by
  unfold State.reefSwitch
  repeat' first
    | with_reducible exact h
    | exact covers_trans (by decide) g
    | with_reducible apply State.modPwr_agree
    | with_reducible apply Agree.ite
    | exact fun q => by simpa only [tkeys_tmap, tkeys_tmod] using q
    | exact fun q => q
    | intro _
    | split

theorem State.sample_agree {M : List Comp} {s x : State} {a1} (g : Covers M [.pwr, .masts] = true) (h : Agree M s x) :
    Agree M s (State.sample x a1) := by
  unfold State.sample
  repeat' first
    | with_reducible exact h
    | exact covers_trans (by decide) g
    | with_reducible apply State.modPwr_agree
    | with_reducible apply State.mapMasts_agree
    | exact fun q => q
    | exact fun _ z => MastTo.same rfl rfl fun q => q

theorem State.thermLevel_agree {M : List Comp} {s x : State} {a1} (g : Covers M [.pwr] = true) (h : Agree M s x) :
    Agree M s (State.thermLevel x a1) := by
  unfold State.thermLevel
  repeat' first
    | with_reducible exact h
    | exact covers_trans (by decide) g
    | with_reducible apply State.modPwr_agree
    | with_reducible apply State.retarget_agree
    | with_reducible apply Agree.ite
    | exact fun q => q
    | intro _

theorem State.tjHot_agree {M : List Comp} {s x : State} {a1 a2} (g : Covers M [.pwr, .flt, .st, .pmc] = true) (h : Agree M s x) :
    Agree M s (State.tjHot x a1 a2) := by
  unfold State.tjHot
  repeat' first
    | with_reducible exact h
    | exact covers_trans (by decide) g
    | with_reducible apply State.modPwr_agree
    | with_reducible apply State.pwrEvent_agree
    | with_reducible apply State.thermLevel_agree
    | with_reducible apply Agree.ite
    | exact fun q => q
    | intro _

theorem State.whenPair_agree {M : List Comp} {s x : State} (g : Covers M [] = true) (h : Agree M s x) :
    Agree M s (State.whenPair x x) := by
  unfold State.whenPair
  repeat' first
    | with_reducible exact h
    | with_reducible apply Agree.ite
    | intro _

theorem State.wireBroken_agree {M : List Comp} {s x : State} {a1} (g : Covers M [.cn, .pwr, .flt, .hif, .st, .masts, .ctxs, .reqs, .sess, .srvErr, .exports, .hal, .nlc, .col, .pmc, .out, .cells] = true) (h : Agree M s x) :
    Agree M s (State.wireBroken x a1) := by
  unfold State.wireBroken
  repeat' first
    | with_reducible exact h
    | exact covers_trans (by decide) g
    | with_reducible apply State.modPort_agree
    | with_reducible apply State.modHmod_agree
    | with_reducible apply State.fatalAt_agree
    | with_reducible apply State.moduleDown_agree
    | with_reducible apply State.portDown_agree
    | with_reducible apply State.wireSeen_agree
    | with_reducible apply State.raise_agree
    | with_reducible apply State.fence_agree
    | with_reducible apply Agree.ite
    | exact fun q => by simpa only [tkeys_tmap, tkeys_tmod] using q
    | intro _
    | split

theorem State.attestPart_agree {M : List Comp} {s x : State} {a1 a2} (g : Covers M [.btb, .out] = true) (h : Agree M s x) :
    Agree M s (State.attestPart x a1 a2) := by
  unfold State.attestPart
  repeat' first
    | with_reducible exact h
    | exact covers_trans (by decide) g
    | with_reducible apply State.captureReport_agree
    | with_reducible apply State.emit_agree
    | with_reducible apply Agree.ite
    | exact fun q => by simpa only [tkeys_tmap, tkeys_tmod] using q
    | intro _
    | split

theorem State.capMgmtSet_agree {M : List Comp} {s x : State} {a1} (g : Covers M [.pwr, .flt, .hif, .st, .masts, .ctxs, .reqs, .sess, .srvErr, .exports, .nextExp, .hal, .nlc, .col, .pmc, .out, .cells] = true) (h : Agree M s x) :
    Agree M s (State.capMgmtSet x a1) := by
  unfold State.capMgmtSet
  repeat' first
    | with_reducible exact h
    | exact covers_trans (by decide) g
    | with_reducible apply State.writeCap_agree
    | with_reducible apply State.emit_agree
    | with_reducible apply Agree.ite
    | intro _

theorem State.certPart_agree {M : List Comp} {s x : State} {a1 a2} (g : Covers M [.out] = true) (h : Agree M s x) :
    Agree M s (State.certPart x a1 a2) := by
  unfold State.certPart
  repeat' first
    | with_reducible exact h
    | exact covers_trans (by decide) g
    | with_reducible apply State.emit_agree
    | with_reducible apply Agree.ite
    | intro _

theorem State.heartbeatOver_agree {M : List Comp} {s x : State} (g : Covers M [.pwr, .flt, .st, .pmc] = true) (h : Agree M s x) :
    Agree M s (State.heartbeatOver x) := by
  unfold State.heartbeatOver
  repeat' first
    | with_reducible exact h
    | exact covers_trans (by decide) g
    | with_reducible apply State.modPwr_agree
    | with_reducible apply State.pwrEvent_agree
    | with_reducible apply Agree.ite
    | exact fun q => q
    | intro _

theorem State.assertReset_agree {M : List Comp} {s x : State} (g : Covers M [.cn, .out] = true) (h : Agree M s x) :
    Agree M s (State.assertReset x) := by
  unfold State.assertReset
  repeat' first
    | with_reducible exact h
    | exact covers_trans (by decide) g
    | with_reducible apply State.emit_agree
    | with_reducible apply Agree.ite
    | exact fun q => by simpa only [tkeys_tmap, tkeys_tmod] using q
    | intro _
    | dsimp only
    | with_reducible apply Agree.upd_cn

theorem State.toStage_agree {M : List Comp} {s x : State} {a1} (g : Covers M [.cn] = true) (h : Agree M s x) :
    Agree M s (State.toStage x a1) := by
  unfold State.toStage
  repeat' first
    | with_reducible exact h
    | exact covers_trans (by decide) g
    | exact fun q => by simpa only [tkeys_tmap, tkeys_tmod] using q
    | dsimp only
    | with_reducible apply Agree.upd_cn

theorem State.becomeReady_agree {M : List Comp} {s x : State} (g : Covers M [.cn, .btb, .hif, .masts, .out, .cells] = true) (h : Agree M s x) :
    Agree M s (State.becomeReady x) := by
  unfold State.becomeReady
  refine State.startVerify_agree (covers_trans (by decide) g) (State.bootChanged_agree (covers_trans (by decide) g) ?_)
  refine Agree.trans (t := x.mapMasts fun _ z => { z with dram := Dram.reset, spad := { cells := [], flaws := [] }, lc := { lines := [], clock := 0 } }) ?_ (Agree.mono (L := [.cn, .hif]) (covers_trans (by decide) g) ⟨?_⟩)
  · exact State.mapMasts_agree (covers_trans (by decide) g) h fun _ z => ⟨fun _ => ⟨rfl, rfl⟩, fun q => q, Or.inl (covers_mem g (by decide))⟩
  · intro c hc
    cases c <;> first | exact absurd (by decide) hc | exact rfl | exact fun q => q | exact Nat.le_refl _ | exact fun _ q => q | exact said_same rfl rfl | exact fun _ => ⟨rfl, rfl⟩ | exact fun q => by simpa only [Comp.same, State.toStage, tkeys_tmap] using q

theorem State.nestPowered_agree {M : List Comp} {s x : State} (g : Covers M [.cn, .flt, .out, .fatal] = true) (h : Agree M s x) :
    Agree M s (State.nestPowered x) := by
  unfold State.nestPowered
  have k : Agree M s { x with
      cn := { x.cn with powered := true, cold := true },
      flt := { x.flt with fatal := false, fatalCause := 0, faultOut := false } } :=
    h.trans (Agree.mono g ⟨by
      intro c hc
      cases c <;> first | exact absurd (by decide) hc | exact rfl | exact fun q => q | exact Nat.le_refl _ | exact fun _ q => q | exact said_same rfl rfl | exact fun _ => ⟨rfl, rfl⟩⟩)
  exact Agree.ite (fun _ => h) fun _ => State.emit_agree (covers_trans (by decide) g) k

theorem State.begin_agree {M : List Comp} {s x : State} (g : Covers M [.time, .cn, .pwr, .flt, .out, .fatal] = true) (h : Agree M s x) :
    Agree M s (State.begin x) := by
  unfold State.begin
  have w := State.nestPowered_agree (covers_trans (by decide) g) h
  generalize State.nestPowered x = y at w ⊢
  dsimp only
  refine Agree.ite (fun _ => State.emit_agree (covers_trans (by decide) g) ?_) fun _ => ?_
  all_goals
    refine w.trans (Agree.mono g ⟨?_⟩)
    intro c hc
    cases c <;> first | exact absurd (by decide) hc | exact rfl | exact fun q => q | exact Nat.le_refl _ | exact fun _ q => q | exact said_same rfl rfl | exact fun _ => ⟨rfl, rfl⟩

theorem State.bootStart_agree {M : List Comp} {s x : State} (g : Covers M [.cn, .flt, .btb] = true) (h : Agree M s x) :
    Agree M s (State.bootStart x) := by
  unfold State.bootStart
  repeat' first
    | with_reducible exact h
    | exact covers_trans (by decide) g
    | with_reducible apply State.toStage_agree
    | with_reducible apply State.flowGate_agree
    | exact fun q => by simpa only [tkeys_tmap, tkeys_tmod] using q
    | dsimp only
    | (refine Agree.upds (by dsimp only <;> exact rfl) ?_ ?_; rotate_left
       · intro c; cases c <;> first | exact Or.inl (covers_mem g (by decide)) | exact Or.inr rfl | exact Or.inr (fun q => q) | exact Or.inr (Nat.le_refl _) | exact Or.inr (fun _ q => q) | exact Or.inr (fun _ => ⟨rfl, rfl⟩) | exact Or.inr (said_same rfl rfl))

theorem State.calMast_agree {M : List Comp} {s x : State} {a1} (g : Covers M [.cn, .id, .flt, .st, .masts, .pmc] = true) (h : Agree M s x) :
    Agree M s (State.calMast x a1) := by
  unfold State.calMast
  repeat' first
    | with_reducible exact h
    | exact covers_trans (by decide) g
    | with_reducible apply State.modMast_agree
    | with_reducible apply State.raise_agree
    | with_reducible apply Agree.ite
    | exact fun q => by simpa only [tkeys_tmap, tkeys_tmod] using q
    | exact fun z => MastTo.same rfl rfl fun q => q
    | refine mastKept_of fun z => ?_
    | exact MastTo.same rfl rfl fun _ => rfl
    | intro _
    | split
    | dsimp only
    | (refine Agree.upds (by dsimp only <;> exact rfl) ?_ ?_; rotate_left
       · intro c; cases c <;> first | exact Or.inl (covers_mem g (by decide)) | exact Or.inr rfl | exact Or.inr (fun q => q) | exact Or.inr (Nat.le_refl _) | exact Or.inr (fun _ q => q) | exact Or.inr (fun _ => ⟨rfl, rfl⟩) | exact Or.inr (said_same rfl rfl))

theorem State.calPassed_agree {M : List Comp} {s x : State} {a1} (g : Covers M [.cn, .id, .flt, .st, .masts, .pmc] = true) (h : Agree M s x) :
    Agree M s (State.calPassed x a1) := by
  unfold State.calPassed
  repeat' first
    | with_reducible exact h
    | exact covers_trans (by decide) g
    | with_reducible apply State.calMast_agree
    | with_reducible apply Agree.foldl
    | intro _

theorem State.calRows_agree {M : List Comp} {s x : State} {a1} (g : Covers M [.flt, .st, .pmc] = true) (h : Agree M s x) :
    Agree M s (State.calRows x a1) := by
  unfold State.calRows
  repeat' first
    | with_reducible exact h
    | exact covers_trans (by decide) g
    | with_reducible apply State.raise_agree
    | with_reducible apply Agree.foldl
    | exact fun q => by simpa only [tkeys_tmap, tkeys_tmod] using q
    | intro _
    | dsimp only
    | with_reducible apply Agree.upd_flt

theorem State.calStepRuns_agree {M : List Comp} {s x : State} {a1 a2} (g : Covers M [.cn, .id, .flt, .st, .masts, .pmc] = true) (h : Agree M s x) :
    Agree M s (State.calStepRuns x a1 a2) := by
  unfold State.calStepRuns
  repeat' first
    | with_reducible exact h
    | exact covers_trans (by decide) g
    | with_reducible apply State.calMast_agree
    | with_reducible apply State.calRows_agree
    | with_reducible apply Agree.ite
    | with_reducible apply Agree.foldl
    | intro _

theorem State.calibrated_agree {M : List Comp} {s x : State} {a1} (g : Covers M [.cn, .id, .pwr, .flt, .hif, .st, .masts, .nlc, .pmc, .out] = true) (h : Agree M s x) :
    Agree M s (State.calibrated x a1) := by
  unfold State.calibrated
  repeat' first
    | with_reducible exact h
    | exact covers_trans (by decide) g
    | with_reducible apply State.calStepRuns_agree
    | with_reducible apply State.calPassed_agree
    | with_reducible apply State.fatalNow_agree
    | with_reducible apply State.toStage_agree
    | with_reducible apply Agree.ite
    | with_reducible apply Agree.foldl
    | exact fun q => by simpa only [tkeys_tmap, tkeys_tmod] using q
    | intro _
    | dsimp only
    | with_reducible apply Agree.upd_id
    | (refine Agree.upds (by dsimp only <;> exact rfl) ?_ ?_; rotate_left
       · intro c; cases c <;> first | exact Or.inl (covers_mem g (by decide)) | exact Or.inr rfl | exact Or.inr (fun q => q) | exact Or.inr (Nat.le_refl _) | exact Or.inr (fun _ q => q) | exact Or.inr (fun _ => ⟨rfl, rfl⟩) | exact Or.inr (said_same rfl rfl))

theorem State.hubPowered_agree {M : List Comp} {s x : State} (g : Covers M [.cn, .pwr, .flt, .st, .pmc] = true) (h : Agree M s x) :
    Agree M s (State.hubPowered x) := by
  unfold State.hubPowered
  repeat' first
    | with_reducible exact h
    | exact covers_trans (by decide) g
    | with_reducible apply State.toStage_agree
    | with_reducible apply State.pairRecords_agree
    | with_reducible apply Agree.ite
    | exact fun q => by simpa only [tkeys_tmap, tkeys_tmod] using q
    | intro _
    | dsimp only
    | with_reducible apply Agree.upd_cn

theorem State.railsOff_agree {M : List Comp} {s x : State} (g : Covers M [.cn, .pwr, .flt, .btb, .hif, .st, .masts, .ctxs, .zeroing, .reqs, .sess, .srvSel, .srvErr, .exports, .nextExp, .imports, .hal, .nlc, .col, .pmc, .pending, .fenced, .cells, .said] = true) (h : Agree M s x) :
    Agree M s (State.railsOff x) := by
  refine h.trans (Agree.mono g ⟨?_⟩)
  intro c hc
  cases c
  all_goals first
    | exact absurd (by decide) hc
    | exact rfl
    | exact fun _ => rfl
    | exact fun q => q
    | exact Nat.le_refl _
    | (intro _; show capRange 2000 ∧ capRange 2000 ∧ capRange 1200; unfold capRange; omega)
    | (intro _ e he; have : e ∈ fillTab 8 Mast.reset := he; simp only [fillTab, List.mem_map] at this; obtain ⟨_, _, rfl⟩ := this; exact ⟨rfl, rfl⟩)

theorem State.atCleat_agree {M : List Comp} {s x : State} {a1 a2 a3} (g : Covers M [.masts, .ctxs] = true) (h : Agree M s x) :
    Agree M s (State.atCleat x a1 a2 a3) := by
  unfold State.atCleat
  repeat' first
    | with_reducible exact h
    | exact covers_trans (by decide) g
    | with_reducible apply State.reeval_agree
    | with_reducible apply State.displace_agree
    | with_reducible apply State.modCtx_agree
    | with_reducible apply Agree.ite
    | exact fun q => by simpa only [tkeys_tmap, tkeys_tmod] using q
    | intro _
    | split
    | dsimp only

theorem State.copyEnds_agree {M : List Comp} {s x : State} {a1} (g : Covers M [.masts] = true) (h : Agree M s x) :
    Agree M s (State.copyEnds x a1) := by
  unfold State.copyEnds
  exact State.modMast_agree (covers_trans (by decide) g) h fun z => MastTo.refreshes _ (MastTo.same rfl rfl fun q => q)

theorem State.loadRegions_agree {M : List Comp} {s x : State} {a1 a2 a3 a4} (g : Covers M [.flt, .st, .masts, .pmc, .cells] = true) (h : Agree M s x) :
    Agree M s (State.loadRegions x a1 a2 a3 a4).1 := by
  induction a4 generalizing x a3 with
  | nil => exact h
  | cons b l ih =>
    have k : Agree M s (x.readDram a2 (bulkReader a1) a3 b.2).1 := State.readDram_agree (covers_trans (by decide) g) h
    unfold State.loadRegions
    dsimp only
    split
    · exact k
    · exact ih (State.modMast_agree (covers_trans (by decide) g) k fun z => MastTo.writeSpad _ _ (covers_trans (by decide) g) (MastTo.refl z))

theorem State.promoteCool_agree {M : List Comp} {s x : State} {a1} (g : Covers M [.ctxs] = true) (h : Agree M s x) :
    Agree M s (State.promoteCool x a1) := by
  unfold State.promoteCool
  repeat' first
    | with_reducible exact h
    | exact covers_trans (by decide) g
    | with_reducible apply State.modCtx_agree
    | with_reducible apply Agree.ite
    | exact fun q => by simpa only [tkeys_tmap, tkeys_tmod] using q
    | intro _
    | split

theorem State.restoreEnd_agree {M : List Comp} {s x : State} {a1 a2} (g : Covers M [.pwr, .flt, .hif, .st, .masts, .ctxs, .reqs, .sess, .srvErr, .exports, .nextExp, .hal, .nlc, .col, .pmc, .out, .cells] = true) (h : Agree M s x) :
    Agree M s (State.restoreEnd x a1 a2) := by
  unfold State.restoreEnd
  repeat' first
    | with_reducible exact h
    | exact covers_trans (by decide) g
    | with_reducible apply State.reeval_agree
    | with_reducible apply State.ioFail_agree
    | with_reducible apply State.idleAll_agree
    | with_reducible apply State.promote_agree
    | with_reducible apply State.promoteCool_agree
    | with_reducible apply State.loadRegions_agree
    | with_reducible apply State.modCtx_agree
    | with_reducible apply State.copyEnds_agree
    | exact fun q => by simpa only [tkeys_tmap, tkeys_tmod] using q
    | split
    | dsimp only

theorem State.saveRegions_agree {M : List Comp} {s x : State} {a1 a2 a3 a4} (g : Covers M [.flt, .st, .masts, .pmc, .cells] = true) (h : Agree M s x) :
    Agree M s (State.saveRegions x a1 a2 a3 a4).1 := by
  induction a4 generalizing x a3 with
  | nil =>
    unfold State.saveRegions
    repeat' first
      | with_reducible exact h
  | cons b l ih =>
    unfold State.saveRegions
    repeat' first
      | with_reducible exact h
      | exact covers_trans (by decide) g
      | with_reducible apply ih
      | with_reducible apply State.modMast_agree
      | with_reducible apply State.writeDram_agree
      | exact fun q => by simpa only [tkeys_tmap, tkeys_tmod] using q
      | exact fun z => MastTo.same rfl rfl fun q => q
      | split
      | dsimp only

theorem State.spillEnd_agree {M : List Comp} {s x : State} {a1 a2} (g : Covers M [.pwr, .flt, .hif, .st, .masts, .ctxs, .reqs, .sess, .srvErr, .exports, .nextExp, .hal, .nlc, .col, .pmc, .out, .cells] = true) (h : Agree M s x) :
    Agree M s (State.spillEnd x a1 a2) := by
  unfold State.spillEnd
  repeat' first
    | with_reducible exact h
    | exact covers_trans (by decide) g
    | with_reducible apply State.freeEngines_agree
    | with_reducible apply State.ioFail_agree
    | with_reducible apply State.idleAll_agree
    | with_reducible apply State.saveRegions_agree
    | with_reducible apply State.modCtx_agree
    | with_reducible apply State.copyEnds_agree
    | with_reducible apply Agree.ite
    | exact fun q => by simpa only [tkeys_tmap, tkeys_tmod] using q
    | intro _
    | split
    | dsimp only

theorem State.cyclesM_agree {M : List Comp} {s x : State} {a1 a2} (g : Covers M [.masts, .free] = true) (h : Agree M s x) :
    Agree M s (State.cyclesM x a1 a2) := by
  unfold State.cyclesM
  repeat' first
    | with_reducible exact h
    | exact covers_trans (by decide) g
    | with_reducible apply State.countM_agree
    | with_reducible apply State.drawn_agree

theorem State.waitM_agree {M : List Comp} {s x : State} {a0 a2} (g : Covers M [.masts, .free] = true) (h : Agree M s x) :
    Agree M s (State.waitM a0 x a2) := by
  unfold State.waitM
  repeat' first
    | with_reducible exact h
    | exact covers_trans (by decide) g
    | with_reducible apply State.cyclesM_agree
    | with_reducible apply Agree.ite
    | with_reducible apply Agree.foldl
    | intro _

theorem State.edgesM_agree {M : List Comp} {s x : State} {a1} (g : Covers M [.masts, .free] = true) (h : Agree M s x) :
    Agree M s (State.edgesM x a1) := by
  unfold State.edgesM
  repeat' first
    | with_reducible exact h
    | exact covers_trans (by decide) g
    | with_reducible apply State.cyclesM_agree
    | with_reducible apply State.waitM_agree
    | with_reducible apply Agree.ite
    | with_reducible apply Agree.foldl
    | intro _

theorem State.cyclesH_agree {M : List Comp} {s x : State} {a1} (g : Covers M [.pmc, .free] = true) (h : Agree M s x) :
    Agree M s (State.cyclesH x a1) := by
  unfold State.cyclesH
  repeat' first
    | with_reducible exact h
    | exact covers_trans (by decide) g
    | with_reducible apply State.drawn_agree
    | with_reducible apply State.countH_agree

theorem State.waitH_agree {M : List Comp} {s x : State} {a1} (g : Covers M [.pmc, .free] = true) (h : Agree M s x) :
    Agree M s (State.waitH x a1) := by
  unfold State.waitH
  repeat' first
    | with_reducible exact h
    | exact covers_trans (by decide) g
    | with_reducible apply State.cyclesH_agree
    | with_reducible apply Agree.ite
    | intro _

theorem State.cycles_agree {M : List Comp} {s x : State} (g : Covers M [.masts, .pmc, .free] = true) (h : Agree M s x) :
    Agree M s (State.cycles x) := by
  unfold State.cycles
  repeat' first
    | with_reducible exact h
    | exact covers_trans (by decide) g
    | with_reducible apply State.edgesM_agree
    | with_reducible apply State.waitH_agree
    | with_reducible apply Agree.ite
    | with_reducible apply Agree.foldl
    | intro _

theorem State.microsecond_agree {M : List Comp} {s x : State} (g : Covers M [.time, .pwr] = true) (h : Agree M s x) :
    Agree M s (State.microsecond x) := by
  unfold State.microsecond
  repeat' first
    | with_reducible exact h
    | with_reducible apply Agree.ite
    | exact fun q => by simpa only [tkeys_tmap, tkeys_tmod] using q
    | intro _
    | dsimp only
    | (refine Agree.upds (by dsimp only <;> exact rfl) ?_ ?_; rotate_left
       · intro c; cases c <;> first | exact Or.inl (covers_mem g (by decide)) | exact Or.inr rfl | exact Or.inr (fun q => q) | exact Or.inr (Nat.le_refl _) | exact Or.inr (fun _ q => q) | exact Or.inr (fun _ => ⟨rfl, rfl⟩) | exact Or.inr (said_same rfl rfl))

theorem tick_agree {M : List Comp} {s x : State} (g : Covers M [.time, .pwr, .flt, .hif, .st, .masts, .ctxs, .reqs, .sess, .srvErr, .exports, .nextExp, .hal, .nlc, .col, .pmc, .out, .free, .cells, .cn, .btb, .srvSel, .zeroing] = true) (h : Agree M s x) :
    Agree M s (tick x) := by
  unfold tick State.whenAlive
  have k := State.cycles_agree (covers_trans (by decide) g) (State.microsecond_agree (covers_trans (by decide) g) h)
  have w : ∀ y, Agree M s y → Agree M s { y with pending := x.pending } := fun y hy =>
    ⟨fun c hc => by cases c <;> first | exact hy.part _ hc | exact h.part _ hc⟩
  exact w _ (Agree.ite (fun _ => State.idleAll_agree (covers_trans (by decide) g) (State.drainAll_agree (covers_trans (by decide) g) k)) fun _ => k)

end Sys2Proof.Machine
end

