-- ==== Sys2Proof/Laws/Heard.lean ====
section
/-! SUPPORT. A request that is heard: the meaning of its command, and its answer. -/
namespace Sys2Proof.Machine

theorem settle_runs {c : Instr} {s t : State} {P : State → Prop} (e : exec c s = settle s t)
    (h : P { t with pending := s.pending }) : Runs c s P := ⟨_, e, h⟩

theorem Agree.settle {M : List Comp} {s t u : State} (h : Agree (.pending :: M) s t) (hp : Comp.pending ∉ M)
    (e : Machine.settle s t = .next u) : Agree M s u := by
  obtain rfl : { t with pending := s.pending } = u := by simpa [Machine.settle] using e
  refine ⟨fun c hc => ?_⟩
  by_cases k : c = .pending
  · subst k; rfl
  · have := h.part c (by simp [k, hc])
    cases c <;> first | exact this | exact absurd rfl k

theorem tkeys_present {s : State} {c : Nat} (h : tkeys s.st.chans = List.range 8) (hc : c < 8) : c ∈ tkeys s.st.chans := by
  rw [h]; exact List.mem_range.mpr hc

theorem chan_modChan {s : State} {c : Nat} {f : Chan → Chan} (h : c ∈ tkeys s.st.chans) :
    (s.modChan c f).chan c = f (s.chan c) := by
  simp only [State.modChan, State.chan]
  exact tgetD_tmod_self f _ h

/-- A request that is heard acts at once (R263, R265, R268). -/
theorem stauc_heard {k : Cmd} {r : Req} {s : State} (h : Heard k r s) :
    stauc k r s = settle s (k.run r (s.heard r)) := by
  have hw : ((s.arrive r).chan r.flitCh).waiting = [] := by
    unfold State.arrive
    exact (congrArg Chan.waiting (chan_modChan (tkeys_present h.keys h.lane))).trans h.first
  simp only [stauc, onChannel, if_pos h.lane, State.whenAlive, h.alive, if_true, receive, hw, h.room, examine, h.sound,
    List.isEmpty_nil, Bool.not_true, Bool.or_self, Bool.false_eq_true, if_false]
  rfl

/-- What is heard of a request changes only the channel and the log of what went out. -/
theorem heard_agree (s : State) (r : Req) : Agree [.st, .out] s (s.heard r) := by
  unfold State.heard
  exact State.tagged_agree (by decide) (State.returnUnits_agree (by decide) (State.arrive_agree (by decide) (Agree.refl _ _)))

theorem pump_said (s : State) (c fuel : Nat) : Comp.same s (s.pump c fuel) .said :=
  (State.pump_agree (M := [.hif, .st, .out]) (by decide) (Agree.refl _ _)).part .said (by decide)

/-- Answers that join a queue wait there or have gone out. -/
theorem queueAnswers_said {s : State} {c : Nat} {ps : List Pkt} (h : c ∈ tkeys s.st.chans) :
    ∀ p ∈ ps, p.silent = true ∨ p ∈ ((s.queueAnswers c ps).chan c).answers ∨ Out.packet p ∈ (s.queueAnswers c ps).out := by
  intro p hp
  refine (pump_said _ c _).2 c p ?_
  rw [chan_modChan h]
  exact List.mem_append_right _ hp

/-- The answer of a command that acts has been given. -/
theorem run_answered {k : Cmd} {r : Req} {s : State} (hk : r.flitCh ∈ tkeys (k.act r s).1.st.chans)
    (ha : ∀ y, Comp.same y (k.after r (k.act r s).2 y) .said) : Answered k r (k.act r s).2 (k.run r s) := by
  intro p hp
  rcases queueAnswers_said hk p hp with a | a | a
  · exact Or.inl a
  · exact (ha _).2 _ p a
  · exact Or.inr (Or.inr ((ha _).1 _ a))

/-- A command that acts keeps what its act and its answer keep. -/
theorem run_agree {M : List Comp} {k : Cmd} {r : Req} {s : State} (g : Covers M [.hif, .st, .out] = true)
    (h : Agree M s (k.act r s).1) (ha : ∀ y, Agree M s y → Agree M s (k.after r (k.act r s).2 y)) : Agree M s (k.run r s) :=
  ha _ (State.queueAnswers_agree (covers_trans (by decide) g) h)

/-! ## What sending leaves of the Stauc part -/

theorem sendFlits_st (s : State) (m : Nat) (fs : List Flit) : (s.sendFlits m fs).st = s.st := by
  rfl

theorem modChan_st (s : State) (c : Nat) (f : Chan → Chan) : (s.modChan c f).st = { s.st with chans := (s.modChan c f).st.chans } :=
  rfl

theorem transmit_st (s : State) (p : Pkt) : (s.transmit p).st = { s.st with chans := (s.transmit p).st.chans } := by
  unfold State.transmit
  have k : ∀ (x : State) (b : Prop) [Decidable b] (f : Chan → Chan),
      (if b then x.modChan p.channel f else x).st = { x.st with chans := (if b then x.modChan p.channel f else x).st.chans } := by
    intro x b _ f; split <;> rfl
  have e : ∀ (x : State) (o : Out), (x.emit o).st = x.st := fun _ _ => rfl
  dsimp only
  split
  · exact k _ _ _
  · rw [e, sendFlits_st, modChan_st, k]

theorem pump_st (s : State) (c fuel : Nat) : (s.pump c fuel).st = { s.st with chans := (s.pump c fuel).st.chans } := by
  induction fuel generalizing s with
  | zero => rfl
  | succ n ih =>
    simp only [State.pump]
    split
    · rfl
    · rw [ih, transmit_st, modChan_st]

/-- Answers that join a queue change only the channels of the Stauc part. -/
theorem queueAnswers_st (s : State) (c : Nat) (ps : List Pkt) :
    (s.queueAnswers c ps).st = { s.st with chans := (s.queueAnswers c ps).st.chans } := by
  unfold State.queueAnswers
  rw [pump_st, modChan_st]

theorem sendCredit_st (s : State) (c : Nat) : (s.sendCredit c).st = { s.st with chans := (s.sendCredit c).st.chans } := by
  unfold State.sendCredit
  dsimp only
  split
  · split <;> rfl
  · rfl

theorem giveCredit_st (s : State) (c n : Nat) : (s.giveCredit c n).st = { s.st with chans := (s.giveCredit c n).st.chans } := by
  unfold State.giveCredit
  split
  · rw [sendCredit_st]; rfl
  · rfl

/-- A request that is heard takes the next number of arrival, and its channel changes. -/
theorem heard_st (s : State) (r : Req) : (s.heard r).st =
    { s.st with chans := (s.heard r).st.chans, arrivals := s.st.arrivals + 1, current := s.st.arrivals + 1 } := by
  unfold State.heard State.tagged State.returnUnits
  rw [modChan_st, giveCredit_st]
  rfl

/-- A request that is heard changes the numbers of arrival, its channel and what has been sent, and nothing else. -/
theorem heard_eq (s : State) (r : Req) : ∃ cs o, s.heard r =
    { s with st := { s.st with chans := cs, arrivals := s.st.arrivals + 1, current := s.st.arrivals + 1 }, out := o } := by
  refine ⟨(s.heard r).st.chans, (s.heard r).out, ?_⟩
  have h := (heard_agree s r).part
  rw [← heard_st]
  generalize s.heard r = t at h
  have e : ∀ c, c ∉ [Comp.st, .out] → c.same s t := h
  obtain ⟨⟩ := s
  obtain ⟨⟩ := t
  congr 1
  · exact e .time (by decide)
  · exact e .cn (by decide)
  · exact e .id (by decide)
  · exact e .pwr (by decide)
  · exact e .flt (by decide)
  · exact e .btb (by decide)
  · exact e .hif (by decide)
  · exact e .masts (by decide)
  · exact e .ctxs (by decide)
  · exact e .zeroing (by decide)
  · exact e .reqs (by decide)
  · exact e .sess (by decide)
  · exact e .srvSel (by decide)
  · exact e .srvErr (by decide)
  · exact e .exports (by decide)
  · exact e .nextExp (by decide)
  · exact e .imports (by decide)
  · exact e .hal (by decide)
  · exact e .nlc (by decide)
  · exact e .col (by decide)
  · exact e .pmc (by decide)
  · exact e .free (by decide)
  · exact e .pending (by decide)

theorem heard_keys {s : State} {r : Req} (h : tkeys s.st.chans = List.range 8) : tkeys (s.heard r).st.chans = List.range 8 :=
  (heard_agree s r).part .chanKeys (by decide) h

/-- A request that is heard, of a command that sets nothing off after its answer: the answer has been given, and the rest of
the state is as the command's act leaves it (R261, R263). -/
theorem heard_runs {k : Cmd} {c : Instr} {r : Req} {s : State} (h : Heard k r s) (e : exec c s = stauc k r s)
    (ha : k.after = fun _ _ y => y) {x : State} {a : Ans} (hx : k.act r (s.heard r) = (x, a))
    (hk : tkeys (s.heard r).st.chans = List.range 8 → tkeys x.st.chans = List.range 8) :
    ∃ t, exec c s = .next t ∧ Answered k r a t ∧ t.pending = s.pending ∧ Agree [.hif, .st, .out, .pending] x t ∧
      t.st = { x.st with chans := t.st.chans } := by
  have ex : (k.act r (s.heard r)).1 = x := by rw [hx]
  have ea : (k.act r (s.heard r)).2 = a := by rw [hx]
  have hr : k.run r (s.heard r) = x.queueAnswers r.flitCh (respond k.opcode r false a) := by
    unfold Cmd.run; simp only [ha, ex, ea]
  refine ⟨_, e.trans (stauc_heard h), ?_, rfl, ?_, ?_⟩
  · have := run_answered (k := k) (r := r) (s := s.heard r) (by rw [ex]; exact tkeys_present (hk (heard_keys h.keys)) h.lane)
      (fun y => by rw [ha]; exact said_same rfl rfl)
    rw [ea] at this
    exact this
  · rw [hr]
    refine ⟨fun c hc => ?_⟩
    have := (State.queueAnswers_agree (M := [.hif, .st, .out, .pending]) (a1 := r.flitCh) (a2 := respond k.opcode r false a)
      (by decide) (Agree.refl _ x)).part c hc
    cases c <;> first | exact this | exact absurd (by decide) hc
  · rw [hr]
    exact queueAnswers_st _ _ _

/-- A request that is heard, of a command that sets work off after its answer. -/
theorem heard_runs_after {k : Cmd} {c : Instr} {r : Req} {s : State} (h : Heard k r s) (e : exec c s = stauc k r s)
    {x : State} {a : Ans} (hx : k.act r (s.heard r) = (x, a))
    (hk : tkeys (s.heard r).st.chans = List.range 8 → tkeys x.st.chans = List.range 8)
    (hs : ∀ y, Comp.same y (k.after r a y) .said) :
    ∃ t y, exec c s = .next t ∧ Answered k r a t ∧ t = { k.after r a y with pending := s.pending } ∧
      Agree [.hif, .st, .out] x y ∧ y.st = { x.st with chans := y.st.chans } := by
  have ex : (k.act r (s.heard r)).1 = x := by rw [hx]
  have ea : (k.act r (s.heard r)).2 = a := by rw [hx]
  have hr : k.run r (s.heard r) = k.after r a (x.queueAnswers r.flitCh (respond k.opcode r false a)) := by
    unfold Cmd.run; simp only [ea, ex]
  refine ⟨_, x.queueAnswers r.flitCh (respond k.opcode r false a), e.trans (stauc_heard h), ?_, ?_,
    State.queueAnswers_agree (by decide) (Agree.refl _ x), queueAnswers_st _ _ _⟩
  · have := run_answered (k := k) (r := r) (s := s.heard r) (by rw [ex]; exact tkeys_present (hk (heard_keys h.keys)) h.lane)
      (fun y => by rw [ea]; exact hs y)
    rw [ea] at this
    exact this
  · rw [hr]

end Sys2Proof.Machine
end

