-- ==== Sys2Proof/Laws/FrameExec.lean ====
section
/-! SUPPORT. What each command may change. -/
namespace Sys2Proof.Machine
set_option maxRecDepth 3000

theorem frame_settle {M : List Comp} {s x t : State} (e : settle s x = .next t) (hp : Comp.pending ∉ M)
    (h : Agree (.pending :: M) s x) : Agree M s t := h.settle hp e

theorem frame_on {M : List Comp} {s x t : State} {c : Prop} [Decidable c]
    (e : (if c then settle s x else .fault .noSuchUnit) = .next t) (hp : Comp.pending ∉ M)
    (h : Agree (.pending :: M) s x) : Agree M s t := by
  split at e
  · exact h.settle hp e
  · exact absurd e nofun

theorem Faults.takeQueued_fatal (f : Faults) : f.takeQueued.fatal = f.fatal := by
  unfold Faults.takeQueued
  have key : ∀ (l : List Record) (f : Faults), (l.foldl (fun (f : Faults) r =>
      if f.finds r then { f with logWrites := f.logWrites ++ [r], logQueue := f.logQueue.erase r } else f) f).fatal = f.fatal := by
    intro l
    induction l with
    | nil => exact fun _ => rfl
    | cons r l ih =>
      intro f
      refine (ih _).trans ?_
      dsimp only
      split <;> rfl
  exact key _ f

theorem Faults.compact_fatal (f : Faults) : f.compact.fatal = f.fatal := by
  unfold Faults.compact
  split
  · exact Faults.takeQueued_fatal _
  · rfl

theorem Faults.written_fatal (f : Faults) : f.written.fatal = f.fatal := by
  unfold Faults.written; split <;> rfl

theorem stauc_agree {M : List Comp} {k : Cmd} {r : Req} {s t : State}
    (g : Covers (.pending :: M) [.hif, .st, .out] = true ∧ Comp.pending ∉ M)
    (hk : Cmd.Kept (.pending :: M) s k) (e : stauc k r s = .next t) : Agree M s t :=
  frame_on e g.2 (Agree.ite (fun _ => receive_agree g.1 (Agree.refl _ _) hk) fun _ => Agree.refl _ _)

theorem execHello_agree {r s t} (h : execHello r s = .next t) :
    Agree [.hif, .st, .out] s t := by
  exact stauc_agree (by decide) (helloCmd_agree (by decide)) h

theorem execDevConfig_agree {r s t} (h : execDevConfig r s = .next t) :
    Agree [.hif, .st, .out] s t := by
  exact stauc_agree (by decide) (devConfigCmd_agree (by decide)) h

theorem execMark_agree {r s t} (h : execMark r s = .next t) :
    Agree [.flt, .hif, .st, .pmc, .out] s t := by
  exact stauc_agree (by decide) (markCmd_agree (by decide)) h

theorem execEcho_agree {r s t} (h : execEcho r s = .next t) :
    Agree [.hif, .st, .out] s t := by
  exact stauc_agree (by decide) (echoCmd_agree (by decide)) h

theorem execRegRead_agree {r s t} (h : execRegRead r s = .next t) :
    Agree [.cn, .hif, .st, .out] s t := by
  exact stauc_agree (by decide) (regReadCmd_agree (by decide)) h

theorem execRegWrite_agree {r s t} (h : execRegWrite r s = .next t) :
    Agree [.cn, .pwr, .flt, .btb, .hif, .st, .masts, .ctxs, .reqs, .sess, .srvSel, .srvErr, .exports, .nextExp, .hal, .nlc, .col, .pmc, .out, .cells] s t := by
  exact stauc_agree (by decide) (regWriteCmd_agree (by decide)) h

theorem execRegisterWrite_agree {off val s t} (h : execRegisterWrite off val s = .next t) :
    Agree [.cn, .pwr, .flt, .btb, .hif, .st, .masts, .ctxs, .reqs, .sess, .srvSel, .srvErr, .exports, .nextExp, .hal, .nlc, .col, .pmc, .out, .cells] s t := by
  unfold execRegisterWrite at h
  refine frame_settle h (by decide) ?_
  repeat' first
    | with_reducible exact Agree.refl _ _
    | exact by decide
    | with_reducible apply State.hostWrite_agree

theorem execCtxCreate_agree {r s t} (h : execCtxCreate r s = .next t) :
    Agree [.hif, .st, .masts, .ctxs, .out, .free] s t := by
  exact stauc_agree (by decide) (ctxCreateCmd_agree (by decide)) h

theorem execCtxUnfurl_agree {r s t} (h : execCtxUnfurl r s = .next t) :
    Agree [.hif, .st, .ctxs, .out] s t := by
  exact stauc_agree (by decide) (ctxUnfurlCmd_agree (by decide)) h

theorem execUnfurlComplete_agree {ctx s t} (h : execUnfurlComplete ctx s = .next t) :
    Agree [.pwr, .flt, .hif, .st, .masts, .ctxs, .reqs, .sess, .srvErr, .exports, .nextExp, .hal, .nlc, .col, .pmc, .out, .cells] s t := by
  unfold execUnfurlComplete at h
  refine frame_settle h (by decide) ?_
  unfold State.whenAlive
  repeat' first
    | with_reducible exact Agree.refl _ _
    | exact by decide
    | with_reducible apply State.unfurlEnd_agree
    | with_reducible apply Agree.ite
    | intro _

theorem execCtxFurl_agree {r s t} (h : execCtxFurl r s = .next t) :
    Agree [.flt, .hif, .st, .masts, .ctxs, .srvErr, .exports, .hal, .nlc, .col, .pmc, .out, .cells] s t := by
  exact stauc_agree (by decide) (ctxFurlCmd_agree (by decide)) h

theorem execFurlWithdrawLimit_agree {ctx s t} (h : execFurlWithdrawLimit ctx s = .next t) :
    Agree [.masts, .nlc, .col, .out] s t := by
  unfold execFurlWithdrawLimit at h
  refine frame_settle h (by decide) ?_
  unfold State.whenAlive
  repeat' first
    | with_reducible exact Agree.refl _ _
    | exact by decide
    | with_reducible apply State.withdrawCtx_agree
    | with_reducible apply Agree.ite
    | intro _

theorem execFurlComplete_agree {ctx s t} (h : execFurlComplete ctx s = .next t) :
    Agree [.pwr, .flt, .hif, .st, .masts, .ctxs, .reqs, .sess, .imports, .nlc, .pmc, .out, .cells] s t := by
  unfold execFurlComplete at h
  refine frame_settle h (by decide) ?_
  unfold State.whenAlive
  repeat' first
    | with_reducible exact Agree.refl _ _
    | exact by decide
    | with_reducible apply State.furlEnd_agree
    | with_reducible apply Agree.ite
    | intro _

theorem execCtxDestroy_agree {r s t} (h : execCtxDestroy r s = .next t) :
    Agree [.flt, .hif, .st, .masts, .ctxs, .zeroing, .hal, .nlc, .col, .pmc, .out, .cells] s t := by
  exact stauc_agree (by decide) (ctxDestroyCmd_agree (by decide)) h

theorem execCtxQuery_agree {r s t} (h : execCtxQuery r s = .next t) :
    Agree [.hif, .st, .out] s t := by
  exact stauc_agree (by decide) (ctxQueryCmd_agree (by decide)) h

theorem execCtxPriority_agree {r s t} (h : execCtxPriority r s = .next t) :
    Agree [.hif, .st, .masts, .ctxs, .out] s t := by
  exact stauc_agree (by decide) (ctxPriorityCmd_agree (by decide)) h

theorem execMemGrant_agree {r s t} (h : execMemGrant r s = .next t) :
    Agree [.hif, .st, .ctxs, .out] s t := by
  exact stauc_agree (by decide) (memGrantCmd_agree (by decide)) h

theorem execMemRelease_agree {r s t} (h : execMemRelease r s = .next t) :
    Agree [.hif, .st, .ctxs, .out] s t := by
  exact stauc_agree (by decide) (memReleaseCmd_agree (by decide)) h

theorem execMemReleaseZeroed_agree {ctx mast base s t} (h : execMemReleaseZeroed ctx mast base s = .next t) :
    Agree [.hif, .st, .masts, .ctxs, .out, .cells] s t := by
  unfold execMemReleaseZeroed at h
  refine frame_on h (by decide) ?_
  unfold State.whenAlive
  repeat' first
    | with_reducible exact Agree.refl _ _
    | exact by decide
    | with_reducible apply State.releaseEnd_agree
    | with_reducible apply Agree.ite
    | intro _

theorem execMemWrite_agree {r s t} (h : execMemWrite r s = .next t) :
    Agree [.flt, .hif, .st, .masts, .hal, .pmc, .out, .cells] s t := by
  exact stauc_agree (by decide) (memWriteCmd_agree (by decide)) h

theorem execMemRead_agree {r s t} (h : execMemRead r s = .next t) :
    Agree [.pwr, .flt, .hif, .st, .masts, .ctxs, .reqs, .sess, .srvErr, .exports, .hal, .nlc, .col, .pmc, .out, .free, .cells] s t := by
  exact stauc_agree (by decide) (memReadCmd_agree (by decide)) h

theorem execShardLoad_agree {r s t} (h : execShardLoad r s = .next t) :
    Agree [.pwr, .flt, .btb, .hif, .st, .masts, .ctxs, .reqs, .sess, .srvErr, .exports, .hal, .nlc, .col, .pmc, .out, .cells] s t := by
  exact stauc_agree (by decide) (shardLoadCmd_agree (by decide)) h

theorem execShardDrop_agree {r s t} (h : execShardDrop r s = .next t) :
    Agree [.flt, .hif, .st, .hal, .nlc, .out] s t := by
  exact stauc_agree (by decide) (shardDropCmd_agree (by decide)) h

theorem execShardQuery_agree {r s t} (h : execShardQuery r s = .next t) :
    Agree [.hif, .st, .out] s t := by
  exact stauc_agree (by decide) (shardQueryCmd_agree (by decide)) h

theorem execProgLoad_agree {r s t} (h : execProgLoad r s = .next t) :
    Agree [.hif, .st, .out] s t := by
  exact stauc_agree (by decide) (progLoadCmd_agree (by decide)) h

theorem execProgCheckComplete_agree {ctx s t} (h : execProgCheckComplete ctx s = .next t) :
    Agree [.pwr, .flt, .hif, .st, .masts, .ctxs, .reqs, .sess, .srvErr, .exports, .nextExp, .hal, .nlc, .col, .pmc, .out, .cells] s t := by
  unfold execProgCheckComplete at h
  refine frame_settle h (by decide) ?_
  unfold State.whenAlive
  repeat' first
    | with_reducible exact Agree.refl _ _
    | exact by decide
    | with_reducible apply State.progChecked_agree
    | with_reducible apply Agree.ite
    | intro _

theorem execProgQuery_agree {r s t} (h : execProgQuery r s = .next t) :
    Agree [.hif, .st, .out] s t := by
  exact stauc_agree (by decide) (progQueryCmd_agree (by decide)) h

theorem execReqSubmit_agree {r s t} (h : execReqSubmit r s = .next t) :
    Agree [.pwr, .flt, .hif, .st, .masts, .ctxs, .reqs, .sess, .srvErr, .exports, .nextExp, .hal, .nlc, .col, .pmc, .out, .cells] s t := by
  exact stauc_agree (by decide) (reqSubmitCmd_agree (by decide)) h

theorem execReqCancel_agree {r s t} (h : execReqCancel r s = .next t) :
    Agree [.pwr, .flt, .hif, .st, .masts, .ctxs, .reqs, .sess, .srvErr, .exports, .nextExp, .hal, .nlc, .col, .pmc, .out, .cells] s t := by
  exact stauc_agree (by decide) (reqCancelCmd_agree (by decide)) h

theorem execReqPark_agree {r s t} (h : execReqPark r s = .next t) :
    Agree [.pwr, .flt, .hif, .st, .masts, .ctxs, .reqs, .sess, .srvErr, .exports, .nextExp, .hal, .nlc, .col, .pmc, .out, .cells] s t := by
  exact stauc_agree (by decide) (reqParkCmd_agree (by decide)) h

theorem execReqResume_agree {r s t} (h : execReqResume r s = .next t) :
    Agree [.pwr, .flt, .hif, .st, .masts, .ctxs, .reqs, .sess, .srvErr, .exports, .nextExp, .hal, .nlc, .col, .pmc, .out, .cells] s t := by
  exact stauc_agree (by decide) (reqResumeCmd_agree (by decide)) h

theorem execReqRelease_agree {r s t} (h : execReqRelease r s = .next t) :
    Agree [.pwr, .flt, .hif, .st, .masts, .ctxs, .reqs, .sess, .srvErr, .exports, .nextExp, .hal, .nlc, .col, .pmc, .out, .cells] s t := by
  exact stauc_agree (by decide) (reqReleaseCmd_agree (by decide)) h

theorem execSessionOpen_agree {r s t} (h : execSessionOpen r s = .next t) :
    Agree [.pwr, .flt, .hif, .st, .masts, .ctxs, .reqs, .sess, .srvErr, .exports, .nextExp, .hal, .nlc, .col, .pmc, .out, .cells] s t := by
  exact stauc_agree (by decide) (sessionOpenCmd_agree (by decide)) h

theorem execSessionClose_agree {r s t} (h : execSessionClose r s = .next t) :
    Agree [.pwr, .flt, .hif, .st, .masts, .ctxs, .reqs, .sess, .srvErr, .exports, .nextExp, .hal, .nlc, .col, .pmc, .out, .cells] s t := by
  exact stauc_agree (by decide) (sessionCloseCmd_agree (by decide)) h

theorem execSessionShare_agree {r s t} (h : execSessionShare r s = .next t) :
    Agree [.pwr, .flt, .hif, .st, .masts, .ctxs, .reqs, .sess, .srvErr, .exports, .nextExp, .hal, .nlc, .col, .pmc, .out, .cells] s t := by
  exact stauc_agree (by decide) (sessionShareCmd_agree (by decide)) h

theorem execSessionTruncate_agree {r s t} (h : execSessionTruncate r s = .next t) :
    Agree [.pwr, .flt, .hif, .st, .masts, .ctxs, .reqs, .sess, .srvErr, .exports, .nextExp, .hal, .nlc, .col, .pmc, .out, .cells] s t := by
  exact stauc_agree (by decide) (sessionTruncateCmd_agree (by decide)) h

theorem execSessionGlobals_agree {r s t} (h : execSessionGlobals r s = .next t) :
    Agree [.pwr, .flt, .hif, .st, .masts, .ctxs, .reqs, .sess, .srvErr, .exports, .nextExp, .hal, .nlc, .col, .pmc, .out, .cells] s t := by
  exact stauc_agree (by decide) (sessionGlobalsCmd_agree (by decide)) h

theorem execSessionQuery_agree {r s t} (h : execSessionQuery r s = .next t) :
    Agree [.hif, .st, .out] s t := by
  exact stauc_agree (by decide) (sessionQueryCmd_agree (by decide)) h

theorem execKvExport_agree {r s t} (h : execKvExport r s = .next t) :
    Agree [.pwr, .flt, .hif, .st, .masts, .ctxs, .reqs, .sess, .srvErr, .exports, .nextExp, .hal, .nlc, .col, .pmc, .out, .cells] s t := by
  exact stauc_agree (by decide) (kvExportCmd_agree (by decide)) h

theorem execMirrorSet_agree {r s t} (h : execMirrorSet r s = .next t) :
    Agree [.pwr, .flt, .hif, .st, .masts, .ctxs, .reqs, .sess, .srvErr, .exports, .nextExp, .hal, .nlc, .col, .pmc, .out, .cells] s t := by
  exact stauc_agree (by decide) (mirrorSetCmd_agree (by decide)) h

theorem execMirrorPromote_agree {r s t} (h : execMirrorPromote r s = .next t) :
    Agree [.pwr, .flt, .hif, .st, .masts, .ctxs, .reqs, .sess, .srvErr, .exports, .nextExp, .hal, .nlc, .col, .pmc, .out, .cells] s t := by
  exact stauc_agree (by decide) (mirrorPromoteCmd_agree (by decide)) h

theorem execServeConfig_agree {r s t} (h : execServeConfig r s = .next t) :
    Agree [.pwr, .flt, .hif, .st, .masts, .ctxs, .reqs, .sess, .srvErr, .exports, .nextExp, .hal, .nlc, .col, .pmc, .out, .cells] s t := by
  exact stauc_agree (by decide) (serveConfigCmd_agree (by decide)) h

theorem execLinkTrain_agree {r s t} (h : execLinkTrain r s = .next t) :
    Agree [.hif, .st, .nlc, .out] s t := by
  exact stauc_agree (by decide) (linkTrainCmd_agree (by decide)) h

theorem execLinkStop_agree {r s t} (h : execLinkStop r s = .next t) :
    Agree [.pwr, .flt, .hif, .st, .masts, .ctxs, .reqs, .sess, .srvErr, .exports, .hal, .nlc, .col, .pmc, .out, .cells] s t := by
  exact stauc_agree (by decide) (linkStopCmd_agree (by decide)) h

theorem execPlanLoad_agree {r s t} (h : execPlanLoad r s = .next t) :
    Agree [.pwr, .flt, .hif, .st, .masts, .ctxs, .reqs, .sess, .srvErr, .exports, .hal, .nlc, .col, .pmc, .out, .cells] s t := by
  exact stauc_agree (by decide) (planLoadCmd_agree (by decide)) h

theorem execPartitionSet_agree {r s t} (h : execPartitionSet r s = .next t) :
    Agree [.pwr, .flt, .hif, .st, .masts, .ctxs, .reqs, .sess, .srvErr, .exports, .hal, .nlc, .col, .pmc, .out, .cells] s t := by
  exact stauc_agree (by decide) (partitionSetCmd_agree (by decide)) h

theorem execWindowMap_agree {r s t} (h : execWindowMap r s = .next t) :
    Agree [.hif, .st, .nlc, .out] s t := by
  exact stauc_agree (by decide) (windowMapCmd_agree (by decide)) h

theorem execGroupLoad_agree {r s t} (h : execGroupLoad r s = .next t) :
    Agree [.hif, .st, .col, .out] s t := by
  exact stauc_agree (by decide) (groupLoadCmd_agree (by decide)) h

theorem execGroupUnload_agree {r s t} (h : execGroupUnload r s = .next t) :
    Agree [.hif, .st, .col, .out] s t := by
  exact stauc_agree (by decide) (groupUnloadCmd_agree (by decide)) h

theorem execCapSet_agree {r s t} (h : execCapSet r s = .next t) :
    Agree [.pwr, .flt, .hif, .st, .masts, .ctxs, .reqs, .sess, .srvErr, .exports, .nextExp, .hal, .nlc, .col, .pmc, .out, .cells] s t := by
  exact stauc_agree (by decide) (capSetCmd_agree (by decide)) h

theorem execPowerHint_agree {r s t} (h : execPowerHint r s = .next t) :
    Agree [.pwr, .hif, .st, .out] s t := by
  exact stauc_agree (by decide) (powerHintCmd_agree (by decide)) h

theorem execReefLimit_agree {r s t} (h : execReefLimit r s = .next t) :
    Agree [.pwr, .hif, .st, .out] s t := by
  exact stauc_agree (by decide) (reefLimitCmd_agree (by decide)) h

theorem execCoolResume_agree {r s t} (h : execCoolResume r s = .next t) :
    Agree [.pwr, .flt, .hif, .st, .masts, .ctxs, .reqs, .sess, .srvErr, .exports, .nextExp, .hal, .nlc, .col, .pmc, .out, .cells] s t := by
  exact stauc_agree (by decide) (coolResumeCmd_agree (by decide)) h

theorem execCtrRead_agree {r s t} (h : execCtrRead r s = .next t) :
    Agree [.hif, .st, .out] s t := by
  exact stauc_agree (by decide) (ctrReadCmd_agree (by decide)) h

theorem execCtrProgram_agree {r s t} (h : execCtrProgram r s = .next t) :
    Agree [.hif, .st, .masts, .pmc, .out] s t := by
  exact stauc_agree (by decide) (ctrProgramCmd_agree (by decide)) h

theorem execCtrGrant_agree {r s t} (h : execCtrGrant r s = .next t) :
    Agree [.hif, .st, .ctxs, .out] s t := by
  exact stauc_agree (by decide) (ctrGrantCmd_agree (by decide)) h

theorem execTelemetry_agree {r s t} (h : execTelemetry r s = .next t) :
    Agree [.hif, .st, .out] s t := by
  exact stauc_agree (by decide) (telemetryCmd_agree (by decide)) h

theorem execAttest_agree {r s t} (h : execAttest r s = .next t) :
    Agree [.btb, .hif, .st, .out] s t := by
  exact stauc_agree (by decide) (attestCmd_agree (by decide)) h

theorem execAttestReportComplete_agree {s t} (h : execAttestReportComplete s = .next t) :
    Agree [.btb, .hif, .st, .out, .free] s t := by
  unfold execAttestReportComplete at h
  refine frame_settle h (by decide) ?_
  unfold State.whenAlive
  repeat' first
    | with_reducible exact Agree.refl _ _
    | exact by decide
    | with_reducible apply State.reportDone_agree
    | with_reducible apply Agree.ite
    | intro _

theorem execCertRead_agree {r s t} (h : execCertRead r s = .next t) :
    Agree [.hif, .st, .out] s t := by
  exact stauc_agree (by decide) (certReadCmd_agree (by decide)) h

theorem execLinkKey_agree {r s t} (h : execLinkKey r s = .next t) :
    Agree [.pwr, .flt, .btb, .hif, .st, .masts, .ctxs, .reqs, .sess, .srvErr, .exports, .hal, .nlc, .col, .pmc, .out, .cells] s t := by
  exact stauc_agree (by decide) (linkKeyCmd_agree (by decide)) h

theorem execSvnCommit_agree {r s t} (h : execSvnCommit r s = .next t) :
    Agree [.btb, .hif, .st, .out] s t := by
  exact stauc_agree (by decide) (svnCommitCmd_agree (by decide)) h

theorem execFuseProgrammed_agree {s t} (h : execFuseProgrammed s = .next t) :
    Agree [.btb, .hif, .st, .out] s t := by
  unfold execFuseProgrammed at h
  refine frame_settle h (by decide) ?_
  repeat' first
    | with_reducible exact Agree.refl _ _
    | exact by decide
    | with_reducible apply State.fuseDone_agree
    | with_reducible apply Agree.ite
    | intro _

theorem execScrubChunk_agree {r s t} (h : execScrubChunk r s = .next t) :
    Agree [.pwr, .flt, .hif, .st, .masts, .ctxs, .reqs, .sess, .srvErr, .exports, .hal, .nlc, .col, .pmc, .out, .cells] s t := by
  exact stauc_agree (by decide) (maintStartCmd_agree (by decide)) h

theorem execDigestRecheck_agree {r s t} (h : execDigestRecheck r s = .next t) :
    Agree [.pwr, .flt, .hif, .st, .masts, .ctxs, .reqs, .sess, .srvErr, .exports, .hal, .nlc, .col, .pmc, .out, .cells] s t := by
  exact stauc_agree (by decide) (maintStartCmd_agree (by decide)) h

theorem execRetrain_agree {r s t} (h : execRetrain r s = .next t) :
    Agree [.pwr, .flt, .hif, .st, .masts, .ctxs, .reqs, .sess, .srvErr, .exports, .hal, .nlc, .col, .pmc, .out, .cells] s t := by
  exact stauc_agree (by decide) (maintStartCmd_agree (by decide)) h

theorem execRefreshMode_agree {r s t} (h : execRefreshMode r s = .next t) :
    Agree [.pwr, .flt, .hif, .st, .masts, .ctxs, .reqs, .sess, .srvErr, .exports, .hal, .nlc, .col, .pmc, .out, .cells] s t := by
  exact stauc_agree (by decide) (maintStartCmd_agree (by decide)) h

theorem execLogCompact_agree {r s t} (h : execLogCompact r s = .next t) :
    Agree [.pwr, .flt, .hif, .st, .masts, .ctxs, .reqs, .sess, .srvErr, .exports, .hal, .nlc, .col, .pmc, .out, .cells] s t := by
  exact stauc_agree (by decide) (maintStartCmd_agree (by decide)) h

theorem execMaintQuery_agree {r s t} (h : execMaintQuery r s = .next t) :
    Agree [.hif, .st, .out] s t := by
  exact stauc_agree (by decide) (maintQueryCmd_agree (by decide)) h

theorem execLogRead_agree {r s t} (h : execLogRead r s = .next t) :
    Agree [.hif, .st, .out] s t := by
  exact stauc_agree (by decide) (logReadCmd_agree (by decide)) h

theorem execScrubSchedule_agree {s t} (h : execScrubSchedule s = .next t) :
    Agree [.flt, .hal] s t := by
  unfold execScrubSchedule at h
  refine frame_settle h (by decide) ?_
  unfold State.whenAlive
  repeat' first
    | with_reducible exact Agree.refl _ _
    | exact by decide
    | with_reducible apply State.deviceMaint_agree
    | with_reducible apply Agree.ite
    | intro _

theorem execScrubChunkComplete_agree {found s t} (h : execScrubChunkComplete found s = .next t) :
    Agree [.cn, .pwr, .flt, .hif, .st, .masts, .ctxs, .reqs, .sess, .srvErr, .exports, .hal, .nlc, .col, .pmc, .out, .cells] s t := by
  unfold execScrubChunkComplete at h
  refine frame_settle h (by decide) ?_
  unfold State.whenAlive
  repeat' first
    | with_reducible exact Agree.refl _ _
    | exact by decide
    | with_reducible apply State.scrubEnd_agree
    | with_reducible apply Agree.ite
    | intro _

theorem execRecheckSchedule_agree {s t} (h : execRecheckSchedule s = .next t) :
    Agree [.flt, .hal] s t := by
  unfold execRecheckSchedule at h
  refine frame_settle h (by decide) ?_
  unfold State.whenAlive
  repeat' first
    | with_reducible exact Agree.refl _ _
    | exact by decide
    | with_reducible apply State.deviceMaint_agree
    | with_reducible apply Agree.ite
    | exact fun q => by simpa only [tkeys_tmap, tkeys_tmod] using q
    | intro _
    | split
    | dsimp only
    | with_reducible apply Agree.upd_hal

theorem execRecheckComplete_agree {s t} (h : execRecheckComplete s = .next t) :
    Agree [.pwr, .flt, .hif, .st, .masts, .ctxs, .reqs, .sess, .srvErr, .exports, .hal, .nlc, .col, .pmc, .out, .cells] s t := by
  unfold execRecheckComplete at h
  refine frame_settle h (by decide) ?_
  unfold State.whenAlive
  repeat' first
    | with_reducible exact Agree.refl _ _
    | exact by decide
    | with_reducible apply State.recheckEnd_agree
    | with_reducible apply Agree.ite
    | intro _

theorem execRefreshModeComplete_agree {s t} (h : execRefreshModeComplete s = .next t) :
    Agree [.flt, .hif, .st, .masts, .hal, .out] s t := by
  unfold execRefreshModeComplete at h
  refine frame_settle h (by decide) ?_
  unfold State.whenAlive
  repeat' first
    | with_reducible exact Agree.refl _ _
    | exact by decide
    | with_reducible apply State.refreshEnd_agree
    | with_reducible apply Agree.ite
    | intro _

theorem execLogCompactAuto_agree {s t} (h : execLogCompactAuto s = .next t) :
    Agree [.flt, .hal] s t := by
  unfold execLogCompactAuto at h
  refine frame_settle h (by decide) ?_
  unfold State.whenAlive
  repeat' first
    | with_reducible exact Agree.refl _ _
    | exact by decide
    | with_reducible apply State.deviceMaint_agree
    | with_reducible apply Agree.ite
    | intro _

theorem execLogCompactComplete_agree {s t} (h : execLogCompactComplete s = .next t) :
    Agree [.flt, .hif, .st, .hal, .out] s t := by
  unfold execLogCompactComplete at h
  refine frame_settle h (by decide) ?_
  unfold State.whenAlive
  repeat' first
    | with_reducible exact Agree.refl _ _
    | exact by decide
    | exact fun q => (Faults.compact_fatal _).trans q
    | with_reducible apply State.endMaint_agree
    | with_reducible apply Agree.ite
    | exact fun q => by simpa only [tkeys_tmap, tkeys_tmod] using q
    | intro _
    | with_reducible apply Agree.upd_flt

theorem execLogRecordWritten_agree {s t} (h : execLogRecordWritten s = .next t) :
    Agree [.flt] s t := by
  unfold execLogRecordWritten at h
  refine frame_settle h (by decide) ?_
  repeat' first
    | with_reducible exact Agree.refl _ _
    | exact by decide
    | exact fun q => (Faults.written_fatal _).trans q
    | with_reducible apply Agree.ite
    | exact fun q => by simpa only [tkeys_tmap, tkeys_tmod] using q
    | intro _
    | with_reducible apply Agree.upd_flt

theorem execEventNoticeSend_agree {s t} (h : execEventNoticeSend s = .next t) :
    Agree [.hif, .st, .out] s t := by
  unfold execEventNoticeSend at h
  refine frame_settle h (by decide) ?_
  unfold State.whenAlive
  repeat' first
    | with_reducible exact Agree.refl _ _
    | exact by decide
    | with_reducible apply State.sendNotice_agree
    | with_reducible apply Agree.ite
    | intro _

theorem execAnswerSend_agree {ch s t} (h : execAnswerSend ch s = .next t) :
    Agree [.cn, .pwr, .flt, .btb, .hif, .st, .masts, .ctxs, .zeroing, .reqs, .sess, .srvSel, .srvErr, .exports, .nextExp, .hal, .nlc, .col, .pmc, .out, .free, .cells] s t := by
  unfold execAnswerSend at h
  refine frame_on h (by decide) ?_
  unfold State.whenAlive
  repeat' first
    | with_reducible exact Agree.refl _ _
    | exact by decide
    | with_reducible apply State.sendAnswer_agree
    | with_reducible apply Agree.ite
    | intro _

theorem execHeartbeat_agree {s t} (h : execHeartbeat s = .next t) :
    Agree [.pwr, .out] s t := by
  unfold execHeartbeat at h
  refine frame_settle h (by decide) ?_
  unfold State.endpoint
  repeat' first
    | with_reducible exact Agree.refl _ _
    | exact by decide
    | with_reducible apply State.modPwr_agree
    | with_reducible apply State.emit_agree
    | with_reducible apply Agree.ite
    | exact fun q => q
    | intro _

theorem execTelemetryGet_agree {s t} (h : execTelemetryGet s = .next t) :
    Agree [.out] s t := by
  unfold execTelemetryGet at h
  refine frame_settle h (by decide) ?_
  unfold State.endpoint
  repeat' first
    | with_reducible exact Agree.refl _ _
    | exact by decide
    | with_reducible apply State.emit_agree
    | with_reducible apply Agree.ite
    | intro _

theorem execCapSetMgmt_agree {watts s t} (h : execCapSetMgmt watts s = .next t) :
    Agree [.pwr, .flt, .hif, .st, .masts, .ctxs, .reqs, .sess, .srvErr, .exports, .nextExp, .hal, .nlc, .col, .pmc, .out, .cells] s t := by
  unfold execCapSetMgmt at h
  refine frame_settle h (by decide) ?_
  unfold State.endpoint
  repeat' first
    | with_reducible exact Agree.refl _ _
    | exact by decide
    | with_reducible apply State.capMgmtSet_agree
    | with_reducible apply State.emit_agree
    | with_reducible apply Agree.ite
    | intro _

theorem execIdentGet_agree {s t} (h : execIdentGet s = .next t) :
    Agree [.out] s t := by
  unfold execIdentGet at h
  refine frame_settle h (by decide) ?_
  unfold State.endpoint
  repeat' first
    | with_reducible exact Agree.refl _ _
    | exact by decide
    | with_reducible apply State.emit_agree
    | with_reducible apply Agree.ite
    | intro _

theorem execAttestGet_agree {nonce part s t} (h : execAttestGet nonce part s = .next t) :
    Agree [.btb, .out] s t := by
  unfold execAttestGet at h
  refine frame_settle h (by decide) ?_
  unfold State.endpoint
  repeat' first
    | with_reducible exact Agree.refl _ _
    | exact by decide
    | with_reducible apply State.attestPart_agree
    | with_reducible apply State.emit_agree
    | with_reducible apply Agree.ite
    | intro _

theorem execCertGet_agree {index part s t} (h : execCertGet index part s = .next t) :
    Agree [.out] s t := by
  unfold execCertGet at h
  refine frame_settle h (by decide) ?_
  unfold State.endpoint
  repeat' first
    | with_reducible exact Agree.refl _ _
    | exact by decide
    | with_reducible apply State.certPart_agree
    | with_reducible apply State.emit_agree
    | with_reducible apply Agree.ite
    | intro _

theorem execHeartbeatLost_agree {s t} (h : execHeartbeatLost s = .next t) :
    Agree [.pwr, .flt, .st, .pmc] s t := by
  unfold execHeartbeatLost at h
  refine frame_settle h (by decide) ?_
  unfold State.whenAlive
  repeat' first
    | with_reducible exact Agree.refl _ _
    | exact by decide
    | with_reducible apply State.heartbeatOver_agree
    | with_reducible apply Agree.ite
    | intro _

theorem execPwrCapWrite_agree {val s t} (h : execPwrCapWrite val s = .next t) :
    Agree [.cn, .pwr, .flt, .btb, .hif, .st, .masts, .ctxs, .reqs, .sess, .srvSel, .srvErr, .exports, .nextExp, .hal, .nlc, .col, .pmc, .out, .cells] s t := by
  unfold execPwrCapWrite at h
  refine frame_settle h (by decide) ?_
  repeat' first
    | with_reducible exact Agree.refl _ _
    | exact by decide
    | with_reducible apply State.hostWrite_agree

theorem execMcBandWrite_agree {mast band val s t} (h : execMcBandWrite mast band val s = .next t) :
    Agree [.cn, .pwr, .flt, .btb, .hif, .st, .masts, .ctxs, .reqs, .sess, .srvSel, .srvErr, .exports, .nextExp, .hal, .nlc, .col, .pmc, .out, .cells] s t := by
  unfold execMcBandWrite at h
  refine frame_on h (by decide) ?_
  repeat' first
    | with_reducible exact Agree.refl _ _
    | exact by decide
    | with_reducible apply State.hostWrite_agree
    | with_reducible apply Agree.ite
    | intro _

theorem execBandChangeComplete_agree {mast band s t} (h : execBandChangeComplete mast band s = .next t) :
    Agree [.masts, .cells] s t := by
  unfold execBandChangeComplete at h
  refine frame_on h (by decide) ?_
  unfold State.whenAlive
  repeat' first
    | with_reducible exact Agree.refl _ _
    | exact by decide
    | with_reducible apply State.bandDone_agree
    | with_reducible apply Agree.ite
    | intro _

theorem execNlcDeadClear_agree {k val s t} (h : execNlcDeadClear k val s = .next t) :
    Agree [.cn, .pwr, .flt, .btb, .hif, .st, .masts, .ctxs, .reqs, .sess, .srvSel, .srvErr, .exports, .nextExp, .hal, .nlc, .col, .pmc, .out, .cells] s t := by
  unfold execNlcDeadClear at h
  refine frame_settle h (by decide) ?_
  repeat' first
    | with_reducible exact Agree.refl _ _
    | exact by decide
    | with_reducible apply State.hostWrite_agree
    | with_reducible apply Agree.ite
    | intro _

theorem execHifFlush_agree {s t} (h : execHifFlush s = .next t) :
    Agree [.cn, .pwr, .flt, .btb, .hif, .st, .masts, .ctxs, .reqs, .sess, .srvSel, .srvErr, .exports, .nextExp, .hal, .nlc, .col, .pmc, .out, .cells] s t := by
  unfold execHifFlush at h
  refine frame_settle h (by decide) ?_
  repeat' first
    | with_reducible exact Agree.refl _ _
    | exact by decide
    | with_reducible apply State.hostWrite_agree

theorem execHifRetry_agree {mask s t} (h : execHifRetry mask s = .next t) :
    Agree [.cn, .pwr, .flt, .btb, .hif, .st, .masts, .ctxs, .reqs, .sess, .srvSel, .srvErr, .exports, .nextExp, .hal, .nlc, .col, .pmc, .out, .cells] s t := by
  unfold execHifRetry at h
  refine frame_settle h (by decide) ?_
  repeat' first
    | with_reducible exact Agree.refl _ _
    | exact by decide
    | with_reducible apply State.hostWrite_agree

theorem execTtClear_agree {mast ctx layer s t} (h : execTtClear mast ctx layer s = .next t) :
    Agree [.cn, .pwr, .flt, .btb, .hif, .st, .masts, .ctxs, .reqs, .sess, .srvSel, .srvErr, .exports, .nextExp, .hal, .nlc, .col, .pmc, .out, .cells] s t := by
  unfold execTtClear at h
  refine frame_on h (by decide) ?_
  repeat' first
    | with_reducible exact Agree.refl _ _
    | exact by decide
    | with_reducible apply State.hostWrite_agree

theorem execTtPin_agree {mast ctx layer s t} (h : execTtPin mast ctx layer s = .next t) :
    Agree [.cn, .pwr, .flt, .btb, .hif, .st, .masts, .ctxs, .reqs, .sess, .srvSel, .srvErr, .exports, .nextExp, .hal, .nlc, .col, .pmc, .out, .cells] s t := by
  unfold execTtPin at h
  refine frame_on h (by decide) ?_
  repeat' first
    | with_reducible exact Agree.refl _ _
    | exact by decide
    | with_reducible apply State.hostWrite_agree

theorem execPmcCompatWrite_agree {val s t} (h : execPmcCompatWrite val s = .next t) :
    Agree [.cn, .pwr, .flt, .btb, .hif, .st, .masts, .ctxs, .reqs, .sess, .srvSel, .srvErr, .exports, .nextExp, .hal, .nlc, .col, .pmc, .out, .cells] s t := by
  unfold execPmcCompatWrite at h
  refine frame_settle h (by decide) ?_
  repeat' first
    | with_reducible exact Agree.refl _ _
    | exact by decide
    | with_reducible apply State.hostWrite_agree

theorem execCnTimeLoRead_agree {s t} (h : execCnTimeLoRead s = .next t) :
    Agree [.cn, .out] s t := by
  unfold execCnTimeLoRead at h
  refine frame_settle h (by decide) ?_
  repeat' first
    | with_reducible exact Agree.refl _ _
    | exact by decide
    | with_reducible apply State.sidebandRead_agree

theorem execSbMemRead_agree {off s t} (h : execSbMemRead off s = .next t) :
    Agree [.cn, .out] s t := by
  unfold execSbMemRead at h
  refine frame_settle h (by decide) ?_
  repeat' first
    | with_reducible exact Agree.refl _ _
    | exact by decide
    | with_reducible apply State.sidebandRead_agree

theorem execSbMemWrite_agree {off val s t} (h : execSbMemWrite off val s = .next t) :
    Agree [.cn, .pwr, .flt, .btb, .hif, .st, .masts, .ctxs, .reqs, .sess, .srvSel, .srvErr, .exports, .nextExp, .hal, .nlc, .col, .pmc, .out, .cells] s t := by
  unfold execSbMemWrite at h
  refine frame_settle h (by decide) ?_
  repeat' first
    | with_reducible exact Agree.refl _ _
    | exact by decide
    | with_reducible apply State.hostWrite_agree

theorem execFwChunk_agree {off data s t} (h : execFwChunk off data s = .next t) :
    Agree [.hif] s t := by
  unfold execFwChunk at h
  refine frame_settle h (by decide) ?_
  repeat' first
    | with_reducible exact Agree.refl _ _
    | exact by decide
    | with_reducible apply State.fwChunk_agree

theorem execFwDone_agree {len s t} (h : execFwDone len s = .next t) :
    Agree [.btb, .hif, .out] s t := by
  unfold execFwDone at h
  refine frame_settle h (by decide) ?_
  repeat' first
    | with_reducible exact Agree.refl _ _
    | exact by decide
    | with_reducible apply State.fwDone_agree

theorem execFwVerify_agree {s t} (h : execFwVerify s = .next t) :
    Agree [.cn, .pwr, .flt, .btb, .hif, .st, .pmc, .out, .free] s t := by
  unfold execFwVerify at h
  refine frame_settle h (by decide) ?_
  repeat' first
    | with_reducible exact Agree.refl _ _
    | exact by decide
    | with_reducible apply State.fwVerify_agree

theorem execAliasRsaReady_agree {s t} (h : execAliasRsaReady s = .next t) :
    Agree [.btb] s t := by
  unfold execAliasRsaReady at h
  refine frame_settle h (by decide) ?_
  unfold State.whenAlive
  repeat' first
    | with_reducible exact Agree.refl _ _
    | exact by decide
    | with_reducible apply Agree.ite
    | exact fun q => by simpa only [tkeys_tmap, tkeys_tmod] using q
    | exact Nat.le_refl _
    | intro _
    | dsimp only
    | with_reducible apply Agree.upd_btb

theorem execFlitReceive_agree {m flit s t} (h : execFlitReceive m flit s = .next t) :
    Agree [.cn, .pwr, .flt, .btb, .hif, .st, .masts, .ctxs, .zeroing, .reqs, .sess, .srvSel, .srvErr, .exports, .nextExp, .hal, .nlc, .col, .pmc, .out, .free, .cells] s t := by
  unfold execFlitReceive at h
  refine frame_on h (by decide) ?_
  repeat' first
    | with_reducible exact Agree.refl _ _
    | exact by decide
    | with_reducible apply State.flitIn_agree

theorem execFlitAckTimeout_agree {m s t} (h : execFlitAckTimeout m s = .next t) :
    Agree [.flt, .hif, .st, .pmc, .out] s t := by
  unfold execFlitAckTimeout at h
  refine frame_on h (by decide) ?_
  repeat' first
    | with_reducible exact Agree.refl _ _
    | exact by decide
    | with_reducible apply State.moduleRetrain_agree
    | with_reducible apply Agree.ite
    | intro _

theorem execModuleRetrainComplete_agree {m ok lanes repaired s t} (h : execModuleRetrainComplete m ok lanes repaired s = .next t) :
    Agree [.flt, .hif, .st, .pmc, .out] s t := by
  unfold execModuleRetrainComplete at h
  refine frame_on h (by decide) ?_
  repeat' first
    | with_reducible exact Agree.refl _ _
    | exact by decide
    | with_reducible apply State.modHmod_agree
    | with_reducible apply State.moduleRetrained_agree
    | with_reducible apply State.moduleRetrainFails_agree
    | with_reducible apply Agree.ite
    | intro _

theorem execResumeFlitReceive_agree {m flit s t} (h : execResumeFlitReceive m flit s = .next t) :
    Agree [.cn, .pwr, .flt, .btb, .hif, .st, .masts, .ctxs, .zeroing, .reqs, .sess, .srvSel, .srvErr, .exports, .nextExp, .hal, .nlc, .col, .pmc, .out, .free, .cells] s t := by
  unfold execResumeFlitReceive at h
  refine frame_on h (by decide) ?_
  repeat' first
    | with_reducible exact Agree.refl _ _
    | exact by decide
    | with_reducible apply State.goodFlit_agree
    | with_reducible apply Agree.ite
    | intro _

theorem execChannelRebindHome_agree {ch s t} (h : execChannelRebindHome ch s = .next t) :
    Agree [.st] s t := by
  unfold execChannelRebindHome at h
  refine frame_on h (by decide) ?_
  repeat' first
    | with_reducible exact Agree.refl _ _
    | exact by decide
    | with_reducible apply State.modChan_agree
    | with_reducible apply Agree.ite
    | exact fun _ _ q => q
    | intro _

theorem execStepBoundary_agree {ctx s t} (h : execStepBoundary ctx s = .next t) :
    Agree [.pwr, .flt, .hif, .st, .masts, .ctxs, .reqs, .sess, .srvErr, .exports, .nextExp, .hal, .nlc, .col, .pmc, .out, .free, .cells] s t := by
  unfold execStepBoundary at h
  refine frame_settle h (by decide) ?_
  unfold State.whenAlive
  repeat' first
    | with_reducible exact Agree.refl _ _
    | exact by decide
    | with_reducible apply State.stepEnds_agree
    | with_reducible apply Agree.ite
    | intro _

theorem execDeadlineDue_agree {ctx s t} (h : execDeadlineDue ctx s = .next t) :
    Agree [.pwr, .flt, .hif, .st, .masts, .ctxs, .reqs, .sess, .srvErr, .exports, .nextExp, .hal, .nlc, .col, .pmc, .out, .cells] s t := by
  unfold execDeadlineDue at h
  refine frame_settle h (by decide) ?_
  unfold State.whenAlive
  repeat' first
    | with_reducible exact Agree.refl _ _
    | exact by decide
    | with_reducible apply State.idle_agree
    | with_reducible apply Agree.ite
    | intro _

theorem execSampling_agree {ctx logits s t} (h : execSampling ctx logits s = .next t) :
    Agree [.masts, .ctxs, .srvErr, .nlc, .out] s t := by
  unfold execSampling at h
  refine frame_settle h (by decide) ?_
  unfold State.whenAlive
  repeat' first
    | with_reducible exact Agree.refl _ _
    | exact by decide
    | with_reducible apply State.sampling_agree
    | with_reducible apply Agree.ite
    | intro _

theorem execMirrorAckReceive_agree {ctx step ringPos lost s t} (h : execMirrorAckReceive ctx step ringPos lost s = .next t) :
    Agree [.pwr, .flt, .hif, .st, .masts, .ctxs, .reqs, .sess, .srvErr, .exports, .nextExp, .hal, .nlc, .col, .pmc, .out, .cells] s t := by
  unfold execMirrorAckReceive at h
  refine frame_settle h (by decide) ?_
  unfold State.whenAlive
  unfold State.whenAssigned
  repeat' first
    | with_reducible exact Agree.refl _ _
    | exact by decide
    | with_reducible apply State.mirrorAck_agree
    | with_reducible apply Agree.ite
    | intro _

theorem execMirrorTimeout_agree {ctx s t} (h : execMirrorTimeout ctx s = .next t) :
    Agree [.pwr, .flt, .hif, .st, .masts, .ctxs, .reqs, .sess, .srvErr, .exports, .nextExp, .hal, .nlc, .col, .pmc, .out, .cells] s t := by
  unfold execMirrorTimeout at h
  refine frame_settle h (by decide) ?_
  unfold State.whenAlive
  repeat' first
    | with_reducible exact Agree.refl _ _
    | exact by decide
    | with_reducible apply State.mirrorLost_agree
    | with_reducible apply Agree.ite
    | intro _

theorem execBundleTransmit_agree {ctx s t} (h : execBundleTransmit ctx s = .next t) :
    Agree [.pwr, .flt, .hif, .st, .masts, .ctxs, .reqs, .sess, .srvErr, .exports, .nextExp, .hal, .nlc, .col, .pmc, .out, .cells] s t := by
  unfold execBundleTransmit at h
  refine frame_settle h (by decide) ?_
  unfold State.whenAlive
  repeat' first
    | with_reducible exact Agree.refl _ _
    | exact by decide
    | with_reducible apply State.sendParts_agree
    | with_reducible apply Agree.ite
    | intro _

theorem execExportHeaderReceive_agree {h s t} (h : execExportHeaderReceive h s = .next t) :
    Agree [.pwr, .flt, .hif, .st, .masts, .ctxs, .reqs, .sess, .srvErr, .exports, .nextExp, .imports, .hal, .nlc, .col, .pmc, .out, .cells] s t := by
  unfold execExportHeaderReceive at h
  refine frame_settle h (by decide) ?_
  unfold State.whenAlive
  unfold State.whenAssigned
  repeat' first
    | with_reducible exact Agree.refl _ _
    | exact by decide
    | with_reducible apply State.headerIn_agree
    | with_reducible apply Agree.ite
    | intro _

theorem execExportPageReceive_agree {p s t} (h : execExportPageReceive p s = .next t) :
    Agree [.pwr, .flt, .hif, .st, .masts, .ctxs, .reqs, .sess, .srvErr, .exports, .nextExp, .imports, .hal, .nlc, .col, .pmc, .out, .cells] s t := by
  unfold execExportPageReceive at h
  refine frame_settle h (by decide) ?_
  unfold State.whenAlive
  unfold State.whenAssigned
  repeat' first
    | with_reducible exact Agree.refl _ _
    | exact by decide
    | with_reducible apply State.pageIn_agree
    | with_reducible apply Agree.ite
    | intro _

theorem execExportPageAckReceive_agree {exportId page refused s t} (h : execExportPageAckReceive exportId page refused s = .next t) :
    Agree [.pwr, .flt, .hif, .st, .masts, .ctxs, .reqs, .sess, .srvErr, .exports, .nextExp, .hal, .nlc, .col, .pmc, .out, .cells] s t := by
  unfold execExportPageAckReceive at h
  refine frame_settle h (by decide) ?_
  unfold State.whenAlive
  unfold State.whenAssigned
  repeat' first
    | with_reducible exact Agree.refl _ _
    | exact by decide
    | with_reducible apply State.pageEnds_agree
    | with_reducible apply Agree.ite
    | intro _

theorem execExportPageTimeout_agree {exportId page s t} (h : execExportPageTimeout exportId page s = .next t) :
    Agree [.pwr, .flt, .hif, .st, .masts, .ctxs, .reqs, .sess, .srvErr, .exports, .nextExp, .hal, .nlc, .col, .pmc, .out, .cells] s t := by
  unfold execExportPageTimeout at h
  refine frame_settle h (by decide) ?_
  unfold State.whenAlive
  repeat' first
    | with_reducible exact Agree.refl _ _
    | exact by decide
    | with_reducible apply State.pageEnds_agree
    | with_reducible apply Agree.ite
    | intro _

theorem execGroupedCall_agree {ctx mast desc errs upsets s t} (h : execGroupedCall ctx mast desc errs upsets s = .next t) :
    Agree [.cn, .pwr, .flt, .hif, .st, .masts, .ctxs, .reqs, .sess, .srvErr, .exports, .hal, .nlc, .col, .pmc, .out, .free, .cells] s t := by
  unfold execGroupedCall at h
  refine frame_on h (by decide) ?_
  unfold State.whenAlive
  repeat' first
    | with_reducible exact Agree.refl _ _
    | exact by decide
    | with_reducible apply State.groupedDesc_agree
    | with_reducible apply State.strikeAll_agree
    | with_reducible apply State.meErr_agree
    | with_reducible apply State.withDesc_agree
    | with_reducible apply Agree.ite
    | intro _

theorem execGroupedCallComplete_agree {ctx mast s t} (h : execGroupedCallComplete ctx mast s = .next t) :
    Agree [.masts, .ctxs] s t := by
  unfold execGroupedCallComplete at h
  refine frame_on h (by decide) ?_
  unfold State.whenAlive
  repeat' first
    | with_reducible exact Agree.refl _ _
    | exact by decide
    | with_reducible apply State.modMast_agree
    | with_reducible apply State.callEnded_agree
    | with_reducible apply Agree.ite
    | exact fun q => by simpa only [tkeys_tmap, tkeys_tmod] using q
    | exact fun z => MastTo.same rfl rfl fun q => q
    | intro _
    | split

theorem execTtCompare_agree {mast s t} (h : execTtCompare mast s = .next t) :
    Agree [.masts] s t := by
  unfold execTtCompare at h
  refine frame_on h (by decide) ?_
  unfold State.whenAlive
  repeat' first
    | with_reducible exact Agree.refl _ _
    | exact by decide
    | with_reducible apply State.compareTile_agree
    | with_reducible apply Agree.ite
    | intro _

theorem execRoutingCall_agree {ctx mast desc s t} (h : execRoutingCall ctx mast desc s = .next t) :
    Agree [.pwr, .flt, .hif, .st, .masts, .ctxs, .reqs, .sess, .srvErr, .exports, .hal, .nlc, .col, .pmc, .out, .cells] s t := by
  unfold execRoutingCall at h
  refine frame_on h (by decide) ?_
  unfold State.whenAlive
  repeat' first
    | with_reducible exact Agree.refl _ _
    | exact by decide
    | with_reducible apply State.routeRun_agree
    | with_reducible apply State.rtuDesc_agree
    | with_reducible apply Agree.ite
    | intro _

theorem execIntakeCall_agree {ctx mast desc s t} (h : execIntakeCall ctx mast desc s = .next t) :
    Agree [.pwr, .flt, .hif, .st, .masts, .ctxs, .reqs, .sess, .srvErr, .exports, .hal, .nlc, .col, .pmc, .out, .cells] s t := by
  unfold execIntakeCall at h
  refine frame_on h (by decide) ?_
  unfold State.whenAlive
  repeat' first
    | with_reducible exact Agree.refl _ _
    | exact by decide
    | with_reducible apply State.intakeRun_agree
    | with_reducible apply State.rtuDesc_agree
    | with_reducible apply Agree.ite
    | intro _

theorem execCombineCall_agree {ctx mast desc s t} (h : execCombineCall ctx mast desc s = .next t) :
    Agree [.pwr, .flt, .hif, .st, .masts, .ctxs, .reqs, .sess, .srvErr, .exports, .hal, .nlc, .col, .pmc, .out, .free, .cells] s t := by
  unfold execCombineCall at h
  refine frame_on h (by decide) ?_
  unfold State.whenAlive
  repeat' first
    | with_reducible exact Agree.refl _ _
    | exact by decide
    | with_reducible apply State.combineRun_agree
    | with_reducible apply State.rtuDesc_agree
    | with_reducible apply Agree.ite
    | intro _

theorem execAttentionCall_agree {ctx mast ae desc upsets s t} (h : execAttentionCall ctx mast ae desc upsets s = .next t) :
    Agree [.cn, .pwr, .flt, .hif, .st, .masts, .ctxs, .reqs, .sess, .srvErr, .exports, .hal, .nlc, .col, .pmc, .out, .cells] s t := by
  unfold execAttentionCall at h
  refine frame_on h (by decide) ?_
  unfold State.whenAlive
  repeat' first
    | with_reducible exact Agree.refl _ _
    | exact by decide
    | with_reducible apply State.atOnce_agree
    | with_reducible apply State.attnDesc_agree
    | with_reducible apply State.strikeAll_agree
    | with_reducible apply State.aeErr_agree
    | with_reducible apply Agree.ite
    | intro _

theorem execSealImageBuild_agree {mast s t} (h : execSealImageBuild mast s = .next t) :
    Agree [.pwr, .flt, .hif, .st, .masts, .ctxs, .reqs, .sess, .srvErr, .exports, .hal, .nlc, .col, .pmc, .out, .cells] s t := by
  unfold execSealImageBuild at h
  refine frame_on h (by decide) ?_
  unfold State.whenAlive
  repeat' first
    | with_reducible exact Agree.refl _ _
    | with_reducible assumption
    | exact by decide
    | with_reducible apply State.modMast_agree
    | with_reducible apply State.raiseMet_agree
    | with_reducible apply State.takeStages_agree
    | with_reducible apply Agree.ite
    | with_reducible apply Agree.foldl
    | exact fun z => MastTo.same rfl rfl fun q => q
    | intro _

theorem execSealImageComplete_agree {mast s t} (h : execSealImageComplete mast s = .next t) :
    Agree [.pwr, .flt, .hif, .st, .masts, .ctxs, .reqs, .sess, .srvErr, .exports, .nextExp, .hal, .nlc, .col, .pmc, .out, .cells] s t := by
  unfold execSealImageComplete at h
  refine frame_on h (by decide) ?_
  unfold State.whenAlive
  repeat' first
    | with_reducible exact Agree.refl _ _
    | exact by decide
    | with_reducible apply State.sealDone_agree
    | with_reducible apply Agree.ite
    | intro _

theorem execFabricCopyCall_agree {ctx mast desc s t} (h : execFabricCopyCall ctx mast desc s = .next t) :
    Agree [.pwr, .flt, .hif, .st, .masts, .ctxs, .reqs, .sess, .srvErr, .exports, .hal, .nlc, .col, .pmc, .out, .cells] s t := by
  unfold execFabricCopyCall at h
  refine frame_on h (by decide) ?_
  unfold State.whenAlive
  repeat' first
    | with_reducible exact Agree.refl _ _
    | exact by decide
    | with_reducible apply State.copyRun_agree
    | with_reducible apply State.withDesc_agree
    | with_reducible apply Agree.ite
    | intro _

theorem execCounterReadCall_agree {ctx mast desc s t} (h : execCounterReadCall ctx mast desc s = .next t) :
    Agree [.pwr, .flt, .hif, .st, .masts, .ctxs, .reqs, .sess, .srvErr, .exports, .hal, .nlc, .col, .pmc, .out, .cells] s t := by
  unfold execCounterReadCall at h
  refine frame_on h (by decide) ?_
  unfold State.whenAlive
  repeat' first
    | with_reducible exact Agree.refl _ _
    | exact by decide
    | with_reducible apply State.atOnce_agree
    | with_reducible apply State.counterRun_agree
    | with_reducible apply Agree.ite
    | intro _

theorem execCollectiveCall_agree {ctx mast desc s t} (h : execCollectiveCall ctx mast desc s = .next t) :
    Agree [.pwr, .flt, .hif, .st, .masts, .ctxs, .reqs, .sess, .srvErr, .exports, .hal, .nlc, .col, .pmc, .out, .cells] s t := by
  unfold execCollectiveCall at h
  refine frame_on h (by decide) ?_
  unfold State.whenAlive
  repeat' first
    | with_reducible exact Agree.refl _ _
    | exact by decide
    | with_reducible apply State.colErr_agree
    | with_reducible apply State.collective_agree
    | with_reducible apply State.withDesc_agree
    | with_reducible apply Agree.ite
    | intro _

theorem execColDataReceive_agree {p s t} (h : execColDataReceive p s = .next t) :
    Agree [.pwr, .flt, .hif, .st, .masts, .ctxs, .reqs, .sess, .srvErr, .exports, .hal, .nlc, .col, .pmc, .out, .cells] s t := by
  unfold execColDataReceive at h
  refine frame_on h (by decide) ?_
  unfold State.whenAlive
  repeat' first
    | with_reducible exact Agree.refl _ _
    | exact by decide
    | with_reducible apply State.colKind_agree
    | with_reducible apply Agree.ite
    | intro _

theorem execColAckReceive_agree {p s t} (h : execColAckReceive p s = .next t) :
    Agree [.pwr, .flt, .hif, .st, .masts, .ctxs, .reqs, .sess, .srvErr, .exports, .hal, .nlc, .col, .pmc, .out, .cells] s t := by
  unfold execColAckReceive at h
  refine frame_on h (by decide) ?_
  unfold State.whenAlive
  repeat' first
    | with_reducible exact Agree.refl _ _
    | exact by decide
    | with_reducible apply State.colKind_agree
    | with_reducible apply Agree.ite
    | intro _

theorem execColAckSend_agree {group mast srcRank s t} (h : execColAckSend group mast srcRank s = .next t) :
    Agree [.pwr, .flt, .hif, .st, .masts, .ctxs, .reqs, .sess, .srvErr, .exports, .hal, .nlc, .col, .pmc, .out, .cells] s t := by
  unfold execColAckSend at h
  refine frame_on h (by decide) ?_
  unfold State.whenAlive
  repeat' first
    | with_reducible exact Agree.refl _ _
    | exact by decide
    | with_reducible apply State.hubSettle_agree
    | with_reducible apply State.sendAck_agree
    | with_reducible apply Agree.ite
    | intro _

theorem execColEndReceive_agree {p s t} (h : execColEndReceive p s = .next t) :
    Agree [.pwr, .flt, .hif, .st, .masts, .ctxs, .reqs, .sess, .srvErr, .exports, .hal, .nlc, .col, .pmc, .out, .cells] s t := by
  unfold execColEndReceive at h
  refine frame_on h (by decide) ?_
  unfold State.whenAlive
  repeat' first
    | with_reducible exact Agree.refl _ _
    | exact by decide
    | with_reducible apply State.colKind_agree
    | with_reducible apply Agree.ite
    | intro _

theorem execColAbortReceive_agree {p s t} (h : execColAbortReceive p s = .next t) :
    Agree [.pwr, .flt, .hif, .st, .masts, .ctxs, .reqs, .sess, .srvErr, .exports, .hal, .nlc, .col, .pmc, .out, .cells] s t := by
  unfold execColAbortReceive at h
  refine frame_on h (by decide) ?_
  unfold State.whenAlive
  repeat' first
    | with_reducible exact Agree.refl _ _
    | exact by decide
    | with_reducible apply State.colKind_agree
    | with_reducible apply Agree.ite
    | intro _

theorem execColWithdrawReceive_agree {p s t} (h : execColWithdrawReceive p s = .next t) :
    Agree [.pwr, .flt, .hif, .st, .masts, .ctxs, .reqs, .sess, .srvErr, .exports, .hal, .nlc, .col, .pmc, .out, .cells] s t := by
  unfold execColWithdrawReceive at h
  refine frame_on h (by decide) ?_
  unfold State.whenAlive
  repeat' first
    | with_reducible exact Agree.refl _ _
    | exact by decide
    | with_reducible apply State.colKind_agree
    | with_reducible apply Agree.ite
    | intro _

theorem execColSwRefuseReceive_agree {p s t} (h : execColSwRefuseReceive p s = .next t) :
    Agree [.pwr, .flt, .hif, .st, .masts, .ctxs, .reqs, .sess, .srvErr, .exports, .hal, .nlc, .col, .pmc, .out, .cells] s t := by
  unfold execColSwRefuseReceive at h
  refine frame_on h (by decide) ?_
  unfold State.whenAlive
  repeat' first
    | with_reducible exact Agree.refl _ _
    | exact by decide
    | with_reducible apply State.colKind_agree
    | with_reducible apply Agree.ite
    | intro _

theorem execColSwEvictReceive_agree {p s t} (h : execColSwEvictReceive p s = .next t) :
    Agree [.pwr, .flt, .hif, .st, .masts, .ctxs, .reqs, .sess, .srvErr, .exports, .hal, .nlc, .col, .pmc, .out, .cells] s t := by
  unfold execColSwEvictReceive at h
  refine frame_on h (by decide) ?_
  unfold State.whenAlive
  repeat' first
    | with_reducible exact Agree.refl _ _
    | exact by decide
    | with_reducible apply State.colKind_agree
    | with_reducible apply Agree.ite
    | intro _

theorem execColChunkTimeout_agree {group mast dstRank chunk s t} (h : execColChunkTimeout group mast dstRank chunk s = .next t) :
    Agree [.pwr, .flt, .hif, .st, .masts, .ctxs, .reqs, .sess, .srvErr, .exports, .hal, .nlc, .col, .pmc, .out, .cells] s t := by
  unfold execColChunkTimeout at h
  refine frame_on h (by decide) ?_
  unfold State.whenAlive
  repeat' first
    | with_reducible exact Agree.refl _ _
    | exact by decide
    | with_reducible apply State.hubSettle_agree
    | with_reducible apply State.resendChunk_agree
    | with_reducible apply Agree.ite
    | exact fun q => by simpa only [tkeys_tmap, tkeys_tmod] using q
    | intro _
    | split

theorem execColRetryResend_agree {group mast dstRank chunk s t} (h : execColRetryResend group mast dstRank chunk s = .next t) :
    Agree [.pwr, .flt, .hif, .st, .masts, .ctxs, .reqs, .sess, .srvErr, .exports, .hal, .nlc, .col, .pmc, .out, .cells] s t := by
  unfold execColRetryResend at h
  refine frame_on h (by decide) ?_
  unfold State.whenAlive
  repeat' first
    | with_reducible exact Agree.refl _ _
    | exact by decide
    | with_reducible apply State.hubSettle_agree
    | with_reducible apply State.resendChunk_agree
    | with_reducible apply Agree.ite
    | exact fun q => by simpa only [tkeys_tmap, tkeys_tmod] using q
    | intro _
    | split

theorem execColTimeout_agree {group mast s t} (h : execColTimeout group mast s = .next t) :
    Agree [.pwr, .flt, .hif, .st, .masts, .ctxs, .reqs, .sess, .srvErr, .exports, .hal, .nlc, .col, .pmc, .out, .cells] s t := by
  unfold execColTimeout at h
  refine frame_on h (by decide) ?_
  unfold State.whenAlive
  repeat' first
    | with_reducible exact Agree.refl _ _
    | exact by decide
    | with_reducible apply State.failCall_agree
    | with_reducible apply Agree.ite
    | intro _

theorem execCleatReached_agree {ctx mast cleat s t} (h : execCleatReached ctx mast cleat s = .next t) :
    Agree [.masts, .ctxs] s t := by
  unfold execCleatReached at h
  refine frame_on h (by decide) ?_
  unfold State.whenAlive
  repeat' first
    | with_reducible exact Agree.refl _ _
    | exact by decide
    | with_reducible apply State.atCleat_agree
    | with_reducible apply Agree.ite
    | intro _

theorem execSpillComplete_agree {mast s t} (h : execSpillComplete mast s = .next t) :
    Agree [.pwr, .flt, .hif, .st, .masts, .ctxs, .reqs, .sess, .srvErr, .exports, .nextExp, .hal, .nlc, .col, .pmc, .out, .cells] s t := by
  unfold execSpillComplete at h
  refine frame_on h (by decide) ?_
  unfold State.whenAlive
  repeat' first
    | with_reducible exact Agree.refl _ _
    | exact by decide
    | with_reducible apply State.spillEnd_agree
    | with_reducible apply Agree.ite
    | exact fun q => by simpa only [tkeys_tmap, tkeys_tmod] using q
    | intro _
    | split

theorem execRestoreComplete_agree {mast s t} (h : execRestoreComplete mast s = .next t) :
    Agree [.pwr, .flt, .hif, .st, .masts, .ctxs, .reqs, .sess, .srvErr, .exports, .nextExp, .hal, .nlc, .col, .pmc, .out, .cells] s t := by
  unfold execRestoreComplete at h
  refine frame_on h (by decide) ?_
  unfold State.whenAlive
  repeat' first
    | with_reducible exact Agree.refl _ _
    | exact by decide
    | with_reducible apply State.restoreEnd_agree
    | with_reducible apply Agree.ite
    | exact fun q => by simpa only [tkeys_tmap, tkeys_tmod] using q
    | intro _
    | split

theorem execShardChunkHashed_agree {shard s t} (h : execShardChunkHashed shard s = .next t) :
    Agree [.pwr, .flt, .hif, .st, .masts, .ctxs, .reqs, .sess, .srvErr, .exports, .hal, .nlc, .col, .pmc, .out, .cells] s t := by
  unfold execShardChunkHashed at h
  refine frame_settle h (by decide) ?_
  unfold State.whenAlive
  repeat' first
    | with_reducible exact Agree.refl _ _
    | exact by decide
    | with_reducible apply State.chunkHashed_agree
    | with_reducible apply Agree.ite
    | intro _

theorem execResidualScanComplete_agree {shard s t} (h : execResidualScanComplete shard s = .next t) :
    Agree [.pwr, .flt, .hif, .st, .masts, .ctxs, .reqs, .sess, .srvErr, .exports, .nextExp, .hal, .nlc, .col, .pmc, .out, .cells] s t := by
  unfold execResidualScanComplete at h
  refine frame_settle h (by decide) ?_
  unfold State.whenAlive
  repeat' first
    | with_reducible exact Agree.refl _ _
    | exact by decide
    | with_reducible apply State.scanEnd_agree
    | with_reducible apply Agree.ite
    | intro _

theorem execShardLoadTimeout_agree {shard s t} (h : execShardLoadTimeout shard s = .next t) :
    Agree [.pwr, .flt, .hif, .st, .masts, .ctxs, .reqs, .sess, .srvErr, .exports, .nextExp, .hal, .nlc, .col, .pmc, .out, .cells] s t := by
  unfold execShardLoadTimeout at h
  refine frame_settle h (by decide) ?_
  unfold State.whenAlive
  repeat' first
    | with_reducible exact Agree.refl _ _
    | exact by decide
    | with_reducible apply State.idle_agree
    | with_reducible apply State.quarantine_agree
    | with_reducible apply Agree.ite
    | exact fun q => by simpa only [tkeys_tmap, tkeys_tmod] using q
    | intro _
    | split

theorem execPortTrained_agree {p allLanes s t} (h : execPortTrained p allLanes s = .next t) :
    Agree [.flt, .hif, .st, .hal, .nlc, .out] s t := by
  unfold execPortTrained at h
  refine frame_on h (by decide) ?_
  unfold State.whenAlive
  repeat' first
    | with_reducible exact Agree.refl _ _
    | exact by decide
    | with_reducible apply State.portTrains_agree
    | with_reducible apply Agree.ite
    | intro _

theorem execIdentReceive_agree {p body s t} (h : execIdentReceive p body s = .next t) :
    Agree [.pwr, .flt, .hif, .st, .masts, .ctxs, .reqs, .sess, .srvErr, .exports, .hal, .nlc, .col, .pmc, .out, .cells] s t := by
  unfold execIdentReceive at h
  refine frame_on h (by decide) ?_
  unfold State.whenAlive
  repeat' first
    | with_reducible exact Agree.refl _ _
    | exact by decide
    | with_reducible apply State.identIn_agree
    | with_reducible apply Agree.ite
    | intro _

theorem execLinkFrameReceive_agree {p frame s t} (h : execLinkFrameReceive p frame s = .next t) :
    Agree [.pwr, .flt, .hif, .st, .masts, .ctxs, .reqs, .sess, .srvErr, .exports, .hal, .nlc, .col, .pmc, .out, .cells] s t := by
  unfold execLinkFrameReceive at h
  refine frame_on h (by decide) ?_
  unfold State.whenAlive
  repeat' first
    | with_reducible exact Agree.refl _ _
    | exact by decide
    | with_reducible apply State.linkFrameIn_agree
    | with_reducible apply Agree.ite
    | intro _

theorem execLinkAckTimeout_agree {p s t} (h : execLinkAckTimeout p s = .next t) :
    Agree [.pwr, .flt, .hif, .st, .masts, .ctxs, .reqs, .sess, .srvErr, .exports, .hal, .nlc, .col, .pmc, .out, .cells] s t := by
  unfold execLinkAckTimeout at h
  refine frame_on h (by decide) ?_
  unfold State.whenAlive
  repeat' first
    | with_reducible exact Agree.refl _ _
    | exact by decide
    | with_reducible apply State.portRetrain_agree
    | with_reducible apply Agree.ite
    | intro _

theorem execPortRetrainComplete_agree {p ok s t} (h : execPortRetrainComplete p ok s = .next t) :
    Agree [.pwr, .flt, .hif, .st, .masts, .ctxs, .reqs, .sess, .srvErr, .exports, .hal, .nlc, .col, .pmc, .out, .cells] s t := by
  unfold execPortRetrainComplete at h
  refine frame_on h (by decide) ?_
  unfold State.whenAlive
  repeat' first
    | with_reducible exact Agree.refl _ _
    | exact by decide
    | with_reducible apply State.portRetrained_agree
    | with_reducible apply State.portRetrainFails_agree
    | with_reducible apply Agree.ite
    | intro _

theorem execKeysyncReceive_agree {p s t} (h : execKeysyncReceive p s = .next t) :
    Agree [.nlc] s t := by
  unfold execKeysyncReceive at h
  refine frame_on h (by decide) ?_
  unfold State.whenAlive
  repeat' first
    | with_reducible exact Agree.refl _ _
    | exact by decide
    | with_reducible apply State.keysyncIn_agree
    | with_reducible apply Agree.ite
    | intro _

theorem execNlcKeyExhausted_agree {p s t} (h : execNlcKeyExhausted p s = .next t) :
    Agree [.pwr, .flt, .hif, .st, .masts, .ctxs, .reqs, .sess, .srvErr, .exports, .hal, .nlc, .col, .pmc, .out, .cells] s t := by
  unfold execNlcKeyExhausted at h
  refine frame_on h (by decide) ?_
  unfold State.whenAlive
  repeat' first
    | with_reducible exact Agree.refl _ _
    | exact by decide
    | with_reducible apply State.keyExhausted_agree
    | with_reducible apply Agree.ite
    | intro _

theorem execNlcReadReceive_agree {p s t} (h : execNlcReadReceive p s = .next t) :
    Agree [.flt, .st, .masts, .nlc, .pmc, .out] s t := by
  unfold execNlcReadReceive at h
  refine frame_on h (by decide) ?_
  unfold State.whenAlive
  repeat' first
    | with_reducible exact Agree.refl _ _
    | exact by decide
    | with_reducible apply State.withPacket_agree
    | with_reducible apply State.serveRead_agree
    | with_reducible apply Agree.ite
    | intro _

theorem execNlcWriteReceive_agree {p s t} (h : execNlcWriteReceive p s = .next t) :
    Agree [.pwr, .flt, .hif, .st, .masts, .ctxs, .reqs, .sess, .srvErr, .exports, .hal, .nlc, .col, .pmc, .out, .cells] s t := by
  unfold execNlcWriteReceive at h
  refine frame_on h (by decide) ?_
  unfold State.whenAlive
  repeat' first
    | with_reducible exact Agree.refl _ _
    | exact by decide
    | with_reducible apply State.serveWrite_agree
    | with_reducible apply State.withPacket_agree
    | with_reducible apply Agree.ite
    | intro _

theorem execNlcReadDataReceive_agree {p s t} (h : execNlcReadDataReceive p s = .next t) :
    Agree [.pwr, .flt, .hif, .st, .masts, .ctxs, .reqs, .sess, .srvErr, .exports, .hal, .nlc, .col, .pmc, .out, .cells] s t := by
  unfold execNlcReadDataReceive at h
  refine frame_on h (by decide) ?_
  unfold State.whenAlive
  repeat' first
    | with_reducible exact Agree.refl _ _
    | with_reducible assumption
    | exact by decide
    | with_reducible apply State.response_agree
    | with_reducible apply State.withPacket_agree
    | with_reducible apply Agree.ite
    | intro _

theorem execNlcWriteAckReceive_agree {p s t} (h : execNlcWriteAckReceive p s = .next t) :
    Agree [.pwr, .flt, .hif, .st, .masts, .ctxs, .reqs, .sess, .srvErr, .exports, .hal, .nlc, .col, .pmc, .out, .cells] s t := by
  unfold execNlcWriteAckReceive at h
  refine frame_on h (by decide) ?_
  unfold State.whenAlive
  repeat' first
    | with_reducible exact Agree.refl _ _
    | with_reducible assumption
    | exact by decide
    | with_reducible apply State.response_agree
    | with_reducible apply State.withPacket_agree
    | with_reducible apply Agree.ite
    | intro _

theorem execFabricRequestTimeout_agree {reqKey s t} (h : execFabricRequestTimeout reqKey s = .next t) :
    Agree [.pwr, .flt, .hif, .st, .masts, .ctxs, .reqs, .sess, .srvErr, .exports, .hal, .nlc, .col, .pmc, .out, .cells] s t := by
  unfold execFabricRequestTimeout at h
  refine frame_settle h (by decide) ?_
  unfold State.whenAlive
  repeat' first
    | with_reducible exact Agree.refl _ _
    | exact by decide
    | with_reducible apply State.retryReq_agree
    | with_reducible apply Agree.ite
    | exact fun q => by simpa only [tkeys_tmap, tkeys_tmod] using q
    | intro _
    | split

theorem execFabricRetryResend_agree {reqKey s t} (h : execFabricRetryResend reqKey s = .next t) :
    Agree [.nlc, .out] s t := by
  unfold execFabricRetryResend at h
  refine frame_settle h (by decide) ?_
  unfold State.whenAlive
  repeat' first
    | with_reducible exact Agree.refl _ _
    | exact by decide
    | with_reducible apply State.launchAs_agree
    | with_reducible apply Agree.ite
    | exact fun q => by simpa only [tkeys_tmap, tkeys_tmod] using q
    | intro _
    | split

theorem execInputValid_agree {s t} (h : execInputValid s = .next t) :
    Agree [.time, .cn, .pwr, .flt, .out, .fatal] s t := by
  unfold execInputValid at h
  refine frame_settle h (by decide) ?_
  repeat' first
    | with_reducible exact Agree.refl _ _
    | exact by decide
    | with_reducible apply State.nestPowered_agree
    | with_reducible apply State.begin_agree
    | with_reducible apply Agree.ite
    | exact fun q => by simpa only [tkeys_tmap, tkeys_tmod] using q
    | intro _
    | dsimp only
    | with_reducible apply Agree.upd_cn

theorem execBrownout_agree {s t} (h : execBrownout s = .next t) :
    Agree [.cn, .pwr, .flt, .st, .pmc, .out] s t := by
  unfold execBrownout at h
  refine frame_settle h (by decide) ?_
  unfold State.whenNest
  repeat' first
    | with_reducible exact Agree.refl _ _
    | exact by decide
    | with_reducible apply State.pwrEvent_agree
    | with_reducible apply State.faultPair_agree
    | with_reducible apply State.brownoutOn_agree
    | with_reducible apply Agree.ite
    | intro _

theorem execBrownoutEnd_agree {s t} (h : execBrownoutEnd s = .next t) :
    Agree [.cn, .pwr, .flt, .btb, .hif, .st, .masts, .ctxs, .reqs, .sess, .srvErr, .exports, .nextExp, .hal, .nlc, .col, .pmc, .out, .cells] s t := by
  unfold execBrownoutEnd at h
  refine frame_settle h (by decide) ?_
  unfold State.whenNest
  repeat' first
    | with_reducible exact Agree.refl _ _
    | exact by decide
    | with_reducible apply State.brownoutOver_agree
    | with_reducible apply Agree.ite
    | intro _

theorem execInputShutdown_agree {s t} (h : execInputShutdown s = .next t) :
    Agree [.cn, .pwr, .flt, .btb, .hif, .st, .masts, .ctxs, .zeroing, .reqs, .sess, .srvSel, .srvErr, .exports, .nextExp, .imports, .hal, .nlc, .col, .pmc, .out, .fenced, .cells, .said] s t := by
  unfold execInputShutdown at h
  refine frame_settle h (by decide) ?_
  repeat' first
    | with_reducible exact Agree.refl _ _
    | exact by decide
    | with_reducible apply State.railsOff_agree
    | with_reducible apply State.assertReset_agree
    | with_reducible apply Agree.ite
    | intro _

theorem execOverVoltage_agree {s t} (h : execOverVoltage s = .next t) :
    Agree [.cn, .flt, .hif, .st, .nlc, .pmc, .out] s t := by
  unfold execOverVoltage at h
  refine frame_settle h (by decide) ?_
  unfold State.whenNest
  repeat' first
    | with_reducible exact Agree.refl _ _
    | exact by decide
    | with_reducible apply State.fatalNow_agree
    | with_reducible apply Agree.ite
    | intro _

theorem execPllUnlock_agree {s t} (h : execPllUnlock s = .next t) :
    Agree [.cn, .flt, .hif, .st, .nlc, .pmc, .out] s t := by
  unfold execPllUnlock at h
  refine frame_settle h (by decide) ?_
  unfold State.whenHub
  repeat' first
    | with_reducible exact Agree.refl _ _
    | exact by decide
    | with_reducible apply State.fatalNow_agree
    | with_reducible apply Agree.ite
    | intro _

theorem execWatchdog_agree {s t} (h : execWatchdog s = .next t) :
    Agree [.cn, .flt, .hif, .st, .nlc, .pmc, .out] s t := by
  unfold execWatchdog at h
  refine frame_settle h (by decide) ?_
  unfold State.whenAlive
  repeat' first
    | with_reducible exact Agree.refl _ _
    | exact by decide
    | with_reducible apply State.fatalNow_agree
    | with_reducible apply Agree.ite
    | intro _

theorem execWireBroken_agree {src s t} (h : execWireBroken src s = .next t) :
    Agree [.cn, .pwr, .flt, .hif, .st, .masts, .ctxs, .reqs, .sess, .srvErr, .exports, .hal, .nlc, .col, .pmc, .out, .cells] s t := by
  have k : Agree (.pending :: [.cn, .pwr, .flt, .hif, .st, .masts, .ctxs, .reqs, .sess, .srvErr, .exports, .hal, .nlc, .col, .pmc, .out, .cells]) s (s.whenHub (s.wireBroken src)) :=
    Agree.ite (fun _ => State.wireBroken_agree (by decide) (Agree.refl _ _)) fun _ => Agree.refl _ _
  unfold execWireBroken at h
  split at h
  · exact frame_on h (by decide) k
  · exact frame_on h (by decide) k
  · exact frame_on h (by decide) k
  · exact frame_settle h (by decide) k

theorem execGovernorPeriod_agree {s t} (h : execGovernorPeriod s = .next t) :
    Agree [.pwr, .masts, .pmc] s t := by
  unfold execGovernorPeriod at h
  refine frame_settle h (by decide) ?_
  unfold State.whenHub
  repeat' first
    | with_reducible exact Agree.refl _ _
    | exact by decide
    | with_reducible apply State.governor_agree
    | with_reducible apply Agree.ite
    | intro _

theorem execPowerSample_agree {p s t} (h : execPowerSample p s = .next t) :
    Agree [.pwr, .masts] s t := by
  unfold execPowerSample at h
  refine frame_settle h (by decide) ?_
  unfold State.whenHub
  repeat' first
    | with_reducible exact Agree.refl _ _
    | exact by decide
    | with_reducible apply State.sample_agree
    | with_reducible apply Agree.ite
    | intro _

theorem execFastLimiter_agree {edges s t} (h : execFastLimiter edges s = .next t) :
    Agree [.pwr, .masts, .pmc] s t := by
  unfold execFastLimiter at h
  refine frame_settle h (by decide) ?_
  unfold State.whenHub
  repeat' first
    | with_reducible exact Agree.refl _ _
    | exact by decide
    | with_reducible apply State.limit_agree
    | with_reducible apply Agree.ite
    | intro _

theorem execPowerHintPosition_agree {s t} (h : execPowerHintPosition s = .next t) :
    Agree [.pwr] s t := by
  unfold execPowerHintPosition at h
  refine frame_settle h (by decide) ?_
  unfold State.whenHub
  repeat' first
    | with_reducible exact Agree.refl _ _
    | exact by decide
    | with_reducible apply State.modPwr_agree
    | with_reducible apply Agree.ite
    | exact fun q => q
    | intro _

theorem execReefSwitch_agree {s t} (h : execReefSwitch s = .next t) :
    Agree [.pwr] s t := by
  unfold execReefSwitch at h
  refine frame_settle h (by decide) ?_
  unfold State.whenHub
  repeat' first
    | with_reducible exact Agree.refl _ _
    | exact by decide
    | with_reducible apply State.reefSwitch_agree
    | with_reducible apply Agree.ite
    | intro _

theorem execDroopTrip_agree {mast s t} (h : execDroopTrip mast s = .next t) :
    Agree [.pwr, .masts] s t := by
  unfold execDroopTrip at h
  refine frame_on h (by decide) ?_
  unfold State.whenHub
  repeat' first
    | with_reducible exact Agree.refl _ _
    | exact by decide
    | with_reducible apply State.droopTrip_agree
    | with_reducible apply Agree.ite
    | intro _

theorem execDroopClear_agree {mast edges s t} (h : execDroopClear mast edges s = .next t) :
    Agree [.pwr, .masts] s t := by
  unfold execDroopClear at h
  refine frame_on h (by decide) ?_
  unfold State.whenHub
  repeat' first
    | with_reducible exact Agree.refl _ _
    | exact by decide
    | with_reducible apply State.droopClear_agree
    | with_reducible apply Agree.ite
    | intro _

theorem execTjHot_agree {tj die s t} (h : execTjHot tj die s = .next t) :
    Agree [.pwr, .flt, .st, .pmc] s t := by
  unfold execTjHot at h
  refine frame_settle h (by decide) ?_
  unfold State.whenHub
  repeat' first
    | with_reducible exact Agree.refl _ _
    | exact by decide
    | with_reducible apply State.tjHot_agree
    | with_reducible apply Agree.ite
    | intro _

theorem execThermLevelRise_agree {tj s t} (h : execThermLevelRise tj s = .next t) :
    Agree [.pwr] s t := by
  unfold execThermLevelRise at h
  refine frame_settle h (by decide) ?_
  unfold State.whenHub
  repeat' first
    | with_reducible exact Agree.refl _ _
    | exact by decide
    | with_reducible apply State.modPwr_agree
    | with_reducible apply State.thermLevel_agree
    | with_reducible apply Agree.ite
    | exact fun q => q
    | intro _

theorem execTjCool_agree {tj s t} (h : execTjCool tj s = .next t) :
    Agree [.pwr] s t := by
  unfold execTjCool at h
  refine frame_settle h (by decide) ?_
  unfold State.whenHub
  repeat' first
    | with_reducible exact Agree.refl _ _
    | exact by decide
    | with_reducible apply State.modPwr_agree
    | with_reducible apply Agree.ite
    | exact fun q => q
    | intro _

theorem execThermLevelFall_agree {tj s t} (h : execThermLevelFall tj s = .next t) :
    Agree [.pwr] s t := by
  unfold execThermLevelFall at h
  refine frame_settle h (by decide) ?_
  unfold State.whenHub
  repeat' first
    | with_reducible exact Agree.refl _ _
    | exact by decide
    | with_reducible apply State.modPwr_agree
    | with_reducible apply State.thermLevel_agree
    | with_reducible apply Agree.ite
    | exact fun q => q
    | intro _

theorem execThermOverRange_agree {tj s t} (h : execThermOverRange tj s = .next t) :
    Agree [.pwr, .flt, .st, .pmc] s t := by
  unfold execThermOverRange at h
  refine frame_settle h (by decide) ?_
  unfold State.whenHub
  repeat' first
    | with_reducible exact Agree.refl _ _
    | exact by decide
    | with_reducible apply State.modPwr_agree
    | with_reducible apply State.pwrEvent_agree
    | with_reducible apply Agree.ite
    | exact fun q => q
    | intro _

theorem execThermTrip_agree {tj die s t} (h : execThermTrip tj die s = .next t) :
    Agree [.cn, .pwr, .flt, .hif, .st, .nlc, .pmc, .out] s t := by
  unfold execThermTrip at h
  refine frame_settle h (by decide) ?_
  unfold State.whenNest
  repeat' first
    | with_reducible exact Agree.refl _ _
    | exact by decide
    | with_reducible apply State.modPwr_agree
    | with_reducible apply State.fatalNow_agree
    | with_reducible apply Agree.ite
    | exact fun q => q
    | intro _

theorem execDramTempHigh_agree {mast s t} (h : execDramTempHigh mast s = .next t) :
    Agree [.masts] s t := by
  unfold execDramTempHigh at h
  refine frame_on h (by decide) ?_
  unfold State.whenHub
  repeat' first
    | with_reducible exact Agree.refl _ _
    | exact by decide
    | with_reducible apply State.modMast_agree
    | with_reducible apply Agree.ite
    | exact fun z => MastTo.same rfl rfl fun q => q
    | intro _

theorem execDramTempNormal_agree {mast s t} (h : execDramTempNormal mast s = .next t) :
    Agree [.masts] s t := by
  unfold execDramTempNormal at h
  refine frame_on h (by decide) ?_
  unfold State.whenHub
  repeat' first
    | with_reducible exact Agree.refl _ _
    | exact by decide
    | with_reducible apply State.modMast_agree
    | with_reducible apply Agree.ite
    | exact fun z => MastTo.same rfl rfl fun q => q
    | intro _

theorem execCoolflowLost_agree {s t} (h : execCoolflowLost s = .next t) :
    Agree [.cn, .pwr, .flt, .hif, .st, .masts, .ctxs, .hal, .nlc, .col, .pmc, .out] s t := by
  unfold execCoolflowLost at h
  refine frame_settle h (by decide) ?_
  unfold State.whenPair
  repeat' first
    | with_reducible exact Agree.refl _ _
    | exact by decide
    | with_reducible apply State.modPwr_agree
    | with_reducible apply State.flowLost_agree
    | with_reducible apply Agree.ite
    | exact fun q => q
    | intro _

theorem execCoolflowPresent_agree {s t} (h : execCoolflowPresent s = .next t) :
    Agree [.cn, .pwr] s t := by
  unfold execCoolflowPresent at h
  refine frame_settle h (by decide) ?_
  unfold State.whenPair
  repeat' first
    | with_reducible exact Agree.refl _ _
    | exact by decide
    | with_reducible apply State.modPwr_agree
    | with_reducible apply State.flowGate_agree
    | with_reducible apply Agree.ite
    | exact fun q => q
    | intro _

theorem execCoolflowWire_agree {s t} (h : execCoolflowWire s = .next t) :
    Agree [.cn, .pwr, .flt, .hif, .st, .masts, .ctxs, .hal, .nlc, .col, .pmc, .out] s t := by
  unfold execCoolflowWire at h
  refine frame_settle h (by decide) ?_
  unfold State.whenPair
  repeat' first
    | with_reducible exact Agree.refl _ _
    | exact by decide
    | with_reducible apply State.modPwr_agree
    | with_reducible apply State.flowLost_agree
    | with_reducible apply State.pairRecords_agree
    | with_reducible apply Agree.ite
    | exact fun q => q
    | intro _

theorem execSpadPatrol_agree {mast found s t} (h : execSpadPatrol mast found s = .next t) :
    Agree [.cn, .pwr, .flt, .hif, .st, .masts, .ctxs, .reqs, .sess, .srvErr, .exports, .hal, .nlc, .col, .pmc, .out, .cells] s t := by
  unfold execSpadPatrol at h
  refine frame_on h (by decide) ?_
  unfold State.whenAlive
  repeat' first
    | with_reducible exact Agree.refl _ _
    | exact by decide
    | with_reducible apply State.strikeAll_agree
    | with_reducible apply State.patrol_agree
    | with_reducible apply Agree.ite
    | intro _

theorem execContentionWindow_agree {mast counts s t} (h : execContentionWindow mast counts s = .next t) :
    Agree [.flt, .st, .masts, .pmc] s t := by
  unfold execContentionWindow at h
  refine frame_on h (by decide) ?_
  unfold State.whenAlive
  repeat' first
    | with_reducible exact Agree.refl _ _
    | exact by decide
    | with_reducible apply State.contend_agree
    | with_reducible apply Agree.ite
    | with_reducible apply Agree.foldl
    | intro _

theorem execPowerupCrowsNest_agree {s t} (h : execPowerupCrowsNest s = .next t) :
    Agree [.cn] s t := by
  unfold execPowerupCrowsNest at h
  refine frame_settle h (by decide) ?_
  repeat' first
    | with_reducible exact Agree.refl _ _
    | exact by decide
    | with_reducible apply State.toStage_agree
    | with_reducible apply Agree.ite
    | exact fun q => by simpa only [tkeys_tmap, tkeys_tmod] using q
    | intro _
    | dsimp only
    | with_reducible apply Agree.upd_cn

theorem execPowerupHubRails_agree {s t} (h : execPowerupHubRails s = .next t) :
    Agree [.cn, .pwr, .flt, .st, .pmc] s t := by
  unfold execPowerupHubRails at h
  refine frame_settle h (by decide) ?_
  repeat' first
    | with_reducible exact Agree.refl _ _
    | exact by decide
    | with_reducible apply State.hubPowered_agree
    | with_reducible apply Agree.ite
    | intro _

theorem execPowerupBootRom_agree {s t} (h : execPowerupBootRom s = .next t) :
    Agree [.cn, .flt, .btb] s t := by
  unfold execPowerupBootRom at h
  refine frame_settle h (by decide) ?_
  repeat' first
    | with_reducible exact Agree.refl _ _
    | exact by decide
    | with_reducible apply State.bootStart_agree
    | with_reducible apply Agree.ite
    | intro _

theorem execPowerupMastRails_agree {s t} (h : execPowerupMastRails s = .next t) :
    Agree [.cn] s t := by
  unfold execPowerupMastRails at h
  refine frame_settle h (by decide) ?_
  repeat' first
    | with_reducible exact Agree.refl _ _
    | exact by decide
    | with_reducible apply State.toStage_agree
    | with_reducible apply State.flowGate_agree
    | with_reducible apply Agree.ite
    | exact fun q => by simpa only [tkeys_tmap, tkeys_tmod] using q
    | intro _
    | dsimp only
    | with_reducible apply Agree.upd_cn

theorem execCalibration_agree {c s t} (h : execCalibration c s = .next t) :
    Agree [.cn, .id, .pwr, .flt, .hif, .st, .masts, .nlc, .pmc, .out] s t := by
  unfold execCalibration at h
  refine frame_settle h (by decide) ?_
  repeat' first
    | with_reducible exact Agree.refl _ _
    | exact by decide
    | with_reducible apply State.calibrated_agree
    | with_reducible apply Agree.ite
    | intro _

theorem execPowerupReady_agree {s t} (h : execPowerupReady s = .next t) :
    Agree [.cn, .btb, .hif, .masts, .out, .cells] s t := by
  unfold execPowerupReady at h
  refine frame_settle h (by decide) ?_
  repeat' first
    | with_reducible exact Agree.refl _ _
    | exact by decide
    | with_reducible apply State.becomeReady_agree
    | with_reducible apply Agree.ite
    | intro _

theorem execPowerupHoldExpire_agree {s t} (h : execPowerupHoldExpire s = .next t) :
    Agree [.time, .cn, .pwr, .flt, .out, .fatal] s t := by
  unfold execPowerupHoldExpire at h
  refine frame_settle h (by decide) ?_
  repeat' first
    | with_reducible exact Agree.refl _ _
    | exact by decide
    | with_reducible apply State.begin_agree
    | with_reducible apply Agree.ite
    | exact fun q => by simpa only [tkeys_tmap, tkeys_tmod] using q
    | intro _
    | dsimp only
    | with_reducible apply Agree.upd_cn

theorem execHdPwrokFall_agree {s t} (h : execHdPwrokFall s = .next t) :
    Agree [.cn, .flt, .hif, .st, .pmc, .out] s t := by
  unfold execHdPwrokFall at h
  refine frame_settle h (by decide) ?_
  repeat' first
    | with_reducible exact Agree.refl _ _
    | exact by decide
    | with_reducible apply State.assertReset_agree
    | with_reducible apply State.allModulesDown_agree
    | exact fun q => by simpa only [tkeys_tmap, tkeys_tmod] using q
    | dsimp only
    | with_reducible apply Agree.upd_cn

theorem execHdPwrokRise_agree {s t} (h : execHdPwrokRise s = .next t) :
    Agree [.cn] s t := by
  unfold execHdPwrokRise at h
  refine frame_settle h (by decide) ?_
  repeat' first
    | with_reducible exact Agree.refl _ _
    | exact by decide
    | exact fun q => by simpa only [tkeys_tmap, tkeys_tmod] using q
    | dsimp only
    | with_reducible apply Agree.upd_cn

theorem execHostResetRelease_agree {s t} (h : execHostResetRelease s = .next t) :
    Agree [.cn, .out] s t := by
  unfold execHostResetRelease at h
  refine frame_settle h (by decide) ?_
  repeat' first
    | with_reducible exact Agree.refl _ _
    | exact by decide
    | with_reducible apply State.emit_agree
    | with_reducible apply Agree.ite
    | exact fun q => by simpa only [tkeys_tmap, tkeys_tmod] using q
    | intro _
    | dsimp only
    | with_reducible apply Agree.upd_cn

theorem execVectorUnitOperation_agree {ctx mast vu layer op s t} (h : execVectorUnitOperation ctx mast vu layer op s = .next t) :
    Agree [.pwr, .flt, .hif, .st, .masts, .ctxs, .reqs, .sess, .srvErr, .exports, .hal, .nlc, .col, .pmc, .out, .free, .cells] s t := by
  unfold execVectorUnitOperation at h
  refine frame_on h (by decide) ?_
  unfold State.whenAlive
  repeat' first
    | with_reducible exact Agree.refl _ _
    | exact by decide
    | with_reducible apply State.vuOp_agree
    | with_reducible apply State.callEnded_agree
    | with_reducible apply Agree.ite
    | intro _

theorem execUcieModuleTrained_agree {m rate lanes repaired s t} (h : execUcieModuleTrained m rate lanes repaired s = .next t) :
    Agree [.flt, .hif, .st, .pmc, .out] s t := by
  unfold execUcieModuleTrained at h
  refine frame_on h (by decide) ?_
  repeat' first
    | with_reducible exact Agree.refl _ _
    | exact by decide
    | with_reducible apply State.moduleTrained_agree

theorem execLinkTrainComplete_agree {s t} (h : execLinkTrainComplete s = .next t) :
    Agree [.flt, .hif, .st, .hal, .nlc, .out] s t := by
  unfold execLinkTrainComplete at h
  refine frame_settle h (by decide) ?_
  unfold State.whenAlive
  repeat' first
    | with_reducible exact Agree.refl _ _
    | exact by decide
    | with_reducible apply State.trainingEnds_agree
    | with_reducible apply Agree.ite
    | intro _

theorem execFastLimiterRelease_agree {s t} (h : execFastLimiterRelease s = .next t) :
    Agree [.pwr] s t := by
  unfold execFastLimiterRelease at h
  refine frame_settle h (by decide) ?_
  unfold State.whenHub
  repeat' first
    | with_reducible exact Agree.refl _ _
    | exact by decide
    | with_reducible apply State.modPwr_agree
    | with_reducible apply Agree.ite
    | exact fun q => q
    | intro _

theorem execPowerHintEnd_agree {s t} (h : execPowerHintEnd s = .next t) :
    Agree [.pwr] s t := by
  unfold execPowerHintEnd at h
  refine frame_settle h (by decide) ?_
  unfold State.whenHub
  repeat' first
    | with_reducible exact Agree.refl _ _
    | exact by decide
    | with_reducible apply State.modPwr_agree
    | with_reducible apply Agree.ite
    | exact fun q => q
    | intro _

theorem execSwitchWindowEnd_agree {s t} (h : execSwitchWindowEnd s = .next t) :
    Agree [.pwr] s t := by
  unfold execSwitchWindowEnd at h
  refine frame_settle h (by decide) ?_
  unfold State.whenHub
  repeat' first
    | with_reducible exact Agree.refl _ _
    | exact by decide
    | with_reducible apply State.modPwr_agree
    | with_reducible apply Agree.ite
    | exact fun q => q
    | intro _

theorem execCrowsNestUnpowered_agree {s t} (h : execCrowsNestUnpowered s = .next t) :
    Agree [.time, .cn, .pwr, .flt, .btb, .hif, .st, .masts, .ctxs, .zeroing, .reqs, .sess, .srvSel, .srvErr, .exports, .nextExp, .imports, .hal, .nlc, .col, .pmc, .out, .fenced, .cells, .said] s t := by
  unfold execCrowsNestUnpowered at h
  refine frame_settle h (by decide) ?_
  repeat' first
    | with_reducible exact Agree.refl _ _
    | exact by decide
    | with_reducible apply State.railsOff_agree
    | with_reducible apply State.assertReset_agree
    | with_reducible apply State.emit_agree
    | exact fun q => by simpa only [tkeys_tmap, tkeys_tmod] using q
    | split
    | dsimp only
    | (refine Agree.upds (by dsimp only <;> exact rfl) ?_ ?_; rotate_left
       · intro c; cases c <;> first | exact Or.inl (by decide) | exact Or.inr rfl | exact Or.inr (fun q => q) | exact Or.inr (Nat.le_refl _) | exact Or.inr (fun _ q => q) | exact Or.inr (fun _ => ⟨rfl, rfl⟩) | exact Or.inr (said_same rfl rfl))

theorem execContextZeroingEnd_agree {ctx s t} (h : execContextZeroingEnd ctx s = .next t) :
    Agree [.masts, .ctxs, .zeroing, .cells] s t := by
  unfold execContextZeroingEnd at h
  refine frame_settle h (by decide) ?_
  unfold State.whenAlive
  repeat' first
    | with_reducible exact Agree.refl _ _
    | exact by decide
    | with_reducible apply State.zeroingEnd_agree
    | with_reducible apply Agree.ite
    | intro _

end Sys2Proof.Machine
end

