-- ==== Sys2Proof/Laws/Runs.lean ====
section
/-! SUPPORT. How a meaning that goes on is shown to: the device acts, the unit exists, reads and writes go well. -/
namespace Sys2Proof.Machine

theorem does_settle {c : Instr} {s t : State} (e : exec c s = settle s t) : Does c s t := e

theorem runs_settle {c : Instr} {s t : State} {P : State → Prop} (e : exec c s = settle s t)
    (h : P { t with pending := s.pending }) : Runs c s P := ⟨_, e, h⟩

theorem Does.runs {c : Instr} {s t : State} {P : State → Prop} (d : Does c s t) (h : P { t with pending := s.pending }) :
    Runs c s P := ⟨_, d, h⟩

theorem whenAlive_alive {s t : State} (h : s.alive = true) : s.whenAlive t = t := by
  simp only [State.whenAlive, h, if_true]

theorem onMast_in {n : Nat} {s t : State} (h : n < 8) : onMast n s t = settle s t := if_pos h
theorem onPort_in {n : Nat} {s t : State} (h : n < 42) : onPort n s t = settle s t := if_pos h
theorem onModule_in {n : Nat} {s t : State} (h : n < 4) : onModule n s t = settle s t := if_pos h
theorem onChannel_in {n : Nat} {s t : State} (h : n < 8) : onChannel n s t = settle s t := if_pos h

/-- A meaning on a mast of a device that acts. -/
theorem does_mast {c : Instr} {n : Nat} {s x t : State} (e : exec c s = onMast n s (s.whenAlive x)) (hn : n < 8)
    (ha : s.alive = true) (h : x = t) : Does c s t := by
  rw [onMast_in hn, whenAlive_alive ha, h] at e; exact e

/-- A meaning of a device that acts. -/
theorem does_alive {c : Instr} {s x t : State} (e : exec c s = settle s (s.whenAlive x)) (ha : s.alive = true) (h : x = t) :
    Does c s t := by
  rw [whenAlive_alive ha, h] at e; exact e

/-- A meaning on a port of a device that acts. -/
theorem does_port {c : Instr} {n : Nat} {s x t : State} (e : exec c s = onPort n s (s.whenAlive x)) (hn : n < 42)
    (ha : s.alive = true) (h : x = t) : Does c s t := by
  rw [onPort_in hn, whenAlive_alive ha, h] at e; exact e

theorem withRead_reads {s u : State} {c m unit x len : Nat} {r : Reader} {b : Bytes} {f : State → Bytes → State}
    (h : Reads s m r x len u b) : s.withRead c m unit r x len f = f u b := by
  unfold Reads at h
  simp only [State.withRead, h]

theorem withWrite_writes {s u : State} {c m unit x : Nat} {r : Reader} {b : Bytes} {f : State → State}
    (h : Writes s m r x b u) : s.withWrite c m unit r x b f = f u := by
  unfold Writes at h
  simp only [State.withWrite, h]

theorem fetch_reads {s u : State} {m x len : Nat} {r : Reader} {b : Bytes} (h : Reads s m r x len u b) :
    s.fetch m r x len = (u, .ok b) := by
  unfold Reads at h
  simp only [State.fetch, h]

/-- A descriptor that is read lies in the context's memory and is well placed. -/
theorem descRead_ok {s u : State} {c m desc len : Nat} {b : Bytes} (h : DescRead s c m desc len u b) :
    s.descFault c m desc len = false := by
  obtain ⟨h1, h2, h3, -⟩ := h
  have h4 : decide (1 < ptrSpace desc) = false := decide_eq_false (by omega)
  simp only [State.descFault, h1, h2, h4, bne_self_eq_false, Bool.not_true, Bool.or_self, Bool.false_and]

theorem withDesc_read {s u : State} {c m cause desc len : Nat} {b : Bytes} {f : State → Bytes → State}
    (h : DescRead s c m desc len u b) : s.withDesc c m cause desc len f = f u b := by
  simp only [State.withDesc, descRead_ok h, h.1, Bool.not_true, Bool.false_eq_true, if_false]
  exact withRead_reads h.2.2.2

end Sys2Proof.Machine
end

