-- ==== Sys2Proof/Laws/State.lean ====
section
/-! SUPPORT. What each named update of the state does to each of its fields: one field is changed, the others stand. -/
namespace Sys2Proof.Machine

variable (s : State)


/-! ### modMast -/

@[simp] theorem State.modMast_time (n : Nat) (f : Mast → Mast) : (s.modMast n f).time = s.time := rfl
@[simp] theorem State.modMast_cn (n : Nat) (f : Mast → Mast) : (s.modMast n f).cn = s.cn := rfl
@[simp] theorem State.modMast_id (n : Nat) (f : Mast → Mast) : (s.modMast n f).id = s.id := rfl
@[simp] theorem State.modMast_pwr (n : Nat) (f : Mast → Mast) : (s.modMast n f).pwr = s.pwr := rfl
@[simp] theorem State.modMast_flt (n : Nat) (f : Mast → Mast) : (s.modMast n f).flt = s.flt := rfl
@[simp] theorem State.modMast_btb (n : Nat) (f : Mast → Mast) : (s.modMast n f).btb = s.btb := rfl
@[simp] theorem State.modMast_hif (n : Nat) (f : Mast → Mast) : (s.modMast n f).hif = s.hif := rfl
@[simp] theorem State.modMast_st (n : Nat) (f : Mast → Mast) : (s.modMast n f).st = s.st := rfl
@[simp] theorem State.modMast_masts (n : Nat) (f : Mast → Mast) : (s.modMast n f).masts = tmod s.masts n f := rfl
@[simp] theorem State.modMast_ctxs (n : Nat) (f : Mast → Mast) : (s.modMast n f).ctxs = s.ctxs := rfl
@[simp] theorem State.modMast_zeroing (n : Nat) (f : Mast → Mast) : (s.modMast n f).zeroing = s.zeroing := rfl
@[simp] theorem State.modMast_reqs (n : Nat) (f : Mast → Mast) : (s.modMast n f).reqs = s.reqs := rfl
@[simp] theorem State.modMast_sess (n : Nat) (f : Mast → Mast) : (s.modMast n f).sess = s.sess := rfl
@[simp] theorem State.modMast_srvSel (n : Nat) (f : Mast → Mast) : (s.modMast n f).srvSel = s.srvSel := rfl
@[simp] theorem State.modMast_srvErr (n : Nat) (f : Mast → Mast) : (s.modMast n f).srvErr = s.srvErr := rfl
@[simp] theorem State.modMast_exports (n : Nat) (f : Mast → Mast) : (s.modMast n f).exports = s.exports := rfl
@[simp] theorem State.modMast_nextExp (n : Nat) (f : Mast → Mast) : (s.modMast n f).nextExp = s.nextExp := rfl
@[simp] theorem State.modMast_imports (n : Nat) (f : Mast → Mast) : (s.modMast n f).imports = s.imports := rfl
@[simp] theorem State.modMast_hal (n : Nat) (f : Mast → Mast) : (s.modMast n f).hal = s.hal := rfl
@[simp] theorem State.modMast_nlc (n : Nat) (f : Mast → Mast) : (s.modMast n f).nlc = s.nlc := rfl
@[simp] theorem State.modMast_col (n : Nat) (f : Mast → Mast) : (s.modMast n f).col = s.col := rfl
@[simp] theorem State.modMast_pmc (n : Nat) (f : Mast → Mast) : (s.modMast n f).pmc = s.pmc := rfl
@[simp] theorem State.modMast_out (n : Nat) (f : Mast → Mast) : (s.modMast n f).out = s.out := rfl
@[simp] theorem State.modMast_free (n : Nat) (f : Mast → Mast) : (s.modMast n f).free = s.free := rfl
@[simp] theorem State.modMast_pending (n : Nat) (f : Mast → Mast) : (s.modMast n f).pending = s.pending := rfl

/-! ### mapMasts -/

@[simp] theorem State.mapMasts_time (f : Nat → Mast → Mast) : (s.mapMasts f).time = s.time := rfl
@[simp] theorem State.mapMasts_cn (f : Nat → Mast → Mast) : (s.mapMasts f).cn = s.cn := rfl
@[simp] theorem State.mapMasts_id (f : Nat → Mast → Mast) : (s.mapMasts f).id = s.id := rfl
@[simp] theorem State.mapMasts_pwr (f : Nat → Mast → Mast) : (s.mapMasts f).pwr = s.pwr := rfl
@[simp] theorem State.mapMasts_flt (f : Nat → Mast → Mast) : (s.mapMasts f).flt = s.flt := rfl
@[simp] theorem State.mapMasts_btb (f : Nat → Mast → Mast) : (s.mapMasts f).btb = s.btb := rfl
@[simp] theorem State.mapMasts_hif (f : Nat → Mast → Mast) : (s.mapMasts f).hif = s.hif := rfl
@[simp] theorem State.mapMasts_st (f : Nat → Mast → Mast) : (s.mapMasts f).st = s.st := rfl
@[simp] theorem State.mapMasts_masts (f : Nat → Mast → Mast) : (s.mapMasts f).masts = tmap s.masts f := rfl
@[simp] theorem State.mapMasts_ctxs (f : Nat → Mast → Mast) : (s.mapMasts f).ctxs = s.ctxs := rfl
@[simp] theorem State.mapMasts_zeroing (f : Nat → Mast → Mast) : (s.mapMasts f).zeroing = s.zeroing := rfl
@[simp] theorem State.mapMasts_reqs (f : Nat → Mast → Mast) : (s.mapMasts f).reqs = s.reqs := rfl
@[simp] theorem State.mapMasts_sess (f : Nat → Mast → Mast) : (s.mapMasts f).sess = s.sess := rfl
@[simp] theorem State.mapMasts_srvSel (f : Nat → Mast → Mast) : (s.mapMasts f).srvSel = s.srvSel := rfl
@[simp] theorem State.mapMasts_srvErr (f : Nat → Mast → Mast) : (s.mapMasts f).srvErr = s.srvErr := rfl
@[simp] theorem State.mapMasts_exports (f : Nat → Mast → Mast) : (s.mapMasts f).exports = s.exports := rfl
@[simp] theorem State.mapMasts_nextExp (f : Nat → Mast → Mast) : (s.mapMasts f).nextExp = s.nextExp := rfl
@[simp] theorem State.mapMasts_imports (f : Nat → Mast → Mast) : (s.mapMasts f).imports = s.imports := rfl
@[simp] theorem State.mapMasts_hal (f : Nat → Mast → Mast) : (s.mapMasts f).hal = s.hal := rfl
@[simp] theorem State.mapMasts_nlc (f : Nat → Mast → Mast) : (s.mapMasts f).nlc = s.nlc := rfl
@[simp] theorem State.mapMasts_col (f : Nat → Mast → Mast) : (s.mapMasts f).col = s.col := rfl
@[simp] theorem State.mapMasts_pmc (f : Nat → Mast → Mast) : (s.mapMasts f).pmc = s.pmc := rfl
@[simp] theorem State.mapMasts_out (f : Nat → Mast → Mast) : (s.mapMasts f).out = s.out := rfl
@[simp] theorem State.mapMasts_free (f : Nat → Mast → Mast) : (s.mapMasts f).free = s.free := rfl
@[simp] theorem State.mapMasts_pending (f : Nat → Mast → Mast) : (s.mapMasts f).pending = s.pending := rfl

/-! ### modCtx -/

@[simp] theorem State.modCtx_time (c : Nat) (f : Ctx → Ctx) : (s.modCtx c f).time = s.time := rfl
@[simp] theorem State.modCtx_cn (c : Nat) (f : Ctx → Ctx) : (s.modCtx c f).cn = s.cn := rfl
@[simp] theorem State.modCtx_id (c : Nat) (f : Ctx → Ctx) : (s.modCtx c f).id = s.id := rfl
@[simp] theorem State.modCtx_pwr (c : Nat) (f : Ctx → Ctx) : (s.modCtx c f).pwr = s.pwr := rfl
@[simp] theorem State.modCtx_flt (c : Nat) (f : Ctx → Ctx) : (s.modCtx c f).flt = s.flt := rfl
@[simp] theorem State.modCtx_btb (c : Nat) (f : Ctx → Ctx) : (s.modCtx c f).btb = s.btb := rfl
@[simp] theorem State.modCtx_hif (c : Nat) (f : Ctx → Ctx) : (s.modCtx c f).hif = s.hif := rfl
@[simp] theorem State.modCtx_st (c : Nat) (f : Ctx → Ctx) : (s.modCtx c f).st = s.st := rfl
@[simp] theorem State.modCtx_masts (c : Nat) (f : Ctx → Ctx) : (s.modCtx c f).masts = s.masts := rfl
@[simp] theorem State.modCtx_ctxs (c : Nat) (f : Ctx → Ctx) : (s.modCtx c f).ctxs = tmod s.ctxs c f := rfl
@[simp] theorem State.modCtx_zeroing (c : Nat) (f : Ctx → Ctx) : (s.modCtx c f).zeroing = s.zeroing := rfl
@[simp] theorem State.modCtx_reqs (c : Nat) (f : Ctx → Ctx) : (s.modCtx c f).reqs = s.reqs := rfl
@[simp] theorem State.modCtx_sess (c : Nat) (f : Ctx → Ctx) : (s.modCtx c f).sess = s.sess := rfl
@[simp] theorem State.modCtx_srvSel (c : Nat) (f : Ctx → Ctx) : (s.modCtx c f).srvSel = s.srvSel := rfl
@[simp] theorem State.modCtx_srvErr (c : Nat) (f : Ctx → Ctx) : (s.modCtx c f).srvErr = s.srvErr := rfl
@[simp] theorem State.modCtx_exports (c : Nat) (f : Ctx → Ctx) : (s.modCtx c f).exports = s.exports := rfl
@[simp] theorem State.modCtx_nextExp (c : Nat) (f : Ctx → Ctx) : (s.modCtx c f).nextExp = s.nextExp := rfl
@[simp] theorem State.modCtx_imports (c : Nat) (f : Ctx → Ctx) : (s.modCtx c f).imports = s.imports := rfl
@[simp] theorem State.modCtx_hal (c : Nat) (f : Ctx → Ctx) : (s.modCtx c f).hal = s.hal := rfl
@[simp] theorem State.modCtx_nlc (c : Nat) (f : Ctx → Ctx) : (s.modCtx c f).nlc = s.nlc := rfl
@[simp] theorem State.modCtx_col (c : Nat) (f : Ctx → Ctx) : (s.modCtx c f).col = s.col := rfl
@[simp] theorem State.modCtx_pmc (c : Nat) (f : Ctx → Ctx) : (s.modCtx c f).pmc = s.pmc := rfl
@[simp] theorem State.modCtx_out (c : Nat) (f : Ctx → Ctx) : (s.modCtx c f).out = s.out := rfl
@[simp] theorem State.modCtx_free (c : Nat) (f : Ctx → Ctx) : (s.modCtx c f).free = s.free := rfl
@[simp] theorem State.modCtx_pending (c : Nat) (f : Ctx → Ctx) : (s.modCtx c f).pending = s.pending := rfl

/-! ### emit -/

@[simp] theorem State.emit_time (o : Out) : (s.emit o).time = s.time := rfl
@[simp] theorem State.emit_cn (o : Out) : (s.emit o).cn = s.cn := rfl
@[simp] theorem State.emit_id (o : Out) : (s.emit o).id = s.id := rfl
@[simp] theorem State.emit_pwr (o : Out) : (s.emit o).pwr = s.pwr := rfl
@[simp] theorem State.emit_flt (o : Out) : (s.emit o).flt = s.flt := rfl
@[simp] theorem State.emit_btb (o : Out) : (s.emit o).btb = s.btb := rfl
@[simp] theorem State.emit_hif (o : Out) : (s.emit o).hif = s.hif := rfl
@[simp] theorem State.emit_st (o : Out) : (s.emit o).st = s.st := rfl
@[simp] theorem State.emit_masts (o : Out) : (s.emit o).masts = s.masts := rfl
@[simp] theorem State.emit_ctxs (o : Out) : (s.emit o).ctxs = s.ctxs := rfl
@[simp] theorem State.emit_zeroing (o : Out) : (s.emit o).zeroing = s.zeroing := rfl
@[simp] theorem State.emit_reqs (o : Out) : (s.emit o).reqs = s.reqs := rfl
@[simp] theorem State.emit_sess (o : Out) : (s.emit o).sess = s.sess := rfl
@[simp] theorem State.emit_srvSel (o : Out) : (s.emit o).srvSel = s.srvSel := rfl
@[simp] theorem State.emit_srvErr (o : Out) : (s.emit o).srvErr = s.srvErr := rfl
@[simp] theorem State.emit_exports (o : Out) : (s.emit o).exports = s.exports := rfl
@[simp] theorem State.emit_nextExp (o : Out) : (s.emit o).nextExp = s.nextExp := rfl
@[simp] theorem State.emit_imports (o : Out) : (s.emit o).imports = s.imports := rfl
@[simp] theorem State.emit_hal (o : Out) : (s.emit o).hal = s.hal := rfl
@[simp] theorem State.emit_nlc (o : Out) : (s.emit o).nlc = s.nlc := rfl
@[simp] theorem State.emit_col (o : Out) : (s.emit o).col = s.col := rfl
@[simp] theorem State.emit_pmc (o : Out) : (s.emit o).pmc = s.pmc := rfl
@[simp] theorem State.emit_out (o : Out) : (s.emit o).out = s.out ++ [o] := rfl
@[simp] theorem State.emit_free (o : Out) : (s.emit o).free = s.free := rfl
@[simp] theorem State.emit_pending (o : Out) : (s.emit o).pending = s.pending := rfl

/-! ### drawn -/

@[simp] theorem State.drawn_time : (s.drawn).time = s.time := rfl
@[simp] theorem State.drawn_cn : (s.drawn).cn = s.cn := rfl
@[simp] theorem State.drawn_id : (s.drawn).id = s.id := rfl
@[simp] theorem State.drawn_pwr : (s.drawn).pwr = s.pwr := rfl
@[simp] theorem State.drawn_flt : (s.drawn).flt = s.flt := rfl
@[simp] theorem State.drawn_btb : (s.drawn).btb = s.btb := rfl
@[simp] theorem State.drawn_hif : (s.drawn).hif = s.hif := rfl
@[simp] theorem State.drawn_st : (s.drawn).st = s.st := rfl
@[simp] theorem State.drawn_masts : (s.drawn).masts = s.masts := rfl
@[simp] theorem State.drawn_ctxs : (s.drawn).ctxs = s.ctxs := rfl
@[simp] theorem State.drawn_zeroing : (s.drawn).zeroing = s.zeroing := rfl
@[simp] theorem State.drawn_reqs : (s.drawn).reqs = s.reqs := rfl
@[simp] theorem State.drawn_sess : (s.drawn).sess = s.sess := rfl
@[simp] theorem State.drawn_srvSel : (s.drawn).srvSel = s.srvSel := rfl
@[simp] theorem State.drawn_srvErr : (s.drawn).srvErr = s.srvErr := rfl
@[simp] theorem State.drawn_exports : (s.drawn).exports = s.exports := rfl
@[simp] theorem State.drawn_nextExp : (s.drawn).nextExp = s.nextExp := rfl
@[simp] theorem State.drawn_imports : (s.drawn).imports = s.imports := rfl
@[simp] theorem State.drawn_hal : (s.drawn).hal = s.hal := rfl
@[simp] theorem State.drawn_nlc : (s.drawn).nlc = s.nlc := rfl
@[simp] theorem State.drawn_col : (s.drawn).col = s.col := rfl
@[simp] theorem State.drawn_pmc : (s.drawn).pmc = s.pmc := rfl
@[simp] theorem State.drawn_out : (s.drawn).out = s.out := rfl
@[simp] theorem State.drawn_free : (s.drawn).free = s.free + 1 := rfl
@[simp] theorem State.drawn_pending : (s.drawn).pending = s.pending := rfl

/-! ### drawnN -/

@[simp] theorem State.drawnN_time (n : Nat) : (s.drawnN n).time = s.time := rfl
@[simp] theorem State.drawnN_cn (n : Nat) : (s.drawnN n).cn = s.cn := rfl
@[simp] theorem State.drawnN_id (n : Nat) : (s.drawnN n).id = s.id := rfl
@[simp] theorem State.drawnN_pwr (n : Nat) : (s.drawnN n).pwr = s.pwr := rfl
@[simp] theorem State.drawnN_flt (n : Nat) : (s.drawnN n).flt = s.flt := rfl
@[simp] theorem State.drawnN_btb (n : Nat) : (s.drawnN n).btb = s.btb := rfl
@[simp] theorem State.drawnN_hif (n : Nat) : (s.drawnN n).hif = s.hif := rfl
@[simp] theorem State.drawnN_st (n : Nat) : (s.drawnN n).st = s.st := rfl
@[simp] theorem State.drawnN_masts (n : Nat) : (s.drawnN n).masts = s.masts := rfl
@[simp] theorem State.drawnN_ctxs (n : Nat) : (s.drawnN n).ctxs = s.ctxs := rfl
@[simp] theorem State.drawnN_zeroing (n : Nat) : (s.drawnN n).zeroing = s.zeroing := rfl
@[simp] theorem State.drawnN_reqs (n : Nat) : (s.drawnN n).reqs = s.reqs := rfl
@[simp] theorem State.drawnN_sess (n : Nat) : (s.drawnN n).sess = s.sess := rfl
@[simp] theorem State.drawnN_srvSel (n : Nat) : (s.drawnN n).srvSel = s.srvSel := rfl
@[simp] theorem State.drawnN_srvErr (n : Nat) : (s.drawnN n).srvErr = s.srvErr := rfl
@[simp] theorem State.drawnN_exports (n : Nat) : (s.drawnN n).exports = s.exports := rfl
@[simp] theorem State.drawnN_nextExp (n : Nat) : (s.drawnN n).nextExp = s.nextExp := rfl
@[simp] theorem State.drawnN_imports (n : Nat) : (s.drawnN n).imports = s.imports := rfl
@[simp] theorem State.drawnN_hal (n : Nat) : (s.drawnN n).hal = s.hal := rfl
@[simp] theorem State.drawnN_nlc (n : Nat) : (s.drawnN n).nlc = s.nlc := rfl
@[simp] theorem State.drawnN_col (n : Nat) : (s.drawnN n).col = s.col := rfl
@[simp] theorem State.drawnN_pmc (n : Nat) : (s.drawnN n).pmc = s.pmc := rfl
@[simp] theorem State.drawnN_out (n : Nat) : (s.drawnN n).out = s.out := rfl
@[simp] theorem State.drawnN_free (n : Nat) : (s.drawnN n).free = s.free + n := rfl
@[simp] theorem State.drawnN_pending (n : Nat) : (s.drawnN n).pending = s.pending := rfl

/-! ### countH -/

@[simp] theorem State.countH_time (o : Occ) : (s.countH o).time = s.time := rfl
@[simp] theorem State.countH_cn (o : Occ) : (s.countH o).cn = s.cn := rfl
@[simp] theorem State.countH_id (o : Occ) : (s.countH o).id = s.id := rfl
@[simp] theorem State.countH_pwr (o : Occ) : (s.countH o).pwr = s.pwr := rfl
@[simp] theorem State.countH_flt (o : Occ) : (s.countH o).flt = s.flt := rfl
@[simp] theorem State.countH_btb (o : Occ) : (s.countH o).btb = s.btb := rfl
@[simp] theorem State.countH_hif (o : Occ) : (s.countH o).hif = s.hif := rfl
@[simp] theorem State.countH_st (o : Occ) : (s.countH o).st = s.st := rfl
@[simp] theorem State.countH_masts (o : Occ) : (s.countH o).masts = s.masts := rfl
@[simp] theorem State.countH_ctxs (o : Occ) : (s.countH o).ctxs = s.ctxs := rfl
@[simp] theorem State.countH_zeroing (o : Occ) : (s.countH o).zeroing = s.zeroing := rfl
@[simp] theorem State.countH_reqs (o : Occ) : (s.countH o).reqs = s.reqs := rfl
@[simp] theorem State.countH_sess (o : Occ) : (s.countH o).sess = s.sess := rfl
@[simp] theorem State.countH_srvSel (o : Occ) : (s.countH o).srvSel = s.srvSel := rfl
@[simp] theorem State.countH_srvErr (o : Occ) : (s.countH o).srvErr = s.srvErr := rfl
@[simp] theorem State.countH_exports (o : Occ) : (s.countH o).exports = s.exports := rfl
@[simp] theorem State.countH_nextExp (o : Occ) : (s.countH o).nextExp = s.nextExp := rfl
@[simp] theorem State.countH_imports (o : Occ) : (s.countH o).imports = s.imports := rfl
@[simp] theorem State.countH_hal (o : Occ) : (s.countH o).hal = s.hal := rfl
@[simp] theorem State.countH_nlc (o : Occ) : (s.countH o).nlc = s.nlc := rfl
@[simp] theorem State.countH_col (o : Occ) : (s.countH o).col = s.col := rfl
@[simp] theorem State.countH_pmc (o : Occ) : (s.countH o).pmc = s.pmc.count o := rfl
@[simp] theorem State.countH_out (o : Occ) : (s.countH o).out = s.out := rfl
@[simp] theorem State.countH_free (o : Occ) : (s.countH o).free = s.free := rfl
@[simp] theorem State.countH_pending (o : Occ) : (s.countH o).pending = s.pending := rfl

/-! ### countM -/

@[simp] theorem State.countM_time (m : Nat) (o : Occ) : (s.countM m o).time = s.time := rfl
@[simp] theorem State.countM_cn (m : Nat) (o : Occ) : (s.countM m o).cn = s.cn := rfl
@[simp] theorem State.countM_id (m : Nat) (o : Occ) : (s.countM m o).id = s.id := rfl
@[simp] theorem State.countM_pwr (m : Nat) (o : Occ) : (s.countM m o).pwr = s.pwr := rfl
@[simp] theorem State.countM_flt (m : Nat) (o : Occ) : (s.countM m o).flt = s.flt := rfl
@[simp] theorem State.countM_btb (m : Nat) (o : Occ) : (s.countM m o).btb = s.btb := rfl
@[simp] theorem State.countM_hif (m : Nat) (o : Occ) : (s.countM m o).hif = s.hif := rfl
@[simp] theorem State.countM_st (m : Nat) (o : Occ) : (s.countM m o).st = s.st := rfl
@[simp] theorem State.countM_ctxs (m : Nat) (o : Occ) : (s.countM m o).ctxs = s.ctxs := rfl
@[simp] theorem State.countM_zeroing (m : Nat) (o : Occ) : (s.countM m o).zeroing = s.zeroing := rfl
@[simp] theorem State.countM_reqs (m : Nat) (o : Occ) : (s.countM m o).reqs = s.reqs := rfl
@[simp] theorem State.countM_sess (m : Nat) (o : Occ) : (s.countM m o).sess = s.sess := rfl
@[simp] theorem State.countM_srvSel (m : Nat) (o : Occ) : (s.countM m o).srvSel = s.srvSel := rfl
@[simp] theorem State.countM_srvErr (m : Nat) (o : Occ) : (s.countM m o).srvErr = s.srvErr := rfl
@[simp] theorem State.countM_exports (m : Nat) (o : Occ) : (s.countM m o).exports = s.exports := rfl
@[simp] theorem State.countM_nextExp (m : Nat) (o : Occ) : (s.countM m o).nextExp = s.nextExp := rfl
@[simp] theorem State.countM_imports (m : Nat) (o : Occ) : (s.countM m o).imports = s.imports := rfl
@[simp] theorem State.countM_hal (m : Nat) (o : Occ) : (s.countM m o).hal = s.hal := rfl
@[simp] theorem State.countM_nlc (m : Nat) (o : Occ) : (s.countM m o).nlc = s.nlc := rfl
@[simp] theorem State.countM_col (m : Nat) (o : Occ) : (s.countM m o).col = s.col := rfl
@[simp] theorem State.countM_pmc (m : Nat) (o : Occ) : (s.countM m o).pmc = s.pmc := rfl
@[simp] theorem State.countM_out (m : Nat) (o : Occ) : (s.countM m o).out = s.out := rfl
@[simp] theorem State.countM_free (m : Nat) (o : Occ) : (s.countM m o).free = s.free := rfl
@[simp] theorem State.countM_pending (m : Nat) (o : Occ) : (s.countM m o).pending = s.pending := rfl

/-! ### modChan -/

@[simp] theorem State.modChan_time (c : Nat) (f : Chan → Chan) : (s.modChan c f).time = s.time := rfl
@[simp] theorem State.modChan_cn (c : Nat) (f : Chan → Chan) : (s.modChan c f).cn = s.cn := rfl
@[simp] theorem State.modChan_id (c : Nat) (f : Chan → Chan) : (s.modChan c f).id = s.id := rfl
@[simp] theorem State.modChan_pwr (c : Nat) (f : Chan → Chan) : (s.modChan c f).pwr = s.pwr := rfl
@[simp] theorem State.modChan_flt (c : Nat) (f : Chan → Chan) : (s.modChan c f).flt = s.flt := rfl
@[simp] theorem State.modChan_btb (c : Nat) (f : Chan → Chan) : (s.modChan c f).btb = s.btb := rfl
@[simp] theorem State.modChan_hif (c : Nat) (f : Chan → Chan) : (s.modChan c f).hif = s.hif := rfl
@[simp] theorem State.modChan_st (c : Nat) (f : Chan → Chan) : (s.modChan c f).st = { s.st with chans := tmod s.st.chans c f } := rfl
@[simp] theorem State.modChan_masts (c : Nat) (f : Chan → Chan) : (s.modChan c f).masts = s.masts := rfl
@[simp] theorem State.modChan_ctxs (c : Nat) (f : Chan → Chan) : (s.modChan c f).ctxs = s.ctxs := rfl
@[simp] theorem State.modChan_zeroing (c : Nat) (f : Chan → Chan) : (s.modChan c f).zeroing = s.zeroing := rfl
@[simp] theorem State.modChan_reqs (c : Nat) (f : Chan → Chan) : (s.modChan c f).reqs = s.reqs := rfl
@[simp] theorem State.modChan_sess (c : Nat) (f : Chan → Chan) : (s.modChan c f).sess = s.sess := rfl
@[simp] theorem State.modChan_srvSel (c : Nat) (f : Chan → Chan) : (s.modChan c f).srvSel = s.srvSel := rfl
@[simp] theorem State.modChan_srvErr (c : Nat) (f : Chan → Chan) : (s.modChan c f).srvErr = s.srvErr := rfl
@[simp] theorem State.modChan_exports (c : Nat) (f : Chan → Chan) : (s.modChan c f).exports = s.exports := rfl
@[simp] theorem State.modChan_nextExp (c : Nat) (f : Chan → Chan) : (s.modChan c f).nextExp = s.nextExp := rfl
@[simp] theorem State.modChan_imports (c : Nat) (f : Chan → Chan) : (s.modChan c f).imports = s.imports := rfl
@[simp] theorem State.modChan_hal (c : Nat) (f : Chan → Chan) : (s.modChan c f).hal = s.hal := rfl
@[simp] theorem State.modChan_nlc (c : Nat) (f : Chan → Chan) : (s.modChan c f).nlc = s.nlc := rfl
@[simp] theorem State.modChan_col (c : Nat) (f : Chan → Chan) : (s.modChan c f).col = s.col := rfl
@[simp] theorem State.modChan_pmc (c : Nat) (f : Chan → Chan) : (s.modChan c f).pmc = s.pmc := rfl
@[simp] theorem State.modChan_out (c : Nat) (f : Chan → Chan) : (s.modChan c f).out = s.out := rfl
@[simp] theorem State.modChan_free (c : Nat) (f : Chan → Chan) : (s.modChan c f).free = s.free := rfl
@[simp] theorem State.modChan_pending (c : Nat) (f : Chan → Chan) : (s.modChan c f).pending = s.pending := rfl

/-! ### modHmod -/

@[simp] theorem State.modHmod_time (m : Nat) (f : Module → Module) : (s.modHmod m f).time = s.time := rfl
@[simp] theorem State.modHmod_cn (m : Nat) (f : Module → Module) : (s.modHmod m f).cn = s.cn := rfl
@[simp] theorem State.modHmod_id (m : Nat) (f : Module → Module) : (s.modHmod m f).id = s.id := rfl
@[simp] theorem State.modHmod_pwr (m : Nat) (f : Module → Module) : (s.modHmod m f).pwr = s.pwr := rfl
@[simp] theorem State.modHmod_flt (m : Nat) (f : Module → Module) : (s.modHmod m f).flt = s.flt := rfl
@[simp] theorem State.modHmod_btb (m : Nat) (f : Module → Module) : (s.modHmod m f).btb = s.btb := rfl
@[simp] theorem State.modHmod_hif (m : Nat) (f : Module → Module) : (s.modHmod m f).hif = { s.hif with mods := tmod s.hif.mods m f } := rfl
@[simp] theorem State.modHmod_st (m : Nat) (f : Module → Module) : (s.modHmod m f).st = s.st := rfl
@[simp] theorem State.modHmod_masts (m : Nat) (f : Module → Module) : (s.modHmod m f).masts = s.masts := rfl
@[simp] theorem State.modHmod_ctxs (m : Nat) (f : Module → Module) : (s.modHmod m f).ctxs = s.ctxs := rfl
@[simp] theorem State.modHmod_zeroing (m : Nat) (f : Module → Module) : (s.modHmod m f).zeroing = s.zeroing := rfl
@[simp] theorem State.modHmod_reqs (m : Nat) (f : Module → Module) : (s.modHmod m f).reqs = s.reqs := rfl
@[simp] theorem State.modHmod_sess (m : Nat) (f : Module → Module) : (s.modHmod m f).sess = s.sess := rfl
@[simp] theorem State.modHmod_srvSel (m : Nat) (f : Module → Module) : (s.modHmod m f).srvSel = s.srvSel := rfl
@[simp] theorem State.modHmod_srvErr (m : Nat) (f : Module → Module) : (s.modHmod m f).srvErr = s.srvErr := rfl
@[simp] theorem State.modHmod_exports (m : Nat) (f : Module → Module) : (s.modHmod m f).exports = s.exports := rfl
@[simp] theorem State.modHmod_nextExp (m : Nat) (f : Module → Module) : (s.modHmod m f).nextExp = s.nextExp := rfl
@[simp] theorem State.modHmod_imports (m : Nat) (f : Module → Module) : (s.modHmod m f).imports = s.imports := rfl
@[simp] theorem State.modHmod_hal (m : Nat) (f : Module → Module) : (s.modHmod m f).hal = s.hal := rfl
@[simp] theorem State.modHmod_nlc (m : Nat) (f : Module → Module) : (s.modHmod m f).nlc = s.nlc := rfl
@[simp] theorem State.modHmod_col (m : Nat) (f : Module → Module) : (s.modHmod m f).col = s.col := rfl
@[simp] theorem State.modHmod_pmc (m : Nat) (f : Module → Module) : (s.modHmod m f).pmc = s.pmc := rfl
@[simp] theorem State.modHmod_out (m : Nat) (f : Module → Module) : (s.modHmod m f).out = s.out := rfl
@[simp] theorem State.modHmod_free (m : Nat) (f : Module → Module) : (s.modHmod m f).free = s.free := rfl
@[simp] theorem State.modHmod_pending (m : Nat) (f : Module → Module) : (s.modHmod m f).pending = s.pending := rfl

/-! ### modReq -/

@[simp] theorem State.modReq_time (i : Nat) (f : Request → Request) : (s.modReq i f).time = s.time := rfl
@[simp] theorem State.modReq_cn (i : Nat) (f : Request → Request) : (s.modReq i f).cn = s.cn := rfl
@[simp] theorem State.modReq_id (i : Nat) (f : Request → Request) : (s.modReq i f).id = s.id := rfl
@[simp] theorem State.modReq_pwr (i : Nat) (f : Request → Request) : (s.modReq i f).pwr = s.pwr := rfl
@[simp] theorem State.modReq_flt (i : Nat) (f : Request → Request) : (s.modReq i f).flt = s.flt := rfl
@[simp] theorem State.modReq_btb (i : Nat) (f : Request → Request) : (s.modReq i f).btb = s.btb := rfl
@[simp] theorem State.modReq_hif (i : Nat) (f : Request → Request) : (s.modReq i f).hif = s.hif := rfl
@[simp] theorem State.modReq_st (i : Nat) (f : Request → Request) : (s.modReq i f).st = s.st := rfl
@[simp] theorem State.modReq_masts (i : Nat) (f : Request → Request) : (s.modReq i f).masts = s.masts := rfl
@[simp] theorem State.modReq_ctxs (i : Nat) (f : Request → Request) : (s.modReq i f).ctxs = s.ctxs := rfl
@[simp] theorem State.modReq_zeroing (i : Nat) (f : Request → Request) : (s.modReq i f).zeroing = s.zeroing := rfl
@[simp] theorem State.modReq_reqs (i : Nat) (f : Request → Request) : (s.modReq i f).reqs = tmod s.reqs i f := rfl
@[simp] theorem State.modReq_sess (i : Nat) (f : Request → Request) : (s.modReq i f).sess = s.sess := rfl
@[simp] theorem State.modReq_srvSel (i : Nat) (f : Request → Request) : (s.modReq i f).srvSel = s.srvSel := rfl
@[simp] theorem State.modReq_srvErr (i : Nat) (f : Request → Request) : (s.modReq i f).srvErr = s.srvErr := rfl
@[simp] theorem State.modReq_exports (i : Nat) (f : Request → Request) : (s.modReq i f).exports = s.exports := rfl
@[simp] theorem State.modReq_nextExp (i : Nat) (f : Request → Request) : (s.modReq i f).nextExp = s.nextExp := rfl
@[simp] theorem State.modReq_imports (i : Nat) (f : Request → Request) : (s.modReq i f).imports = s.imports := rfl
@[simp] theorem State.modReq_hal (i : Nat) (f : Request → Request) : (s.modReq i f).hal = s.hal := rfl
@[simp] theorem State.modReq_nlc (i : Nat) (f : Request → Request) : (s.modReq i f).nlc = s.nlc := rfl
@[simp] theorem State.modReq_col (i : Nat) (f : Request → Request) : (s.modReq i f).col = s.col := rfl
@[simp] theorem State.modReq_pmc (i : Nat) (f : Request → Request) : (s.modReq i f).pmc = s.pmc := rfl
@[simp] theorem State.modReq_out (i : Nat) (f : Request → Request) : (s.modReq i f).out = s.out := rfl
@[simp] theorem State.modReq_free (i : Nat) (f : Request → Request) : (s.modReq i f).free = s.free := rfl
@[simp] theorem State.modReq_pending (i : Nat) (f : Request → Request) : (s.modReq i f).pending = s.pending := rfl

/-! ### modSession -/

@[simp] theorem State.modSession_time (i : Nat) (f : Session → Session) : (s.modSession i f).time = s.time := rfl
@[simp] theorem State.modSession_cn (i : Nat) (f : Session → Session) : (s.modSession i f).cn = s.cn := rfl
@[simp] theorem State.modSession_id (i : Nat) (f : Session → Session) : (s.modSession i f).id = s.id := rfl
@[simp] theorem State.modSession_pwr (i : Nat) (f : Session → Session) : (s.modSession i f).pwr = s.pwr := rfl
@[simp] theorem State.modSession_flt (i : Nat) (f : Session → Session) : (s.modSession i f).flt = s.flt := rfl
@[simp] theorem State.modSession_btb (i : Nat) (f : Session → Session) : (s.modSession i f).btb = s.btb := rfl
@[simp] theorem State.modSession_hif (i : Nat) (f : Session → Session) : (s.modSession i f).hif = s.hif := rfl
@[simp] theorem State.modSession_st (i : Nat) (f : Session → Session) : (s.modSession i f).st = s.st := rfl
@[simp] theorem State.modSession_masts (i : Nat) (f : Session → Session) : (s.modSession i f).masts = s.masts := rfl
@[simp] theorem State.modSession_ctxs (i : Nat) (f : Session → Session) : (s.modSession i f).ctxs = s.ctxs := rfl
@[simp] theorem State.modSession_zeroing (i : Nat) (f : Session → Session) : (s.modSession i f).zeroing = s.zeroing := rfl
@[simp] theorem State.modSession_reqs (i : Nat) (f : Session → Session) : (s.modSession i f).reqs = s.reqs := rfl
@[simp] theorem State.modSession_sess (i : Nat) (f : Session → Session) : (s.modSession i f).sess = tmod s.sess i f := rfl
@[simp] theorem State.modSession_srvSel (i : Nat) (f : Session → Session) : (s.modSession i f).srvSel = s.srvSel := rfl
@[simp] theorem State.modSession_srvErr (i : Nat) (f : Session → Session) : (s.modSession i f).srvErr = s.srvErr := rfl
@[simp] theorem State.modSession_exports (i : Nat) (f : Session → Session) : (s.modSession i f).exports = s.exports := rfl
@[simp] theorem State.modSession_nextExp (i : Nat) (f : Session → Session) : (s.modSession i f).nextExp = s.nextExp := rfl
@[simp] theorem State.modSession_imports (i : Nat) (f : Session → Session) : (s.modSession i f).imports = s.imports := rfl
@[simp] theorem State.modSession_hal (i : Nat) (f : Session → Session) : (s.modSession i f).hal = s.hal := rfl
@[simp] theorem State.modSession_nlc (i : Nat) (f : Session → Session) : (s.modSession i f).nlc = s.nlc := rfl
@[simp] theorem State.modSession_col (i : Nat) (f : Session → Session) : (s.modSession i f).col = s.col := rfl
@[simp] theorem State.modSession_pmc (i : Nat) (f : Session → Session) : (s.modSession i f).pmc = s.pmc := rfl
@[simp] theorem State.modSession_out (i : Nat) (f : Session → Session) : (s.modSession i f).out = s.out := rfl
@[simp] theorem State.modSession_free (i : Nat) (f : Session → Session) : (s.modSession i f).free = s.free := rfl
@[simp] theorem State.modSession_pending (i : Nat) (f : Session → Session) : (s.modSession i f).pending = s.pending := rfl

/-! ### modExport -/

@[simp] theorem State.modExport_time (i : Nat) (f : Export → Export) : (s.modExport i f).time = s.time := rfl
@[simp] theorem State.modExport_cn (i : Nat) (f : Export → Export) : (s.modExport i f).cn = s.cn := rfl
@[simp] theorem State.modExport_id (i : Nat) (f : Export → Export) : (s.modExport i f).id = s.id := rfl
@[simp] theorem State.modExport_pwr (i : Nat) (f : Export → Export) : (s.modExport i f).pwr = s.pwr := rfl
@[simp] theorem State.modExport_flt (i : Nat) (f : Export → Export) : (s.modExport i f).flt = s.flt := rfl
@[simp] theorem State.modExport_btb (i : Nat) (f : Export → Export) : (s.modExport i f).btb = s.btb := rfl
@[simp] theorem State.modExport_hif (i : Nat) (f : Export → Export) : (s.modExport i f).hif = s.hif := rfl
@[simp] theorem State.modExport_st (i : Nat) (f : Export → Export) : (s.modExport i f).st = s.st := rfl
@[simp] theorem State.modExport_masts (i : Nat) (f : Export → Export) : (s.modExport i f).masts = s.masts := rfl
@[simp] theorem State.modExport_ctxs (i : Nat) (f : Export → Export) : (s.modExport i f).ctxs = s.ctxs := rfl
@[simp] theorem State.modExport_zeroing (i : Nat) (f : Export → Export) : (s.modExport i f).zeroing = s.zeroing := rfl
@[simp] theorem State.modExport_reqs (i : Nat) (f : Export → Export) : (s.modExport i f).reqs = s.reqs := rfl
@[simp] theorem State.modExport_sess (i : Nat) (f : Export → Export) : (s.modExport i f).sess = s.sess := rfl
@[simp] theorem State.modExport_srvSel (i : Nat) (f : Export → Export) : (s.modExport i f).srvSel = s.srvSel := rfl
@[simp] theorem State.modExport_srvErr (i : Nat) (f : Export → Export) : (s.modExport i f).srvErr = s.srvErr := rfl
@[simp] theorem State.modExport_exports (i : Nat) (f : Export → Export) : (s.modExport i f).exports = tmod s.exports i f := rfl
@[simp] theorem State.modExport_nextExp (i : Nat) (f : Export → Export) : (s.modExport i f).nextExp = s.nextExp := rfl
@[simp] theorem State.modExport_imports (i : Nat) (f : Export → Export) : (s.modExport i f).imports = s.imports := rfl
@[simp] theorem State.modExport_hal (i : Nat) (f : Export → Export) : (s.modExport i f).hal = s.hal := rfl
@[simp] theorem State.modExport_nlc (i : Nat) (f : Export → Export) : (s.modExport i f).nlc = s.nlc := rfl
@[simp] theorem State.modExport_col (i : Nat) (f : Export → Export) : (s.modExport i f).col = s.col := rfl
@[simp] theorem State.modExport_pmc (i : Nat) (f : Export → Export) : (s.modExport i f).pmc = s.pmc := rfl
@[simp] theorem State.modExport_out (i : Nat) (f : Export → Export) : (s.modExport i f).out = s.out := rfl
@[simp] theorem State.modExport_free (i : Nat) (f : Export → Export) : (s.modExport i f).free = s.free := rfl
@[simp] theorem State.modExport_pending (i : Nat) (f : Export → Export) : (s.modExport i f).pending = s.pending := rfl

/-! ### modHolder -/

@[simp] theorem State.modHolder_time (c : Nat) (f : Holder → Holder) : (s.modHolder c f).time = s.time := rfl
@[simp] theorem State.modHolder_cn (c : Nat) (f : Holder → Holder) : (s.modHolder c f).cn = s.cn := rfl
@[simp] theorem State.modHolder_id (c : Nat) (f : Holder → Holder) : (s.modHolder c f).id = s.id := rfl
@[simp] theorem State.modHolder_pwr (c : Nat) (f : Holder → Holder) : (s.modHolder c f).pwr = s.pwr := rfl
@[simp] theorem State.modHolder_flt (c : Nat) (f : Holder → Holder) : (s.modHolder c f).flt = s.flt := rfl
@[simp] theorem State.modHolder_btb (c : Nat) (f : Holder → Holder) : (s.modHolder c f).btb = s.btb := rfl
@[simp] theorem State.modHolder_hif (c : Nat) (f : Holder → Holder) : (s.modHolder c f).hif = s.hif := rfl
@[simp] theorem State.modHolder_st (c : Nat) (f : Holder → Holder) : (s.modHolder c f).st = s.st := rfl
@[simp] theorem State.modHolder_masts (c : Nat) (f : Holder → Holder) : (s.modHolder c f).masts = s.masts := rfl
@[simp] theorem State.modHolder_ctxs (c : Nat) (f : Holder → Holder) : (s.modHolder c f).ctxs = tmod s.ctxs c fun x => { x with holder := f x.holder } := rfl
@[simp] theorem State.modHolder_zeroing (c : Nat) (f : Holder → Holder) : (s.modHolder c f).zeroing = s.zeroing := rfl
@[simp] theorem State.modHolder_reqs (c : Nat) (f : Holder → Holder) : (s.modHolder c f).reqs = s.reqs := rfl
@[simp] theorem State.modHolder_sess (c : Nat) (f : Holder → Holder) : (s.modHolder c f).sess = s.sess := rfl
@[simp] theorem State.modHolder_srvSel (c : Nat) (f : Holder → Holder) : (s.modHolder c f).srvSel = s.srvSel := rfl
@[simp] theorem State.modHolder_srvErr (c : Nat) (f : Holder → Holder) : (s.modHolder c f).srvErr = s.srvErr := rfl
@[simp] theorem State.modHolder_exports (c : Nat) (f : Holder → Holder) : (s.modHolder c f).exports = s.exports := rfl
@[simp] theorem State.modHolder_nextExp (c : Nat) (f : Holder → Holder) : (s.modHolder c f).nextExp = s.nextExp := rfl
@[simp] theorem State.modHolder_imports (c : Nat) (f : Holder → Holder) : (s.modHolder c f).imports = s.imports := rfl
@[simp] theorem State.modHolder_hal (c : Nat) (f : Holder → Holder) : (s.modHolder c f).hal = s.hal := rfl
@[simp] theorem State.modHolder_nlc (c : Nat) (f : Holder → Holder) : (s.modHolder c f).nlc = s.nlc := rfl
@[simp] theorem State.modHolder_col (c : Nat) (f : Holder → Holder) : (s.modHolder c f).col = s.col := rfl
@[simp] theorem State.modHolder_pmc (c : Nat) (f : Holder → Holder) : (s.modHolder c f).pmc = s.pmc := rfl
@[simp] theorem State.modHolder_out (c : Nat) (f : Holder → Holder) : (s.modHolder c f).out = s.out := rfl
@[simp] theorem State.modHolder_free (c : Nat) (f : Holder → Holder) : (s.modHolder c f).free = s.free := rfl
@[simp] theorem State.modHolder_pending (c : Nat) (f : Holder → Holder) : (s.modHolder c f).pending = s.pending := rfl

/-! ### modShard -/

@[simp] theorem State.modShard_time (i : Nat) (f : Shard → Shard) : (s.modShard i f).time = s.time := rfl
@[simp] theorem State.modShard_cn (i : Nat) (f : Shard → Shard) : (s.modShard i f).cn = s.cn := rfl
@[simp] theorem State.modShard_id (i : Nat) (f : Shard → Shard) : (s.modShard i f).id = s.id := rfl
@[simp] theorem State.modShard_pwr (i : Nat) (f : Shard → Shard) : (s.modShard i f).pwr = s.pwr := rfl
@[simp] theorem State.modShard_flt (i : Nat) (f : Shard → Shard) : (s.modShard i f).flt = s.flt := rfl
@[simp] theorem State.modShard_btb (i : Nat) (f : Shard → Shard) : (s.modShard i f).btb = s.btb := rfl
@[simp] theorem State.modShard_hif (i : Nat) (f : Shard → Shard) : (s.modShard i f).hif = s.hif := rfl
@[simp] theorem State.modShard_st (i : Nat) (f : Shard → Shard) : (s.modShard i f).st = s.st := rfl
@[simp] theorem State.modShard_masts (i : Nat) (f : Shard → Shard) : (s.modShard i f).masts = s.masts := rfl
@[simp] theorem State.modShard_ctxs (i : Nat) (f : Shard → Shard) : (s.modShard i f).ctxs = s.ctxs := rfl
@[simp] theorem State.modShard_zeroing (i : Nat) (f : Shard → Shard) : (s.modShard i f).zeroing = s.zeroing := rfl
@[simp] theorem State.modShard_reqs (i : Nat) (f : Shard → Shard) : (s.modShard i f).reqs = s.reqs := rfl
@[simp] theorem State.modShard_sess (i : Nat) (f : Shard → Shard) : (s.modShard i f).sess = s.sess := rfl
@[simp] theorem State.modShard_srvSel (i : Nat) (f : Shard → Shard) : (s.modShard i f).srvSel = s.srvSel := rfl
@[simp] theorem State.modShard_srvErr (i : Nat) (f : Shard → Shard) : (s.modShard i f).srvErr = s.srvErr := rfl
@[simp] theorem State.modShard_exports (i : Nat) (f : Shard → Shard) : (s.modShard i f).exports = s.exports := rfl
@[simp] theorem State.modShard_nextExp (i : Nat) (f : Shard → Shard) : (s.modShard i f).nextExp = s.nextExp := rfl
@[simp] theorem State.modShard_imports (i : Nat) (f : Shard → Shard) : (s.modShard i f).imports = s.imports := rfl
@[simp] theorem State.modShard_hal (i : Nat) (f : Shard → Shard) : (s.modShard i f).hal = { s.hal with shards := tmod s.hal.shards i f } := rfl
@[simp] theorem State.modShard_nlc (i : Nat) (f : Shard → Shard) : (s.modShard i f).nlc = s.nlc := rfl
@[simp] theorem State.modShard_col (i : Nat) (f : Shard → Shard) : (s.modShard i f).col = s.col := rfl
@[simp] theorem State.modShard_pmc (i : Nat) (f : Shard → Shard) : (s.modShard i f).pmc = s.pmc := rfl
@[simp] theorem State.modShard_out (i : Nat) (f : Shard → Shard) : (s.modShard i f).out = s.out := rfl
@[simp] theorem State.modShard_free (i : Nat) (f : Shard → Shard) : (s.modShard i f).free = s.free := rfl
@[simp] theorem State.modShard_pending (i : Nat) (f : Shard → Shard) : (s.modShard i f).pending = s.pending := rfl

/-! ### modNlc -/

@[simp] theorem State.modNlc_time (f : Nalec → Nalec) : (s.modNlc f).time = s.time := rfl
@[simp] theorem State.modNlc_cn (f : Nalec → Nalec) : (s.modNlc f).cn = s.cn := rfl
@[simp] theorem State.modNlc_id (f : Nalec → Nalec) : (s.modNlc f).id = s.id := rfl
@[simp] theorem State.modNlc_pwr (f : Nalec → Nalec) : (s.modNlc f).pwr = s.pwr := rfl
@[simp] theorem State.modNlc_flt (f : Nalec → Nalec) : (s.modNlc f).flt = s.flt := rfl
@[simp] theorem State.modNlc_btb (f : Nalec → Nalec) : (s.modNlc f).btb = s.btb := rfl
@[simp] theorem State.modNlc_hif (f : Nalec → Nalec) : (s.modNlc f).hif = s.hif := rfl
@[simp] theorem State.modNlc_st (f : Nalec → Nalec) : (s.modNlc f).st = s.st := rfl
@[simp] theorem State.modNlc_masts (f : Nalec → Nalec) : (s.modNlc f).masts = s.masts := rfl
@[simp] theorem State.modNlc_ctxs (f : Nalec → Nalec) : (s.modNlc f).ctxs = s.ctxs := rfl
@[simp] theorem State.modNlc_zeroing (f : Nalec → Nalec) : (s.modNlc f).zeroing = s.zeroing := rfl
@[simp] theorem State.modNlc_reqs (f : Nalec → Nalec) : (s.modNlc f).reqs = s.reqs := rfl
@[simp] theorem State.modNlc_sess (f : Nalec → Nalec) : (s.modNlc f).sess = s.sess := rfl
@[simp] theorem State.modNlc_srvSel (f : Nalec → Nalec) : (s.modNlc f).srvSel = s.srvSel := rfl
@[simp] theorem State.modNlc_srvErr (f : Nalec → Nalec) : (s.modNlc f).srvErr = s.srvErr := rfl
@[simp] theorem State.modNlc_exports (f : Nalec → Nalec) : (s.modNlc f).exports = s.exports := rfl
@[simp] theorem State.modNlc_nextExp (f : Nalec → Nalec) : (s.modNlc f).nextExp = s.nextExp := rfl
@[simp] theorem State.modNlc_imports (f : Nalec → Nalec) : (s.modNlc f).imports = s.imports := rfl
@[simp] theorem State.modNlc_hal (f : Nalec → Nalec) : (s.modNlc f).hal = s.hal := rfl
@[simp] theorem State.modNlc_nlc (f : Nalec → Nalec) : (s.modNlc f).nlc = f s.nlc := rfl
@[simp] theorem State.modNlc_col (f : Nalec → Nalec) : (s.modNlc f).col = s.col := rfl
@[simp] theorem State.modNlc_pmc (f : Nalec → Nalec) : (s.modNlc f).pmc = s.pmc := rfl
@[simp] theorem State.modNlc_out (f : Nalec → Nalec) : (s.modNlc f).out = s.out := rfl
@[simp] theorem State.modNlc_free (f : Nalec → Nalec) : (s.modNlc f).free = s.free := rfl
@[simp] theorem State.modNlc_pending (f : Nalec → Nalec) : (s.modNlc f).pending = s.pending := rfl

/-! ### modPort -/

@[simp] theorem State.modPort_time (p : Nat) (f : Port → Port) : (s.modPort p f).time = s.time := rfl
@[simp] theorem State.modPort_cn (p : Nat) (f : Port → Port) : (s.modPort p f).cn = s.cn := rfl
@[simp] theorem State.modPort_id (p : Nat) (f : Port → Port) : (s.modPort p f).id = s.id := rfl
@[simp] theorem State.modPort_pwr (p : Nat) (f : Port → Port) : (s.modPort p f).pwr = s.pwr := rfl
@[simp] theorem State.modPort_flt (p : Nat) (f : Port → Port) : (s.modPort p f).flt = s.flt := rfl
@[simp] theorem State.modPort_btb (p : Nat) (f : Port → Port) : (s.modPort p f).btb = s.btb := rfl
@[simp] theorem State.modPort_hif (p : Nat) (f : Port → Port) : (s.modPort p f).hif = s.hif := rfl
@[simp] theorem State.modPort_st (p : Nat) (f : Port → Port) : (s.modPort p f).st = s.st := rfl
@[simp] theorem State.modPort_masts (p : Nat) (f : Port → Port) : (s.modPort p f).masts = s.masts := rfl
@[simp] theorem State.modPort_ctxs (p : Nat) (f : Port → Port) : (s.modPort p f).ctxs = s.ctxs := rfl
@[simp] theorem State.modPort_zeroing (p : Nat) (f : Port → Port) : (s.modPort p f).zeroing = s.zeroing := rfl
@[simp] theorem State.modPort_reqs (p : Nat) (f : Port → Port) : (s.modPort p f).reqs = s.reqs := rfl
@[simp] theorem State.modPort_sess (p : Nat) (f : Port → Port) : (s.modPort p f).sess = s.sess := rfl
@[simp] theorem State.modPort_srvSel (p : Nat) (f : Port → Port) : (s.modPort p f).srvSel = s.srvSel := rfl
@[simp] theorem State.modPort_srvErr (p : Nat) (f : Port → Port) : (s.modPort p f).srvErr = s.srvErr := rfl
@[simp] theorem State.modPort_exports (p : Nat) (f : Port → Port) : (s.modPort p f).exports = s.exports := rfl
@[simp] theorem State.modPort_nextExp (p : Nat) (f : Port → Port) : (s.modPort p f).nextExp = s.nextExp := rfl
@[simp] theorem State.modPort_imports (p : Nat) (f : Port → Port) : (s.modPort p f).imports = s.imports := rfl
@[simp] theorem State.modPort_hal (p : Nat) (f : Port → Port) : (s.modPort p f).hal = s.hal := rfl
@[simp] theorem State.modPort_nlc (p : Nat) (f : Port → Port) : (s.modPort p f).nlc = { s.nlc with ports := tmod s.nlc.ports p f } := rfl
@[simp] theorem State.modPort_col (p : Nat) (f : Port → Port) : (s.modPort p f).col = s.col := rfl
@[simp] theorem State.modPort_pmc (p : Nat) (f : Port → Port) : (s.modPort p f).pmc = s.pmc := rfl
@[simp] theorem State.modPort_out (p : Nat) (f : Port → Port) : (s.modPort p f).out = s.out := rfl
@[simp] theorem State.modPort_free (p : Nat) (f : Port → Port) : (s.modPort p f).free = s.free := rfl
@[simp] theorem State.modPort_pending (p : Nat) (f : Port → Port) : (s.modPort p f).pending = s.pending := rfl

/-! ### modCol -/

@[simp] theorem State.modCol_time (f : Collectives → Collectives) : (s.modCol f).time = s.time := rfl
@[simp] theorem State.modCol_cn (f : Collectives → Collectives) : (s.modCol f).cn = s.cn := rfl
@[simp] theorem State.modCol_id (f : Collectives → Collectives) : (s.modCol f).id = s.id := rfl
@[simp] theorem State.modCol_pwr (f : Collectives → Collectives) : (s.modCol f).pwr = s.pwr := rfl
@[simp] theorem State.modCol_flt (f : Collectives → Collectives) : (s.modCol f).flt = s.flt := rfl
@[simp] theorem State.modCol_btb (f : Collectives → Collectives) : (s.modCol f).btb = s.btb := rfl
@[simp] theorem State.modCol_hif (f : Collectives → Collectives) : (s.modCol f).hif = s.hif := rfl
@[simp] theorem State.modCol_st (f : Collectives → Collectives) : (s.modCol f).st = s.st := rfl
@[simp] theorem State.modCol_masts (f : Collectives → Collectives) : (s.modCol f).masts = s.masts := rfl
@[simp] theorem State.modCol_ctxs (f : Collectives → Collectives) : (s.modCol f).ctxs = s.ctxs := rfl
@[simp] theorem State.modCol_zeroing (f : Collectives → Collectives) : (s.modCol f).zeroing = s.zeroing := rfl
@[simp] theorem State.modCol_reqs (f : Collectives → Collectives) : (s.modCol f).reqs = s.reqs := rfl
@[simp] theorem State.modCol_sess (f : Collectives → Collectives) : (s.modCol f).sess = s.sess := rfl
@[simp] theorem State.modCol_srvSel (f : Collectives → Collectives) : (s.modCol f).srvSel = s.srvSel := rfl
@[simp] theorem State.modCol_srvErr (f : Collectives → Collectives) : (s.modCol f).srvErr = s.srvErr := rfl
@[simp] theorem State.modCol_exports (f : Collectives → Collectives) : (s.modCol f).exports = s.exports := rfl
@[simp] theorem State.modCol_nextExp (f : Collectives → Collectives) : (s.modCol f).nextExp = s.nextExp := rfl
@[simp] theorem State.modCol_imports (f : Collectives → Collectives) : (s.modCol f).imports = s.imports := rfl
@[simp] theorem State.modCol_hal (f : Collectives → Collectives) : (s.modCol f).hal = s.hal := rfl
@[simp] theorem State.modCol_nlc (f : Collectives → Collectives) : (s.modCol f).nlc = s.nlc := rfl
@[simp] theorem State.modCol_col (f : Collectives → Collectives) : (s.modCol f).col = f s.col := rfl
@[simp] theorem State.modCol_pmc (f : Collectives → Collectives) : (s.modCol f).pmc = s.pmc := rfl
@[simp] theorem State.modCol_out (f : Collectives → Collectives) : (s.modCol f).out = s.out := rfl
@[simp] theorem State.modCol_free (f : Collectives → Collectives) : (s.modCol f).free = s.free := rfl
@[simp] theorem State.modCol_pending (f : Collectives → Collectives) : (s.modCol f).pending = s.pending := rfl

/-! ### modGroup -/

@[simp] theorem State.modGroup_time (g : Nat) (f : Group → Group) : (s.modGroup g f).time = s.time := rfl
@[simp] theorem State.modGroup_cn (g : Nat) (f : Group → Group) : (s.modGroup g f).cn = s.cn := rfl
@[simp] theorem State.modGroup_id (g : Nat) (f : Group → Group) : (s.modGroup g f).id = s.id := rfl
@[simp] theorem State.modGroup_pwr (g : Nat) (f : Group → Group) : (s.modGroup g f).pwr = s.pwr := rfl
@[simp] theorem State.modGroup_flt (g : Nat) (f : Group → Group) : (s.modGroup g f).flt = s.flt := rfl
@[simp] theorem State.modGroup_btb (g : Nat) (f : Group → Group) : (s.modGroup g f).btb = s.btb := rfl
@[simp] theorem State.modGroup_hif (g : Nat) (f : Group → Group) : (s.modGroup g f).hif = s.hif := rfl
@[simp] theorem State.modGroup_st (g : Nat) (f : Group → Group) : (s.modGroup g f).st = s.st := rfl
@[simp] theorem State.modGroup_masts (g : Nat) (f : Group → Group) : (s.modGroup g f).masts = s.masts := rfl
@[simp] theorem State.modGroup_ctxs (g : Nat) (f : Group → Group) : (s.modGroup g f).ctxs = s.ctxs := rfl
@[simp] theorem State.modGroup_zeroing (g : Nat) (f : Group → Group) : (s.modGroup g f).zeroing = s.zeroing := rfl
@[simp] theorem State.modGroup_reqs (g : Nat) (f : Group → Group) : (s.modGroup g f).reqs = s.reqs := rfl
@[simp] theorem State.modGroup_sess (g : Nat) (f : Group → Group) : (s.modGroup g f).sess = s.sess := rfl
@[simp] theorem State.modGroup_srvSel (g : Nat) (f : Group → Group) : (s.modGroup g f).srvSel = s.srvSel := rfl
@[simp] theorem State.modGroup_srvErr (g : Nat) (f : Group → Group) : (s.modGroup g f).srvErr = s.srvErr := rfl
@[simp] theorem State.modGroup_exports (g : Nat) (f : Group → Group) : (s.modGroup g f).exports = s.exports := rfl
@[simp] theorem State.modGroup_nextExp (g : Nat) (f : Group → Group) : (s.modGroup g f).nextExp = s.nextExp := rfl
@[simp] theorem State.modGroup_imports (g : Nat) (f : Group → Group) : (s.modGroup g f).imports = s.imports := rfl
@[simp] theorem State.modGroup_hal (g : Nat) (f : Group → Group) : (s.modGroup g f).hal = s.hal := rfl
@[simp] theorem State.modGroup_nlc (g : Nat) (f : Group → Group) : (s.modGroup g f).nlc = s.nlc := rfl
@[simp] theorem State.modGroup_col (g : Nat) (f : Group → Group) : (s.modGroup g f).col = { s.col with groups := tmod s.col.groups g f } := rfl
@[simp] theorem State.modGroup_pmc (g : Nat) (f : Group → Group) : (s.modGroup g f).pmc = s.pmc := rfl
@[simp] theorem State.modGroup_out (g : Nat) (f : Group → Group) : (s.modGroup g f).out = s.out := rfl
@[simp] theorem State.modGroup_free (g : Nat) (f : Group → Group) : (s.modGroup g f).free = s.free := rfl
@[simp] theorem State.modGroup_pending (g : Nat) (f : Group → Group) : (s.modGroup g f).pending = s.pending := rfl

/-! ### modCall -/

@[simp] theorem State.modCall_time (g m : Nat) (f : ColCall → ColCall) : (s.modCall g m f).time = s.time := rfl
@[simp] theorem State.modCall_cn (g m : Nat) (f : ColCall → ColCall) : (s.modCall g m f).cn = s.cn := rfl
@[simp] theorem State.modCall_id (g m : Nat) (f : ColCall → ColCall) : (s.modCall g m f).id = s.id := rfl
@[simp] theorem State.modCall_pwr (g m : Nat) (f : ColCall → ColCall) : (s.modCall g m f).pwr = s.pwr := rfl
@[simp] theorem State.modCall_flt (g m : Nat) (f : ColCall → ColCall) : (s.modCall g m f).flt = s.flt := rfl
@[simp] theorem State.modCall_btb (g m : Nat) (f : ColCall → ColCall) : (s.modCall g m f).btb = s.btb := rfl
@[simp] theorem State.modCall_hif (g m : Nat) (f : ColCall → ColCall) : (s.modCall g m f).hif = s.hif := rfl
@[simp] theorem State.modCall_st (g m : Nat) (f : ColCall → ColCall) : (s.modCall g m f).st = s.st := rfl
@[simp] theorem State.modCall_masts (g m : Nat) (f : ColCall → ColCall) : (s.modCall g m f).masts = s.masts := rfl
@[simp] theorem State.modCall_ctxs (g m : Nat) (f : ColCall → ColCall) : (s.modCall g m f).ctxs = s.ctxs := rfl
@[simp] theorem State.modCall_zeroing (g m : Nat) (f : ColCall → ColCall) : (s.modCall g m f).zeroing = s.zeroing := rfl
@[simp] theorem State.modCall_reqs (g m : Nat) (f : ColCall → ColCall) : (s.modCall g m f).reqs = s.reqs := rfl
@[simp] theorem State.modCall_sess (g m : Nat) (f : ColCall → ColCall) : (s.modCall g m f).sess = s.sess := rfl
@[simp] theorem State.modCall_srvSel (g m : Nat) (f : ColCall → ColCall) : (s.modCall g m f).srvSel = s.srvSel := rfl
@[simp] theorem State.modCall_srvErr (g m : Nat) (f : ColCall → ColCall) : (s.modCall g m f).srvErr = s.srvErr := rfl
@[simp] theorem State.modCall_exports (g m : Nat) (f : ColCall → ColCall) : (s.modCall g m f).exports = s.exports := rfl
@[simp] theorem State.modCall_nextExp (g m : Nat) (f : ColCall → ColCall) : (s.modCall g m f).nextExp = s.nextExp := rfl
@[simp] theorem State.modCall_imports (g m : Nat) (f : ColCall → ColCall) : (s.modCall g m f).imports = s.imports := rfl
@[simp] theorem State.modCall_hal (g m : Nat) (f : ColCall → ColCall) : (s.modCall g m f).hal = s.hal := rfl
@[simp] theorem State.modCall_nlc (g m : Nat) (f : ColCall → ColCall) : (s.modCall g m f).nlc = s.nlc := rfl
@[simp] theorem State.modCall_pmc (g m : Nat) (f : ColCall → ColCall) : (s.modCall g m f).pmc = s.pmc := rfl
@[simp] theorem State.modCall_out (g m : Nat) (f : ColCall → ColCall) : (s.modCall g m f).out = s.out := rfl
@[simp] theorem State.modCall_free (g m : Nat) (f : ColCall → ColCall) : (s.modCall g m f).free = s.free := rfl
@[simp] theorem State.modCall_pending (g m : Nat) (f : ColCall → ColCall) : (s.modCall g m f).pending = s.pending := rfl

/-! ### modPwr -/

@[simp] theorem State.modPwr_time (f : Power → Power) : (s.modPwr f).time = s.time := rfl
@[simp] theorem State.modPwr_cn (f : Power → Power) : (s.modPwr f).cn = s.cn := rfl
@[simp] theorem State.modPwr_id (f : Power → Power) : (s.modPwr f).id = s.id := rfl
@[simp] theorem State.modPwr_pwr (f : Power → Power) : (s.modPwr f).pwr = f s.pwr := rfl
@[simp] theorem State.modPwr_flt (f : Power → Power) : (s.modPwr f).flt = s.flt := rfl
@[simp] theorem State.modPwr_btb (f : Power → Power) : (s.modPwr f).btb = s.btb := rfl
@[simp] theorem State.modPwr_hif (f : Power → Power) : (s.modPwr f).hif = s.hif := rfl
@[simp] theorem State.modPwr_st (f : Power → Power) : (s.modPwr f).st = s.st := rfl
@[simp] theorem State.modPwr_masts (f : Power → Power) : (s.modPwr f).masts = s.masts := rfl
@[simp] theorem State.modPwr_ctxs (f : Power → Power) : (s.modPwr f).ctxs = s.ctxs := rfl
@[simp] theorem State.modPwr_zeroing (f : Power → Power) : (s.modPwr f).zeroing = s.zeroing := rfl
@[simp] theorem State.modPwr_reqs (f : Power → Power) : (s.modPwr f).reqs = s.reqs := rfl
@[simp] theorem State.modPwr_sess (f : Power → Power) : (s.modPwr f).sess = s.sess := rfl
@[simp] theorem State.modPwr_srvSel (f : Power → Power) : (s.modPwr f).srvSel = s.srvSel := rfl
@[simp] theorem State.modPwr_srvErr (f : Power → Power) : (s.modPwr f).srvErr = s.srvErr := rfl
@[simp] theorem State.modPwr_exports (f : Power → Power) : (s.modPwr f).exports = s.exports := rfl
@[simp] theorem State.modPwr_nextExp (f : Power → Power) : (s.modPwr f).nextExp = s.nextExp := rfl
@[simp] theorem State.modPwr_imports (f : Power → Power) : (s.modPwr f).imports = s.imports := rfl
@[simp] theorem State.modPwr_hal (f : Power → Power) : (s.modPwr f).hal = s.hal := rfl
@[simp] theorem State.modPwr_nlc (f : Power → Power) : (s.modPwr f).nlc = s.nlc := rfl
@[simp] theorem State.modPwr_col (f : Power → Power) : (s.modPwr f).col = s.col := rfl
@[simp] theorem State.modPwr_pmc (f : Power → Power) : (s.modPwr f).pmc = s.pmc := rfl
@[simp] theorem State.modPwr_out (f : Power → Power) : (s.modPwr f).out = s.out := rfl
@[simp] theorem State.modPwr_free (f : Power → Power) : (s.modPwr f).free = s.free := rfl
@[simp] theorem State.modPwr_pending (f : Power → Power) : (s.modPwr f).pending = s.pending := rfl

/-! ### modBtb -/

@[simp] theorem State.modBtb_time (f : Trust → Trust) : (s.modBtb f).time = s.time := rfl
@[simp] theorem State.modBtb_cn (f : Trust → Trust) : (s.modBtb f).cn = s.cn := rfl
@[simp] theorem State.modBtb_id (f : Trust → Trust) : (s.modBtb f).id = s.id := rfl
@[simp] theorem State.modBtb_pwr (f : Trust → Trust) : (s.modBtb f).pwr = s.pwr := rfl
@[simp] theorem State.modBtb_flt (f : Trust → Trust) : (s.modBtb f).flt = s.flt := rfl
@[simp] theorem State.modBtb_btb (f : Trust → Trust) : (s.modBtb f).btb = f s.btb := rfl
@[simp] theorem State.modBtb_hif (f : Trust → Trust) : (s.modBtb f).hif = s.hif := rfl
@[simp] theorem State.modBtb_st (f : Trust → Trust) : (s.modBtb f).st = s.st := rfl
@[simp] theorem State.modBtb_masts (f : Trust → Trust) : (s.modBtb f).masts = s.masts := rfl
@[simp] theorem State.modBtb_ctxs (f : Trust → Trust) : (s.modBtb f).ctxs = s.ctxs := rfl
@[simp] theorem State.modBtb_zeroing (f : Trust → Trust) : (s.modBtb f).zeroing = s.zeroing := rfl
@[simp] theorem State.modBtb_reqs (f : Trust → Trust) : (s.modBtb f).reqs = s.reqs := rfl
@[simp] theorem State.modBtb_sess (f : Trust → Trust) : (s.modBtb f).sess = s.sess := rfl
@[simp] theorem State.modBtb_srvSel (f : Trust → Trust) : (s.modBtb f).srvSel = s.srvSel := rfl
@[simp] theorem State.modBtb_srvErr (f : Trust → Trust) : (s.modBtb f).srvErr = s.srvErr := rfl
@[simp] theorem State.modBtb_exports (f : Trust → Trust) : (s.modBtb f).exports = s.exports := rfl
@[simp] theorem State.modBtb_nextExp (f : Trust → Trust) : (s.modBtb f).nextExp = s.nextExp := rfl
@[simp] theorem State.modBtb_imports (f : Trust → Trust) : (s.modBtb f).imports = s.imports := rfl
@[simp] theorem State.modBtb_hal (f : Trust → Trust) : (s.modBtb f).hal = s.hal := rfl
@[simp] theorem State.modBtb_nlc (f : Trust → Trust) : (s.modBtb f).nlc = s.nlc := rfl
@[simp] theorem State.modBtb_col (f : Trust → Trust) : (s.modBtb f).col = s.col := rfl
@[simp] theorem State.modBtb_pmc (f : Trust → Trust) : (s.modBtb f).pmc = s.pmc := rfl
@[simp] theorem State.modBtb_out (f : Trust → Trust) : (s.modBtb f).out = s.out := rfl
@[simp] theorem State.modBtb_free (f : Trust → Trust) : (s.modBtb f).free = s.free := rfl
@[simp] theorem State.modBtb_pending (f : Trust → Trust) : (s.modBtb f).pending = s.pending := rfl

end Sys2Proof.Machine
end

