-- ==== Sys2Proof/WellFormed.lean ====
section
/-! DEFINITION. Well-formed commands: operands within the package's own ranges (R3, R14, R240, R257, R285, R324). -/
namespace Sys2Proof

/-- Units the package has: masts, ports, modules, channels, contexts, attention engines, vector units. -/
def isMast (m : Nat) : Bool := decide (m < 8)
def isPort (p : Nat) : Bool := decide (p < 42)
def isModule (m : Nat) : Bool := decide (m < 4)
def isChannel (c : Nat) : Bool := decide (c < 8)
def isCtx (c : Nat) : Bool := decide (1 ≤ c ∧ c ≤ 64)
def isShard (i : Nat) : Bool := decide (i < 2 ^ 32)

/-- A request as reassembly delivers it: a channel of R257 and a payload of at most 4,096 bytes. -/
def Req.wf (r : Req) : Bool := isChannel r.flitCh && decide (r.payload.length ≤ 4096)

/-- A transport packet whose fields fit the header of R335. -/
def TPkt.wf (p : TPkt) : Bool :=
  isPort p.port && decide (p.op < 16 ∧ p.status < 16 ∧ p.targetCtx < 128 ∧ p.srcPkg < 256 ∧ p.partId < 65536)

/-- An upset that strikes a mast of the package. -/
def Upset.wf (u : Upset) : Bool := isMast u.mast

/-- An engine failure on one of the sixteen engines presented (R16). -/
def EngineError.wf : EngineError → Bool
  | .parity e => decide (e < 16)
  | .parityAgain e => decide (e < 16)
  | .accSingle e => decide (e < 16)
  | .accDouble e => decide (e < 16)
  | .logic e => decide (e < 16)

def WireSource.wf : WireSource → Bool
  | .mastUnit m _ => isMast m
  | .port p => isPort p
  | .module m => isModule m
  | .hub _ => true

/-- A calibration result names each mast at most once and steps of R465. -/
def CalResult.wf (c : CalResult) : Bool :=
  (c.masts.all fun m => isMast m.mast && decide (m.failStep ≤ 4 ∨ m.failStep = 7)) && decide ((c.masts.map (·.mast)).Nodup)

/-- A page of an export comes from a mast and has a format code of R164. -/
def ExportPage.wf (p : ExportPage) : Bool := isMast p.mast && decide (p.fmt ≤ 2 ∧ p.valid ≤ 256)

/-- A call names a context, a mast and the pointer of its descriptor (R75). -/
def callWf (ctx mast desc : Nat) : Bool := isCtx ctx && isMast mast && decide (desc < 2 ^ 64)

/-- A command whose operands lie in their ranges. -/
def Instr.wf : Instr → Bool
  | .hello r | .devConfig r | .mark r | .echo r | .regRead r | .regWrite r => r.wf
  | .registerWrite off _ => decide (off < 2 ^ 32)
  | .ctxCreate r | .ctxUnfurl r | .ctxFurl r | .ctxDestroy r | .ctxQuery r | .ctxPriority r => r.wf
  | .unfurlComplete c | .furlWithdrawLimit c | .furlComplete c | .contextZeroingEnd c => isCtx c
  | .memGrant r | .memRelease r | .memWrite r | .memRead r => r.wf
  | .memReleaseZeroed c m _ => isCtx c && isMast m
  | .shardLoad r | .shardDrop r | .shardQuery r => r.wf
  | .progLoad r | .progQuery r => r.wf
  | .progCheckComplete c => isCtx c
  | .reqSubmit r | .reqCancel r | .reqPark r | .reqResume r | .reqRelease r => r.wf
  | .sessionOpen r | .sessionClose r | .sessionShare r | .sessionTruncate r | .sessionGlobals r | .sessionQuery r => r.wf
  | .kvExport r | .mirrorSet r | .mirrorPromote r | .serveConfig r => r.wf
  | .linkTrain r | .linkStop r | .planLoad r | .partitionSet r | .windowMap r | .groupLoad r | .groupUnload r => r.wf
  | .capSet r | .powerHint r | .reefLimit r | .coolResume r => r.wf
  | .ctrRead r | .ctrProgram r | .ctrGrant r | .telemetry r => r.wf
  | .attest r | .certRead r | .linkKey r | .svnCommit r => r.wf
  | .attestReportComplete | .fuseProgrammed => true
  | .scrubChunk r | .digestRecheck r | .retrain r | .refreshMode r | .logCompact r | .maintQuery r | .logRead r => r.wf
  | .scrubChunkComplete us => us.all Upset.wf
  | .scrubSchedule | .recheckSchedule | .recheckComplete | .refreshModeComplete => true
  | .logCompactAuto | .logCompactComplete | .logRecordWritten | .eventNoticeSend => true
  | .answerSend c => isChannel c
  | .heartbeat | .telemetryGet | .identGet | .heartbeatLost => true
  | .capSetMgmt w => decide (w < 65536)
  | .attestGet nonce part => nonce.length == 48 && decide (part < 256)
  | .certGet i part => decide (i < 256 ∧ part < 256)
  | .pwrCapWrite _ => true
  | .mcBandWrite m b _ => isMast m && decide (b < 12)
  | .bandChangeComplete m b => isMast m && decide (b < 12)
  | .nlcDeadClear k _ => decide (k < 8)
  | .hifFlush => true
  | .hifRetry mask => decide (mask < 16)
  | .ttClear m c l | .ttPin m c l => isMast m && isCtx c && decide (l < 4096)
  | .pmcCompatWrite _ | .cnTimeLoRead => true
  | .sbMemRead off => decide (off < 2 ^ 32)
  | .sbMemWrite off _ => decide (off < 2 ^ 32)
  | .fwChunk off d => decide (off % 8 = 0 ∧ off < 2 ^ 22) && d.length == 8
  | .fwDone n => decide (1 ≤ n ∧ n ≤ 4194304)
  | .fwVerify | .aliasRsaReady => true
  | .flitReceive m f => isModule m && f.length == 256
  | .flitAckTimeout m => isModule m
  | .moduleRetrainComplete m _ l _ => isModule m && decide (l ≤ 64)
  | .resumeFlitReceive m f => isModule m && f.length == 256
  | .channelRebindHome c => isChannel c
  | .stepBoundary c | .deadlineDue c | .mirrorTimeout c | .bundleTransmit c => isCtx c
  | .sampling c ls => isCtx c && ls.all fun e => isMast e.2.1
  | .mirrorAckReceive c _ _ _ => isCtx c
  | .exportHeaderReceive h => isCtx h.targetCtx
  | .exportPageReceive p => p.wf
  | .exportPageAckReceive _ _ _ | .exportPageTimeout _ _ => true
  | .groupedCall c m d es us => callWf c m d && es.all EngineError.wf && us.all Upset.wf
  | .groupedCallComplete c m => isCtx c && isMast m
  | .ttCompare m => isMast m
  | .routingCall c m d | .intakeCall c m d | .combineCall c m d => callWf c m d
  | .attentionCall c m ae d us => callWf c m d && decide (ae < 2) && us.all Upset.wf
  | .sealImageBuild m | .sealImageComplete m => isMast m
  | .fabricCopyCall c m d | .counterReadCall c m d | .collectiveCall c m d => callWf c m d
  | .colDataReceive p | .colAckReceive p | .colEndReceive p | .colAbortReceive p => p.wf
  | .colWithdrawReceive p | .colSwRefuseReceive p | .colSwEvictReceive p => p.wf
  | .colAckSend g m _ | .colChunkTimeout g m _ _ | .colRetryResend g m _ _ | .colTimeout g m => decide (g < 4096) && isMast m
  | .cleatReached c m _ => isCtx c && isMast m
  | .spillComplete m | .restoreComplete m => isMast m
  | .shardChunkHashed i | .residualScanComplete i | .shardLoadTimeout i => isShard i
  | .portTrained p _ | .linkAckTimeout p | .portRetrainComplete p _ | .keysyncReceive p | .nlcKeyExhausted p => isPort p
  | .identReceive p b => isPort p && b.length == 32
  | .linkFrameReceive p f => isPort p && decide (f.length ≤ 540)
  | .nlcReadReceive p | .nlcWriteReceive p | .nlcReadDataReceive p | .nlcWriteAckReceive p => p.wf
  | .fabricRequestTimeout _ | .fabricRetryResend _ => true
  | .inputValid | .brownout | .brownoutEnd | .inputShutdown | .overVoltage | .pllUnlock | .watchdog => true
  | .wireBroken w => w.wf
  | .governorPeriod => true
  | .powerSample p => p.mastW.length == 8 && p.tjMast.length == 8 && p.dramGbs.length == 8
  | .fastLimiter n => decide (n ≤ 16)
  | .powerHintPosition | .reefSwitch => true
  | .droopTrip m | .droopClear m _ => isMast m
  | .tjHot _ _ | .thermLevelRise _ | .tjCool _ | .thermLevelFall _ | .thermOverRange _ | .thermTrip _ _ => true
  | .dramTempHigh m | .dramTempNormal m => isMast m
  | .coolflowLost | .coolflowPresent | .coolflowWire => true
  | .spadPatrol m us => isMast m && us.all Upset.wf
  | .contentionWindow m cs => isMast m && cs.all fun e => isCtx e.1 && decide (e.2.1 ≤ e.2.2)
  | .powerupCrowsNest | .powerupHubRails | .powerupBootRom | .powerupMastRails => true
  | .calibration c => c.wf
  | .powerupReady | .powerupHoldExpire | .hdPwrokFall | .hdPwrokRise | .hostResetRelease => true
  | .vectorUnitOperation c m v l _ => isCtx c && isMast m && decide (v < 4 ∧ l < 4096)
  | .ucieModuleTrained m r l _ => isModule m && [4, 8, 12, 16, 24, 32].contains r && decide (l ≤ 64)
  | .linkTrainComplete | .fastLimiterRelease | .powerHintEnd | .switchWindowEnd | .crowsNestUnpowered => true

end Sys2Proof
end

