-- ==== Sys2Proof/Tests/Slice0.lean ====
section
/-! SUPPORT. Small tests of single steps and of the arithmetic, with results from the spec's examples and rules; for each
statement that has hypotheses, a state and operands that meet them. -/
namespace Sys2Proof.Machine
set_option maxRecDepth 20000

/-! ## States and requests to test with -/

/-- A request on channel 0. -/
def tq (ctx x0 x1 : Nat) (pl : Bytes) : Req :=
  { flitCh := 0, version := 0x30, kind := 0, quiet := false, ordered := false, more := false, flagRsv := 0, tag := 7,
    ctx := BitVec.ofNat 16 ctx, channel := 0, rsv := 0, arg0 := BitVec.ofNat 64 x0, arg1 := BitVec.ofNat 64 x1, payload := pl }

/-- After HELLO. -/
def tUp : State := { State.reset with st := { State.reset.st with negotiated := true } }

/-- A context placed on mast 0, with the first megabyte of its DRAM. -/
def tCx : Ctx :=
  { newCtx [] false [] with
    state := .displaced, mastMask := 1, places := [(0, { me := 0xFFFF, ae := 3, vu := 15, units := 1 })],
    grants := [{ mast := 0, base := 0, size := 0x100000, releasing := false }] }

/-- With the context 5 in some state. -/
def tWith (x : Ctx) : State := { tUp with ctxs := [(5, x)] }

def hears (k : Cmd) (r : Req) (s : State) : Bool :=
  s.alive && decide (r.flitCh < 8) && decide (tkeys s.st.chans = List.range 8) && decide ((s.chan r.flitCh).waiting = [])
  && !(s.arrive r).blocked r && (k.check r ((s.arrive r).returnUnits r)).isNone

theorem heard_of {k : Cmd} {r : Req} {s : State} (h : hears k r s = true) : Heard k r s := by
  simp only [hears, Bool.and_eq_true, Bool.not_eq_true', decide_eq_true_eq, Option.isNone_iff_eq_none] at h
  exact ⟨h.1.1.1.1.1, h.1.1.1.1.2, h.1.1.1.2, h.1.1.2, h.1.2, h.2⟩

/-! ## States and operands that meet the hypotheses of the statements -/

theorem witness_DeviceCommandsComplete :
    (Heard helloCmd (tq 0 0 0 []) State.reset ∧ (argRsv (tq 0 0 0 []) 0 0).1 = false ∧ State.reset.st.negotiated = false ∧
      3 ≤ (tq 0 0 0 []).version.toNat / 16) ∧
    (Heard devConfigCmd (tq 0 0x207 0 []) tUp ∧ (argRsv (tq 0 0x207 0 []) 0x307 0).1 = false ∧ bits (a0 (tq 0 0x207 0 [])) 8 2 ≠ 3) ∧
    (Heard markCmd (tq 0 (2 ^ 64 - 1) 0 []) tUp ∧ (argRsv (tq 0 (2 ^ 64 - 1) 0 []) (lowMask 64) 0).1 = false) ∧
    (Heard echoCmd (tq 0 0 0 [1, 2]) tUp ∧ (argRsv (tq 0 0 0 [1, 2]) 0 0).1 = false) :=
  ⟨⟨heard_of (by decide), by decide⟩, ⟨heard_of (by decide), by decide⟩, ⟨heard_of (by decide), by decide⟩,
    ⟨heard_of (by decide), by decide⟩⟩

theorem witness_RegisterPacketsComplete :
    (Heard regReadCmd (tq 0 (0x40000 + 2 ^ 32) 0 []) tUp ∧ firstErr (regChecks (tq 0 (0x40000 + 2 ^ 32) 0 []) (tUp.heard (tq 0 (0x40000 + 2 ^ 32) 0 []))) = none) ∧
    (Heard regWriteCmd (tq 0 0x10008 0 [0, 4, 0, 0]) tUp ∧
      firstErr (regChecks (tq 0 0x10008 0 [0, 4, 0, 0]) (tUp.heard (tq 0 0x10008 0 [0, 4, 0, 0]))) = none) :=
  ⟨⟨heard_of (by decide), by decide⟩, ⟨heard_of (by decide), by decide⟩⟩

/-- A creation record for mast 0 with two engines. -/
def tRecord : Bytes := [0#8, 1#8] ++ zeros 30 ++ [3#8, 0#8] ++ zeros 14

/-- One mast's save area has a place where one fits, whichever fitting place is taken (log entry 19). -/
theorem savePlaces_one {s : State} {conf : Bool} {b j m n : Nat}
    (h : ((s.saveStarts conf b j m).find? fun a => s.saveFits conf b j m a n).isSome = true) :
    (s.savePlaces conf b j [(m, n)]).isSome = true := by
  have k : (s.savePlace conf b j m n).isSome = true := by
    unfold State.savePlace
    dsimp only
    split
    · rename_i e; rw [e] at h; exact absurd h nofun
    · split <;> rfl
  obtain ⟨a, ha⟩ := Option.isSome_iff_exists.mp k
  simp only [State.savePlaces, ha, Option.isSome_some]

theorem witness_ContextCommandsComplete :
    (∀ pre : Bool, Heard ctxCreateCmd (tq 5 (b2n pre) 0 tRecord) tUp ∧ (argRsv (tq 5 (b2n pre) 0 tRecord) 1 0).1 = false ∧
      createRsv tRecord = none ∧ tUp.createBad tRecord = none ∧ tUp.ctx? 5 = none ∧
      (crMasts tRecord).any tUp.fencedMast = false ∧ bit (a0 (tq 5 (b2n pre) 0 tRecord)) 0 = pre ∧
      ((tUp.heard (tq 5 (b2n pre) 0 tRecord)).createSaves pre tRecord).isSome = true) ∧
    (∀ x ∈ [{ tCx with state := .furled }, { tCx with state := .furling }, { tCx with state := .furled, owesZero := true }],
      Heard ctxUnfurlCmd (tq 5 0 0 []) (tWith x) ∧ (argRsv (tq 5 0 0 []) 0 0).1 = false ∧ (tWith x).ctx? 5 = some x ∧
        x.deferred = false) ∧
    (Heard ctxFurlCmd (tq 5 0 0 []) (tWith tCx) ∧ (tWith tCx).ctx? 5 = some tCx ∧ tCx.state ≠ .furled ∧ tCx.state ≠ .furling) ∧
    (Heard ctxDestroyCmd (tq 5 0 0 []) (tWith { tCx with state := .furled })) ∧
    (Heard ctxQueryCmd (tq 5 0 0 []) (tWith tCx)) ∧
    (Heard ctxPriorityCmd (tq 5 7 0 []) (tWith tCx) ∧ (argRsv (tq 5 7 0 []) 7 0).1 = false ∧ stateRefusal tCx.state = none) := by
  refine ⟨fun pre => ?_, fun x h => ?_, ⟨heard_of (by decide), by decide⟩, heard_of (by decide), heard_of (by decide),
    heard_of (by decide), by decide⟩
  · cases pre
    · exact ⟨heard_of (by decide), by decide⟩
    · exact ⟨heard_of (by decide), by decide, by decide, by decide, by decide, by decide, by decide, savePlaces_one (by decide)⟩
  · simp only [List.mem_cons, List.not_mem_nil, or_false] at h
    rcases h with rfl | rfl | rfl <;> exact ⟨heard_of (by decide), by decide⟩

/-- A region of mast 0 that is not granted. -/
def tFarKv : KvRec :=
  { pool := 0x1000000, units := 8, frame4k := 4, fmt := 0, sealWin := 0, sealLag := 1, sealSlots := 0, ft := 0x8000, desc := 0x9000,
    descCap := 16, layers := 1, heads := 1, dh32 := 1 }

theorem witness_ContextEventsComplete :
    (let x := { tCx with state := .unfurling }
     let s := tWith x
     s.alive = true ∧ s.ctx? 5 = some x ∧ x.masts.any s.fencedMast = false ∧
       (x.kv.any fun e => !s.kvRegionsOk x e.1 e.2) = false) ∧
    (let x := { tCx with state := .unfurling }
     let s := (tWith x).modMast 0 fun z => { z with fenced := true }
     s.alive = true ∧ s.ctx? 5 = some x ∧ x.masts.any s.fencedMast = true) ∧
    (let x := { tCx with state := .unfurling, kv := [(0, tFarKv)] }
     let s := tWith x
     s.alive = true ∧ s.ctx? 5 = some x ∧ x.masts.any s.fencedMast = false ∧
       (x.kv.any fun e => !s.kvRegionsOk x e.1 e.2) = true) ∧
    (∀ cool : Bool, let x := { tCx with state := .furling, saves := [(0, (0x8000, 0x1000))] }
     let s := { tWith x with pwr := { tUp.pwr with coolstop := cool } }
     s.alive = true ∧ ctxState s 5 = some .furling ∧ s.ctx? 5 = some x ∧ (x.masts.any fun m => s.calling 5 m) = false ∧
       s.pwr.coolstop = cool ∧ x.deferred = false ∧ (0, 0x8000, 0x1000) ∈ s.furlRegions 5 x ∧ s.mastUp 0 = true) ∧
    (∀ x ∈ [tCx, { tCx with state := .furled, owesZero := true, zeroList := [(0, 0x2000, 64)] }],
      let s := { tWith x with zeroing := [(5, [(0, 0x1000, 64)])] }
      s.alive = true ∧ s.pwr.coolstop = false ∧ s.ctx? 5 = some x ∧ (0, 0x1000, 64) ∈ tgetD s.zeroing 5 [] ∧ s.mastUp 0 = true) ∧
    (let s := { tUp with zeroing := [(5, [(0, 0x1000, 64)])] }
     s.alive = true ∧ s.pwr.coolstop = false ∧ s.ctx? 5 = none) := by decide

/-- A pointer into the first grant of context 5. -/
theorem witness_MemoryCommandsComplete :
    (∀ p ∈ [0xFFFFF, 2 ^ 48], Heard memWriteCmd (tq 5 p 0 [9]) (tWith tCx) ∧
      firstErr (memWriteChecks (tq 5 p 0 [9]) (tWith tCx)) = none ∧
      (((tWith tCx).heard (tq 5 p 0 [9])).writeAt 0 (hostReader 5) p [9]).2 = none) ∧
    (Heard memGrantCmd (tq 5 0x200000 0x1000 []) (tWith tCx) ∧ firstErr (memGrantChecks (tq 5 0x200000 0x1000 []) (tWith tCx)) = none) ∧
    (Heard memReleaseCmd (tq 5 0 0x100000 []) (tWith tCx) ∧ firstErr (memReleaseChecks (tq 5 0 0x100000 []) (tWith tCx)) = none) ∧
    (let g : Grant := { mast := 0, base := 0, size := 0x100000, releasing := true }
     let x := { tCx with grants := [g] }
     let s := tWith x
     tkeys s.masts = List.range 8 ∧ s.alive = true ∧ s.mastUp 0 = true ∧ s.pwr.coolstop = false ∧ s.ctx? 5 = some x ∧
       (x.grants.find? fun g => g.mast == 0 && g.base == 0 && g.releasing) = some g) ∧
    (Heard memReadCmd (tq 5 0xFFFFF 1 []) (tWith tCx) ∧ firstErr (memReadChecks (tq 5 0xFFFFF 1 []) (tWith tCx)) = none ∧
      (dptr (a0 (tq 5 0xFFFFF 1 []))).space = 0 ∧ ((tWith tCx).mast 0).dram.poison = [] ∧ ((tWith tCx).mast 0).dram.flaws = [] ∧
      (((tWith tCx).heard (tq 5 0xFFFFF 1 [])).readDram 0 (hostReader 5) 0xFFFFF 1).2.2 = none) ∧
    (let s := (tWith tCx).modMast 0 fun z => { z with dram := { z.dram with poison := [0x3FFF] } }
     Heard memReadCmd (tq 5 0xFFFFF 1 []) s ∧ firstErr (memReadChecks (tq 5 0xFFFFF 1 []) s) = none ∧
       ∃ h ∈ (s.mast 0).dram.poison, 0xFFFFF ≤ h * 64 + 63 ∧ h * 64 < 0xFFFFF + 1) ∧
    (Heard memReadCmd (tq 5 (2 ^ 48) 4096 []) (tWith tCx) ∧ firstErr (memReadChecks (tq 5 (2 ^ 48) 4096 []) (tWith tCx)) = none ∧
      (dptr (a0 (tq 5 (2 ^ 48) 4096 []))).space = 1 ∧ ((tWith tCx).mast 0).spad.flaws = []) :=
  ⟨fun p h => by
      simp only [List.mem_cons, List.not_mem_nil, or_false] at h
      rcases h with rfl | rfl <;> exact ⟨heard_of (by decide), by decide, by decide +kernel⟩,
    ⟨heard_of (by decide), by decide⟩, ⟨heard_of (by decide), by decide⟩, by decide,
    ⟨heard_of (by decide), by decide, by decide, by decide, by decide, by decide +kernel⟩,
    ⟨heard_of (by decide), by decide, 0x3FFF, by decide, by decide⟩, ⟨heard_of (by decide), by decide⟩⟩

/-- With both spaces: the last byte of the grant, and the first of the scratchpad. -/
theorem witness_MemWriteStoresItsBytes :
    (∀ x ∈ [0xFFFFF, 2 ^ 48], hears memWriteCmd (tq 5 x 0 [9]) (tWith tCx) = true ∧
      firstErr (memWriteChecks (tq 5 x 0 [9]) (tWith tCx)) = none ∧ ∃ t, exec (.memWrite (tq 5 x 0 [9])) (tWith tCx) = .next t) ∧
    tkeys (tWith tCx).masts = List.range 8 ∧ (∀ e ∈ (tWith tCx).masts, Memory.wf e.2.dram.cells = true ∧ Memory.wf e.2.spad.cells = true) ∧
    ((tWith tCx).mast 0).dram.poison = [] ∧ ((tWith tCx).mast 0).dram.flaws = [] := by
  refine ⟨?_, by decide⟩
  intro x hx
  simp only [List.mem_cons, List.not_mem_nil, or_false] at hx
  rcases hx with rfl | rfl <;> exact ⟨by decide, by decide, _, rfl⟩

/-- A request to load the shard 9 of 128 bytes at 0x1000 from the host, and the shard it starts. -/
def tLoad : Bytes :=
  natLe 8 128 ++ [0#8, 1#8] ++ zeros 14 ++ natLe 8 0x8000 ++ zeros 32 ++ natLe 8 0x1000 ++ natLe 8 128
  ++ natLe 2 1 ++ zeros 2 ++ natLe 4 9 ++ natLe 8 128 ++ zeros 112
def tShard : Shard := newShard 5 tLoad
/-- The shard 9 of context 5 on the package. -/
def tSh (h : Shard) : State := { tWith tCx with hal := { (tWith tCx).hal with shards := [(9, h)] } }
/-- A manifest key is known. -/
def tKeyed : State := { tWith tCx with btb := { (tWith tCx).btb with annexCount := 1 } }

/-- The verdict of the two signature algorithms is left open (log entry 6), so it stands as a hypothesis here. -/
theorem witness_ShardAndProgramCommandsComplete
    (signed : ((tKeyed.heard (tq 5 9 0 tLoad)).slSigned 5 tLoad).2 = true) :
    (Heard shardLoadCmd (tq 5 9 0 tLoad) tKeyed ∧ firstErr (shardLoadPre (tq 5 9 0 tLoad) tKeyed) = none ∧
      ((tKeyed.heard (tq 5 9 0 tLoad)).slSigned 5 tLoad).2 = true ∧ tKeyed.btb.fusedSvn ≤ u8 (slMan tLoad) 2 ∧
      firstErr (shardLoadPost (tq 5 9 0 tLoad) ((tKeyed.heard (tq 5 9 0 tLoad)).slSigned 5 tLoad).1) = none ∧ slFabric tLoad = false) ∧
    (Heard shardDropCmd (tq 5 9 0 []) (tSh tShard) ∧ firstErr (shardDropChecks (tq 5 9 0 []) (tSh tShard)) = none) ∧
    (Heard shardQueryCmd (tq 5 9 0 []) (tSh tShard) ∧ firstErr (shardQueryChecks (tq 5 9 0 []) (tSh tShard)) = none) ∧
    (Heard progLoadCmd (tq 5 0xFFF80 128 []) (tWith tCx) ∧ firstErr (progLoadChecks (tq 5 0xFFF80 128 []) (tWith tCx)) = none) ∧
    (Heard progQueryCmd (tq 5 0 0 []) (tWith tCx) ∧ stateRefusal tCx.state = none) :=
  ⟨⟨heard_of (by decide), by decide, signed, by decide⟩, ⟨heard_of (by decide), by decide⟩, ⟨heard_of (by decide), by decide⟩,
    ⟨heard_of (by decide), by decide⟩, ⟨heard_of (by decide), by decide⟩⟩

/-- The layout of an image is left open (log entry 23), so what one holds stands as a hypothesis here. -/
theorem witness_ShardAndProgramEventsComplete (p : Config.ImageParts)
    (img : Config.parseImage (((State.owe (tWith tCx) 0x0401 (tq 5 0x1000 128 []) (.prog 0x1000 128)).readAt 0 (hostReader 5)
      0x1000 128).2.1) = .ok p)
    (good : p = { guards := [(0, zeros 7 ++ [1#8] ++ zeros 8)], attn := [(0, zeros 16)], formats := [], calls := [], live := [],
                  shards := [] }) :
    (let h := { tShard with ready := [1], len := 0x100080, pieces := [(0, 0, 0x100080)] }
     (tSh h).alive = true ∧ (tSh h).pwr.coolstop = false ∧ (tSh h).shard? 9 = some h ∧ h.state = 1 ∧ h.ready = [1] ∧
       ((tSh h).readShard h (bulkReader h.ctx) 0x100000 (min 0x100000 (h.len - 0x100000))).2.2 = none ∧
       (tset h.leaves 1 []).length ≠ h.chunks) ∧
    (∀ good : Bool, let bs := ((tSh { tShard with ready := [0] }).readShard { tShard with ready := [0] } (bulkReader 5) 0 128).2.1
     let h := { tShard with ready := [0], root := if good then merkleRoot 17 [sha384 ([0#8] ++ bs)] else zeros 48 }
     (tSh h).shard? 9 = some h ∧ h.state = 1 ∧ ((tSh h).readShard h (bulkReader h.ctx) 0 (min 0x100000 h.len)).2.2 = none ∧
       (tset h.leaves 0 []).length = h.chunks ∧ (merkleRoot 17 [sha384 ([0#8] ++
         ((tSh h).readShard h (bulkReader h.ctx) 0 (min 0x100000 h.len)).2.1)] = h.root ↔ good = true)) ∧
    (let h := { tShard with scanning := true }
     (tSh h).shard? 9 = some h ∧ h.state = 1 ∧ h.scanning = true ∧ ((tSh h).scanDir h (List.range h.dirCount)).2 = none) ∧
    (let h := { tShard with scanning := true, dirCount := 1 }
     (tSh h).shard? 9 = some h ∧ h.state = 1 ∧ h.scanning = true ∧ ((tSh h).scanDir h (List.range h.dirCount)).2.isSome = true) ∧
    ((tSh tShard).shard? 9 = some tShard ∧ tShard.hostLoad = true ∧ tShard.scanning = false) ∧
    (let s := State.owe (tWith tCx) 0x0401 (tq 5 0x1000 128 []) (.prog 0x1000 128)
     s.alive = true ∧ s.pwr.coolstop = false ∧ s.progOwed 5 = some (0x1000, 128) ∧ s.fencedMast 0 = false ∧
       (s.readAt 0 (hostReader 5) 0x1000 128).2.2 = none ∧ s.ctx? 5 = some tCx ∧
       Config.parseImage (s.readAt 0 (hostReader 5) 0x1000 128).2.1 = .ok p ∧ s.imageFault tCx p = none) := by
  subst good
  exact ⟨by decide +kernel, by decide +kernel, by decide, by decide +kernel, by decide, by decide, by decide, by decide, by decide,
    by decide, by decide, img, by decide⟩

/-- A request of context 5 on session 3 in some state, and its session with one page. -/
def tReq (st : Nat) : Request := { parseEntry [] with ctx := 5, session := 3, state := st, maxLength := 100, promptEnd := 4 }
def tSes : Session :=
  { ctx := 5, listPtr := [(0, 0)], listCap := 16, globals := [], length := 4, mirror := 0, pages := [],
    shown := { length := 4, pages := 1, globals := 0, bound := true } }
/-- A step whose one row samples, and one with nothing to sample. -/
def tRun (sampled : Bool) : StepRun :=
  { num := 1, early := [], sampled, named := [], ended := [], orphan := false, due := none,
    rows := [{ slot := 0, start := 4, count := 1, prefill := false, samples := true, sampled := none, fault := 0 }] }
def tServe (st : Nat) : State :=
  { tWith { tCx with step := some (tRun true), config := some (parseConfig (natLe 2 8 ++ natLe 2 4 ++ natLe 4 16)) } with
    reqs := [(0, tReq st)], sess := [(3, tSes), (4, { tSes with length := 0 })] }

/-- An entry image that submits the slot 1 on session 4, and a configuration of 8 rows. -/
def tEntry : Bytes :=
  [0#8, 0#8, 5#8, 0#8] ++ natLe 2 4 ++ zeros 6 ++ natLe 4 100 ++ natLe 4 0 ++ natLe 4 4 ++ zeros 28 ++ natLe 4 0x3F800000 ++ zeros 8
def tConfig : Bytes := natLe 2 32768 ++ natLe 2 4 ++ natLe 4 16 ++ zeros 120

/-- One request for each recorded command, with a context that runs a step and so is at no boundary. -/
theorem witness_RecordedCommandsComplete :
    (hears reqSubmitCmd (tq 5 1 0 tEntry) (tServe rDecode) &&
      (firstErr (reqSubmitChecks (tq 5 1 0 tEntry) ((tServe rDecode).heard (tq 5 1 0 tEntry)))).isNone) = true ∧
    (∀ st ∈ [rQueued, rPrefill, rDecode, rParked], hears reqCancelCmd (tq 5 0 0 []) (tServe st) = true ∧
      firstErr (slotChecks [rQueued, rPrefill, rDecode, rParked] (tq 5 0 0 []) ((tServe st).heard (tq 5 0 0 []))) = none) ∧
    (∀ st ∈ [rPrefill, rDecode], hears reqParkCmd (tq 5 0 0 []) (tServe st) = true ∧
      firstErr (slotChecks [rPrefill, rDecode] (tq 5 0 0 []) ((tServe st).heard (tq 5 0 0 []))) = none) ∧
    (hears reqResumeCmd (tq 5 0 0 []) (tServe rParked) = true ∧
      firstErr (slotChecks [rParked] (tq 5 0 0 []) ((tServe rParked).heard (tq 5 0 0 []))) = none) ∧
    (∀ st ∈ [rDone, rFaulted], hears reqReleaseCmd (tq 5 0 0 []) (tServe st) = true ∧
      firstErr (slotChecks [rDone, rFaulted] (tq 5 0 0 []) ((tServe st).heard (tq 5 0 0 []))) = none) ∧
    (hears sessionOpenCmd (tq 5 7 16 (zeros 64)) (tServe rDone) = true ∧
      firstErr (sessionOpenChecks (tq 5 7 16 (zeros 64)) ((tServe rDone).heard (tq 5 7 16 (zeros 64)))) = none) ∧
    (hears sessionCloseCmd (tq 5 4 0 []) (tServe rDone) = true ∧
      firstErr (sessionCloseChecks (tq 5 4 0 []) ((tServe rDone).heard (tq 5 4 0 []))) = none) ∧
    (hears sessionShareCmd (tq 5 (3 + 4 * 2 ^ 16) 0 []) (tServe rDone) = true ∧
      firstErr (sessionShareChecks (tq 5 (3 + 4 * 2 ^ 16) 0 []) ((tServe rDone).heard (tq 5 (3 + 4 * 2 ^ 16) 0 []))) = none) ∧
    (hears sessionTruncateCmd (tq 5 3 4 []) (tServe rDone) = true ∧
      firstErr (sessionTruncateChecks (tq 5 3 4 []) ((tServe rDone).heard (tq 5 3 4 []))) = none) ∧
    (hears sessionGlobalsCmd (tq 5 3 1 (natLe 4 0x3FFFFF)) (tServe rDecode) = true ∧
      firstErr (sessionGlobalsChecks (tq 5 3 1 (natLe 4 0x3FFFFF)) ((tServe rDecode).heard (tq 5 3 1 (natLe 4 0x3FFFFF)))) = none) ∧
    (hears mirrorSetCmd (tq 5 0x100 0 []) (tServe rDecode) = true ∧
      firstErr (mirrorSetChecks (tq 5 0x100 0 []) ((tServe rDecode).heard (tq 5 0x100 0 []))) = none) ∧
    (hears serveConfigCmd (tq 5 0 0 tConfig) (tWith tCx) = true ∧
      firstErr (serveConfigChecks (tq 5 0 0 tConfig) ((tWith tCx).heard (tq 5 0 0 tConfig))) = none) ∧
    (hears serveConfigCmd (tq 5 0 0 tConfig) (tWith { tCx with step := some (tRun true) }) = true ∧
      firstErr (serveConfigChecks (tq 5 0 0 tConfig) ((tWith { tCx with step := some (tRun true) }).heard (tq 5 0 0 tConfig))) = none) ∧
    (∀ st ∈ [rQueued, rPrefill, rDecode, rParked, rDone, rFaulted], ∃ x, (tServe st).ctx? 5 = some x ∧ x.midStep) ∧
    Ctx.midStep { tCx with step := some (tRun true) } := by
  refine ⟨by decide, by decide, by decide, by decide, by decide, by decide, by decide, by decide, by decide, by decide, by decide,
    by decide, by decide, fun st h => ⟨_, rfl, rfl, fun _ => rfl⟩, rfl, fun _ => rfl⟩

/-- Every module carries traffic, and the host has granted 64 units on every channel. -/
def linked (s : State) : State :=
  { s with hif := { s.hif with mods := tmap s.hif.mods fun _ x => { x with state := 2 } },
           st := { s.st with chans := tmap s.st.chans fun _ c => { c with host := 64 } } }

/-- Context 5 with a key-value record of one layer and one head, and a free value of its own for an imported request. -/
def tKv : KvRec :=
  { pool := 0x10000, units := 8, frame4k := 4, fmt := 0, sealWin := 0, sealLag := 1, sealSlots := 0, ft := 0x8000, desc := 0x9000,
    descCap := 16, layers := 1, heads := 1, dh32 := 1 }
def tKvCx : Ctx := { tCx with kv := [(0, tKv)] }
def tImp : State :=
  { tWith tKvCx with reqs := [(0, { tReq rQueued with imp := true })], sess := [(3, { tSes with length := 0 })],
                     nlc := { tUp.nlc with partId := 3 },
                     imports := [(importKey 2 1, { ctx := 5, slot := 0, session := 3, copy := false, refused := false, got := [], done := [] })] }

theorem witness_ServingQueriesAndCopiesComplete :
    (Heard sessionQueryCmd (tq 5 3 0 []) (tServe rDecode) ∧ firstErr (sessionQueryChecks (tq 5 3 0 []) (tServe rDecode)) = none ∧
      (tServe rDecode).ownSess 5 (sessArg (tq 5 3 0 [])) = some tSes) ∧
    (let r := tq 5 (2 ^ 54) 0 []
     Heard kvExportCmd r (tServe rParked) ∧ firstErr (kvExportChecks r ((tServe rParked).heard r)) = none ∧
       ∃ x, (tServe rParked).ctx? 5 = some x ∧ x.midStep) ∧
    (let s := tWith { tCx with config := some { parseConfig [] with holder := true } }
     Heard mirrorPromoteCmd (tq 5 0 0 []) s ∧ (argRsv (tq 5 0 0 []) 0 0).1 = false ∧ (noCtx s (tq 5 0 0 [])).1 = false ∧
       (ctxStateCheck s (tq 5 0 0 [])).1 = false ∧ (s.heard (tq 5 0 0 [])).isHolder 5 = true) :=
  ⟨⟨heard_of (by decide), by decide⟩, ⟨heard_of (by decide), by decide, _, rfl, rfl, fun _ => rfl⟩,
    ⟨heard_of (by decide), by decide⟩⟩

def tStep (st : CtxState) (w : StepRun) : Ctx :=
  { tCx with state := st, step := some w, stepNext := 2, config := some (parseConfig (natLe 2 8 ++ natLe 2 4 ++ natLe 4 2)) }
def tMir (lost : Bool) : Ctx :=
  { tCx with mirror := { tCx.mirror with en := true, lost, unacked := [1] } }
/-- In partition 3. -/
def tBonded (x : Ctx) : State := { tWith x with nlc := { tUp.nlc with partId := 3 } }
def tBun : Ctx :=
  { tStep .displaced (tRun false) with
    txq := [{ step := 1, entries := [], degraded := false, orphan := false, show_ := [], time := 0, sent := 0, ch := 0, due := none }] }

theorem witness_StepEventsComplete :
    (∀ st ∈ [CtxState.furling, .displaced], let x := tStep st (tRun true)
      (tWith x).alive = true ∧ (tWith x).ctx? 5 = some x ∧ x.step = some (tRun true) ∧ (tWith x).pwr.coolstop = false ∧
        x.atEnd = false ∧ (tWith x).atBoundary x 5 = true ∧ (tRun true).unsampled = false ∧ (st = .furling ∨ runsState st = true)) ∧
    (let x := { tCx with state := .unfurled }
     (tWith x).alive = true ∧ (tWith x).ctx? 5 = some x ∧ runsState x.state = true ∧ x.step = none) ∧
    (let x := tStep .displaced (tRun false)
     (tWith x).ctx? 5 = some x ∧ x.config.isSome = true ∧ runsState x.state = true ∧ (tRun false).sampled = false ∧
       x.masts.all (tWith x).mastUp = true ∧ x.masts.any ((tWith x).calling 5) = false ∧ (tWith x).pwr.coolstop = false ∧
       logitsFit x (parseConfig (natLe 2 8 ++ natLe 2 4 ++ natLe 4 2)) (tRun false) [(0, 0, [0x3F800000, 0])] = true) ∧
    (∀ lost : Bool, (tBonded (tMir lost)).nlc.partId ≠ 0 ∧ (tBonded (tMir lost)).alive = true ∧
      (tBonded (tMir lost)).ctx? 5 = some (tMir lost) ∧
      (tMir lost).mirror.en = true ∧ (tMir lost).mirror.lost = lost ∧ (tMir lost).mirror.late.contains 1 = false ∧
      (tMir lost).mirror.unacked.contains 1 = true ∧ (tMir lost).orphaned 1 = false ∧ (tMir lost).ownUnacked ≠ []) ∧
    (∀ sent ∈ [0, 1], let x := { tBun with txq := tBun.txq.map fun b => { b with sent } }
     let s := linked (tWith x)
     s.alive = true ∧ s.ctx? 5 = some x ∧ s.st.negotiated = true ∧ s.otherBundle 5 0 = false ∧ s.answerBusy 0 = false ∧
       ∃ b bs g, x.txq = b :: bs ∧ x.config = some g ∧ (if b.sent = 0 then g.noticeCh else b.ch) = 0 ∧
         s.canSend 0 (b.part 5 0 b.sent).payload.length = true) := by
  refine ⟨by decide, by decide, by decide, by decide, fun sent h => ?_⟩
  simp only [List.mem_cons, List.not_mem_nil, or_false] at h
  rcases h with rfl | rfl <;>
    exact ⟨by decide, by decide, by decide, by decide, by decide, _, _, _, rfl, rfl, by decide, by decide⟩

theorem witness_ExportEventsComplete :
    (let h : ExportHeader :=
      { srcPkg := 2, exportId := 1, targetCtx := 5, targetSlot := 0, length := 4, lastToken := 0, maxLength := 100, seed := 0,
        counter := 0, temperature := 0, topP := 0, topK := 0, stopMask := 0, priority := 0, deadlineLeft := 0, pages := 1,
        layers := 1, heads := 1, dh32 := 1, kvFmt := 0, masts := 1 }
     tImp.alive = true ∧ tImp.nlc.partId ≠ 0 ∧ tImp.ctx? 5 = some tKvCx ∧
       ((match tKvCx.config with | some g => g.holder | none => false) && !tKvCx.holder.promoted) = false ∧
       (∃ q, tImp.req? 0 = some q ∧ q.ctx = 5 ∧ q.state = rQueued ∧ q.imp = true ∧ (tImp.session? q.session).isSome = true) ∧
       headerMatches tKvCx h = true) ∧
    (let p : ExportPage := { srcPkg := 2, exportId := 1, mast := 0, page := 0, fmt := 0, valid := 4, bytes := [] }
     let i : Import := { ctx := 5, slot := 0, session := 3, copy := false, refused := false, got := [], done := [] }
     p.mast < 8 ∧ tImp.alive = true ∧ tImp.nlc.partId ≠ 0 ∧ tImp.pwr.coolstop = false ∧ tget tImp.imports (importKey 2 1) = some i ∧ i.done.contains 0 = false ∧ i.refused = false ∧
       tImp.importGone i = false ∧ tImp.mastUp 0 = true ∧ ((tImp.session? 3).bind fun y => y.frame 0 0) = none ∧
       ∃ u, tImp.takePage i p = some u ∧ u.pageWhole i 0 = true) ∧
    (let s := { tImp with ctxs := [(5, { tKvCx with mastMask := 3, kv := [(0, tKv), (1, tKv)] })] }
     let i : Import := { ctx := 5, slot := 0, session := 3, copy := false, refused := false, got := [], done := [] }
     ∃ u, s.takePage i { srcPkg := 2, exportId := 1, mast := 0, page := 0, fmt := 0, valid := 4, bytes := [] } = some u ∧
       u.pageWhole i 0 = false) ∧
    (let e : Export :=
      { ctx := 5, slot := 0, session := 3, first := 0, last := 0, pkg := 0, tctx := 1, tslot := 0, started := true, source := none, headed := true, resync := false,
        hand := false, torn := false, pages := [(0, 3)], frames := [] }
     let s := { tServe rParked with exports := [(0, e)], nlc := { tUp.nlc with partId := 3 } }
     s.alive = true ∧ s.nlc.partId ≠ 0 ∧ s.alive = true ∧ tget s.exports 0 = some e ∧ tget e.pages 0 = some 3) :=
  ⟨⟨by decide, by decide, by decide, by decide, ⟨_, rfl, by decide⟩, by decide⟩,
    ⟨by decide, by decide, by decide, by decide, by decide, by decide, by decide, by decide, by decide, by decide, _, rfl, by decide +kernel⟩,
    ⟨_, rfl, by decide +kernel⟩, by decide⟩

/-- An acknowledgement of a step that awaits none, and one of a step of a former partner (O11). -/
theorem witness_MirrorAckForms :
    (let x := tMir false
     (tBonded x).ctx? 5 = some x ∧ x.mirror.en = true ∧ x.mirror.lost = false ∧ x.mirror.late.contains 2 = false ∧
       x.mirror.unacked.contains 2 = false) ∧
    (let x := { tMir false with step := some { tRun false with num := 1, orphan := true } }
     (tBonded x).ctx? 5 = some x ∧ x.mirror.unacked.contains 1 = true ∧ x.orphaned 1 = true) := by decide

def tHead (slot : Nat) : ExportHeader :=
  { srcPkg := 2, exportId := 1, targetCtx := 5, targetSlot := slot, length := 4, lastToken := 0, maxLength := 100, seed := 0,
    counter := 0, temperature := 0, topP := 0, topK := 0, stopMask := 0, priority := 0, deadlineLeft := 0, pages := 1,
    layers := 1, heads := 1, dh32 := 1, kvFmt := 0, masts := 1 }
def tHolder : Ctx := { tKvCx with config := some { parseConfig [] with holder := true } }

/-- The holder where the ids of a list are open sessions. -/
def tFull (l : List Nat) : State := { tImp with ctxs := [(5, tHolder)], sess := l.map fun i => (i, { tSes with ctx := 6 }) }

/-- No session id is free there. -/
theorem tFull_free : (tFull (List.range 16384)).freeSession = none := by
  have open_ : ∀ (l : List Nat) (i : Nat), i ∈ l → thas (tFull l).sess i = true := by
    intro l i h
    exact List.any_eq_true.2 ⟨_, List.mem_map.2 ⟨i, h, rfl⟩, beq_self_eq_true i⟩
  unfold State.freeSession
  generalize List.range 16384 = l at *
  refine List.find?_eq_none.2 fun i h => ?_
  rw [open_ l i h]
  decide

theorem tFull_session (l : List Nat) (full : (tFull l).freeSession = none) :
    (tFull l).ctx? 5 = some tHolder ∧ ((tFull l).renewRing 5 0).mirrorSession 5 0 16384 = (tFull l, none) := by
  have at5 : (tFull l).ctx? 5 = some tHolder := rfl
  have same : (tFull l).renewRing 5 0 = tFull l := by
    unfold State.renewRing
    rw [at5]
    exact if_pos (by decide)
  have none5 : tget tHolder.holder.sessions 0 = none := by decide
  refine ⟨at5, ?_⟩
  rw [same]
  unfold State.mirrorSession
  rw [at5, full]
  simp only [none5]

/-- Headers with no context, no request and another shape, and a copy's at a holder: of another shape, held, and without a free
session (O12). -/
theorem witness_ExportHeaderForms :
    ({ tHead 0 with targetCtx := 6 } : ExportHeader).targetCtx = 6 ∧ tImp.ctx? 6 = none ∧ tImp.req? 1 = none ∧
    headerMatches tKvCx { tHead 0 with heads := 2 } = false ∧
    (let s := { tImp with ctxs := [(5, tHolder)] }
     s.ctx? 5 = some tHolder ∧ ((match tHolder.config with | some g => g.holder | none => false) && !tHolder.holder.promoted) = true ∧
       (tHead 0).pages ≠ 0 ∧ headerMatches tHolder (tHead 0) = true ∧ headerMatches tHolder { tHead 0 with heads := 2 } = false ∧
       headerMatches tHolder { tHead 16384 with pages := 0 } = true ∧
       (s.renewRing 5 0).mirrorSession 5 0 16384 = ((s.renewRing 5 0).mirrorSession 5 0 16384 |>.1, some 0)) ∧
    (∃ l, (tFull l).ctx? 5 = some tHolder ∧ ((tFull l).renewRing 5 0).mirrorSession 5 0 16384 = (tFull l, none)) := by
  exact ⟨rfl, rfl, rfl, by decide, by decide, _, tFull_session _ tFull_free⟩

/-- Pages of no export, present, refused, gone, held already, and without a unit to take (O12). -/
theorem witness_ExportPageForms :
    let p : ExportPage := { srcPkg := 2, exportId := 1, mast := 0, page := 0, fmt := 0, valid := 4, bytes := [] }
    let i : Import := { ctx := 5, slot := 0, session := 3, copy := false, refused := false, got := [], done := [] }
    let s := tImp.setPage 3 0 0 (some 0)
    tget tUp.imports (importKey 2 1) = none ∧ ({ i with done := [0] } : Import).done.contains 0 = true ∧
    tImp.importGone { i with session := 4 } = true ∧
    (tget s.imports (importKey 2 1) = some i ∧ s.importGone i = false ∧ s.mastUp 0 = true ∧
      ((s.session? 3).bind fun y => y.frame 0 0).isSome = true ∧ s.pageWhole i 0 = true) ∧
    (let s := { s with ctxs := [(5, { tKvCx with mastMask := 3, kv := [(0, tKv), (1, tKv)] })] }
     s.importGone i = false ∧ s.pageWhole i 0 = false) ∧
    (∀ copy, tImp.takePage { i with copy } { p with fmt := 1 } = none) := by decide

theorem reads_of {s : State} {m : Nat} {r : Reader} {x len : Nat} (h : (s.readAt m r x len).2.2 = none) :
    Reads s m r x len (s.readAt m r x len).1 (s.readAt m r x len).2.1 := Prod.ext rfl (Prod.ext rfl h)

theorem writes_of {s : State} {m : Nat} {r : Reader} {x : Nat} {d : Bytes} (h : (s.writeAt m r x d).2 = none) :
    Writes s m r x d (s.writeAt m r x d).1 := Prod.ext rfl h

theorem writes_spad {s : State} {m : Nat} {r : Reader} {x : Nat} {d : Bytes} (h : ptrSpace x ≠ 0) :
    Writes s m r x d (s.writeAt m r x d).1 := writes_of (by rw [State.writeAt, if_neg h])

/-- The calls on which those of the tests depend have ended; which they are is the program's (log entry 70). -/
def tEnded : List (Nat × Nat) := Config.needs 5 0 0 ++ (Config.needs 5 0 0x1000 ++ Config.needs 5 0 (2 ^ 48))

/-- Context 5 runs a step on mast 0 with its engines; the first bytes of its memory are given. -/
def tCallCx : Ctx :=
  { tKvCx with
    state := .unfurled, step := some { tRun true with ended := tEnded }, stepNext := 2, grants := [{ mast := 0, base := 0, size := 0x100000, releasing := false }],
    config := some (parseConfig (natLe 2 8 ++ natLe 2 4 ++ natLe 4 2)),
    prog := some { guards := [parseGuard (zeros 7 ++ [1#8] ++ zeros 8)], live := [], shards := [],
                   attn := [{ attn := true, window := 0, sink := 0, pageLayer := 0, globalEn := false, exclSelf := false, hg := 1,
                              scale := fpOne }], attnOn := [(0, 0)] } }
def tCall (cells : List (Nat × Byte)) : State :=
  (tWith tCallCx).modMast 0 fun z => { z with
    me := { z.me with holders := [(0, 5)] }, dram := { z.dram with cells := cells } }

theorem deps_met {s : State} (h : s.ctx? 5 = some tCallCx) {x : Nat} (hx : x = 0 ∨ x = 0x1000 ∨ x = 2 ^ 48) :
    s.depsMet 5 0 x = true := by
  unfold State.depsMet
  rw [h]
  show (Config.needs 5 0 x).all (fun e => tEnded.contains e) = true
  simp only [tEnded, List.all_eq_true, List.contains_iff_mem, List.mem_append]
  intro e he
  rcases hx with rfl | rfl | rfl
  · exact .inl he
  · exact .inr (.inl he)
  · exact .inr (.inr he)

theorem can_start {s : State} (h : s.ctx? 5 = some tCallCx) {x : Nat} (hx : x = 0 ∨ x = 0x1000 ∨ x = 2 ^ 48)
    (hi : s.canIssue 5 0 = true) : s.canStart 5 0 x = true := by
  rw [State.canStart, hi, deps_met h hx]; rfl

theorem issues_call (cells : List (Nat × Byte)) : Issues (tCall cells) 5 0 0 := by
  have key : (let s := (tWith tCallCx).modMast 0 fun z => { z with me := { z.me with holders := [(0, 5)] } }
      s.canIssue 5 0) = true := by decide
  exact ⟨by decide, rfl, can_start rfl (.inl rfl) key⟩

theorem rtu_takes {s : State} (h : s.ctx? 5 = some tCallCx) (hi : s.canIssue 5 0 = true) : s.rtuTakes 5 0 0 = true := by
  rw [State.rtuTakes, can_start h (.inl rfl) hi, h]; rfl

theorem issues_rtu (cells : List (Nat × Byte)) : IssuesRtu (tCall cells) 5 0 0 := by
  have key : (let s := (tWith tCallCx).modMast 0 fun z => { z with me := { z.me with holders := [(0, 5)] } }
      s.canIssue 5 0) = true := by decide
  exact ⟨by decide, rfl, rtu_takes rfl key⟩

theorem none_of {α : Type} {x : Option α} (h : x.isNone = true) : x = none := Option.isNone_iff_eq_none.mp h

/-- A call of one engine over one entry of no tokens, with its table at 0x1000. -/
def tGrp : State := tCall (memWrite [] 0 (natLe 8 0x1000 ++ natLe 2 1 ++ natLe 2 1 ++ natLe 4 128 ++ natLe 4 128 ++ zeros 12)
  ++ memWrite [] 0x1000 ([0#8, 0#8, 0#8, 0#8, 1#8] ++ zeros 3 ++ natLe 8 0x2000 ++ natLe 8 0x3000 ++ natLe 8 0x4000))

theorem witness_GroupedCallsComplete :
    (∃ u b g, Issues tGrp 5 0 0 ∧ DescRead tGrp 5 0 0 32 u b ∧ u.guardOf 5 (parseGrp b).layer = some g ∧
      u.grpDescOk 5 0 (parseGrp b) = true ∧ (u.mast 0).enginesFree (parseGrp b).mask = true ∧
      let d := parseGrp b
      let q := u.grpCall 5 0 0 d g
      let r := GrpRun.walk q u
      r.fail = none ∧ (r.s.writeOutputs q r.done r.regions).2 = none) ∧
    (let r : RunCall := { ctx := 5, kind := .grouped, layer := 0, mask := 1, left := 0, desc := 0 }
     let s := (tCall []).modMast 0 fun z => { z with calls := [r] }
     tkeys s.masts = List.range 8 ∧ s.alive = true ∧ s.frozen 5 = false ∧
       ((s.mast 0).calls.find? fun r => r.ctx == 5 && r.kind == .grouped) = some r) ∧
    (let x : TtSample := { ctx := 5, layer := 0, tile := 0, thr := 6, prod := [], ref := [], engine := 0, stream := 0, multi := false, live := true }
     let s := (tCall []).modMast 0 fun z => { z with tt := { z.tt with samples := [x] } }
     tkeys s.masts = List.range 8 ∧ s.alive = true ∧ s.mastUp 0 = true ∧ s.pwr.coolstop = false ∧ (s.mast 0).tt.samples = [x]) :=
  ⟨⟨_, _, _, issues_call _,
      ⟨by decide +kernel, by decide +kernel, by decide +kernel, reads_of (by decide +kernel)⟩, rfl,
      by decide +kernel, by decide +kernel, none_of (by decide +kernel), none_of (by decide +kernel)⟩, by decide +kernel,
      by decide +kernel⟩
/-- A word 0x00010000 at each of the `n` places from `a` up: an entry map in which every expert has index 0 and ROWS_MAX 1. -/
def tMap : Nat → Nat → Mem
  | 0, _ => []
  | n + 1, a => (a + 2, 1#8) :: tMap n (a + 4)

theorem memByte_tMap_low (n : Nat) : ∀ a x, x < a → memByte (tMap n a) x = 0 := by
  induction n with
  | zero => intros; rfl
  | succ n ih =>
    intro a x h
    simp only [tMap, memByte]
    rw [if_neg (by omega), ih _ _ (by omega)]

theorem memRead_tMap (n : Nat) : ∀ a k, k < n → memRead (tMap n a) (a + 4 * k) 4 = [0, 0, 1, 0] := by
  induction n with
  | zero => intro a k h; omega
  | succ n ih =>
    intro a k h
    cases k with
    | zero =>
      simp only [tMap, memRead, memByte]
      simp [memByte_tMap_low]
    | succ k =>
      have := ih (a + 4) k (by omega)
      rw [show a + 4 * (k + 1) = a + 4 + 4 * k by omega]
      simp only [tMap, memRead, memByte] at this ⊢
      rw [if_neg (by omega), if_neg (by omega), if_neg (by omega), if_neg (by omega)]
      exact this

theorem drop_memRead (m : Mem) (k : Nat) : ∀ a n, (memRead m a n).drop k = memRead m (a + k) (n - k) := by
  induction k with
  | zero => intro a n; rfl
  | succ k ih =>
    intro a n
    cases n with
    | zero => simp [memRead]
    | succ n => simp only [memRead, List.drop_succ_cons, ih]; rw [show a + 1 + k = a + (k + 1) by omega]; congr 1; omega

theorem take_memRead (m : Mem) (k : Nat) : ∀ a n, k ≤ n → (memRead m a n).take k = memRead m a k := by
  induction k with
  | zero => intro a n _; simp [memRead]
  | succ k ih =>
    intro a n h
    cases n with
    | zero => omega
    | succ n => simp only [memRead, List.take_succ_cons, ih _ _ (Nat.le_of_succ_le_succ h)]

theorem tMap_ok {eb : Bytes} (h : eb = memRead (tMap 1024 0) 0 4096) : emapOk (fun e => u32 eb (4 * e)) = true := by
  have w : ∀ e, e < 1024 → u32 eb (4 * e) = 0x10000 := by
    intro e he
    have : sub eb (4 * e) 4 = [0, 0, 1, 0] := by
      subst h
      unfold sub
      rw [drop_memRead, take_memRead _ _ _ _ (by omega)]
      exact memRead_tMap 1024 0 e he
    simp only [u32, this]; decide
  unfold emapOk
  rw [List.all_eq_true]
  intro e he
  have := w e (List.mem_range.mp he)
  simp only [this]
  decide

theorem read_spad {s : State} {m : Nat} {r : Reader} {x len o : Nat} {mem : Mem} (h : ptrSpace x ≠ 0)
    (hm : (s.mast m).spad.cells = mem) (ho : ptrOff x = o) : (s.readAt m r x len).2.1 = memRead mem o len := by
  subst hm ho
  unfold State.readAt; rw [if_neg h]; rfl

/-- One token, one expert of one slot: the descriptor, the expert's CAP; an intake call with no rows; one token whose slot was shed. -/
def tRoute : State := tCall (memWrite [] 0 (natLe 8 0x1000 ++ natLe 8 0x2000 ++ natLe 8 0x3000 ++ natLe 8 0x4000 ++ natLe 8 0x5000
  ++ natLe 2 1 ++ natLe 2 1 ++ zeros 2 ++ [1#8, 0#8, 0#8] ++ zeros 3 ++ natLe 4 0x3F800000) ++ [(0x3004, 1#8)])
def tIntake : State :=
  (tCall (memWrite [] 0 (natLe 8 0x10000 ++ natLe 8 0x20000 ++ natLe 8 (2 ^ 48) ++ zeros 4 ++ natLe 4 128))).modMast 0 fun z =>
    { z with spad := { z.spad with cells := tMap 1024 0 } }
def tCombine : State := tCall (memWrite [] 0 (natLe 8 0x1000 ++ natLe 8 0x2000 ++ natLe 8 0x3000 ++ natLe 4 1 ++ natLe 2 1 ++ [1#8])
  ++ [(0x1006, 2#8)])

theorem witness_RoutingCallsComplete_route :
    (∃ u u1 u2 u3 u4 b tb pb mb lb, IssuesRtu tRoute 5 0 0 ∧ DescRead tRoute 5 0 0 64 u b ∧
      let d := parseRoute b
      let rd := control 5 0x16
      u.routeOk 5 0 d = true ∧ Reads u 0 rd d.tokens (8 * d.count) u1 tb ∧ orderOk (tokenList tb d.count) = true ∧
      Reads u1 0 rd d.params (8 * d.experts) u2 pb ∧ Reads u2 0 rd d.map (4 * d.experts) u3 mb ∧
      (List.range d.experts).all (u3.paramOk pb mb) = true ∧ Reads u3 0 (stream 5 0x16) d.logits (4 * d.count * d.rowLen) u4 lb) :=
  ⟨_, _, _, _, _, _, _, _, _, _, issues_rtu _,
      ⟨by decide +kernel, by decide +kernel, by decide +kernel, reads_of (by decide +kernel)⟩, by decide +kernel,
      reads_of (by decide +kernel), by decide +kernel, reads_of (by decide +kernel), reads_of (by decide +kernel), by decide +kernel,
      reads_of (by decide +kernel)⟩

theorem witness_RoutingCallsComplete_combine :
    (∃ u v b ab, IssuesRtu tCombine 5 0 0 ∧ DescRead tCombine 5 0 0 32 u b ∧
      let d := parseCombine b
      let slots := (List.range (d.count * d.topK)).map (parseSlot ab)
      d.ok = true ∧ u.allIn 5 0 d.regions = true ∧ Reads u 0 (control 5 0x16) d.assign (8 * d.count * d.topK) v ab ∧
      ((enum slots).find? fun e => decide (e.2.status ≤ 1) && !e.2.arrived) = none ∧
      ∃ w, (List.range d.count).foldl (State.combineToken 5 0 d slots) (v, none) = (w, none)) :=
  ⟨_, _, _, _, issues_rtu _,
      ⟨by decide +kernel, by decide +kernel, by decide +kernel, reads_of (by decide +kernel)⟩, by decide +kernel,
      by decide +kernel, reads_of (by decide +kernel), none_of (by decide +kernel), _, Prod.ext rfl (by decide +kernel)⟩
theorem witness_RoutingCallsComplete_intake :
    (∃ u u1 u2 b eb hb, IssuesRtu tIntake 5 0 0 ∧ DescRead tIntake 5 0 0 32 u b ∧
      let d := parseIntake b
      let emap := fun e => u32 eb (4 * e)
      d.rsv = false ∧ d.fmt ≤ 1 ∧ d.k ≠ 0 ∧ d.k ≤ 262144 ∧ (u.guardOf 5 d.layer).isSome = true ∧ u.ptrIn 5 0 d.recv 128 = true ∧
      u.ptrIn 5 0 d.emap 4096 = true ∧ ptrOk d.table = true ∧ Reads u 0 (control 5 0x16) d.emap 4096 u1 eb ∧ emapOk emap = true ∧
      Reads u1 0 (stream 5 0x16) d.recv 128 u2 hb ∧ u2.inMem 5 0 d.recv (128 + u32 hb 0 * (128 + rowImageLen d.fmt d.k)) = true ∧
      u32 hb 0 = 0) :=
    ⟨_, _, _, _, _, _, ⟨by decide, rfl, rtu_takes rfl (by decide +kernel)⟩,
      ⟨by decide +kernel, by decide +kernel, by decide +kernel, reads_of (by decide +kernel)⟩, by decide +kernel, by decide +kernel, by decide +kernel, by decide +kernel, by decide +kernel, by decide +kernel, by decide +kernel, by decide +kernel,
      reads_of (by decide +kernel), tMap_ok (read_spad (by decide +kernel) (by decide +kernel) (by decide +kernel)), reads_of (by decide +kernel), by decide +kernel, by decide +kernel⟩

/-- An attention call of engine 0 for one padding query. -/
def tAttn : State := tCall (memWrite [] 0 (natLe 8 0x1000 ++ natLe 8 0x2000 ++ natLe 8 0x3000 ++ natLe 8 0x4000 ++ natLe 8 0x5000
  ++ natLe 2 1) ++ [(0x3007, 0x10#8)])

@[irreducible] def tA0 : State × Bytes × IoErr := (tAttn.callHint 5 0).readAt 0 (control 5 0x18) 0 64
@[irreducible] def tA : AttnCall := (tA0.1.attnCall 5 0 0 (parseAttnCall tA0.2.1)).get (by decide +kernel)
@[irreducible] def tA1 : State × Bytes × IoErr := tA0.1.readAt 0 (control 5 0x10) tA.d.qlist (8 * tA.d.count)
@[irreducible] def tA2 : State × Bytes × IoErr := tA1.1.readAt 0 tA.reader tA.d.new (tA.d.count * 4 * tA.k.dh)
@[irreducible] def tA4 : State := ((tA2.1.noteNamed tA []).nonfinite tA 0).logEntries tA []
@[irreducible] def tA5 : State × Bytes × IoErr := tA4.readAt 0 tA.reader tA.d.q (tA.d.count * tA.rowBytes 2)

theorem witness_AttentionCallsComplete :
    ∃ u u1 u2 u3 u5 x b qb nb raw a cache v, Issues tAttn 5 0 0 ∧ tAttn.ctx? 5 = some x ∧ bit (x.aePlace 0) 0 = true ∧
      DescRead tAttn 5 0 0 64 u b ∧ u.attnCall 5 0 0 (parseAttnCall b) = some a ∧
      Reads u 0 (control 5 0x10) a.d.qlist (8 * a.d.count) u1 qb ∧
      let es := (List.range a.d.count).map fun i => u64 qb (8 * i)
      let qs := es.map parseQuery
      let real := qs.filter fun q => !q.pad
      u1.queriesOk 5 es = true ∧ (real.map (u1.entryPlace a)).any (·.isNone) = false ∧
      Reads u1 0 a.reader a.d.new (a.d.count * 4 * a.k.dh) u2 nb ∧
      let ns := newEntries a real (real.map (u1.entryPlace a)) nb
      u2.writeEntries a (ns.map (·.1)) = (u3, none) ∧
      let u4 := ((u3.noteNamed a real).nonfinite a ((ns.map (·.2)).foldl (· + ·) 0)).logEntries a (ns.map (·.1))
      (planReads (u4.queryPlans a qs)).foldl (State.cacheKv a) (u4, .ok []) = (u5, .ok cache) ∧
      u5.fetch 0 a.reader a.d.q (a.d.count * a.rowBytes 2) = (v, .ok raw) := by
  have h0 : (tAttn.callHint 5 0).readAt 0 (control 5 0x18) 0 64 = tA0 := by unfold tA0; rfl
  have ha : tA0.1.attnCall 5 0 0 (parseAttnCall tA0.2.1) = some tA := by unfold tA; exact (Option.some_get _).symm
  have h1 : tA0.1.readAt 0 (control 5 0x10) tA.d.qlist (8 * tA.d.count) = tA1 := by unfold tA1; rfl
  have h2 : tA1.1.readAt 0 tA.reader tA.d.new (tA.d.count * 4 * tA.k.dh) = tA2 := by unfold tA2; rfl
  have hn : ((((List.range tA.d.count).map fun i => u64 tA1.2.1 (8 * i)).map parseQuery).filter fun q => !q.pad) = [] := by
    decide +kernel
  refine ⟨tA0.1, tA1.1, tA2.1, tA2.1, tA4, tCallCx, tA0.2.1, tA1.2.1, tA2.2.1, tA5.2.1, tA, [], tA5.1, issues_call _, rfl,
    by decide +kernel, ⟨by decide +kernel, by decide +kernel, by decide +kernel, ?_⟩, ha, ?_, ?_, ?_, ?_, ?_, ?_, ?_⟩
  · exact h0.trans (Prod.ext rfl (Prod.ext rfl (by decide +kernel)))
  · exact h1.trans (Prod.ext rfl (Prod.ext rfl (by decide +kernel)))
  · decide +kernel
  · simp only [hn]; rfl
  · exact h2.trans (Prod.ext rfl (Prod.ext rfl (by decide +kernel)))
  · simp only [hn]; rfl
  · simp only [hn]
    have h4 : ((tA2.1.noteNamed tA []).nonfinite tA 0).logEntries tA [] = tA4 := by unfold tA4; rfl
    have hp : planReads (tA4.queryPlans tA (((List.range tA.d.count).map fun i => u64 tA1.2.1 (8 * i)).map parseQuery)) = [] := by
      decide +kernel
    show List.foldl _ (((tA2.1.noteNamed tA []).nonfinite tA 0).logEntries tA [], _)
      (planReads ((((tA2.1.noteNamed tA []).nonfinite tA 0).logEntries tA []).queryPlans tA _)) = _
    rw [h4, hp]; rfl
  · have h5 : tA4.readAt 0 tA.reader tA.d.q (tA.d.count * tA.rowBytes 2) = tA5 := by unfold tA5; rfl
    have hf : tA5.2.2 = none := by decide +kernel
    simp only [State.fetch, h5, hf]
/-- A copy of 128 bytes through the window 1; a counter read into the scratchpad; a barrier of a group of one. -/
def tCopy : State :=
  { tCall (memWrite [] 0 (natLe 8 0x10000 ++ natLe 8 (2 ^ 56) ++ natLe 4 128)) with
    nlc := { (tCall []).nlc with windows := [(1, { read := true, write := false, owner := 5, pkg := 1, ctx := 5, base := 0, size := 128 })] } }
def tCtr : State := tCall [(6, 1#8)]
def tGroup : Group := { ctx := 5, members := [{ ctx := 5, mast := 0, pkg := 0 }], crc := 0, next := [], method := 0, outcome := 0 }
def tBar : State :=
  { tCall [(0, 5#8), (2, 3#8)] with col := { (tCall []).col with groups := [(3, tGroup)] } }

theorem witness_OtherCallsComplete_copy :
    ∃ u b t, Issues tCopy 5 0 0 ∧ (tCopy.mast 0).calls.any (fun r => r.ctx == 5 && r.kind == .fabricCopy) = false ∧
      DescRead tCopy 5 0 0 32 u b ∧ u.copyDescOk 5 0 (parseCopy b) = true ∧
      u.inMem 5 0 (parseCopy b).loc (parseCopy b).len = true ∧ u.window 5 (parseCopy b).write (parseCopy b).fab (parseCopy b).len = some t :=
  ⟨_, _, (1, 5, 0), ⟨by decide, rfl, can_start rfl (.inl rfl) (by decide +kernel)⟩, by decide +kernel,
    ⟨by decide +kernel, by decide +kernel, by decide +kernel, reads_of (by decide +kernel)⟩, by decide +kernel, by decide +kernel, by decide +kernel⟩

theorem witness_OtherCallsComplete_counters :
    ∃ u b, Issues tCtr 5 0 0 ∧ DescRead tCtr 5 0 0 32 u b ∧ allZero (sub b 8 24) = true ∧ ptrSpace (u64 b 0) = 1 ∧
      u.ptrIn 5 0 (u64 b 0) 512 = true ∧ (u.ctx? 5).isSome = true :=
  ⟨_, _, ⟨by decide, rfl, can_start rfl (.inl rfl) (by decide +kernel)⟩,
    ⟨by decide +kernel, by decide +kernel, by decide +kernel, reads_of (by decide +kernel)⟩, by decide +kernel, by decide +kernel,
    by decide +kernel, by decide +kernel⟩

theorem witness_OtherCallsComplete_collective :
    ∃ u b, tBar.alive = true ∧ tBar.canCollect 5 0 0 = true ∧ DescRead tBar 5 0 0 64 u b ∧
      let d := parseColDesc b
      u.group? d.group = some tGroup ∧ u.rankOf tGroup 0 = some 0 ∧ u.colDescOk 5 0 d tGroup 0 = true ∧
      let k := u.newCall 5 0 0 (tgetD tGroup.next 0 0) d
      let v := u.beginCall 5 0 0 k
      (v.groupAbroad tGroup && decide (v.stayUp.length < k.planesMin)) = false ∧
      (tGroup.members.any fun x => v.isDead x.pkg) = false ∧ d.srcLen tGroup.members.length 0 = 0 :=
  ⟨_, _, by decide +kernel, by
      rw [State.canCollect, deps_met rfl (.inl rfl)]; decide +kernel,
    ⟨by decide +kernel, by decide +kernel, by decide +kernel, reads_of (by decide +kernel)⟩, by decide +kernel, by decide +kernel,
    by decide +kernel, by decide +kernel, by decide +kernel, by decide +kernel⟩

/-- An operation with an open result of 32 elements, a conversion of one element or one block of them, and an embedding. -/
theorem witness_OtherCallsComplete_vector :
    let s := tCall []
    let v : VuCall := { c := 5, m := 0, vu := 0, layer := 0 }
    s.alive = true ∧ s.canStart 5 0 0x1000 = true ∧ s.canStart 5 0 (2 ^ 48) = true ∧ s.ctx? 5 = some tCallCx ∧ bit (tCallCx.vuPlace 0) 0 = true ∧
    s.rowFmt v .fp32 = .fp32 ∧ s.rowFmt v .mxint8 = .mxint8 ∧
    (∀ f ∈ [NumFmt.fp32, .mxint8], let o := vuWrite f ((List.range 32).map fun i => ofFp (Config.freeWord (s.free + i)))
      s.ptrIn 5 0 (2 ^ 48) (tensorBytes f 32) = true ∧ ∃ u, Writes (s.drawnN 32) 0 v.reader (2 ^ 48) (o.1.take (elemBytes f 32)) u ∧
        ∃ w, Writes u 0 v.reader (2 ^ 48 + scaleAt f 32) (o.1.drop (scaleAt f 32)) w) ∧
    (∀ f ∈ [NumFmt.bf16, .mxint8], ((hasScale .fp32 || hasScale f) && 32 % 32 != 0) = false ∧ .fp32 ≠ f ∧
      s.ptrIn 5 0 0 (tensorBytes .fp32 32) = true ∧ s.ptrIn 5 0 0x1000 (tensorBytes f 32) = true ∧
      ∃ w img u, Reads s 0 v.reader 0 (tensorBytes .fp32 32) w img ∧
        let o := vuWrite f ((List.range 32).map fun i => vuElem .fp32 32 img i)
        Writes w 0 v.reader 0x1000 (o.1.take (elemBytes f 32)) u ∧
        ∃ z, Writes u 0 v.reader (0x1000 + scaleAt f 32) (o.1.drop (scaleAt f 32)) z) ∧
    ∃ g, tCallCx.config = some g ∧ s.ptrIn 5 0 0 (g.vocab * 4) = true ∧ s.ptrIn 5 0 0x1000 4 = true := by
  refine ⟨rfl, can_start rfl (.inr (.inl rfl)) (by decide +kernel), can_start rfl (.inr (.inr rfl)) (by decide +kernel), rfl, by decide +kernel, by decide +kernel, by decide +kernel, fun f h => ?_, fun f h => ?_, _, rfl,
    by decide +kernel, by decide +kernel⟩
  all_goals
    simp only [List.mem_cons, List.not_mem_nil, or_false] at h
    rcases h with rfl | rfl
  · exact ⟨by decide +kernel, _, writes_spad (by decide +kernel), _, writes_spad (by decide +kernel)⟩
  · exact ⟨by decide +kernel, _, writes_spad (by decide +kernel), _, writes_spad (by decide +kernel)⟩
  · exact ⟨by decide, by decide, by decide +kernel, by decide +kernel, _, _, _, reads_of (by decide +kernel),
      writes_of (by decide +kernel), _, writes_of (by decide +kernel)⟩
  · exact ⟨by decide, by decide, by decide +kernel, by decide +kernel, _, _, _, reads_of (by decide +kernel),
      writes_of (by decide +kernel), _, writes_of (by decide +kernel)⟩
/-- A bulk copy of context 5 on mast 0, saving or restoring one region into its save area. -/
def tBulk (restore : Bool) : State :=
  (tWith { tCx with saves := [(0, (0x8000, 0x1000))] }).modMast 0 fun z => { z with
    bulk := [{ ctx := 5, restore, regions := [(0, 16)], frozen := false }] }

/-- A page of context 5 that is sealing, with units of 32 KiB. -/
def tKv8 : KvRec := { tKv with frame4k := 16, sealSlots := 1 }
def tFrame : Frame :=
  { st := fOpen, upper := none, refs := 1, pend := false, fmt := 0, shipFrom := 0, ships := 0, sealDue := 0, stage := some 7,
    image := false }
def tSealCx : Ctx :=
  { tCx with kv := [(0, tKv8)],
             pools := [(0, { frames := [(0, tFrame)], descs := [], emitted := 0, held := 1, stalls := 0, commits := 0, waiting := [], ended := [] })] }
def tSeal : State :=
  (tWith tSealCx).modMast 0 fun z => { z with
    ae := { z.ae with sealJobs := [{ ctx := 5, frame := 0, stage := 7 }], building := true } }
def tSealed : State := tSeal.modMast 0 fun z => { z with ae := { z.ae with sealJobs := [], building := false } }

theorem u8_memRead_nil (n : Nat) : ∀ a i, u8 (memRead [] a n) i = 0 := by
  induction n with
  | zero => intro a i; simp [u8, sub, memRead, leNat]
  | succ n ih =>
    intro a i
    cases i with
    | zero => rfl
    | succ i => exact ih (a + 1) i

theorem mapM_some {α β : Type} (f : α → Option β) (l : List α) (h : ∀ x, (f x).isSome = true) : (l.mapM f).isSome = true := by
  induction l with
  | nil => rfl
  | cons a l ih =>
    obtain ⟨y, hy⟩ := Option.isSome_iff_exists.mp (h a)
    obtain ⟨ys, hys⟩ := Option.isSome_iff_exists.mp ih
    simp [List.mapM_cons, hy, hys]

/-- A page of zero bytes converts: none of its scales is 0xFF. -/
theorem convertPage_zero {g : PageGeom} {f t : Nat} {img : Bytes} (h : ∀ i, u8 img i = 0) : ∃ out, convertPage g f t img = .ok out := by
  have e : ∀ e, (pageElem g f img e).isSome = true := by
    intro e; unfold pageElem; simp only [h]; simp only [show ¬ (0 = 0xFF) by decide, if_false]
    split
    · rfl
    · split <;> rfl
  have b : ∀ b, (blockElems g f img b).isSome = true := fun b => mapM_some _ _ fun i => e _
  unfold convertPage
  dsimp only
  split
  · rename_i x hx
    have hm := List.mem_of_find?_eq_some hx
    have hs := List.find?_some hx
    obtain ⟨k, -, hk⟩ := List.mem_map.mp (List.of_mem_zip hm).2
    rw [← hk] at hs
    simp at hs
    have := b k
    simp [hs] at this
  · exact ⟨_, rfl⟩

theorem read_dram {s : State} {m : Nat} {r : Reader} {x len o : Nat} {mem : Mem} (h : ptrSpace x = 0)
    (hm : ((s.readDram m r (ptrOff x) len).1.mast m).dram.cells = mem)
    (hp : ((s.readDram m r (ptrOff x) len).1.mast m).dram.poison = []) (ho : ptrOff x = o) :
    (s.readAt m r x len).2.1 = memRead mem o len := by
  subst hm ho
  unfold State.readAt; rw [if_pos h]
  show Dram.bytes ((s.readDram m r (ptrOff x) len).1.mast m).dram (ptrOff x) len = _
  rw [Dram.bytes, hp]; rfl

theorem mastWrite_ctx {s : State} {c d m o : Nat} {b : Bytes} (h : (s.ctx? d).isSome = true) :
    ((s.mastWrite c m o b).ctx? d).isSome = true := by
  have a : Agree [.flt, .st, .masts, .pmc, .cells] s (s.writeDram m (control c 0x18) o b).1 :=
    State.writeDram_agree (by decide) (Agree.refl _ s)
  have k : (s.writeDram m (control c 0x18) o b).1.ctxs = s.ctxs := a.part .ctxs (by decide)
  have g : ((s.writeDram m (control c 0x18) o b).1.ctx? d).isSome = true := by
    rw [State.ctx?, k]; exact h
  have w : ∀ (s : State) (f : Ctx → Ctx), (s.ctx? d).isSome = true → ((s.modCtx c f).ctx? d).isSome = true := by
    intro s f h
    by_cases e : d = c
    · subst e; simpa [State.modCtx, State.ctx?] using h
    · simpa [State.modCtx, State.ctx?, tget_tmod_ne _ _ e] using h
  unfold State.mastWrite
  dsimp only
  split
  · exact h
  · split
    · exact w _ _ h
    · split
      · exact w _ _ g
      · exact g

theorem setPool_ctx {s : State} {c m : Nat} {p : Pool} (h : (s.ctx? c).isSome = true) : ((s.setPool c m p).ctx? c).isSome = true := by
  unfold State.setPool
  split
  · exact h
  · split
    · exact h
    · refine List.foldlRecOn (motive := fun t : State => (t.ctx? c).isSome = true) _ _ ?_ ?_
      · simp only [State.modCtx, State.ctx?, tget_tmod_self, Option.isSome_map]; exact h
      · intro t ht u _; split
        · exact ht
        · exact mastWrite_ctx ht

/-- A page of zero bytes is sealed, and its context goes on. -/
theorem sealImage_ctx {s v : State} {m : Nat} {j : SealJob} {k : KvRec} {f : Frame} {img out : Bytes}
    (h : s.readRuns m (sealReader j.ctx) (pageRegions k j.frame f) = (v, .ok img)) (hc : convertPage k.geom f.fmt 2 img = .ok out)
    (hs : (s.ctx? j.ctx).isSome = true) : ((s.sealImage m j k f).ctx? j.ctx).isSome = true := by
  have a : Agree [.flt, .st, .masts, .pmc] s v := by
    have := State.readRuns_agree (M := [.flt, .st, .masts, .pmc]) (a1 := m) (a2 := sealReader j.ctx)
      (a3 := pageRegions k j.frame f) (by decide) (Agree.refl _ s)
    rw [h] at this; exact this
  have e : ∀ t : State, Agree [.flt, .st, .masts, .pmc, .cells] s t → (t.ctx? j.ctx).isSome = true := by
    intro t ht
    have : t.ctxs = s.ctxs := ht.part .ctxs (by decide)
    unfold State.ctx? at hs ⊢; rw [this]; exact hs
  unfold State.sealImage
  simp only [h, hc]
  split
  · rename_i hx
    exact hx ▸ e _ (by
      exact State.writeDram_agree (by decide) (State.sealCounts_agree (by decide) ⟨fun c hc => a.part c fun hm => hc (by revert hm; cases c <;> decide)⟩))
  · rename_i x hx
    exact setPool_ctx (by rw [hx]; rfl)

theorem witness_ScheduleEventsComplete_cleats :
    (∀ st ∈ [CtxState.furling, .displaced], let s := (tWith { tStep st (tRun true) with stopAt := [0] }).modMast 0 fun z =>
      { z with me := { z.me with holders := [(0, 5)] } }
     s.alive = true ∧ s.cleatOpen 5 0 = true) ∧
    (∀ b : Bool, (tBulk b).alive = true ∧ ((tBulk b).mast 0).copyJob = some { ctx := 5, restore := b, regions := [(0, 16)], frozen := false }) ∧
    ((tBulk false).saveRegions 5 0 ((tBulk false).saveBase 5 0) [(0, 16)]).2 = none ∧
    (∀ cool : Bool, let s := { tBulk false with pwr := { (tBulk false).pwr with coolstop := cool } }
     s.alive = true ∧ (s.saveRegions 5 0 (s.saveBase 5 0) [(0, 16)]).2 = none ∧
       ((s.saveRegions 5 0 (s.saveBase 5 0) [(0, 16)]).1.copyEnds 0).frozen 5 = cool) ∧
    ((tBulk true).loadRegions 5 0 ((tBulk true).saveBase 5 0) [(0, 16)]).2 = none ∧
    tSeal.alive = true ∧ tSeal.pwr.coolstop = false ∧ tSeal.mastUp 0 = true := by decide +kernel

theorem witness_ScheduleEventsComplete_seals :
    (tSeal.mast 0).ae.building = true ∧ (tSeal.mast 0).ae.sealJobs = [{ ctx := 5, frame := 0, stage := 7 }] ∧
    tSeal.ctx? 5 = some tSealCx ∧ tget tSealCx.kv 0 = some tKv8 ∧ tget (tSealCx.pool 0).frames 0 = some tFrame ∧
    ∃ v img out y, tSealed.readRuns 0 (sealReader 5) (pageRegions tKv8 0 tFrame) = (v, .ok img) ∧
      convertPage tKv8.geom tFrame.fmt 2 img = .ok out ∧
      (tSealed.sealImage 0 { ctx := 5, frame := 0, stage := 7 } tKv8 tFrame).ctx? 5 = some y := by
  refine ⟨by decide, by decide, by decide, by decide, by decide, ?_⟩
  have hr : pageRegions tKv8 0 tFrame = [(0x10000, 16896)] := by decide
  have hn : (tSealed.readAt 0 (sealReader 5) 0x10000 16896).2.2 = none := by decide +kernel
  have hb : (tSealed.readAt 0 (sealReader 5) 0x10000 16896).2.1 = memRead [] 0x10000 16896 :=
    read_dram (by decide) (by decide +kernel) (by decide +kernel) (by decide)
  have h : tSealed.readRuns 0 (sealReader 5) (pageRegions tKv8 0 tFrame)
      = ((tSealed.readAt 0 (sealReader 5) 0x10000 16896).1, .ok (memRead [] 0x10000 16896 ++ [])) := by
    rw [hr]; simp only [State.readRuns, State.fetch, hn, hb]
  rw [List.append_nil] at h
  obtain ⟨out, ho⟩ := convertPage_zero (g := tKv8.geom) (f := tFrame.fmt) (t := 2) (u8_memRead_nil 16896 0x10000)
  obtain ⟨y, hy⟩ := Option.isSome_iff_exists.mp (sealImage_ctx (j := { ctx := 5, frame := 0, stage := 7 }) h ho (by decide))
  exact ⟨_, _, out, y, h, ho, hy⟩
/-- A plan for four packages with port 0 cabled to port 1 of the unit 9 under encryption, and the state that holds it. -/
def tPlanBytes : Bytes :=
  natLe 2 1 ++ zeros 2 ++ natLe 4 1 ++ zeros 4 ++ [0#8, 1#8, 2#8, 3#8] ++ natLe 8 (2 ^ 60) ++ zeros 4 ++ natLe 2 16 ++ zeros 34
  ++ (natLe 8 9 ++ [1#8, 3#8] ++ zeros 6) ++ zeros 656
def tPlanned : State := { tUp with nlc := { tUp.nlc with plan := some (parsePlan tPlanBytes) } }
/-- A window of 4 KiB, and a group of mast 0 alone. -/
def tWindow : Bytes := [7#8, 5#8, 0#8, 5#8] ++ zeros 4 ++ natLe 8 0x1000 ++ natLe 8 0x1000 ++ zeros 8
def tMembers : Bytes := natLe 2 1 ++ natLe 2 1 ++ zeros 28 ++ [0#8, 0#8, 5#8, 0#8]
def tGrouped : State := { tWith tCx with col := { (tWith tCx).col with groups := [(0xFFF, tGroup)] } }

theorem witness_FabricCommandsComplete :
    (hears linkTrainCmd (tq 0 (2 ^ 42 - 1) 0 []) tPlanned = true ∧ (argRsv (tq 0 (2 ^ 42 - 1) 0 []) (lowMask 42) 0).1 = false ∧
      tPlanned.nlc.plan ≠ none) ∧
    (hears linkStopCmd (tq 0 1 0 []) tPlanned = true ∧ (argRsv (tq 0 1 0 []) (lowMask 42) 0).1 = false) ∧
    (hears planLoadCmd (tq 0 0 0 tPlanBytes) tUp = true ∧ firstErr (planLoadChecks (tq 0 0 0 tPlanBytes) tUp) = none) ∧
    (hears partitionSetCmd (tq 0 0xFFFFFF 0 []) tUp = true ∧ firstErr (partitionSetChecks (tq 0 0xFFFFFF 0 []) tUp) = none) ∧
    (∀ v ∈ [tWindow, zeros 32], hears windowMapCmd (tq 0 255 0 v) tUp = true ∧
      firstErr (windowMapChecks (tq 0 255 0 v) tUp) = none) ∧
    (hears groupLoadCmd (tq 5 0xFFF 0 tMembers) (tWith tCx) = true ∧
      firstErr (groupLoadChecks (tq 5 0xFFF 0 tMembers) (tWith tCx)) = none) ∧
    (hears groupUnloadCmd (tq 5 0xFFF 0 []) tGrouped = true ∧ firstErr (groupUnloadChecks (tq 5 0xFFF 0 []) tGrouped) = none) := by
  decide +kernel

theorem witness_PowerCommandsComplete :
    (∀ w ∈ [450, 65535], hears capSetCmd (tq 0 w 0 []) tUp = true ∧ (argRsv (tq 0 w 0 []) (lowMask 16) 0).1 = false ∧
      450 ≤ a0 (tq 0 w 0 []) % 65536 ∧ tUp.pwr.floorCap = false ∧ tUp.pwr.floorMgmt = false) ∧
    (∀ l ∈ [0, 4], hears reefLimitCmd (tq 0 l 0 []) tUp = true ∧ (argRsv (tq 0 l 0 []) 7 0).1 = false ∧
      a0 (tq 0 l 0 []) % 8 ≤ 4) ∧
    (hears powerHintCmd (tq 0 0x6400FA 1000 []) tUp = true ∧ (argRsv (tq 0 0x6400FA 1000 []) (lowMask 48) (lowMask 32)).1 = false) ∧
    (let s := tWith { tCx with state := .coolstop, before := .displaced }
     let s := { s with pwr := { s.pwr with coolstop := true, pair := 0, tj := 1359 } }
     hears coolResumeCmd (tq 5 0 0 []) s = true ∧ firstErr (coolResumeChecks (tq 5 0 0 []) s) = none) := by decide +kernel

def tSel : Bytes := [0#8, 0#8, 7#8, 0#8, 0x1F#8, 31#8, 0#8, 0#8] ++ zeros 8 ++ natLe 8 128 ++ zeros 8

theorem witness_CounterCommandsComplete :
    (hears ctrReadCmd (tq 0 (8 + 0 * 2 ^ 16) 1 []) tUp = true ∧ firstErr (ctrReadChecks (tq 0 8 1 []) tUp) = none) ∧
    (tkeys tUp.masts = List.range 8 ∧ hears ctrProgramCmd (tq 0 (7 + 16 * 2 ^ 16) 0 tSel) tUp = true ∧
      firstErr (ctrProgramChecks (tq 0 (7 + 16 * 2 ^ 16) 0 tSel) tUp) = none) ∧
    (hears ctrGrantCmd (tq 5 1 0 []) (tWith tCx) = true ∧ (argRsv (tq 5 1 0 []) 1 0).1 = false ∧
      (tWith tCx).ctx? 5 = some tCx ∧ stateRefusal tCx.state = none) ∧
    (hears telemetryCmd (tq 0 0 0 []) tUp = true ∧ (argRsv (tq 0 0 0 []) 0 0).1 = false) := by decide +kernel

/-- A manufactured unit whose firmware has the security version 3. -/
def tSvn : State := { tUp with btb := { tUp.btb with fwSvn := 3, aliasRsa := true } }

/-- What an alias key wraps is left open (log entry 6), so that it unwraps stands as a hypothesis here. -/
theorem witness_SecurityCommandsComplete (wrapped : tPlanned.keyBad 0 (zeros 68) = false) :
    (hears attestCmd (tq 0 0 0 (zeros 48)) tUp = true ∧ (argRsv (tq 0 0 0 (zeros 48)) 0 0).1 = false) ∧
    (let s := { tSvn with btb := { tSvn.btb with reports := [{ content := [], nonce := [], endpoint := true }] } }
     s.alive = true ∧ s.btb.aliasRsa = true ∧ s.btb.reports ≠ []) ∧
    (let s := State.owe { tSvn with btb := { tSvn.btb with reports := [{ content := [], nonce := [], endpoint := false }] } }
       0x0901 (tq 0 0 0 []) .attest
     s.alive = true ∧ s.btb.aliasRsa = true ∧ s.btb.reports ≠ [] ∧ tkeys s.st.chans = List.range 8 ∧
       ∃ o, (s.st.outstanding.find? fun o => o.what == .attest) = some o ∧ o.ch < 8) ∧
    (∀ i ∈ [0, 4, 5], hears certReadCmd (tq 0 i 0 []) tSvn = true ∧ (argRsv (tq 0 i 0 []) 0xFF 0).1 = false ∧
      a0 (tq 0 i 0 []) % 256 ≤ 5) ∧
    (hears linkKeyCmd (tq 0 0 0 (zeros 68)) tPlanned = true ∧ (argRsv (tq 0 0 0 (zeros 68)) 0x3F 0).1 = false ∧
      lkPort (tq 0 0 0 (zeros 68)) < 42 ∧ tPlanned.keyBad (lkPort (tq 0 0 0 (zeros 68))) (zeros 68) = false ∧
      (tPlanned.port 0).syncOwed = false) ∧
    (∀ v ∈ [0, 3], hears svnCommitCmd (tq 0 v 0 []) tSvn = true ∧ (argRsv (tq 0 v 0 []) 0x3F 0).1 = false ∧
      tSvn.btb.fusedSvn ≤ a0 (tq 0 v 0 []) % 64 ∧ a0 (tq 0 v 0 []) % 64 ≤ tSvn.btb.fwSvn ∧ tSvn.btb.commitBusy = false) ∧
    (let s := { tSvn with btb := { tSvn.btb with fuseOn := true } }
     s.btb.fuseOn = true ∧ s.cn.hubRails = true) :=
  ⟨by decide +kernel, by decide, ⟨by decide, by decide, by decide, by decide, _, rfl, by decide⟩, by decide +kernel,
    ⟨by decide +kernel, by decide, by decide, wrapped, by decide⟩, by decide +kernel, by decide⟩
theorem witness_MaintenanceCommandsComplete :
    (∀ e ∈ [(1, 0), (4, 2), (5, 0)], let r := tq 0 e.1 e.2 []
     hears maintStartCmd r tUp = true ∧ maActivity r = e.1 ∧ firstErr (maintStartChecks r tUp) = none ∧
       tUp.holder? (maintClass e.1) = none) ∧
    (let r := tq 0 2 9 []
     let s := tSh { tShard with state := 2 }
     hears maintStartCmd r s = true ∧ maActivity r = 2 ∧ firstErr (maintStartChecks r s) = none ∧ s.holder? 0 = none) ∧
    (let r := tq 0 3 0 []
     let s := tPlanned.modPort 0 fun x => { x with state := pUp }
     hears maintStartCmd r s = true ∧ maActivity r = 3 ∧ firstErr (maintStartChecks r s) = none ∧ s.holder? 1 = none) ∧
    (hears maintQueryCmd (tq 0 0 0 []) tUp = true ∧ (argRsv (tq 0 0 0 []) 0 0).1 = false) ∧
    (hears logReadCmd (tq 0 5 63 []) tUp = true ∧ (argRsv (tq 0 5 63 []) (lowMask 32) 0x3F).1 = false ∧
      bits (a1 (tq 0 5 63 [])) 0 6 ≠ 0) := by decide +kernel

/-- With one maintenance activity of the device's own. -/
def tMaint (s : State) (a arg : Nat) : State := s.holdClass { activity := a, arg, tag := 0, ch := 0, device := true }

theorem witness_MaintenanceEventsComplete :
    (let s := tUp.modMast 7 fun z => { z with mc := { z.mc with scrubPeriod := 1 } }
     s.alive = true ∧ s.scrubMasts ≠ []) ∧
    (let s := tMaint tUp actScrub 0
     s.alive = true ∧ (s.strikeAll []).alive = true ∧ ∃ m, s.holder? 0 = some m ∧ m.activity = actScrub) ∧
    (let s := tSh { tShard with state := 2 }
     let s := { s with hal := { s.hal with period := 1 } }
     s.alive = true ∧ s.nextRecheck = some 9 ∧ s.hal.period ≠ 0) ∧
    (let s := tMaint (tSh { tShard with state := 2 }) actRecheck 9
     s.alive = true ∧ s.pwr.coolstop = false ∧ (s.shard? 9).isSome = true ∧ ∃ m, s.holder? 0 = some m ∧ m.activity = actRecheck) ∧
    (let s := tMaint tUp actRefresh 2
     tkeys s.masts = List.range 8 ∧ s.alive = true ∧ s.pwr.coolstop = false ∧ ∃ m, s.holder? 2 = some m ∧ m.activity = actRefresh) ∧
    (let s := { tUp with flt := { tUp.flt with sectors := List.replicate 63 [0] } }
     s.alive = true ∧ 62 < s.flt.sectors.length ∧ tgetD s.flt.queues 3 [] = []) ∧
    (let s := tMaint { tUp with flt := { tUp.flt with sectors := [[0], [1]] } } actCompact 0
     s.alive = true ∧ s.flt.sectors = [[0], [1]] ∧ ∃ m, s.holder? 3 = some m ∧ m.activity = actCompact) ∧
    (∀ f : Bool, let x := { mkRec 0x1601 clsNOTE 0 noUnit 0 with logIndex := some 5 }
     let s := { tUp with flt := { tUp.flt with fatal := f, logWrites := [x] } }
     (s.cn.hubRails = true ∨ s.flt.fatal = true) ∧ s.flt.logWrites = [x]) :=
  ⟨by decide, ⟨by decide, by decide, _, rfl, by decide⟩, by decide, ⟨by decide, by decide, by decide, _, rfl, by decide⟩,
    ⟨by decide, by decide, by decide, _, rfl, by decide⟩, by decide, ⟨by decide, by decide, _, rfl, by decide⟩, fun f => by cases f <;> decide⟩

/-- An answer that waits on channel 7, with and without a module that carries it, and a queued notice. -/
def tPkt : Pkt :=
  match respond 0x0104 { tq 0 0 0 [1, 2] with flitCh := 7 } false { status := stDone, hi := 0, arg1 := 0, parts := [[1, 2]] } with
  | p :: _ => p
  | [] => (Notice.event (mkRec 0x1601 clsNOTE 0 noUnit 0)).packet 0 0
def tWaits (s : State) : State := s.modChan 7 fun c => { c with answers := [tPkt] }

theorem witness_NoticesAndAnswersGoOut :
    (let n := Notice.event (mkRec 0x1601 clsNOTE 0 noUnit 0)
     let s := linked { tUp with st := { tUp.st with notices := [n], eventCh := 7 } }
     s.alive = true ∧ s.st.notices = [n] ∧ s.st.negotiated = true ∧ s.bundleBusy s.st.eventCh = false ∧
       s.answerBusy s.st.eventCh = false ∧ s.canSend s.st.eventCh (n.packet s.st.eventCh s.st.dropped).payload.length = true) ∧
    (let s := linked (tWaits tUp)
     tkeys s.st.chans = List.range 8 ∧ s.alive = true ∧ s.st.negotiated = true ∧ (s.chan 7).answers = [tPkt] ∧
       tPkt.silent = false ∧ s.canSend 7 tPkt.payload.length = true ∧ s.bundleBusy 7 = false ∧ (s.chan 7).waiting = []) := by
  decide +kernel

theorem witness_RegisterAccessesComplete :
    (∀ off ∈ [0x10008, mastReg 0 5 (0x10 + 4 * 11), 0x80020 + 4 * 7, 0x10000C, mastReg 7 4 0x24, 0x180018, 0x40000],
      Writable tUp off) ∧
    tkeys tUp.masts = List.range 8 ∧ thas (tUp.mast 0).mc.bandPending 11 = false ∧ tUp.taken 0 (11 * 2 ^ 32) (2 ^ 32) = false ∧
    (let s := tUp.modMast 7 fun z => { z with mc := { z.mc with bandPending := [(11, 3)] } }
     tkeys s.masts = List.range 8 ∧ s.alive = true ∧ s.mastUp 7 = true ∧ s.pwr.coolstop = false ∧
       tget (s.mast 7).mc.bandPending 11 = some 3) ∧
    (let s := tWith { tCallCx with state := .displaced }
     tkeys s.masts = List.range 8 ∧ s.regAbsent (mastReg 7 4 0x24) = false ∧ s.served (mastReg 7 4 0x24) = true ∧ s.flt.fatal = false ∧
       (s.layerNamed 5 0).isSome = true) ∧
    tUp.served 0x40000 = true := by
  refine ⟨?_, by decide +kernel⟩
  intro off h
  refine ⟨?_, ?_, ?_, by decide⟩ <;> revert off <;> decide +kernel

theorem witness_EndpointCommandsComplete :
    tUp.endpointRuns = true ∧ tUp.alive = true ∧ tUp.pwr.floorCap = false ∧ tUp.pwr.floorMgmt = false ∧
    (let s := { tSvn with btb := { tSvn.btb with held := some (zeros 48, [1]) } }
     s.endpointRuns = true ∧ s.alive = true ∧ s.btb.held = some (zeros 48, [1]) ∧ s.btb.aliasRsa = true) ∧
    (let s := { tUp with flt := { tUp.flt with fatal := true } }
     s.endpointRuns = true ∧ s.flt.fatal = true) ∧
    (let s := { tUp with pwr := { tUp.pwr with hbEn := true } }
     s.alive = true ∧ s.pwr.hbEn = true ∧ s.pwr.hbLost = false) := by decide

/-- Ready for an image, with none delivered, and with one that has gaps. -/
def tBoot : State := { tUp with hif := { tUp.hif with fwDone := false, oper := false, ready := true } }
def tVerify : State := { tBoot with hif := { tBoot.hif with fwDone := true, verifying := true, imageLen := 32768, chunks := [] } }

/-- Whether two algorithms accept an image is left open (log entry 6), so the accepted case stands as a hypothesis here. -/
theorem witness_FirmwareDeliveryCompletes (t : State) (good : t.hif.verifying = true ∧ t.flt.fatal = false ∧ t.fwReason = none) :
    (tBoot.bootRom = true ∧ tBoot.hif.fwDone = false ∧ (4194304 - 8) % 8 = 0 ∧ tBoot.hif.ready = true ∧ tBoot.hif.oper = false ∧
      tBoot.cn.paused = false) ∧
    (tVerify.hif.verifying = true ∧ tVerify.flt.fatal = false ∧ tVerify.fwReason = some 1) ∧
    (t.hif.verifying = true ∧ t.fwReason = none) ∧ tUp.alive = true :=
  ⟨by decide, by decide +kernel, ⟨good.1, good.2.2⟩, by decide⟩
/-- A flit with its CRC-32. -/
def tFlit (typ seq : Nat) : Bytes :=
  let b := natLe 4 (typ * 2 ^ 28 + seq) ++ zeros 248
  b ++ natLe 4 (crc32 b)
def tMod (f : Module → Module) : State := (linked tUp).modHmod 3 f

theorem witness_HostLinkEventsComplete :
    (let s := tMod fun x => { x with state := hmTraining }
     s.mainband = true ∧ (s.hmod 3).trains = true ∧ (s.hmod 3).broken = false) ∧
    (let s := tMod fun x => { x with rxLast := 4095 }
     s.carries 3 = true ∧ ∀ typ ∈ [1, 2], (tFlit typ 0).length = 256 ∧ flitOk (tFlit typ 0) = true ∧ (parseFlit (tFlit typ 0)).typ = typ ∧
       (parseFlit (tFlit typ 0)).seq = ((s.hmod 3).rxLast + 1) % 4096) ∧
    ((zeros 255 ++ [1#8]).length = 256 ∧ flitOk (zeros 255 ++ [1#8]) = false) ∧
    (let s := tMod fun x => { x with replay := [{ typ := 2, ch := 0, first := 0, fill := 0, seq := 0, payload := [], resends := 0, born := 0 }] }
     s.carries 3 = true ∧ (s.hmod 3).replay ≠ []) ∧
    (let s := tMod fun x => { x with state := hmRetraining }
     s.mainband = true ∧ (s.hmod 3).state = hmRetraining) ∧
    (tkeys (linked tUp).st.chans = List.range 8 ∧ (linked tUp).carries (7 % 4) = true ∧ (linked tUp).flitsOut 7 = false) := by
  decide +kernel

def tInFlight : ColCall :=
  { tGrouped.newCall 5 0 0 9 (parseColDesc ([5#8, 0#8, 3#8] ++ zeros 61)) with
    owedAcks := [1],
    sent := [{ dest := 1, id := 0, info := 0, data := [], src := none, attempt := 0, port := 0 },
             { dest := 2, id := 0, info := 0, data := [], src := none, attempt := 0, port := retried }] }
/-- In partition 3 with port 0 up; context 5 has a barrier in flight in the group 3, and remembers a write of package 1. -/
def tNet : State :=
  let s := tGrouped
  let s := s.modPort 0 fun x => { x with state := pUp }
  { s with nlc := { s.nlc with partId := 3, plan := some (parsePlan tPlanBytes),
                               sources := [(1, { boot := 1, epoch := 0, low := 0, bits := [] })] },
           col := { s.col with
             groups := [(3, tGroup)],
             calls := [tInFlight] } }
def tHdr (kind : Nat) : ColHdr :=
  { kind, method := 0, srcRank := 0, srcMast := 0, reefReq := 4, rsv := 0, op := 5, dtype := 0, listCrc := 0, chunkHi := 0, info := 0 }
def tTp (op addr id : Nat) (col : Option ColHdr) (data : Bytes) : TPkt :=
  { port := 0, op, status := 0, targetCtx := 5, resend := false, partId := 3, srcPkg := 1, epoch := 0, boot := 1, addr, reqId := id,
    rsv := 0, col, data }
def tCol (kind : Nat) : TPkt := tTp 8 (2 ^ 60 + 3 * 2 ^ 24) 9 (some (tHdr kind)) []

theorem witness_CollectiveEventsComplete :
    (∀ kind ∈ [kData, kAck, kEnd, kAbort, kWithdraw, kSwRefuse, kSwEvict],
      ∃ d, InCall kind (tCol kind) tNet (tHdr kind) tInFlight tGroup ∧
        (tNet.modCall 3 0 fun c => { c with reefMax := max c.reefMax 4 }).colCall? (colGroup (tCol kind)) (colMast (tCol kind)) = some d ∧
        tNet.colDenied (tCol kind) = false) ∧
    (∀ kind, let p := { tCol kind with status := 3 }
     Arrives p tNet ∧ p.op = 8 ∧ p.col = some (tHdr kind) ∧ bits p.addr 52 8 = tNet.nlc.ownIndex ∧ p.srcPkg ≠ tNet.nlc.ownIndex) ∧
    (let s := tNet.modMast 0 fun z => { z with me := { z.me with holders := [(0, 5)] } }
     s.colStalled (tCol kData) true = false ∧ s.colDenied (tCol kData) = false) ∧
    (tNet.alive = true ∧ (∃ c, tNet.colCall? 3 0 = some c ∧ c.owedAcks.contains 1 = true) ∧ (tNet.group? 3).isSome = true) ∧
    (∃ x, tNet.chunkAt 3 0 1 0 = some x ∧ x.port ≠ retried) ∧ (∃ x, tNet.chunkAt 3 0 2 0 = some x ∧ x.port = retried) := by
  refine ⟨fun kind h => ?_, fun kind => ⟨⟨(by decide : 0 < 42), (by decide : tNet.alive = true), (by decide : tNet.hears 0 = true),
    (by decide : 3 = tNet.nlc.partId ∧ tNet.nlc.partId ≠ 0)⟩, rfl, rfl, (by decide : bits (2 ^ 60 + 3 * 2 ^ 24) 52 8 = tNet.nlc.ownIndex),
    (by decide : 1 ≠ tNet.nlc.ownIndex)⟩, by decide +kernel,
    ⟨by decide, ⟨_, rfl, by decide⟩, by decide⟩, ⟨_, rfl, by decide⟩, _, rfl, by decide⟩
  simp only [List.mem_cons, List.not_mem_nil, or_false] at h
  rcases h with rfl | rfl | rfl | rfl | rfl | rfl | rfl <;>
    exact ⟨{ tInFlight with reefMax := 4 },
      ⟨⟨by decide, by decide, by decide, by decide⟩, by decide, by decide, ⟨rfl, rfl⟩, ⟨by decide, by decide⟩, by decide, by decide⟩,
      by decide, by decide⟩

/-- A frame with its CRC-32, and port 41 in some state. -/
def tFrameBytes (seq : Nat) : Bytes :=
  let b := natLe 8 (2 ^ 60 + seq * 2 ^ 48) ++ zeros 16
  b ++ natLe 4 (crc32 b)
def tPort (f : Port → Port) : State := tUp.modPort 41 fun x => f { x with state := pUp }
def tSlot (ctr : Nat) : KeySlot := { key := [], salt := [], txCtr := ctr, rxCtr := 0, rxDone := false, retired := false }

theorem witness_PortEventsComplete :
    (let s := tPort fun x => { x with state := pTraining }
     s.alive = true ∧ (s.port 41).state = pTraining) ∧
    (let s := tPort fun x => { x with rxLast := 4095, replay := [{ typ := 1, seq := 0, enc := false, slot := 0, body := [], tag := [], resends := 0 }], slots := [(1, tSlot 0)] }
     s.alive = true ∧ (s.port 41).trained = true ∧ (s.port 41).replay ≠ [] ∧ tkeys s.nlc.ports = List.range 42 ∧
       (s.port 41).usable (1 - (s.port 41).rxSlot) = true ∧
     let b := tFrameBytes 0
     let h := parseFrame b
     frameOk b = true ∧ h.ackValid = false ∧ h.nak = false ∧ h.credit = 0 ∧ 1 ≤ h.typ ∧ h.typ ≤ 3 ∧ h.enc = false ∧
       h.seq = ((s.port 41).rxLast + 1) % 4096 ∧ frameOk [] = false) ∧
    (let s := tPort fun x => { x with state := pRetraining }
     s.alive = true ∧ (s.port 41).state = pRetraining) ∧
    (let s := tPort fun x => { x with slots := [(0, tSlot (2 ^ 48))] }
     s.alive = true ∧ (s.port 41).trained = true ∧ (s.port 41).exhausted = true) ∧
    (let s := State.owe tPlanned 0x0601 (tq 0 1 0 []) (.linkTrain 1)
     s.alive = true ∧ s.trainMask = some 1) := by decide +kernel

/-- A read request to package 1 that is on its way, by a port or again on another. -/
def tOwnReq (write : Bool) (port : Nat) : FabReq :=
  { issuer := .copy 5 0, write, pkg := 1, ctx := 5, addr := 0, lspace := 0, lmast := 0, loff := 0, reqId := 7, epoch := 0,
    attempt := 0, tries := 4, timeout := 10, sent := true, port, data := zeros 128 }
def tOwn (write : Bool) (port : Nat) : State := { tNet with nlc := { tNet.nlc with reqs := [(0, tOwnReq write port)] } }

theorem witness_FabricEventsComplete :
    (let p := tTp 1 (2 ^ 60 + 128) 7 none []
     Arrives p tNet ∧ p.op = 1 ∧ tNet.forUs p = true ∧ tNet.fabDenied p false = false ∧ tNet.pwr.coolstop = false ∧
       (tNet.readDram (reqMast p) (fabricReader p.targetCtx) (reqOff p) 128).2.2 = none) ∧
    (let p := tTp 3 (2 ^ 60 + 128) 65535 none (zeros 128)
     Arrives p tNet ∧ p.op = 3 ∧ p.data.length = 128 ∧ tNet.forUs p = true ∧ ∃ x, FabSrc.takeIn (tget tNet.nlc.sources p.srcPkg) p.boot p.epoch = some x ∧
       (tNet.modNlc fun n => { n with sources := tset n.sources p.srcPkg x }).fabDenied p true = false ∧ x.seen p.reqId = false ∧
       x.ahead p.reqId < 65536 ∧ reqMast p = 0 ∧ reqOff p = 128) ∧
    (tNet.ringIndex 5 0 128 = none ∧ tkeys tNet.masts = List.range 8 ∧ tNet.memOk ∧ (tNet.writeDram 0 (fabricReader 5) 128 (zeros 128)).2 = none) ∧
    (∀ w : Bool, let p := { tTp (if w then 4 else 2) (2 ^ 60) 7 none (if w then [] else zeros 128) with boot := tNet.bootNo }
     Arrives p (tOwn w 0) ∧ (tOwn w 0).responseOk p = true ∧ p.status = 0 ∧ ((tOwn w 0).answered p w).isSome = true ∧ (tOwn w 0).issuerFrozen (tOwnReq w 0) = false) ∧
    (∀ port ∈ [0, retryPort], (tOwn false port).alive = true ∧ ∃ q, tget (tOwn false port).nlc.reqs 0 = some q ∧ q.sent = true ∧ q.port = port ∧
      (tOwn false port).issuerFrozen q = false) ∧ tNet.pwr.coolstop = false := by
  refine ⟨⟨⟨by decide, by decide, by decide, by decide⟩, by decide +kernel⟩,
    ⟨⟨by decide, by decide, by decide, by decide⟩, by decide, by decide, by decide, _, rfl, by decide, by decide, by decide, by decide, by decide⟩,
    ⟨by decide, by decide, by unfold State.memOk Mast.memOk; decide, by decide +kernel⟩, ?_, ?_, by decide⟩
  · intro w; cases w <;> exact ⟨⟨by decide, by decide, by decide, by decide⟩, by decide, by decide, by decide +kernel, by decide⟩
  · intro port h
    simp only [List.mem_cons, List.not_mem_nil, or_false] at h
    rcases h with rfl | rfl <;> exact ⟨by decide, _, rfl, rfl, rfl, by decide⟩

/-- At a stage of the power-up sequence. -/
def tStage (n : Nat) : State := { tUp with cn := { tUp.cn with stage := n, inputValid := true, held := false } }

theorem witness_InputEventsComplete :
    (∀ b p : Bool, let s := { tUp with cn := { tUp.cn with inputValid := false, held := b, holdOver := b, powered := p } }
     s.cn.inputValid = false ∧ s.cn.holdOver = b ∧ s.cn.held = b ∧ s.cn.powered = p) ∧
    (tUp.nestRuns = true ∧ tUp.pwr.brownout = false ∧ tUp.cn.powered = true ∧ tUp.cn.inputValid = true ∧ tUp.hubRuns = true ∧ tUp.alive = true) ∧
    (let s := { tUp with pwr := { tUp.pwr with brownout := true } }
     s.nestRuns = true ∧ s.pwr.brownout = true) ∧
    (tUp.present 7 = true ∧ tkeys tUp.masts = List.range 8 ∧ tkeys tUp.nlc.ports = List.range 42 ∧ (tUp.port 41).broken = false ∧
      tkeys tUp.hif.mods = List.range 4 ∧ (tUp.hmod 3).broken = false) := by decide

theorem witness_PowerEventsComplete :
    tUp.hubRuns = true ∧ tkeys tUp.masts = List.range 8 ∧ (tUp.mast 7).droop = false ∧ tUp.present 7 = true ∧ tUp.cn.mastRails = true ∧
    (let s := { tUp with pwr := { tUp.pwr with coolstop := true } }
     s.hubRuns = true ∧ s.pwr.coolstop = true) ∧
    (let s := { tUp with pwr := { tUp.pwr with target := some 4 } }
     s.hubRuns = true ∧ s.pwr.target = some 4 ∧ s.maySwitch = true) ∧
    (let s := tUp.modMast 7 fun z => { z with droop := true }
     s.hubRuns = true ∧ tkeys s.masts = List.range 8 ∧ (s.mast 7).droop = true) := by decide

theorem witness_ThermalEventsComplete :
    tUp.hubRuns = true ∧ tUp.pwr.coolstop = false ∧ tUp.pwr.excursion = false ∧ tUp.pwr.overRange = false ∧ tUp.nestRuns = true ∧
    tUp.pairSeen = true ∧ tUp.flt.fatal = false ∧ tUp.cn.hubRails = true ∧ tUp.pwr.pair ≠ 1 ∧ tUp.pwr.pair ≠ 2 ∧ 6 ≤ tUp.cn.stage ∧ tkeys tUp.masts = List.range 8 ∧
    (let s := tUp.modMast 7 fun z => { z with bulk := [{ ctx := 5, restore := false, regions := [], frozen := false }] }
     (s.mast 7).bulk.all (fun j => j.frozen) = false) ∧
    (let s := { tUp with pwr := { tUp.pwr with excursion := true } }
     s.hubRuns = true ∧ s.pwr.excursion = true ∧ s.pwr.coolstop = false) := by decide

theorem witness_MastEventsComplete :
    let s := tUp.modMast 7 fun z => { z with spad := { z.spad with flaws := [(0, .ce), (spadSize / 8 - 1, .ce)] } }
    s.alive = true ∧ s.mastUp 7 = true ∧ tkeys s.masts = List.range 8 ∧ ∀ e ∈ (s.mast 7).spad.flaws, e.2 = .ce := by decide

theorem witness_PowerUpStepsComplete :
    (∀ n ∈ List.range 6, (tStage n).stageIs n = true) ∧ (tStage 3).mastRailsOk = true ∧
    (let s := { tUp with cn := { tUp.cn with pwrok := true, resetOut := true } }
     s.cn.pwrok = true ∧ s.cn.hubRails = true ∧ s.cn.resetOut = true) := by decide

/-! ### The statements about the whole block and about its rules -/

theorem witness_EveryCommandGoesOn :
    unitOk (.spadPatrol 7 []) = true ∧ unitOk (.spadPatrol 8 []) = false ∧ unitOk (.portTrained 41 true) = true ∧
      unitOk (.portTrained 42 true) = false := by decide

theorem witness_AnEmptyQueueLetsTimePass : tUp.pending = [] ∧ tUp.cn.powered = true := by decide

theorem witness_InvariantIsKept : State.reset.Inv ∧ ∃ t, step State.reset = .next t := by
  refine ⟨⟨by decide, by decide, by decide, by decide, ?_, ?_⟩, _, rfl⟩
  · unfold State.memOk Mast.memOk; decide
  · unfold Power.capsOk capRange; decide

/-- A fatal state, a fenced mast and a fused version, none of which HELLO ends. -/
theorem witness_WhatOnlyAPowerCycleEnds :
    let s := { tUp.modMast 3 fun z => { z with fenced := true } with flt := { tUp.flt with fatal := true } }
    s.flt.fatal = true ∧ s.fencedMast 3 = true ∧ ∃ t, exec (.hello (tq 0 0 0 [])) s = .next t := ⟨by decide, by decide, _, rfl⟩

theorem witness_RefusedRequestsOnlyAnswer :
    State.reset.alive = true ∧ tkeys State.reset.st.chans = List.range 8 ∧ (State.reset.chan 0).waiting = [] ∧
      (State.reset.arrive (tq 0 0 0 [])).blocked (tq 0 0 0 []) = false ∧
      (echoCmd.check (tq 0 0 0 []) ((State.reset.arrive (tq 0 0 0 [])).returnUnits (tq 0 0 0 []))).isSome = true := by decide

theorem witness_OperationBytesTellRequestsFromNotices :
    0x80 ≤ 0x0181 % 256 ∧ headerCheck true false (tq 0 0 0 []) = none ∧ allCmds ≠ [] ∧
    (let s := State.owe tUp 0x0203 (tq 5 0 0 []) .furl
     tkeys s.st.chans = List.range 8 ∧ ∃ o ∈ s.st.outstanding, o.what = .furl ∧ o.ch < 8) := by
  refine ⟨by decide, by decide, by decide, by decide, ?_⟩
  exact ⟨_, List.mem_append_right _ (List.mem_singleton.mpr rfl), rfl, by decide⟩

theorem witness_RecordsThatAreLogged :
    (∀ c ∈ [clsCE, clsUC, clsFT, clsNOTE], let r := mkRec 0x1301 c 0 noUnit 0
      (r.cls = clsCE ∨ r.cls = clsUC ∨ r.cls = clsFT ∨ r.cls = clsNOTE) ∧ tUp.flt.logs r = decide (c ≠ clsCE)) ∧
    (let r := mkRec 0x1301 clsUC 0 noUnit 0
     let full := { tUp.flt with sectors := List.replicate 64 (List.range 1024) }
     tUp.flt.finds r = true ∧ full.finds r = false ∧ full.logQueue.length < 64 ∧
       64 ≤ ({ full with logQueue := List.replicate 64 r } : Faults).logQueue.length) := by decide +kernel

theorem witness_RecordsGoIntoTheRing :
    (∀ c ∈ [clsCE, clsUC, clsFT, clsNOTE], tUp.flt.mergeSlot tUp.time (mkRec 0x1301 c 0 noUnit 0) = none) ∧
    tUp.st.notices.length < 256 ∧ clsFT < clsNOTE ∧
    (let r := mkRec 0x1301 clsCE 0 noUnit 0
     (tUp.raise r).flt.mergeSlot tUp.time r = some 0) := by decide

theorem witness_AppliedLevelIsTheLargest :
    let s := tWith { tCx with reefValid := true, reefTarget := 3 }
    (∃ e ∈ s.ctxs, e.2.reefValid = true ∧ countsReef e.2.state = true) ∧ s.levelWanted = 3 := by decide

/-- Over the cap with a level that fits, over it with none that fits, and under it. -/
theorem witness_GovernorKeepsLegalSettings :
    legalSetting tUp.pwr.governor tUp.pwr.delivered ∧ legalSetting 4 1 ∧
    (let i : GovIn := { sum := 9000, n := 10, stat := 100, cap := 500, dyn := [1600, 1400, 1200, 1000, 800], level := 0, edges := 16 }
     i.n * i.cap < i.sum ∧ i.fits 4 16 1 1 = true ∧ i.fits 3 16 1 1 = false) ∧
    (let i : GovIn := { sum := 2000, n := 10, stat := 100, cap := 500, dyn := [1600, 1400, 1200, 1000, 800], level := 4, edges := 16 }
     i.sum ≤ i.n * i.cap ∧ fasterStep 4 16 = some (3, 16) ∧ i.fits 3 16 9 10 = true ∧ tUp.pwr.fastRun ≠ 3 ∧
       i.sum ≤ i.n * 240 ∧ { i with cap := 240 }.fits 3 16 9 10 = false) := by
  unfold legalSetting; decide

theorem witness_HintsNeverOverlap :
    let h : Hint := { start := 5, stop := 9, watts := 1000, on := false }
    [{ h with start := 20, stop := 21 }, h].Pairwise Hint.apart ∧ h.start ≤ h.stop ∧
      (addHint 0 [h] { h with start := 8, stop := 12 }).length = 2 := by
  unfold Hint.apart; decide

theorem witness_WideBandsSpreadTheirGranules : (0 : Nat) < dramSize := by decide

theorem witness_EveryOffsetHasItsOwnPlace :
    (∀ n, (tUp.mast 0).mc.band n ≤ 3) ∧ (0 : Nat) < dramSize := by
  refine ⟨fun n => ?_, by decide⟩
  show tgetD (tUp.mast 0).mc.setLog2 n 3 ≤ 3
  rw [show (tUp.mast 0).mc.setLog2 = [] by decide]
  exact Nat.le_refl 3

theorem witness_WalksAdmitExactlyTheMask :
    let e : LayerAttn := { attn := true, window := 256, sink := 4, pageLayer := 0, globalEn := true, exclSelf := false, hg := 1, scale := fpOne }
    (2, true) ∈ admittedPages [e] [600] 2000 2000 ∧ (0, false) ∈ admittedPages [e] [600] 2000 2000 := by decide

theorem witness_RowsFitTheStep :
    let q := selectRows 2 [(0, tReq rPrefill), (1, { tReq rDecode with promptEnd := 0 }), (2, tReq rDecode)] 3
    q.2 = [2] ∧ q.1.length = 2 := by decide

/-- A row with a tie, and one whose logits are all -infinity; 2^127 stands for any temperature but 0. -/
theorem witness_SampledTokensAreOfTheVocabulary :
    let d : Draw := { temperature := 0, topP := 0, topK := 0, seed := 0, counter := 0, position := 0 }
    sampleRow d [fpNegInf, 0x3F800000, 0x40000000, 0x40000000] = some (2, fpZero) ∧ sampleRow d [fpNegInf, fpNegInf] = none := by
  decide +kernel

/-- A narrow layer that its count widens, a widened one that relaxes, and one that the host pins. -/
theorem witness_LayersMoveOnlyAsTheTableSays :
    let g := parseGuard ([0#8, 0#8, 0#8, 0#8, 0#8, 0#8, 0#8, 1#8] ++ zeros 8)
    let r : LayerRec := { (tUp.mast 0).tt.rec? 5 0 with state := ltPinned }
    r.cmd = 0 ∧ r.state ≤ 2 ∧ (layerBoundary g true true r []).rec_.state = ltPinned ∧
      (layerBoundary g true true { r with cmd := 1 } []).rec_.state = ltNarrow ∧
      (layerBoundary g true true { r with state := ltNarrow, cmd := 2 } []).rec_.state = ltPinned ∧
      (let h := { g with relaxSteps := 4 }
       let w := { r with state := ltWidened, relaxLeft := 1 }
       (layerBoundary h true true w []).rec_.state = ltNarrow ∧ (layerBoundary h true true w [true]).rec_.relaxLeft = 4 ∧
         (layerBoundary h true false w []).rec_.state = ltWidened) := by decide +kernel

/-- A tile of zero weights over a bfloat16 block, which is narrow. -/
theorem witness_NarrowRunsStayWithinTheirBound :
    let t : WTile := { f := wW1T, block0 := 0, cb := [], bursts := [], elems := [], scales := [], res := [] }
    knownWfmt t.f = true ∧ (t.f = wW2C → codebookFault t.cb = none) ∧ NarrowBlock (bfBlock false [] []) ∧
      codebookFault (zeros 127 ++ [0xA3#8]) = none :=
  ⟨by decide, by decide, .inl ⟨_, _, rfl⟩, by decide⟩

/-- A slot whose primary is full and takes a fallback, with D 1 and D 0. -/
theorem witness_FallbacksAreNeverPrimaries :
    let cap := fun e : Nat => if e = 0 then 0 else 1
    (∀ e, [0, 1, 2][0]? = some e → decide (tgetD ([] : Tab Nat) e 0 < cap e) = false) ∧
      fallbackFor (fun e => decide (tgetD ([] : Tab Nat) e 0 < cap e)) [0, 1, 2] 1 1 = (some 1, 2) ∧
      fallbackFor (fun e => decide (tgetD ([] : Tab Nat) e 0 < cap e)) [0, 1, 2] 0 1 = (none, 1) := by
  refine ⟨?_, by decide, by decide⟩
  intro e h
  simp at h
  subst h
  decide

/-! ## Tests of single operations, against the worked examples of the spec -/

/-- A word spells no command: no row of the table has bits. -/
theorem test_no_word_spells_a_command : decodeTableWord 0 0 = none ∧ decodeTableWord 16 0x0101 = none := by decide

/-- CRC-32 of R242 and CRC-16 of R44 over "123456789": the check values of those parameters. -/
theorem test_crc :
    crc32 [0x31, 0x32, 0x33, 0x34, 0x35, 0x36, 0x37, 0x38, 0x39] = 0xCBF43926 ∧
      crc16 [0x31, 0x32, 0x33, 0x34, 0x35, 0x36, 0x37, 0x38, 0x39] = 0x29B1 := by decide +kernel

/-- SHA-384 of "abc" (FIPS 180-4), its first and last four bytes. -/
theorem test_sha384 :
    sub (sha384 [0x61, 0x62, 0x63]) 0 4 = [0xCB, 0x00, 0x75, 0x3F] ∧ sub (sha384 [0x61, 0x62, 0x63]) 44 4 = [0x34, 0xC8, 0x25, 0xA7] := by decide +kernel

/-- The W1T burst of 02_narrow_formats: byte 0 is 180. -/
theorem test_w1t_weights :
    (List.range 5).map (burstWeight wW1T [] (180#8 :: zeros 127)) = [-1, -1, 1, -1, 1] ∧ wPlace 72 80 2 = (2, 20) := by decide

/-- The W2C burst: ENTRY[5] is 0x31FD, byte 0 is 0x1B, CBID 5. -/
theorem test_w2c_levels : (List.range 4).map (cbLevel (zeros 10 ++ [0xFD#8, 0x31#8] ++ zeros 116) 5) = [-3, -1, 1, 3] := by decide

/-- The W4F burst, in half units. -/
theorem test_w4f_weights : (List.range 4).map (burstWeight wW4F [] ([0x2A#8, 0x7F#8] ++ zeros 126)) = [-2, 2, -12, 12] := by decide

/-- The run of W4F times MXINT8 in 03_matrix_engines: 184 × 2^-15. -/
theorem test_run_promotes :
    let t : WTile := { f := wW4F, block0 := 0, cb := [], bursts := [[0x2A#8, 0x7F#8] ++ zeros 110 ++ [0x7D#8] ++ zeros 15], elems := [], scales := [], res := [] }
    let b := mxBlock ([50, 236, 100, 127] ++ List.replicate 28 0) 0x79
    narrowSum (runOf 32 (t.products 0 0 b) 0) = 184 ∧ (Acc.runs false t 0 0 b { v := 0, inex := 0 }).v = toFp (ofInt 184 (-15) false) := by
  decide +kernel

/-- The candidates and codes of 04_outliers_telltale_widening, with 17 and 5 extracted and with none. -/
def tOutlier : List Num :=
  [ofInt 3 (-4) false, ofInt (-3) (-5) false, ofInt 3 (-6) false, .fin false 0 0, .fin false 0 0, ofInt 40 0 false] ++ List.replicate 11 (.fin false 0 0)
  ++ [ofInt (-640) 0 false] ++ List.replicate 8 (.fin false 0 0) ++ [ofInt 5 (-1) false] ++ List.replicate 5 (.fin false 0 0)

theorem test_outlier_candidates : candidates 4 tOutlier = [17, 5] := by decide +kernel

theorem test_outlier_codes :
    (bfBlock false tOutlier [17, 5]).scale = 0x80 ∧ [0, 1, 2, 5, 17, 26].map ((bfBlock false tOutlier [17, 5]).codes.getD · 0) = [6, -3, 2, 0, 0, 80] ∧
      (bfBlock false tOutlier []).scale = 0x88 ∧ [0, 1, 2, 5, 17, 26].map ((bfBlock false tOutlier []).codes.getD · 0) = [0, 0, 0, 5, -80, 0] := by
  decide +kernel

/-- Sealing of 02_narrow_formats: codes 100, -37, 5 and 64 at the scale 0x7C. -/
theorem test_sealing :
    let q := mxEncode .mxfp4 (([100, 219, 5, 64].map fun c => int8Val true c 0x7C) ++ List.replicate 28 (.fin false 0 0))
    q.scale = 0x7A ∧ q.codes.take 4 = [0x7, 0xC, 0x1, 0x6] := by decide +kernel

/-- Units of 06_attention_and_kv_pages: 48 layers of one head of 128. -/
theorem test_page_sizes :
    let g : PageGeom := { layers := 48, heads := 1, dh := 128 }
    g.elems = 3145728 ∧ g.bytes 0 = 3244032 ∧ g.bytes 2 = 1671168 := by decide

/-- The walk of 06_attention_and_kv_pages: 36 pages for a query at 20,000, two of them for globals alone. -/
theorem test_walk :
    let e : LayerAttn := { attn := true, window := 1024, sink := 128, pageLayer := 0, globalEn := true, exclSelf := false, hg := 1, scale := fpOne }
    let l := admittedPages [e, { e with window := 8192 }] [300, 5000, 12000, 15500] 20000 20000
    l.length = 36 ∧ l.filter (fun (x : Nat × Bool) => x.2) = [(1, true), (19, true)] := by decide +kernel

/-- The tag of 05_expert_routing. -/
theorem test_tag : mkTag true 5 515 0 (108 + 4100 * 2 ^ 15) = 0x082C06000802006C := by decide

/-- The interleave of 08_bonded_memory: band 2 with set size 2, and the next granule. -/
theorem test_grouped_map :
    groupedMap 1 0x281234580 = (154, 0x2048D80) ∧ (groupedMap 1 0x281234680).1 = 153 := by decide

/-- The line of 13_nalec_fabric at the target: channel 0x67 in a wide band. -/
theorem test_wide_map : (wideMap (bits 0x12A0002001234580 0 36)).1 = 0x67 := by decide

/-- KV_EXPORT's arguments of 10_stauc_packets. -/
theorem test_export_args :
    let r := tq 5 0x0244801F0000006C 0x07D0 []
    (slotArg r, exFirst r, exLast r, exPkg r, exCtx r, exSlot r) = (108, 0, 31, 0x12, 9, 2000) := by decide

/-- Windows and planes of 13_nalec_fabric: window 7 of package 0x2A, port 21 with every plane up, port 26 without it. -/
def tPlanes (down : List Nat) : State :=
  { tUp with nlc := { tUp.nlc with
      ports := tmap tUp.nlc.ports fun p x => { x with state := if down.contains p then pDown else pUp },
      windows := [(7, { read := true, write := true, owner := 9, pkg := 0x2A, ctx := 9, base := 0x2000000000, size := 0x8000000 })] } }

theorem test_window : (tPlanes []).window 9 false 0x0700000001234580 128 = some (0x2A, 9, 0x2001234580) := by decide

theorem test_planes : (tPlanes []).plane 0x2001234580 0x2A 0 = some 21 ∧ (tPlanes [21]).plane 0x2001234580 0x2A 0 = some 26 := by decide

/-! ## Ill-formed commands are refused -/

theorem test_wf_refuses_units :
    ∀ i ∈ [Instr.hello { tq 0 0 0 [] with flitCh := 8 }, .unfurlComplete 0, .furlComplete 65, .memReleaseZeroed 1 8 0,
      .answerSend 8, .mcBandWrite 0 12 0, .bandChangeComplete 8 0, .nlcDeadClear 8 0, .hifRetry 16, .ttClear 0 1 4096, .ttPin 8 1 0,
      .channelRebindHome 8, .moduleRetrainComplete 4 true 64 0, .ucieModuleTrained 0 5 64 0, .portTrained 42 true,
      .keysyncReceive 42, .colTimeout 4096 0, .colAckSend 0 8 0, .cleatReached 0 0 0, .spillComplete 8, .droopTrip 8,
      .dramTempHigh 8, .vectorUnitOperation 1 0 4 0 (.other 0 .fp32 0), .shardLoadTimeout (2 ^ 32), .sealImageBuild 8,
      .wireBroken (.port 42), .spadPatrol 0 [{ mast := 8, kind := .spadCe, at_ := 0 }]], Instr.wf i = false := by decide

theorem test_wf_refuses_data :
    ∀ i ∈ [Instr.echo (tq 0 0 0 (zeros 4097)), .registerWrite (2 ^ 32) 0, .sbMemRead (2 ^ 32), .capSetMgmt 65536, .attestGet [] 0,
      .certGet 256 0, .fwChunk 4 (zeros 8), .fwChunk 0 (zeros 7), .fwDone 0, .fwDone 4194305, .flitReceive 0 [], .identReceive 0 [],
      .linkFrameReceive 0 (zeros 541), .groupedCall 1 0 (2 ^ 64) [] [], .groupedCall 1 0 0 [.parity 16] [], .attentionCall 1 0 2 0 [],
      .fastLimiter 17, .contentionWindow 0 [(1, 2, 1)], .nlcReadReceive { tTp 1 0 0 none [] with srcPkg := 256 },
      .exportPageReceive { srcPkg := 0, exportId := 0, mast := 0, page := 0, fmt := 3, valid := 0, bytes := [] }],
      Instr.wf i = false := by decide +kernel

theorem test_wf_accepts :
    ∀ i ∈ [Instr.hello (tq 0 0 0 []), .furlComplete 64, .portTrained 41 true, .fwDone 4194304, .sbMemRead 0xFFFFFFFC,
      .flitReceive 3 (zeros 256)], Instr.wf i = true := by decide

/-- Philox4x32-10 of the published definition (R189): its known answer for a counter and key of zeros. -/
theorem test_philox :
    philoxRun 10 { c0 := 0, c1 := 0, c2 := 0, c3 := 0 } 0 0
      = { c0 := 0x6627E8D5, c1 := 0xE169C58D, c2 := 0xBC57AC4C, c3 := 0x9B00DBD8 } := by decide +kernel

end Sys2Proof.Machine
end

section
/-! The codes that a conversion into an MX type can write (R28, R29, R32, R48, R49): the scale and the elements of
`mxEncode`, and the value of an MXINT8 element. -/
namespace Sys2Proof.Machine

/-! ## The value of an MXINT8 element (R29) -/

theorem signed8_eq (c : Nat) : signed8 c = if c < 128 then (c : Int) else (c : Int) - 256 := by
  unfold signed8
  split <;> split <;> omega

/-- Outside the narrow paths no code is replaced (R30). -/
theorem int8Val_wide (c sc : Nat) : int8Val false c sc = ofInt (signed8 c) ((sc : Int) - 127 - 6) false :=
  rfl

/-! ## The element codes -/

/-- The element codes a conversion may write: no MXINT8 0x80 (R29), no E4M3 NaN (R32), four bits for E2M1 (R31). Like
`quantise`, it takes every other format as E2M1. -/
def LegalCode : NumFmt → Nat → Prop
  | .mxint8, c => c < 256 ∧ c ≠ 0x80
  | .e4m3, c => c < 256 ∧ c ≠ 0x7F ∧ c ≠ 0xFF
  | _, c => c < 16

theorem legalCode_zero (f : NumFmt) : LegalCode f 0 := by
  cases f with
  | mxint8 => exact ⟨by decide, by decide⟩
  | e4m3 => exact ⟨by decide, by decide, by decide⟩
  | mxfp4 | fp32 | bf16 => exact Nat.zero_lt_succ 15

theorem legalCode_maxCode (f : NumFmt) (neg : Bool) : LegalCode f (maxCode f neg) := by
  cases f with
  | mxint8 => cases neg <;> exact ⟨by decide, by decide⟩
  | e4m3 => cases neg <;> exact ⟨by decide, by decide, by decide⟩
  | mxfp4 | fp32 | bf16 => cases neg <;> exact Nat.le_of_ble_eq_true rfl

/-- A magnitude of at most 127 in two's complement is never 0x80. -/
theorem twosComplement_legal {q : Nat} (hq : q ≤ 127) (neg : Bool) :
    LegalCode .mxint8 (if neg && q != 0 then 256 - q else q) := by
  split
  case isTrue h =>
    have hq0 : q ≠ 0 := bne_iff_ne.1 (Bool.and_eq_true_iff.1 h).2
    exact ⟨by omega, by omega⟩
  case isFalse => exact ⟨by omega, by omega⟩

/-- A magnitude of at most 0x7E under an E4M3 sign bit is no NaN. -/
theorem e4m3Sign_legal {c : Nat} (hc : c ≤ 0x7E) (neg : Bool) :
    LegalCode .e4m3 (if neg && c != 0 then c + 0x80 else c) := by
  split <;> exact ⟨by omega, by omega, by omega⟩

theorem e2m1Sign_lt {c : Nat} (hc : c ≤ 7) (neg : Bool) : (if neg && c != 0 then c + 8 else c) < 16 := by
  split <;> omega

/-- Saturation keeps every quantised element off the codes that are not written (R48 step 3). -/
theorem legalCode_quantise (f : NumFmt) (s : Int) (neg : Bool) (m : Nat) (e : Int) :
    LegalCode f (quantise f s neg m e) := by
  cases f with
  | mxint8 => exact twosComplement_legal (Nat.min_le_left _ _) neg
  | e4m3 => exact e4m3Sign_legal (Nat.min_le_left _ _) neg
  | mxfp4 | fp32 | bf16 => exact e2m1Sign_lt (Nat.min_le_left _ _) neg

/-! ## The converted block -/

/-- What an element of a converted block can be: the zero, the largest code of a sign in place of an infinity (R49), or a
quantised value (R48). -/
theorem mem_codes_mxEncode {f : NumFmt} {xs : List Num} {c : Nat} (hc : c ∈ (mxEncode f xs).codes) :
    c = 0 ∨ (∃ neg, c = maxCode f neg) ∨ ∃ s neg m e, c = quantise f s neg m e := by
  unfold mxEncode at hc
  dsimp only at hc
  split at hc <;> obtain ⟨x, -, rfl⟩ := List.mem_map.1 hc
  case h_1 =>
    cases x with
    | inf neg => exact .inr (.inl ⟨neg, rfl⟩)
    | nan | fin => exact .inl rfl
  case h_2 =>
    cases x with
    | nan => exact .inl rfl
    | inf neg => exact .inr (.inl ⟨neg, rfl⟩)
    | fin neg m e => exact .inr (.inr ⟨_, neg, m, e, rfl⟩)

theorem legalCode_of_mem_mxEncode {f : NumFmt} {xs : List Num} {c : Nat} (hc : c ∈ (mxEncode f xs).codes) :
    LegalCode f c := by
  obtain rfl | ⟨neg, rfl⟩ | ⟨s, neg, m, e, rfl⟩ := mem_codes_mxEncode hc
  · exact legalCode_zero f
  · exact legalCode_maxCode f neg
  · exact legalCode_quantise f s neg m e

/-- The clamp of R48 step 2 keeps the scale code below the NaN 0xFF (R28). -/
theorem scale_mxEncode_le (f : NumFmt) (xs : List Num) : (mxEncode f xs).scale ≤ 254 := by
  unfold mxEncode
  dsimp only
  split
  · exact Nat.zero_le _
  · dsimp only
    omega

/-- Settles O52: the scale by the clamp of R48 step 2, the elements by the three kinds of code a converted block holds. -/
theorem conversionsWriteOnlyLegalCodes : Obligations.ConversionsWriteOnlyLegalCodes := by
  refine ⟨fun c sc _ => ?_, fun f xs => ⟨scale_mxEncode_le f xs, ?_, ?_, ?_⟩⟩
  · rw [int8Val_wide, signed8_eq]
  all_goals
    rintro rfl c hc
    exact legalCode_of_mem_mxEncode hc

end Sys2Proof.Machine
end

section
/-! The bound of R61 on the partial sums of a narrow run: the largest magnitude of a decoded weight (R30, R31, R38, R41)
and of an activation code (R29, R30), and the sum of at most a run's products of the two. -/
namespace Sys2Proof.Machine

/-! ## The bytes that the array reads -/

theorem byteAt_lt (b : Bytes) (i : Nat) : byteAt b i < 256 :=
  (b.getD i 0).isLt

theorem bits_lt (x lo w : Nat) : bits x lo w < 2 ^ w :=
  Nat.mod_lt _ (Nat.two_pow_pos w)

/-! ## Activation codes (R29, R30) -/

theorem natAbs_signed8_le {c : Nat} (hc : c < 256) (h80 : c ≠ 0x80) : (signed8 c).natAbs ≤ 127 := by
  rw [signed8_eq]
  split <;> omega

/-- An MXINT8 code as an engine reads it, 0x80 as -127 (R30). -/
theorem natAbs_readCode_le {c : Nat} (hc : c < 256) : (if c = 0x80 then -127 else signed8 c).natAbs ≤ 127 := by
  split
  case isTrue => decide
  case isFalse h80 => exact natAbs_signed8_le hc h80

/-- A narrow block holds no code beyond ±127: a converted block because R48 writes no 0x80, a stored one by R30. -/
theorem natAbs_code_le {b : ActBlk} (hb : NarrowBlock b) {a : Int} (ha : a ∈ b.codes) : a.natAbs ≤ 127 := by
  obtain ⟨xs, ex, rfl⟩ | ⟨codes, scale, hcodes, rfl⟩ := hb
  case inl =>
    obtain ⟨c, hc, rfl⟩ := List.mem_map.1 ha
    obtain ⟨hlt, h80⟩ : LegalCode .mxint8 c := legalCode_of_mem_mxEncode hc
    exact natAbs_signed8_le hlt h80
  case inr =>
    obtain ⟨c, hc, rfl⟩ := List.mem_map.1 ha
    exact natAbs_readCode_le (hcodes c hc)

/-! ## Weights (R31, R38, R41, R58) -/

/-- The largest magnitude of a weight in the units of R58, by format (the second column of R61's table). -/
def weightMax (f : Nat) : Nat := if f = wW1T then 1 else if f = wW2C then 3 else if f = wW4F then 12 else 127

theorem eq_of_knownWfmt {f : Nat} (hf : knownWfmt f = true) : f = wW1T ∨ f = wW2C ∨ f = wW4F ∨ f = wINT8 := by
  simpa only [knownWfmt, List.contains_eq_mem, decide_eq_true_eq, List.mem_cons, List.not_mem_nil, or_false] using hf

/-- The bound of R61 is products per run × largest |w| × largest |a|. -/
theorem runBound_eq {f : Nat} (hf : knownWfmt f = true) : runBound f = runRows f * (weightMax f * 127) := by
  obtain rfl | rfl | rfl | rfl := eq_of_knownWfmt hf <;> rfl

theorem natAbs_trit_le (x : Nat) : (((x % 3 : Nat) : Int) - 1).natAbs ≤ 1 := by
  omega

/-- The checks of R45 refuse a codebook line with a level outside ±3, by this check or an earlier one. -/
theorem codebookFault_of_level {cb : Bytes} {i : Nat} (hi : i < 64) (hbad : 3 < (cbLevel cb (i / 4) (i % 4)).natAbs) :
    codebookFault cb ≠ none := by
  have hany : (List.range 64).any (fun i => decide (3 < (cbLevel cb (i / 4) (i % 4)).natAbs)) = true :=
    List.any_eq_true.2 ⟨i, List.mem_range.2 hi, decide_eq_true hbad⟩
  unfold codebookFault
  rw [if_pos hany]
  split
  case isTrue => exact Option.some_ne_none _
  case isFalse => split <;> exact Option.some_ne_none _

/-- The element check of R45 keeps every level of a codebook line within ±3 (R41). -/
theorem natAbs_cbLevel_le {cb : Bytes} (hcb : codebookFault cb = none) {e c : Nat} (he : e < 16) (hc : c < 4) :
    (cbLevel cb e c).natAbs ≤ 3 := by
  have hlevels : ∀ i < 64, (cbLevel cb (i / 4) (i % 4)).natAbs ≤ 3 := by
    intro i hi
    exact Nat.le_of_not_lt fun hbad => codebookFault_of_level hi hbad hcb
  have h := hlevels (4 * e + c) (by omega)
  rwa [show (4 * e + c) / 4 = e by omega, show (4 * e + c) % 4 = c by omega] at h

theorem natAbs_e2m1Half_le : ∀ c < 16, (e2m1Half c).natAbs ≤ 12 := by
  decide

theorem natAbs_burstWeight_le {f : Nat} {cb : Bytes} (hf : f = wW1T ∨ f = wW2C ∨ f = wW4F)
    (hcb : f = wW2C → codebookFault cb = none) (b : Bytes) (j : Nat) : (burstWeight f cb b j).natAbs ≤ weightMax f := by
  obtain rfl | rfl | rfl := hf
  · exact natAbs_trit_le _
  · exact natAbs_cbLevel_le (hcb rfl) (Nat.mod_lt _ (by decide)) (bits_lt _ _ 2)
  · exact natAbs_e2m1Half_le _ (bits_lt _ _ 4)

theorem natAbs_weight_le {t : WTile} (hf : knownWfmt t.f = true) (hcb : t.f = wW2C → codebookFault t.cb = none)
    (row col : Nat) : (t.weight row col).natAbs ≤ weightMax t.f := by
  unfold WTile.weight
  dsimp only
  split
  case isTrue hint =>
    rw [hint]
    exact natAbs_readCode_le (byteAt_lt _ _)
  case isFalse hpacked =>
    have hburst : t.f = wW1T ∨ t.f = wW2C ∨ t.f = wW4F := by
      simpa only [hpacked, or_false] using eq_of_knownWfmt hf
    exact natAbs_burstWeight_le hburst hcb _ _

/-! ## Products and sums (R60) -/

theorem natAbs_product_le {t : WTile} {b : ActBlk} (hf : knownWfmt t.f = true)
    (hcb : t.f = wW2C → codebookFault t.cb = none) (hb : NarrowBlock b) {col kb : Nat} {p : Int}
    (hp : p ∈ t.products col kb b) : p.natAbs ≤ weightMax t.f * 127 := by
  obtain ⟨⟨w, a⟩, hwa, rfl⟩ := List.mem_map.1 hp
  obtain ⟨hw, ha⟩ := List.of_mem_zip hwa
  obtain ⟨i, -, rfl⟩ := List.mem_map.1 hw
  rw [Int.natAbs_mul]
  exact Nat.mul_le_mul (natAbs_weight_le hf hcb _ _) (natAbs_code_le hb ha)

/-- Each product added moves the narrow adder by at most a bound on the products' magnitudes. -/
theorem natAbs_foldl_add_le {m : Nat} (ps : List Int) (h : ∀ p ∈ ps, p.natAbs ≤ m) (start : Int) :
    (ps.foldl (· + ·) start).natAbs ≤ start.natAbs + ps.length * m := by
  induction ps generalizing start with
  | nil => exact Nat.le_add_right _ _
  | cons p ps ih =>
    obtain ⟨hp, hps⟩ := List.forall_mem_cons.1 h
    calc (ps.foldl (· + ·) (start + p)).natAbs
      _ ≤ (start + p).natAbs + ps.length * m := ih hps (start + p)
      _ ≤ start.natAbs + m + ps.length * m :=
        Nat.add_le_add_right (Nat.le_trans (Int.natAbs_add_le start p) (Nat.add_le_add_left hp _)) _
      _ = start.natAbs + (p :: ps).length * m := by rw [List.length_cons, Nat.succ_mul]; omega

theorem natAbs_narrowSum_le {ps : List Int} {m : Nat} (h : ∀ p ∈ ps, p.natAbs ≤ m) :
    (narrowSum ps).natAbs ≤ ps.length * m :=
  Nat.le_trans (natAbs_foldl_add_le ps h 0) (Nat.le_of_eq (Nat.zero_add _))

theorem length_take_runOf_le (n : Nat) (ps : List Int) (r k : Nat) : ((runOf n ps r).take k).length ≤ n :=
  Nat.le_trans (List.length_take_le' _ _) (List.length_take_le _ _)

theorem mem_of_mem_take_runOf {n : Nat} {ps : List Int} {r k : Nat} {p : Int} (hp : p ∈ (runOf n ps r).take k) :
    p ∈ ps :=
  List.mem_of_mem_drop (List.mem_of_mem_take (List.mem_of_mem_take hp))

/-- Every bound of R61's table is within the 18-bit adder of R60. -/
theorem runBound_le (f : Nat) : runBound f ≤ 131071 := by
  unfold runBound
  split
  case isTrue => decide
  case isFalse =>
    split
    case isTrue => decide
    case isFalse => split <;> decide

/-- Settles O51, by the argument of R61: at most the products of a run, each at most the largest |w| times the largest |a|. -/
theorem narrowRunsStayWithinTheirBound : Obligations.NarrowRunsStayWithinTheirBound := by
  intro t col kb r k b hf hcb hb
  have hproduct : ∀ p ∈ (runOf (runRows t.f) (t.products col kb b) r).take k, p.natAbs ≤ weightMax t.f * 127 :=
    fun p hp => natAbs_product_le hf hcb hb (mem_of_mem_take_runOf hp)
  refine ⟨?_, runBound_le t.f⟩
  rw [runBound_eq hf]
  exact Nat.le_trans (natAbs_narrowSum_le hproduct) (Nat.mul_le_mul_right _ (length_take_runOf_le _ _ _ _))

end Sys2Proof.Machine
end

section
/-! The placement of one token (R122 to R125). A preference list names no expert twice; the search for a fallback passes over
the candidates without room; and every slot takes a rank of the preference list that no slot before it took: its own, or one
that the cursor has just passed. -/
namespace Sys2Proof.Machine

/-! ## The preference list (R122) -/

theorem insBy_perm {α : Type} (le : α → α → Bool) (x : α) (l : List α) : (insBy le x l).Perm (x :: l) := by
  induction l with
  | nil => exact .refl _
  | cons y ys ih =>
    unfold insBy
    split
    · exact (ih.cons y).trans (.swap x y ys)
    · exact .refl _

theorem foldl_insBy_perm {α : Type} (le : α → α → Bool) (l acc : List α) :
    (l.foldl (fun acc x => insBy le x acc) acc).Perm (l ++ acc) := by
  induction l generalizing acc with
  | nil => exact .refl _
  | cons x xs ih => exact (ih _).trans (((insBy_perm le x acc).append_left xs).trans List.perm_middle)

theorem sortBy_perm {α : Type} (le : α → α → Bool) (l : List α) : (sortBy le l).Perm l := by
  have h := foldl_insBy_perm le l []
  rwa [List.append_nil] at h

/-- `enum` numbers the elements of a list apart. -/
theorem pairwise_enum {α : Type} (l : List α) : (enum l).Pairwise fun a b => a.1 ≠ b.1 := by
  have hnumbers : (enum l).map (·.1) = List.range l.length := List.map_fst_zip (by simp)
  exact List.pairwise_map.1 (hnumbers ▸ List.nodup_range)

/-- The eligible experts are among those that `enum` numbers, each under its number. -/
theorem pairwise_eligible (ps : List ExpertPar) (ls : List Word) : (eligible ps ls).Pairwise fun a b => a.1 ≠ b.1 := by
  refine List.Pairwise.filterMap (R := fun a b => a.1 ≠ b.1) _ ?_ (List.pairwise_map.2 (pairwise_enum (ps.zip ls)))
  intro a b hab x hx y hy
  obtain ⟨-, ⟨⟩⟩ := Option.ite_none_right_eq_some.1 hx
  obtain ⟨-, ⟨⟩⟩ := Option.ite_none_right_eq_some.1 hy
  exact hab

theorem preference_eligible_nodup (ps : List ExpertPar) (ls : List Word) : (preference (eligible ps ls)).Nodup :=
  ((sortBy_perm _ _).map _).nodup_iff.2 (List.pairwise_map.2 (pairwise_eligible ps ls))

/-- An expert whose rank is `k` or later is none of the first `k`. -/
theorem notMem_take_of_rank {p : List Nat} (hp : p.Nodup) {k j e : Nat} (hkj : k ≤ j) (hj : p[j]? = some e) : e ∉ p.take k := by
  intro he
  obtain ⟨i, hi, htake⟩ := List.mem_take_iff_getElem.1 he
  have hpi : p[i]? = some e := List.getElem?_eq_some_iff.2 ⟨by omega, htake⟩
  obtain rfl : j = i := (List.getElem?_inj (List.getElem?_eq_some_iff.1 hj).1 hp).1 (hj.trans hpi.symm)
  omega

/-! ## The search for a fallback (R124, R125) -/

theorem fallbackFor_zero (room : Nat → Bool) (p : List Nat) (cur : Nat) : fallbackFor room p 0 cur = (none, cur) :=
  rfl

theorem fallbackFor_succ_past {room : Nat → Bool} {p : List Nat} {d cur : Nat} (h : p[cur]? = none) :
    fallbackFor room p (d + 1) cur = (none, cur) := by
  simp only [fallbackFor, h]

theorem fallbackFor_succ_room {room : Nat → Bool} {p : List Nat} {d cur e : Nat} (h : p[cur]? = some e) (hroom : room e = true) :
    fallbackFor room p (d + 1) cur = (some e, cur + 1) := by
  simp only [fallbackFor, h, hroom, if_true]

theorem fallbackFor_succ_full {room : Nat → Bool} {p : List Nat} {d cur e : Nat} (h : p[cur]? = some e) (hfull : room e = false) :
    fallbackFor room p (d + 1) cur = fallbackFor room p d (cur + 1) := by
  simp only [fallbackFor, h, hfull, Bool.false_eq_true, if_false]

/-- No candidate of the ranks from `cur` to `stop - 1` has room. -/
def PassedOver (room : Nat → Bool) (p : List Nat) (cur stop : Nat) : Prop :=
  ∀ i e, cur ≤ i → i < stop → p[i]? = some e → room e = false

theorem passedOver_empty (room : Nat → Bool) (p : List Nat) (cur : Nat) : PassedOver room p cur cur :=
  fun _ _ hle hlt => absurd hlt (Nat.not_lt.2 hle)

theorem PassedOver.cons {room : Nat → Bool} {p : List Nat} {cur stop e : Nat} (hcur : p[cur]? = some e) (hfull : room e = false)
    (h : PassedOver room p (cur + 1) stop) : PassedOver room p cur stop := by
  intro i x hle hlt hi
  obtain rfl | hlater := Nat.eq_or_lt_of_le hle
  · cases hcur.symm.trans hi
    exact hfull
  · exact h i x hlater hlt hi

/-- What a search of at most `d` candidates from `cur` on comes to: a candidate with room, or the end of its tries or of the
list, past candidates without room. -/
inductive FallbackSearch (room : Nat → Bool) (p : List Nat) (d cur : Nat) : Option Nat × Nat → Prop
  | found {i e : Nat} (hle : cur ≤ i) (hlt : i < cur + d) (hi : p[i]? = some e) (hroom : room e = true)
      (hpassed : PassedOver room p cur i) : FallbackSearch room p d cur (some e, i + 1)
  | failed {stop : Nat} (hstop : stop = max cur (min (cur + d) p.length)) (hpassed : PassedOver room p cur stop) :
      FallbackSearch room p d cur (none, stop)

/-- A candidate without room is passed over and counts against the tries. -/
theorem FallbackSearch.cons {room : Nat → Bool} {p : List Nat} {d cur e : Nat} {f : Option Nat × Nat} (hcur : p[cur]? = some e)
    (hfull : room e = false) (h : FallbackSearch room p d (cur + 1) f) : FallbackSearch room p (d + 1) cur f := by
  have hlen : cur < p.length := (List.getElem?_eq_some_iff.1 hcur).1
  cases h with
  | found hle hlt hi hroom hpassed => exact .found (by omega) (by omega) hi hroom (.cons hcur hfull hpassed)
  | failed hstop hpassed => exact .failed (by omega) (.cons hcur hfull hpassed)

theorem fallbackFor_search (room : Nat → Bool) (p : List Nat) (d cur : Nat) :
    FallbackSearch room p d cur (fallbackFor room p d cur) := by
  induction d generalizing cur with
  | zero =>
    rw [fallbackFor_zero]
    exact .failed (by omega) (passedOver_empty room p cur)
  | succ d ih =>
    cases hcur : p[cur]? with
    | none =>
      have hlen : p.length ≤ cur := List.getElem?_eq_none_iff.1 hcur
      rw [fallbackFor_succ_past hcur]
      exact .failed (by omega) (passedOver_empty room p cur)
    | some e =>
      cases hroom : room e with
      | true =>
        rw [fallbackFor_succ_room hcur hroom]
        exact .found (Nat.le_refl _) (by omega) hcur hroom (passedOver_empty room p cur)
      | false =>
        rw [fallbackFor_succ_full hcur hroom]
        exact .cons hcur hroom (ih (cur + 1))

/-! ## One slot (R124) -/

section
variable {cap : Nat → Nat} {p : List Nat} {d r cur cur' e : Nat} {rs : List Nat} {n : Tab Nat}

theorem placeSlots_cons_primary (hr : p[r]? = some e) (hroom : tgetD n e 0 < cap e) :
    placeSlots cap p d (r :: rs) cur n =
      (⟨e, 0⟩ :: (placeSlots cap p d rs cur (tset n e (tgetD n e 0 + 1))).1,
        (placeSlots cap p d rs cur (tset n e (tgetD n e 0 + 1))).2) := by
  simp only [placeSlots, hr, hroom, decide_true, if_true]

theorem placeSlots_cons_fallback (hr : ∀ x, p[r]? = some x → decide (tgetD n x 0 < cap x) = false)
    (hf : fallbackFor (fun x => decide (tgetD n x 0 < cap x)) p d cur = (some e, cur')) :
    placeSlots cap p d (r :: rs) cur n =
      (⟨e, 1⟩ :: (placeSlots cap p d rs cur' (tset n e (tgetD n e 0 + 1))).1,
        (placeSlots cap p d rs cur' (tset n e (tgetD n e 0 + 1))).2) := by
  cases hp : p[r]? with
  | none => simp only [placeSlots, hp, hf]
  | some x => simp only [placeSlots, hp, hr x hp, hf, Bool.false_eq_true, if_false]

theorem placeSlots_cons_shed (hr : ∀ x, p[r]? = some x → decide (tgetD n x 0 < cap x) = false)
    (hf : fallbackFor (fun x => decide (tgetD n x 0 < cap x)) p d cur = (none, cur')) :
    placeSlots cap p d (r :: rs) cur n = (⟨0, 2⟩ :: (placeSlots cap p d rs cur' n).1, (placeSlots cap p d rs cur' n).2) := by
  cases hp : p[r]? with
  | none => simp only [placeSlots, hp, hf]
  | some x => simp only [placeSlots, hp, hr x hp, hf, Bool.false_eq_true, if_false]

end

/-! ## The slots of a token (R124, R125) -/

/-- The slots that a token can be given for the ranks `rs`, with the cursor before them: each its primary, a fallback among the
`d` ranks from the cursor on, which then moves past it, or none. -/
inductive TokenSlots (p : List Nat) (d : Nat) : List Nat → Nat → List Placed → Prop
  | nil {cur : Nat} : TokenSlots p d [] cur []
  | primary {r cur e : Nat} {rs : List Nat} {q : List Placed} (hr : p[r]? = some e) (hq : TokenSlots p d rs cur q) :
      TokenSlots p d (r :: rs) cur (⟨e, 0⟩ :: q)
  | fallback {r cur i e : Nat} {rs : List Nat} {q : List Placed} (hle : cur ≤ i) (hlt : i < cur + d) (hi : p[i]? = some e)
      (hq : TokenSlots p d rs (i + 1) q) : TokenSlots p d (r :: rs) cur (⟨e, 1⟩ :: q)
  | shed {r cur cur' : Nat} {rs : List Nat} {q : List Placed} (hle : cur ≤ cur') (hq : TokenSlots p d rs cur' q) :
      TokenSlots p d (r :: rs) cur (⟨0, 2⟩ :: q)

theorem placeSlots_tokenSlots (cap : Nat → Nat) (p : List Nat) (d : Nat) (rs : List Nat) (cur : Nat) (n : Tab Nat) :
    TokenSlots p d rs cur (placeSlots cap p d rs cur n).1 := by
  induction rs generalizing cur n with
  | nil => exact .nil
  | cons r rs ih =>
    by_cases hprimary : ∃ e, p[r]? = some e ∧ tgetD n e 0 < cap e
    · obtain ⟨e, hr, hroom⟩ := hprimary
      rw [placeSlots_cons_primary hr hroom]
      exact .primary hr (ih _ _)
    · have hfull : ∀ e, p[r]? = some e → decide (tgetD n e 0 < cap e) = false :=
        fun e hr => decide_eq_false fun hroom => hprimary ⟨e, hr, hroom⟩
      have hsearch := fallbackFor_search (fun e => decide (tgetD n e 0 < cap e)) p d cur
      generalize hf : fallbackFor (fun e => decide (tgetD n e 0 < cap e)) p d cur = f at hsearch
      cases hsearch with
      | found hle hlt hi _ _ =>
        rw [placeSlots_cons_fallback hfull hf]
        exact .fallback hle hlt hi (ih _ _)
      | failed hstop _ =>
        rw [placeSlots_cons_shed hfull hf]
        exact .shed (by omega) (ih _ _)

section
variable {p : List Nat} {d cur : Nat} {rs : List Nat} {q : List Placed}

theorem TokenSlots.rank_of_primary (h : TokenSlots p d rs cur q) {i : Nat} {x : Placed} (hx : q[i]? = some x)
    (hst : x.status = 0) : ∃ r, rs[i]? = some r ∧ p[r]? = some x.expert := by
  induction h generalizing i with
  | nil => simp at hx
  | primary hr _ ih =>
    cases i with
    | zero => cases hx; exact ⟨_, rfl, hr⟩
    | succ i => exact ih hx
  | fallback _ _ _ _ ih | shed _ _ ih =>
    cases i with
    | zero => cases hx; cases hst
    | succ i => exact ih hx

theorem TokenSlots.rank_of_fallback (h : TokenSlots p d rs cur q) {x : Placed} (hx : x ∈ q) (hst : x.status = 1) :
    ∃ j, cur ≤ j ∧ p[j]? = some x.expert := by
  induction h with
  | nil => cases hx
  | primary _ _ ih =>
    obtain rfl | hx := List.mem_cons.1 hx
    · cases hst
    · exact ih hx
  | fallback hle _ hi _ ih =>
    obtain rfl | hx := List.mem_cons.1 hx
    · exact ⟨_, hle, hi⟩
    · obtain ⟨j, hj, hpj⟩ := ih hx
      exact ⟨j, by omega, hpj⟩
  | shed hle _ ih =>
    obtain rfl | hx := List.mem_cons.1 hx
    · cases hst
    · obtain ⟨j, hj, hpj⟩ := ih hx
      exact ⟨j, by omega, hpj⟩

theorem TokenSlots.status_cases (h : TokenSlots p d rs cur q) {x : Placed} (hx : x ∈ q) :
    x.status = 0 ∨ x.status = 1 ∧ 0 < d ∨ x.status = 2 := by
  induction h with
  | nil => cases hx
  | primary _ _ ih =>
    obtain rfl | hx := List.mem_cons.1 hx
    · exact .inl rfl
    · exact ih hx
  | fallback hle hlt _ _ ih =>
    obtain rfl | hx := List.mem_cons.1 hx
    · exact .inr (.inl ⟨rfl, by omega⟩)
    · exact ih hx
  | shed _ _ ih =>
    obtain rfl | hx := List.mem_cons.1 hx
    · exact .inr (.inr rfl)
    · exact ih hx

/-- An expert that is given is at its own slot's rank or at one from the cursor on. -/
theorem TokenSlots.rank_of_assigned (h : TokenSlots p d rs cur q) {x : Placed} (hx : x ∈ q) (hst : x.status ≠ 2) :
    ∃ j, (j ∈ rs ∨ cur ≤ j) ∧ p[j]? = some x.expert := by
  obtain hprimary | ⟨hfallback, -⟩ | hshed := h.status_cases hx
  · obtain ⟨i, hi⟩ := List.mem_iff_getElem?.1 hx
    obtain ⟨r, hr, hpr⟩ := h.rank_of_primary hi hprimary
    exact ⟨r, .inl (List.mem_of_getElem? hr), hpr⟩
  · obtain ⟨j, hj, hpj⟩ := h.rank_of_fallback hx hfallback
    exact ⟨j, .inr hj, hpj⟩
  · exact absurd hshed hst

/-- The experts of the slots that are not shed. -/
def assignedExperts (q : List Placed) : List Nat := (q.filter fun x => x.status != 2).map fun x => x.expert

theorem TokenSlots.notMem_assigned (h : TokenSlots p d rs cur q) (hp : p.Nodup) {k e : Nat} (hk : p[k]? = some e)
    (hrs : k ∉ rs) (hcur : k < cur) : e ∉ assignedExperts q := by
  intro he
  obtain ⟨x, hx, rfl⟩ := List.mem_map.1 he
  obtain ⟨hxq, hst⟩ := List.mem_filter.1 hx
  obtain ⟨j, hj, hpj⟩ := h.rank_of_assigned hxq (bne_iff_ne.1 hst)
  obtain rfl : k = j := (List.getElem?_inj (List.getElem?_eq_some_iff.1 hk).1 hp).1 (hk.trans hpj.symm)
  obtain hj | hj := hj
  · exact hrs hj
  · omega

/-- No expert is given twice: a slot's rank is its own or one that the cursor passes with it, so it is none of a later slot. -/
theorem TokenSlots.assigned_nodup (h : TokenSlots p d rs cur q) (hp : p.Nodup) (hrs : rs.Nodup) (hcur : ∀ r ∈ rs, r < cur) :
    (assignedExperts q).Nodup := by
  induction h with
  | nil => exact .nil
  | primary hr hq ih =>
    obtain ⟨hnot, hrs⟩ := List.nodup_cons.1 hrs
    obtain ⟨hlt, hcur⟩ := List.forall_mem_cons.1 hcur
    exact List.nodup_cons.2 ⟨hq.notMem_assigned hp hr hnot hlt, ih hrs hcur⟩
  | fallback hle _ hi hq ih =>
    obtain ⟨-, hrs⟩ := List.nodup_cons.1 hrs
    obtain ⟨-, hcur⟩ := List.forall_mem_cons.1 hcur
    have hrest : ∀ r ∈ _, r < _ + 1 := fun r hr => Nat.lt_succ_of_lt (Nat.lt_of_lt_of_le (hcur r hr) hle)
    have hnot := hq.notMem_assigned hp hi (fun hmem => Nat.not_lt.2 hle (hcur _ hmem)) (Nat.lt_succ_self _)
    exact List.nodup_cons.2 ⟨hnot, ih hrs hrest⟩
  | shed hle _ ih =>
    obtain ⟨-, hrs⟩ := List.nodup_cons.1 hrs
    obtain ⟨-, hcur⟩ := List.forall_mem_cons.1 hcur
    exact ih hrs fun r hr => Nat.lt_of_lt_of_le (hcur r hr) hle

end

/-- Settles O53: the slots of a token by the ranks they take, the search by what it passes over, and the cursor by the equations
of one slot. -/
theorem fallbacksAreNeverPrimaries : Obligations.FallbacksAreNeverPrimaries := by
  refine ⟨fun ps ls cap n d k => ?_, fun room p d cur hcur => ?_, fun cap p d r cur rs n hfull => ?_⟩
  · have hp : (preference (eligible ps ls)).Nodup := preference_eligible_nodup ps ls
    have h := placeSlots_tokenSlots cap (preference (eligible ps ls)) d (List.range k) k n
    refine ⟨h.assigned_nodup hp List.nodup_range fun r hr => List.mem_range.1 hr, ?_, ?_, ?_⟩
    · intro x hx hst
      obtain ⟨j, hkj, hj⟩ := h.rank_of_fallback hx hst
      exact notMem_take_of_rank hp hkj hj
    · intro i x hx hst
      obtain ⟨r, hr, hpr⟩ := h.rank_of_primary hx hst
      obtain ⟨hi, rfl⟩ := List.getElem?_eq_some_iff.1 hr
      rwa [List.getElem_range] at hpr
    · rintro rfl x hx
      obtain hprimary | ⟨-, hd⟩ | hshed := h.status_cases hx
      · exact .inl hprimary
      · exact absurd hd (Nat.lt_irrefl 0)
      · exact .inr hshed
  · have hsearch := fallbackFor_search room p d cur
    dsimp only
    generalize fallbackFor room p d cur = f at hsearch ⊢
    cases hsearch with
    | found hle hlt hi hroom hpassed =>
      refine ⟨by omega, by omega, nofun, ?_⟩
      intro e he
      cases he
      exact ⟨hroom, by omega, hi, fun i x hi hlt => hpassed i x hi (Nat.lt_of_succ_lt_succ hlt)⟩
    | failed hstop hpassed =>
      exact ⟨by omega, by omega, fun _ => ⟨by omega, hpassed⟩, nofun⟩
  · dsimp only
    cases hf : fallbackFor (fun e => decide (tgetD n e 0 < cap e)) p d cur with
    | mk x cur' =>
      cases x with
      | some e => exact placeSlots_cons_fallback hfull hf
      | none => exact placeSlots_cons_shed hfull hf

end Sys2Proof.Machine
end

section
/-! The interleave of a wide band (R214). Every byte above the first of an offset takes part in its channel, so the bytes of a
granule share a channel; and in a block of 64 KiB the channel of granule `i` is `i` xored with the channel of the block. -/
namespace Sys2Proof.Machine

/-! ## Bit fields -/

/-- A bit field at `k` or above is a field of the number without its low `k` bits. -/
theorem bits_eq_of_div_eq {a b k lo : Nat} (w : Nat) (hk : k ≤ lo) (h : b / 2 ^ k = a / 2 ^ k) : bits b lo w = bits a lo w := by
  have hdiv (x : Nat) : x / 2 ^ lo = x / 2 ^ k / 2 ^ (lo - k) := by
    rw [Nat.div_div_eq_div_mul, ← Nat.pow_add, Nat.add_sub_cancel' hk]
  unfold bits
  rw [hdiv b, hdiv a, h]

/-! ## The channel -/

theorem wideMap_channel (a : Nat) : (wideMap a).1 = bits a 8 8 ^^^ bits a 16 8 ^^^ bits a 24 8 ^^^ bits a 32 8 := rfl

theorem wideMap_channel_lt (a : Nat) : (wideMap a).1 < 256 :=
  Nat.xor_lt_two_pow (n := 8)
    (Nat.xor_lt_two_pow (Nat.xor_lt_two_pow (bits_lt a 8 8) (bits_lt a 16 8)) (bits_lt a 24 8)) (bits_lt a 32 8)

theorem wideMap_channel_eq_of_granule {a b : Nat} (h : b / 256 = a / 256) : (wideMap b).1 = (wideMap a).1 := by
  have hfield (lo : Nat) (hlo : 8 ≤ lo) : bits b lo 8 = bits a lo 8 := bits_eq_of_div_eq 8 hlo h
  rw [wideMap_channel, wideMap_channel, hfield 8 (by omega), hfield 16 (by omega), hfield 24 (by omega), hfield 32 (by omega)]

/-- Within an aligned block of 64 KiB the granules' channels are their numbers, xored with the channel of the block. -/
theorem wideMap_channel_granule (k : Nat) {i : Nat} (hi : i < 256) :
    (wideMap (k * 65536 + 256 * i)).1 = i ^^^ (wideMap (k * 65536)).1 := by
  have hupper (lo : Nat) (hlo : 16 ≤ lo) : bits (k * 65536 + 256 * i) lo 8 = bits (k * 65536) lo 8 :=
    bits_eq_of_div_eq 8 hlo (by omega)
  have hnumber : bits (k * 65536 + 256 * i) 8 8 = i := by unfold bits; omega
  have hzero : bits (k * 65536) 8 8 = 0 := by unfold bits; omega
  rw [wideMap_channel, wideMap_channel, hnumber, hzero, hupper 16 (by omega), hupper 24 (by omega), hupper 32 (by omega),
    Nat.zero_xor]
  simp only [Nat.xor_assoc]

/-- The granules of a block of 64 KiB reach every channel: channel `ch` is that of granule `ch` xor the block's channel. -/
theorem exists_granule_of_wideMap_channel (k : Nat) {ch : Nat} (hch : ch < 256) :
    ∃ i, i < 256 ∧ (wideMap (k * 65536 + 256 * i)).1 = ch := by
  have hlt : ch ^^^ (wideMap (k * 65536)).1 < 256 := Nat.xor_lt_two_pow (n := 8) hch (wideMap_channel_lt _)
  exact ⟨_, hlt, by rw [wideMap_channel_granule k hlt, Nat.xor_assoc, Nat.xor_self, Nat.xor_zero]⟩

/-! ## The local offset -/

theorem wideMap_offset (a : Nat) : (wideMap a).2 = a / 2 ^ 16 * 256 + a % 256 := rfl

/-- A mast's offsets have 36 bits (R213). -/
theorem bits_top_of_lt_dramSize {a : Nat} (h : a < dramSize) : bits a 36 4 = 0 := by
  unfold dramSize at h
  unfold bits
  omega

/-- Bits 27 to 24 of the local offset are the number of the band. -/
theorem wideMap_offset_band {a : Nat} (h : a < dramSize) : (wideMap a).2 / 2 ^ 24 % 16 = a / 2 ^ 32 := by
  have hband : a / 2 ^ 32 < 16 := by unfold dramSize at h; omega
  have hoffset : (wideMap a).2 / 2 ^ 24 = a / 2 ^ 32 := by rw [wideMap_offset]; omega
  rw [hoffset, Nat.mod_eq_of_lt hband]

/-! ## The band's mode -/

theorem channelOf_of_wide {m : Mast} {a : Nat} (h : m.mc.band (a / 2 ^ 32) = 3) : m.channelOf a = wideMap a :=
  if_pos h

/-- Settles O55: the bytes of a granule agree in every field of the channel, and the xor carries a block's 256 granules onto the
256 channels. -/
theorem wideBandsSpreadTheirGranules : Obligations.WideBandsSpreadTheirGranules := by
  refine ⟨fun _ _ => channelOf_of_wide, fun a ha => ?_⟩
  exact ⟨wideMap_channel a, wideMap_offset a, bits_top_of_lt_dramSize ha, wideMap_offset_band ha,
    fun _ => wideMap_channel_eq_of_granule, fun _ => exists_granule_of_wideMap_channel (a / 65536)⟩

end Sys2Proof.Machine
end

section
/-! Operation bytes (R259), and what a completion notice carries and where it goes (R261, R268). -/
namespace Sys2Proof.Machine

/-! ## The opcodes of the command tables (R259, R265 check 6) -/

/-- The tables R272 to R282 give each opcode to one command. -/
theorem allCmds_opcode_nodup : (allCmds.map Cmd.opcode).Nodup := by decide

/-- The opcode tells the commands of the tables apart. -/
theorem eq_of_opcode_eq {j k : Cmd} (hj : j ∈ allCmds) (hk : k ∈ allCmds) (h : j.opcode = k.opcode) : j = k :=
  have hapart : allCmds.Pairwise fun j k => j.opcode ≠ k.opcode := List.pairwise_map.1 allCmds_opcode_nodup
  List.Pairwise.forall_of_forall_of_flip (R := fun j k : Cmd => j.opcode = k.opcode → j = k) (fun _ _ _ => rfl)
    (hapart.imp fun hne heq => absurd heq hne) (hapart.imp fun hne heq => absurd heq.symm hne) hj hk h

theorem allCmds_opcode_lt : ∀ k ∈ allCmds, k.opcode % 256 < 0x80 :=
  List.forall_mem_map.1 (by decide : ∀ n ∈ allCmds.map Cmd.opcode, n % 256 < 0x80)

/-- What is found under an opcode is a command of the tables with that opcode. -/
theorem mem_allCmds_of_cmdOf {opcode : Nat} {k : Cmd} (h : cmdOf opcode = some k) : k ∈ allCmds ∧ k.opcode = opcode :=
  ⟨List.mem_of_find?_eq_some h, by simpa only [beq_iff_eq] using List.find?_some h⟩

theorem cmdOf_opcode {k : Cmd} (hk : k ∈ allCmds) : cmdOf k.opcode = some k := by
  cases h : cmdOf k.opcode with
  | none => exact absurd (beq_self_eq_true k.opcode) (List.find?_eq_none.1 h k hk)
  | some j =>
    obtain ⟨hj, heq⟩ := mem_allCmds_of_cmdOf h
    exact congrArg some (eq_of_opcode_eq hj hk heq)

/-- No table defines an operation byte of 0x80 or above. -/
theorem cmdOf_eq_none_of_notice {opcode : Nat} (h : 0x80 ≤ opcode % 256) : cmdOf opcode = none := by
  refine Option.eq_none_iff_forall_ne_some.2 fun k hk => ?_
  obtain ⟨hmem, rfl⟩ := mem_allCmds_of_cmdOf hk
  exact Nat.not_lt.2 h (allCmds_opcode_lt k hmem)

theorem returnUnits_negotiated (s : State) (r : Req) : (s.returnUnits r).st.negotiated = s.st.negotiated := by
  unfold State.returnUnits
  rw [giveCredit_st, modChan_st]

/-- An undefined opcode that passes checks 1 to 5 is refused by check 6 of R265. -/
theorem examineOp_of_unknown {opcode : Nat} {r : Req} {s : State} (hop : cmdOf opcode = none)
    (hheader : headerCheck s.st.negotiated false r = none) :
    s.examineOp opcode r = (s.returnUnits r).refuseReq opcode r (refuse stUnknownOpcode 2) := by
  simp only [State.examineOp, hop, examineUnknown, returnUnits_negotiated, hheader]

/-! ## The packets of an answer (R258, R261) -/

theorem mem_pktsOf {kind opcode tag ctx channel : Nat} {silent keepTag : Bool} {a : Ans} {p : Pkt}
    (h : p ∈ pktsOf kind opcode tag ctx channel silent keepTag a) :
    p.kind = kind ∧ p.silent = silent ∧ p.opcode = opcode ∧ p.tag = tag ∧ p.ctx = ctx ∧ p.channel = channel ∧
      p.arg0 % 65536 = a.status % 65536 := by
  obtain ⟨e, -, rfl⟩ := List.mem_map.1 h
  exact ⟨rfl, rfl, rfl, rfl, rfl, rfl, Nat.add_mul_mod_self_right _ _ _⟩

/-! ## Unsolicited notices (R259, R283) -/

theorem Notice.packet_unsolicited (n : Notice) (ch dropped : Nat) :
    (n.packet ch dropped).kind = 2 ∧ (n.packet ch dropped).tag = 0 ∧ 0x80 ≤ (n.packet ch dropped).opcode % 256 := by
  cases n with
  | event => exact ⟨rfl, rfl, (by decide : 0x80 ≤ 0x0181 % 256)⟩
  | ctxTorn => exact ⟨rfl, rfl, (by decide : 0x80 ≤ 0x0281 % 256)⟩
  | portEvent => exact ⟨rfl, rfl, (by decide : 0x80 ≤ 0x0681 % 256)⟩

theorem Bundle.part_unsolicited (b : Bundle) (ctx ch i : Nat) :
    (b.part ctx ch i).kind = 2 ∧ (b.part ctx ch i).tag = 0 ∧ 0x80 ≤ (b.part ctx ch i).opcode % 256 :=
  ⟨rfl, rfl, (by decide : 0x80 ≤ 0x0581 % 256)⟩

/-! ## Completion notices (R261, R268) -/

/-- The completion notice of an accepted request. -/
def Outstanding.notice (o : Outstanding) (a : Ans) : List Pkt := pktsOf 2 o.opcode o.tag o.ctx o.ch false false a

/-- The completion notices of `os` join the queues of their channels, in order. -/
def State.notifyEach (s : State) (a : Ans) (os : List Outstanding) : State :=
  os.foldl (fun s o => s.queueAnswers o.ch (o.notice a)) s

/-- No request is kept as owing a completion for `w`. -/
def State.withoutOwed (s : State) (w : Owed) : State :=
  { s with st := { s.st with outstanding := s.st.outstanding.filter fun o => !(o.what == w) } }

theorem notMem_withoutOwed {s : State} {w : Owed} {o : Outstanding} (hw : o.what = w) :
    o ∉ (s.withoutOwed w).st.outstanding := by
  intro h
  have hother := (List.mem_filter.1 h).2
  rw [hw, beq_self_eq_true] at hother
  cases hother

/-- A completion takes the requests that it is owed to off the list, then gives the notice of each. -/
theorem complete_eq_notifyEach (s : State) (w : Owed) (a : Ans) :
    s.complete w a = (s.withoutOwed w).notifyEach a (s.st.outstanding.filter fun o => o.what == w) := rfl

theorem queueAnswers_outstanding (s : State) (c : Nat) (ps : List Pkt) :
    (s.queueAnswers c ps).st.outstanding = s.st.outstanding := by
  rw [queueAnswers_st]

theorem queueAnswers_keys {s : State} (c : Nat) (ps : List Pkt) (h : tkeys s.st.chans = List.range 8) :
    tkeys (s.queueAnswers c ps).st.chans = List.range 8 :=
  (State.queueAnswers_agree (M := [.hif, .st, .out]) (by decide) (Agree.refl _ s)).part .chanKeys (by decide) h

theorem notifyEach_outstanding (s : State) (a : Ans) (os : List Outstanding) :
    (s.notifyEach a os).st.outstanding = s.st.outstanding := by
  induction os generalizing s with
  | nil => rfl
  | cons o os ih => exact (ih _).trans (queueAnswers_outstanding _ _ _)

/-- Giving notices loses no answer that was queued before. -/
theorem notifyEach_said (s : State) (a : Ans) (os : List Outstanding) : Comp.same s (s.notifyEach a os) .said :=
  have h : Agree [.hif, .st, .out] s (s.notifyEach a os) :=
    Agree.foldl (Agree.refl _ s) fun _ _ => State.queueAnswers_agree (by decide)
  h.part .said (by decide)

/-- Every notice given waits on its channel or has gone out. -/
theorem notifyEach_given {s : State} {a : Ans} {os : List Outstanding} {o : Outstanding}
    (hkeys : tkeys s.st.chans = List.range 8) (ho : o ∈ os) (hch : o.ch < 8) {p : Pkt} (hp : p ∈ o.notice a) :
    p ∈ ((s.notifyEach a os).chan o.ch).answers ∨ Out.packet p ∈ (s.notifyEach a os).out := by
  induction os generalizing s with
  | nil => cases ho
  | cons x os ih =>
    obtain rfl | ho := List.mem_cons.1 ho
    · obtain ⟨-, hloud, -⟩ := mem_pktsOf hp
      have hloud : ¬p.silent = true := Bool.not_eq_true _ ▸ hloud
      have hsaid := notifyEach_said (s.queueAnswers o.ch (o.notice a)) a os
      obtain hwaits | hsent := (queueAnswers_said (tkeys_present hkeys hch) p hp).resolve_left hloud
      · exact (hsaid.2 o.ch p hwaits).resolve_left hloud
      · exact .inr (hsaid.1 _ hsent)
    · exact ih (queueAnswers_keys _ _ hkeys) ho

theorem complete_settled {s : State} {w : Owed} {a : Ans} {o : Outstanding} (hw : o.what = w) :
    o ∉ (s.complete w a).st.outstanding := by
  rw [complete_eq_notifyEach, notifyEach_outstanding]
  exact notMem_withoutOwed hw

theorem complete_given {s : State} {w : Owed} {a : Ans} {o : Outstanding} (hkeys : tkeys s.st.chans = List.range 8)
    (ho : o ∈ s.st.outstanding) (hw : o.what = w) (hch : o.ch < 8) {p : Pkt} (hp : p ∈ o.notice a) :
    p ∈ ((s.complete w a).chan o.ch).answers ∨ Out.packet p ∈ (s.complete w a).out := by
  have howed : o ∈ s.st.outstanding.filter fun o => o.what == w := List.mem_filter.2 ⟨ho, beq_iff_eq.2 hw⟩
  rw [complete_eq_notifyEach]
  exact notifyEach_given (s := s.withoutOwed w) hkeys howed hch hp

/-- Settles O45: the opcodes of the tables by their list, the packets by the fields they are built with, and a completion by
what becomes of the notices that it queues. -/
theorem operationBytesTellRequestsFromNotices : Obligations.OperationBytesTellRequestsFromNotices := by
  refine ⟨fun k hk => ⟨allCmds_opcode_lt k hk, cmdOf_opcode hk⟩, ?_, Notice.packet_unsolicited, Bundle.part_unsolicited, ?_, ?_, ?_⟩
  · intro opcode r d a p hp
    obtain ⟨hkind, -, hopcode, htag, -⟩ := mem_pktsOf hp
    exact ⟨hopcode, hkind, htag⟩
  · exact fun opcode r w s => ⟨_, List.mem_append_right _ (List.mem_singleton_self _), rfl, rfl, rfl, rfl, rfl⟩
  · intro s w a o hkeys ho hw hch
    refine ⟨complete_settled hw, fun p hp => ?_⟩
    obtain ⟨hkind, -, hopcode, htag, hctx, hchannel, hstatus⟩ := mem_pktsOf hp
    exact ⟨hkind, hopcode, htag, hctx, hchannel, hstatus, complete_given hkeys ho hw hch hp⟩
  · exact fun opcode r s hop hheader => examineOp_of_unknown (cmdOf_eq_none_of_notice hop) hheader

end Sys2Proof.Machine
end

section
/-! The applied level (R380): PWR_REEF_LIMIT takes every level as it is given, and the level wanted is the least upper
bound of the request and the targets that count. -/
namespace Sys2Proof.Machine

theorem writeReefLimit_reefLimit {l : Nat} (hl : l ≤ 4) (s : State) : (s.writeReefLimit l).pwr.reefLimit = l := by
  show min 4 (l % 8) = l
  omega

theorem retarget_target (s : State) :
    s.retarget.pwr.target = if s.levelWanted = s.pwr.applied then none else some s.levelWanted := rfl

/-- A context whose group target counts toward the applied level (R380). -/
def Ctx.HasReef (x : Ctx) : Prop := x.reefValid = true ∧ countsReef x.state = true

/-- The level wanted as a least upper bound, over every list of contexts and every level to begin with. -/
theorem foldl_reefTarget_le_iff (xs : Tab Ctx) (q n : Nat) :
    xs.foldl (fun a e => if e.2.reefValid && countsReef e.2.state then max a e.2.reefTarget else a) q ≤ n ↔
      q ≤ n ∧ ∀ e ∈ xs, e.2.HasReef → e.2.reefTarget ≤ n := by
  induction xs generalizing q with
  | nil => exact ⟨fun h => ⟨h, fun _ he => absurd he List.not_mem_nil⟩, fun h => h.1⟩
  | cons e xs ih =>
    rw [List.foldl_cons, ih, List.forall_mem_cons]
    have hcond : (e.2.reefValid && countsReef e.2.state) = true ↔ e.2.HasReef := Bool.and_eq_true_iff
    by_cases hreef : e.2.HasReef
    · have hstep : (if e.2.reefValid && countsReef e.2.state then max q e.2.reefTarget else q) = max q e.2.reefTarget :=
        if_pos (hcond.2 hreef)
      rw [hstep, Nat.max_le, and_assoc, forall_prop_of_true hreef]
    · have hstep : (if e.2.reefValid && countsReef e.2.state then max q e.2.reefTarget else q) = q :=
        if_neg (mt hcond.1 hreef)
      simp only [hstep, hreef, false_implies, true_and]

theorem levelWanted_le_iff {s : State} {n : Nat} :
    s.levelWanted ≤ n ↔ s.pwr.request ≤ n ∧ ∀ e ∈ s.ctxs, e.2.HasReef → e.2.reefTarget ≤ n :=
  foldl_reefTarget_le_iff s.ctxs s.pwr.request n

theorem request_le_levelWanted (s : State) : s.pwr.request ≤ s.levelWanted :=
  (levelWanted_le_iff.1 (Nat.le_refl _)).1

theorem reefTarget_le_levelWanted {s : State} {e : Nat × Ctx} (he : e ∈ s.ctxs) (hreef : e.2.HasReef) :
    e.2.reefTarget ≤ s.levelWanted :=
  (levelWanted_le_iff.1 (Nat.le_refl _)).2 e he hreef

theorem levelWanted_eq_request {s : State} (hnone : ∀ e ∈ s.ctxs, ¬ e.2.HasReef) : s.levelWanted = s.pwr.request :=
  Nat.le_antisymm (levelWanted_le_iff.2 ⟨Nat.le_refl _, fun e he hreef => absurd hreef (hnone e he)⟩) (request_le_levelWanted s)

/-- Were the level wanted neither the request nor a target that counts, the level below it would bound them all. -/
theorem levelWanted_attained (s : State) :
    s.levelWanted = s.pwr.request ∨ ∃ e ∈ s.ctxs, e.2.HasReef ∧ e.2.reefTarget = s.levelWanted := by
  refine Classical.byContradiction fun h => ?_
  have hpos : s.pwr.request < s.levelWanted :=
    Nat.lt_of_le_of_ne (request_le_levelWanted s) fun hrequest => h (.inl hrequest.symm)
  have hbelow : s.levelWanted ≤ s.levelWanted - 1 :=
    levelWanted_le_iff.2 ⟨Nat.le_pred_of_lt hpos, fun e he hreef =>
      Nat.le_pred_of_lt
        (Nat.lt_of_le_of_ne (reefTarget_le_levelWanted he hreef) fun htarget => h (.inr ⟨e, he, hreef, htarget⟩))⟩
  omega

/-- Settles O48: the level wanted is the least upper bound of the request and the targets that count, and one of them. -/
theorem appliedLevelIsTheLargest : Obligations.AppliedLevelIsTheLargest :=
  ⟨fun _ => ⟨rfl, rfl⟩, fun s _ hl => writeReefLimit_reefLimit hl s, fun s =>
    ⟨request_le_levelWanted s, fun _ he hreef => reefTarget_le_levelWanted he hreef, levelWanted_attained s,
      levelWanted_eq_request, retarget_target s⟩⟩

end Sys2Proof.Machine
end

section
/-! Which records are written to the event log (R409), and what the log does with a record that is offered to it: it is
written into an erased place, joins the queue of 64, or is not logged (R417). -/
namespace Sys2Proof.Machine

/-! ## The records that are logged (R409) -/

/-- The causes of R409: BROWNOUT, MAST_FENCED_BIST, ROW_REPAIR, CABLE_SWAP, MIRROR_LOST, WIDEN_STORM, THERM_OVER_RANGE. -/
theorem alwaysLogged_iff {cause : Nat} :
    alwaysLogged cause = true ↔ cause = 0x0201 ∨ cause = 0x1501 ∨ cause = 0x1308 ∨ cause = 0x0601 ∨ cause = 0x0401 ∨
      cause = 0x1403 ∨ cause = 0x0208 := by
  simp only [alwaysLogged, List.contains_iff_mem, List.mem_cons, List.not_mem_nil, or_false]

theorem Faults.logs_iff {f : Faults} {r : Record} :
    f.logs r = true ↔ r.cls ≠ clsCE ∨ f.logCe = true ∨ alwaysLogged r.cause = true := by
  rw [Faults.logs, Bool.or_eq_true_iff, Bool.or_eq_true_iff, bne_iff_ne, or_assoc, or_comm (b := f.logCe = true)]

/-! ## The erased places (R417) -/

/-- Sixteen of the erased places are kept from every record but FT and BROWNOUT ones. -/
theorem urgent_iff {r : Record} : urgent r = true ↔ r.cls = clsFT ∨ r.cause = 0x0201 := by
  rw [urgent, Bool.or_eq_true_iff, beq_iff_eq, beq_iff_eq]

theorem Faults.finds_iff {f : Faults} {r : Record} :
    f.finds r = true ↔
      f.logWrites.length + (if r.cls = clsFT ∨ r.cause = 0x0201 then 0 else 16) < erasedPlaces f.sectors := by
  simp only [Faults.finds, decide_eq_true_iff, urgent_iff]

/-! ## What the log does with a record (R417) -/

/-- The record with the LOG_INDEX that the log gives next (log entry 46). -/
def Faults.numbered (f : Faults) (r : Record) : Record := { r with logIndex := some f.logNext }

theorem Faults.logOffer_of_not_logs {f : Faults} {r : Record} (h : f.logs r = false) : f.logOffer r = (f, r) := by
  rw [Faults.logOffer, h]
  rfl

theorem Faults.logOffer_of_finds {f : Faults} {r : Record} (hlogs : f.logs r = true) (hfinds : f.finds r = true) :
    f.logOffer r =
      ({ f with logNext := (f.logNext + 1) % 2 ^ 32, logWrites := f.logWrites ++ [f.numbered r] }, f.numbered r) := by
  rw [Faults.logOffer, hlogs, hfinds]
  rfl

theorem Faults.logOffer_of_waits {f : Faults} {r : Record} (hlogs : f.logs r = true) (hfinds : f.finds r = false)
    (hroom : f.logQueue.length < 64) :
    f.logOffer r =
      ({ f with logNext := (f.logNext + 1) % 2 ^ 32, logQueue := f.logQueue ++ [f.numbered r] }, f.numbered r) := by
  rw [Faults.logOffer, hlogs, hfinds]
  exact if_pos hroom

/-- A record that finds the queue full keeps no LOG_INDEX, and LOG_FULL_SEEN is set. -/
theorem Faults.logOffer_of_queue_full {f : Faults} {r : Record} (hlogs : f.logs r = true) (hfinds : f.finds r = false)
    (hfull : 64 ≤ f.logQueue.length) : f.logOffer r = ({ f with err := f.err ||| 0x20 }, r) := by
  rw [Faults.logOffer, hlogs, hfinds]
  exact if_neg (Nat.not_lt.2 hfull)

/-- Settles O46: the records of R409, the places of R417, and the four things that can become of a record. -/
theorem recordsThatAreLogged : Obligations.RecordsThatAreLogged := by
  intro f r _
  refine ⟨?_, fun hlogs => ⟨fun hfinds => ?_, fun hfinds hroom => ?_, fun hfinds hfull => ?_⟩, Faults.finds_iff,
    Faults.logOffer_of_not_logs⟩
  · rw [Faults.logs_iff, alwaysLogged_iff]
  · rw [Faults.logOffer_of_finds hlogs hfinds]
    exact ⟨rfl, rfl, rfl⟩
  · rw [Faults.logOffer_of_waits hlogs hfinds hroom]
    exact ⟨rfl, rfl, rfl⟩
  · rw [Faults.logOffer_of_queue_full hlogs hfinds hfull]
    exact ⟨rfl, rfl⟩

end Sys2Proof.Machine
end

section
/-! The frame of every command (O40), and what follows from it for the whole machine: the invariant is kept by every step
(O42), and what only a power cycle ends (O43). -/
namespace Sys2Proof.Machine

/-! ## The frame -/

/-- Settles O40: each command by the frame of its own meaning. -/
theorem commandsChangeOnlyWhatTheyTouch : Obligations.CommandsChangeOnlyWhatTheyTouch := by
  intro c s t h
  cases c with
  | hello _ => exact execHello_agree h
  | devConfig _ => exact execDevConfig_agree h
  | mark _ => exact execMark_agree h
  | echo _ => exact execEcho_agree h
  | regRead _ => exact execRegRead_agree h
  | regWrite _ => exact execRegWrite_agree h
  | registerWrite _ _ => exact execRegisterWrite_agree h
  | ctxCreate _ => exact execCtxCreate_agree h
  | ctxUnfurl _ => exact execCtxUnfurl_agree h
  | unfurlComplete _ => exact execUnfurlComplete_agree h
  | ctxFurl _ => exact execCtxFurl_agree h
  | furlWithdrawLimit _ => exact execFurlWithdrawLimit_agree h
  | furlComplete _ => exact execFurlComplete_agree h
  | ctxDestroy _ => exact execCtxDestroy_agree h
  | ctxQuery _ => exact execCtxQuery_agree h
  | ctxPriority _ => exact execCtxPriority_agree h
  | memGrant _ => exact execMemGrant_agree h
  | memRelease _ => exact execMemRelease_agree h
  | memReleaseZeroed _ _ _ => exact execMemReleaseZeroed_agree h
  | memWrite _ => exact execMemWrite_agree h
  | memRead _ => exact execMemRead_agree h
  | shardLoad _ => exact execShardLoad_agree h
  | shardDrop _ => exact execShardDrop_agree h
  | shardQuery _ => exact execShardQuery_agree h
  | progLoad _ => exact execProgLoad_agree h
  | progCheckComplete _ => exact execProgCheckComplete_agree h
  | progQuery _ => exact execProgQuery_agree h
  | reqSubmit _ => exact execReqSubmit_agree h
  | reqCancel _ => exact execReqCancel_agree h
  | reqPark _ => exact execReqPark_agree h
  | reqResume _ => exact execReqResume_agree h
  | reqRelease _ => exact execReqRelease_agree h
  | sessionOpen _ => exact execSessionOpen_agree h
  | sessionClose _ => exact execSessionClose_agree h
  | sessionShare _ => exact execSessionShare_agree h
  | sessionTruncate _ => exact execSessionTruncate_agree h
  | sessionGlobals _ => exact execSessionGlobals_agree h
  | sessionQuery _ => exact execSessionQuery_agree h
  | kvExport _ => exact execKvExport_agree h
  | mirrorSet _ => exact execMirrorSet_agree h
  | mirrorPromote _ => exact execMirrorPromote_agree h
  | serveConfig _ => exact execServeConfig_agree h
  | linkTrain _ => exact execLinkTrain_agree h
  | linkStop _ => exact execLinkStop_agree h
  | planLoad _ => exact execPlanLoad_agree h
  | partitionSet _ => exact execPartitionSet_agree h
  | windowMap _ => exact execWindowMap_agree h
  | groupLoad _ => exact execGroupLoad_agree h
  | groupUnload _ => exact execGroupUnload_agree h
  | capSet _ => exact execCapSet_agree h
  | powerHint _ => exact execPowerHint_agree h
  | reefLimit _ => exact execReefLimit_agree h
  | coolResume _ => exact execCoolResume_agree h
  | ctrRead _ => exact execCtrRead_agree h
  | ctrProgram _ => exact execCtrProgram_agree h
  | ctrGrant _ => exact execCtrGrant_agree h
  | telemetry _ => exact execTelemetry_agree h
  | attest _ => exact execAttest_agree h
  | attestReportComplete => exact execAttestReportComplete_agree h
  | certRead _ => exact execCertRead_agree h
  | linkKey _ => exact execLinkKey_agree h
  | svnCommit _ => exact execSvnCommit_agree h
  | fuseProgrammed => exact execFuseProgrammed_agree h
  | scrubChunk _ => exact execScrubChunk_agree h
  | digestRecheck _ => exact execDigestRecheck_agree h
  | retrain _ => exact execRetrain_agree h
  | refreshMode _ => exact execRefreshMode_agree h
  | logCompact _ => exact execLogCompact_agree h
  | maintQuery _ => exact execMaintQuery_agree h
  | logRead _ => exact execLogRead_agree h
  | scrubSchedule => exact execScrubSchedule_agree h
  | scrubChunkComplete _ => exact execScrubChunkComplete_agree h
  | recheckSchedule => exact execRecheckSchedule_agree h
  | recheckComplete => exact execRecheckComplete_agree h
  | refreshModeComplete => exact execRefreshModeComplete_agree h
  | logCompactAuto => exact execLogCompactAuto_agree h
  | logCompactComplete => exact execLogCompactComplete_agree h
  | logRecordWritten => exact execLogRecordWritten_agree h
  | eventNoticeSend => exact execEventNoticeSend_agree h
  | answerSend _ => exact execAnswerSend_agree h
  | heartbeat => exact execHeartbeat_agree h
  | telemetryGet => exact execTelemetryGet_agree h
  | capSetMgmt _ => exact execCapSetMgmt_agree h
  | identGet => exact execIdentGet_agree h
  | attestGet _ _ => exact execAttestGet_agree h
  | certGet _ _ => exact execCertGet_agree h
  | heartbeatLost => exact execHeartbeatLost_agree h
  | pwrCapWrite _ => exact execPwrCapWrite_agree h
  | mcBandWrite _ _ _ => exact execMcBandWrite_agree h
  | bandChangeComplete _ _ => exact execBandChangeComplete_agree h
  | nlcDeadClear _ _ => exact execNlcDeadClear_agree h
  | hifFlush => exact execHifFlush_agree h
  | hifRetry _ => exact execHifRetry_agree h
  | ttClear _ _ _ => exact execTtClear_agree h
  | ttPin _ _ _ => exact execTtPin_agree h
  | pmcCompatWrite _ => exact execPmcCompatWrite_agree h
  | cnTimeLoRead => exact execCnTimeLoRead_agree h
  | sbMemRead _ => exact execSbMemRead_agree h
  | sbMemWrite _ _ => exact execSbMemWrite_agree h
  | fwChunk _ _ => exact execFwChunk_agree h
  | fwDone _ => exact execFwDone_agree h
  | fwVerify => exact execFwVerify_agree h
  | aliasRsaReady => exact execAliasRsaReady_agree h
  | flitReceive _ _ => exact execFlitReceive_agree h
  | flitAckTimeout _ => exact execFlitAckTimeout_agree h
  | moduleRetrainComplete _ _ _ _ => exact execModuleRetrainComplete_agree h
  | resumeFlitReceive _ _ => exact execResumeFlitReceive_agree h
  | channelRebindHome _ => exact execChannelRebindHome_agree h
  | stepBoundary _ => exact execStepBoundary_agree h
  | deadlineDue _ => exact execDeadlineDue_agree h
  | sampling _ _ => exact execSampling_agree h
  | mirrorAckReceive _ _ _ _ => exact execMirrorAckReceive_agree h
  | mirrorTimeout _ => exact execMirrorTimeout_agree h
  | bundleTransmit _ => exact execBundleTransmit_agree h
  | exportHeaderReceive _ => exact execExportHeaderReceive_agree h
  | exportPageReceive _ => exact execExportPageReceive_agree h
  | exportPageAckReceive _ _ _ => exact execExportPageAckReceive_agree h
  | exportPageTimeout _ _ => exact execExportPageTimeout_agree h
  | groupedCall _ _ _ _ _ => exact execGroupedCall_agree h
  | groupedCallComplete _ _ => exact execGroupedCallComplete_agree h
  | ttCompare _ => exact execTtCompare_agree h
  | routingCall _ _ _ => exact execRoutingCall_agree h
  | intakeCall _ _ _ => exact execIntakeCall_agree h
  | combineCall _ _ _ => exact execCombineCall_agree h
  | attentionCall _ _ _ _ _ => exact execAttentionCall_agree h
  | sealImageBuild _ => exact execSealImageBuild_agree h
  | sealImageComplete _ => exact execSealImageComplete_agree h
  | fabricCopyCall _ _ _ => exact execFabricCopyCall_agree h
  | counterReadCall _ _ _ => exact execCounterReadCall_agree h
  | collectiveCall _ _ _ => exact execCollectiveCall_agree h
  | colDataReceive _ => exact execColDataReceive_agree h
  | colAckReceive _ => exact execColAckReceive_agree h
  | colAckSend _ _ _ => exact execColAckSend_agree h
  | colEndReceive _ => exact execColEndReceive_agree h
  | colAbortReceive _ => exact execColAbortReceive_agree h
  | colWithdrawReceive _ => exact execColWithdrawReceive_agree h
  | colSwRefuseReceive _ => exact execColSwRefuseReceive_agree h
  | colSwEvictReceive _ => exact execColSwEvictReceive_agree h
  | colChunkTimeout _ _ _ _ => exact execColChunkTimeout_agree h
  | colRetryResend _ _ _ _ => exact execColRetryResend_agree h
  | colTimeout _ _ => exact execColTimeout_agree h
  | cleatReached _ _ _ => exact execCleatReached_agree h
  | spillComplete _ => exact execSpillComplete_agree h
  | restoreComplete _ => exact execRestoreComplete_agree h
  | shardChunkHashed _ => exact execShardChunkHashed_agree h
  | residualScanComplete _ => exact execResidualScanComplete_agree h
  | shardLoadTimeout _ => exact execShardLoadTimeout_agree h
  | portTrained _ _ => exact execPortTrained_agree h
  | identReceive _ _ => exact execIdentReceive_agree h
  | linkFrameReceive _ _ => exact execLinkFrameReceive_agree h
  | linkAckTimeout _ => exact execLinkAckTimeout_agree h
  | portRetrainComplete _ _ => exact execPortRetrainComplete_agree h
  | keysyncReceive _ => exact execKeysyncReceive_agree h
  | nlcKeyExhausted _ => exact execNlcKeyExhausted_agree h
  | nlcReadReceive _ => exact execNlcReadReceive_agree h
  | nlcWriteReceive _ => exact execNlcWriteReceive_agree h
  | nlcReadDataReceive _ => exact execNlcReadDataReceive_agree h
  | nlcWriteAckReceive _ => exact execNlcWriteAckReceive_agree h
  | fabricRequestTimeout _ => exact execFabricRequestTimeout_agree h
  | fabricRetryResend _ => exact execFabricRetryResend_agree h
  | inputValid => exact execInputValid_agree h
  | brownout => exact execBrownout_agree h
  | brownoutEnd => exact execBrownoutEnd_agree h
  | inputShutdown => exact execInputShutdown_agree h
  | overVoltage => exact execOverVoltage_agree h
  | pllUnlock => exact execPllUnlock_agree h
  | watchdog => exact execWatchdog_agree h
  | wireBroken _ => exact execWireBroken_agree h
  | governorPeriod => exact execGovernorPeriod_agree h
  | powerSample _ => exact execPowerSample_agree h
  | fastLimiter _ => exact execFastLimiter_agree h
  | powerHintPosition => exact execPowerHintPosition_agree h
  | reefSwitch => exact execReefSwitch_agree h
  | droopTrip _ => exact execDroopTrip_agree h
  | droopClear _ _ => exact execDroopClear_agree h
  | tjHot _ _ => exact execTjHot_agree h
  | thermLevelRise _ => exact execThermLevelRise_agree h
  | tjCool _ => exact execTjCool_agree h
  | thermLevelFall _ => exact execThermLevelFall_agree h
  | thermOverRange _ => exact execThermOverRange_agree h
  | thermTrip _ _ => exact execThermTrip_agree h
  | dramTempHigh _ => exact execDramTempHigh_agree h
  | dramTempNormal _ => exact execDramTempNormal_agree h
  | coolflowLost => exact execCoolflowLost_agree h
  | coolflowPresent => exact execCoolflowPresent_agree h
  | coolflowWire => exact execCoolflowWire_agree h
  | spadPatrol _ _ => exact execSpadPatrol_agree h
  | contentionWindow _ _ => exact execContentionWindow_agree h
  | powerupCrowsNest => exact execPowerupCrowsNest_agree h
  | powerupHubRails => exact execPowerupHubRails_agree h
  | powerupBootRom => exact execPowerupBootRom_agree h
  | powerupMastRails => exact execPowerupMastRails_agree h
  | calibration _ => exact execCalibration_agree h
  | powerupReady => exact execPowerupReady_agree h
  | powerupHoldExpire => exact execPowerupHoldExpire_agree h
  | hdPwrokFall => exact execHdPwrokFall_agree h
  | hdPwrokRise => exact execHdPwrokRise_agree h
  | hostResetRelease => exact execHostResetRelease_agree h
  | vectorUnitOperation _ _ _ _ _ => exact execVectorUnitOperation_agree h
  | ucieModuleTrained _ _ _ _ => exact execUcieModuleTrained_agree h
  | linkTrainComplete => exact execLinkTrainComplete_agree h
  | fastLimiterRelease => exact execFastLimiterRelease_agree h
  | powerHintEnd => exact execPowerHintEnd_agree h
  | switchWindowEnd => exact execSwitchWindowEnd_agree h
  | crowsNestUnpowered => exact execCrowsNestUnpowered_agree h
  | contextZeroingEnd _ => exact execContextZeroingEnd_agree h

/-! ## The invariant -/

/-- The promises that the invariant is made of: an operation that names none of them keeps it. -/
def invParts : List Comp := [.mastKeys, .chanKeys, .modKeys, .portKeys, .mem, .caps]

theorem State.Inv.agree {M : List Comp} {s t : State} (hs : s.Inv) (h : Agree M s t) (hM : ∀ c ∈ invParts, c ∉ M) :
    t.Inv where
  masts := h.part .mastKeys (hM _ (by decide)) hs.masts
  chans := h.part .chanKeys (hM _ (by decide)) hs.chans
  mods := h.part .modKeys (hM _ (by decide)) hs.mods
  ports := h.part .portKeys (hM _ (by decide)) hs.ports
  mem := h.part .mem (hM _ (by decide)) hs.mem
  caps := h.part .caps (hM _ (by decide)) hs.caps

/-- No command is allowed to break the invariant. -/
theorem invParts_untouched (c : Instr) : ∀ p ∈ invParts, p ∉ touches c := by
  cases c <;> exact of_decide_eq_true rfl

/-- The invariant does not speak of the queue. -/
theorem State.Inv.withPending {s : State} (hs : s.Inv) (cs : List Instr) : State.Inv { s with pending := cs } :=
  ⟨hs.masts, hs.chans, hs.mods, hs.ports, hs.mem, hs.caps⟩

theorem State.Inv.tick {s : State} (hs : s.Inv) : (tick s).Inv :=
  hs.agree (tick_agree (M := [.time, .pwr, .flt, .hif, .st, .masts, .ctxs, .reqs, .sess, .srvErr, .exports, .nextExp, .hal, .nlc,
    .col, .pmc, .out, .free, .cells, .cn, .btb, .srvSel, .zeroing]) (by decide) (Agree.refl _ s)) (by decide)

theorem State.Inv.exec {c : Instr} {s t : State} (hs : s.Inv) (h : exec c s = .next t) : t.Inv :=
  hs.agree (commandsChangeOnlyWhatTheyTouch c s t h) (invParts_untouched c)

/-- Settles O42: a step is a tick of the clock or the command at the front of the queue, and the frame of both keeps every promise
of the invariant. -/
theorem invariantIsKept : Obligations.InvariantIsKept := by
  intro s t hs h
  unfold step at h
  split at h
  · cases h
    exact hs.tick
  · exact (hs.withPending _).exec h

/-- Settles O41, by evaluation of the reset state. -/
theorem invariantHoldsAtReset : Obligations.InvariantHoldsAtReset := by
  refine ⟨⟨rfl, rfl, rfl, rfl, ?_, ?_⟩, rfl, rfl, rfl, rfl⟩
  · unfold State.memOk Mast.memOk
    decide
  · unfold Power.capsOk capRange
    decide

/-! ## What only a power cycle ends -/

theorem svn_untouched (c : Instr) : Comp.svn ∉ touches c := by
  cases c <;> exact of_decide_eq_true rfl

theorem fatal_touched {c : Instr} (h : Comp.fatal ∈ touches c) : c = .inputValid ∨ c = .powerupHoldExpire := by
  cases c with
  | inputValid => exact .inl rfl
  | powerupHoldExpire => exact .inr rfl
  | _ => exact absurd h (of_decide_eq_true rfl)

theorem fenced_touched {c : Instr} (h : Comp.fenced ∈ touches c) : c = .inputShutdown ∨ c = .crowsNestUnpowered := by
  cases c with
  | inputShutdown => exact .inl rfl
  | crowsNestUnpowered => exact .inr rfl
  | _ => exact absurd h (of_decide_eq_true rfl)

/-- Settles O43: of all commands only those named may touch the promise in question. -/
theorem whatOnlyAPowerCycleEnds : Obligations.WhatOnlyAPowerCycleEnds := by
  intro c s t h
  have frame := commandsChangeOnlyWhatTheyTouch c s t h
  refine ⟨frame.part .svn (svn_untouched c), fun hfatal => ?_, fun n hfenced => ?_⟩
  · by_cases hc : Comp.fatal ∈ touches c
    · exact .inr (fatal_touched hc)
    · exact .inl (frame.part .fatal hc hfatal)
  · by_cases hc : Comp.fenced ∈ touches c
    · exact .inr (fenced_touched hc)
    · exact .inl (frame.part .fenced hc n hfenced)

/-! ## A step -/

/-- Settles O37: the front of the queue is what `step` matches on. -/
theorem stepRunsTheFrontCommand : Obligations.StepRunsTheFrontCommand := fun _ _ => rfl

theorem microsecond_time (s : State) :
    s.microsecond.time = if s.cn.powered = true then (s.time + 1) % 2 ^ 64 else s.time := by
  unfold State.microsecond
  split <;> rfl

/-- Of a tick, only the microsecond itself moves the time. -/
theorem tick_time (s : State) : (tick s).time = s.microsecond.time := by
  have cycles : s.microsecond.cycles.time = s.microsecond.time :=
    (State.cycles_agree (M := [.masts, .pmc, .free]) (by decide) (Agree.refl _ s.microsecond)).part .time (by decide)
  unfold tick State.whenAlive
  dsimp only
  split
  · have drained := State.drainAll_agree (M := [.pwr, .flt, .hif, .st, .masts, .ctxs, .reqs, .sess, .srvErr, .exports, .nextExp,
      .hal, .nlc, .col, .pmc, .out, .free, .cells, .cn, .btb, .srvSel, .zeroing]) (by decide)
      (Agree.refl _ s.microsecond.cycles)
    exact ((State.idleAll_agree (by decide) drained).part .time (by decide)).trans cycles
  · exact cycles

/-- Settles O38: with no command a step is a tick of the clock. -/
theorem anEmptyQueueLetsTimePass : Obligations.AnEmptyQueueLetsTimePass := by
  intro s hempty
  refine ⟨tick s, ?_, hempty, ?_⟩
  · unfold step
    rw [hempty]
  · rw [tick_time, microsecond_time]

end Sys2Proof.Machine
end

section
/-! Every command goes on, but for one that names a unit the package does not have (O39). -/
namespace Sys2Proof.Machine

/-- The outcome goes on where `b` holds, and is the fault of an absent unit where it does not. -/
def FaultsUnless (b : Bool) (o : Host.Outcome State Fault Refusal) : Prop :=
  (b = true → ∃ t, o = .next t) ∧ (b = false → o = .fault .noSuchUnit)

theorem faultsUnless_settle (s t : State) : FaultsUnless true (settle s t) :=
  ⟨fun _ => ⟨_, rfl⟩, nofun⟩

/-- A meaning that is held to a range of units. -/
theorem faultsUnless_range (p : Prop) [Decidable p] (s t : State) :
    FaultsUnless (decide p) (if p then settle s t else .fault .noSuchUnit) :=
  ⟨fun h => ⟨_, if_pos (of_decide_eq_true h)⟩, fun h => if_neg (of_decide_eq_false h)⟩

theorem faultsUnless_onMast (n : Nat) (s t : State) : FaultsUnless (decide (n < 8)) (onMast n s t) :=
  faultsUnless_range _ s t

theorem faultsUnless_onPort (p : Nat) (s t : State) : FaultsUnless (decide (p < 42)) (onPort p s t) :=
  faultsUnless_range _ s t

theorem faultsUnless_onModule (m : Nat) (s t : State) : FaultsUnless (decide (m < 4)) (onModule m s t) :=
  faultsUnless_range _ s t

theorem faultsUnless_onChannel (c : Nat) (s t : State) : FaultsUnless (decide (c < 8)) (onChannel c s t) :=
  faultsUnless_range _ s t

theorem faultsUnless_stauc (k : Cmd) (r : Req) (s : State) : FaultsUnless (decide (r.flitCh < 8)) (stauc k r s) :=
  faultsUnless_onChannel _ _ _

/-- Settles O39: each command by the kind of unit that its meaning is held to. -/
theorem everyCommandGoesOn : Obligations.EveryCommandGoesOn := by
  intro c s
  change FaultsUnless (unitOk c) (exec c s)
  cases c with
  | hello _ | devConfig _ | mark _ | echo _ | regRead _ | regWrite _ | ctxCreate _ | ctxUnfurl _ | ctxFurl _ | ctxDestroy _
  | ctxQuery _ | ctxPriority _ | memGrant _ | memRelease _ | memWrite _ | memRead _ | shardLoad _ | shardDrop _ | shardQuery _
  | progLoad _ | progQuery _ | reqSubmit _ | reqCancel _ | reqPark _ | reqResume _ | reqRelease _ | sessionOpen _
  | sessionClose _ | sessionShare _ | sessionTruncate _ | sessionGlobals _ | sessionQuery _ | kvExport _ | mirrorSet _
  | mirrorPromote _ | serveConfig _ | linkTrain _ | linkStop _ | planLoad _ | partitionSet _ | windowMap _ | groupLoad _
  | groupUnload _ | capSet _ | powerHint _ | reefLimit _ | coolResume _ | ctrRead _ | ctrProgram _ | ctrGrant _ | telemetry _
  | attest _ | certRead _ | linkKey _ | svnCommit _ | scrubChunk _ | digestRecheck _ | retrain _ | refreshMode _ | logCompact _
  | maintQuery _ | logRead _ =>
    exact faultsUnless_stauc _ _ _
  | memReleaseZeroed _ _ _ | mcBandWrite _ _ _ | bandChangeComplete _ _ | ttClear _ _ _ | ttPin _ _ _ | groupedCall _ _ _ _ _
  | groupedCallComplete _ _ | ttCompare _ | routingCall _ _ _ | intakeCall _ _ _ | combineCall _ _ _ | attentionCall _ _ _ _ _
  | sealImageBuild _ | sealImageComplete _ | fabricCopyCall _ _ _ | counterReadCall _ _ _ | collectiveCall _ _ _
  | colAckSend _ _ _ | colChunkTimeout _ _ _ _ | colRetryResend _ _ _ _ | colTimeout _ _ | cleatReached _ _ _ | spillComplete _
  | restoreComplete _ | droopTrip _ | droopClear _ _ | dramTempHigh _ | dramTempNormal _ | spadPatrol _ _
  | contentionWindow _ _ | vectorUnitOperation _ _ _ _ _ =>
    exact faultsUnless_onMast _ _ _
  | colDataReceive _ | colAckReceive _ | colEndReceive _ | colAbortReceive _ | colWithdrawReceive _ | colSwRefuseReceive _
  | colSwEvictReceive _ | portTrained _ _ | identReceive _ _ | linkFrameReceive _ _ | linkAckTimeout _
  | portRetrainComplete _ _ | keysyncReceive _ | nlcKeyExhausted _ | nlcReadReceive _ | nlcWriteReceive _
  | nlcReadDataReceive _ | nlcWriteAckReceive _ =>
    exact faultsUnless_onPort _ _ _
  | flitReceive _ _ | flitAckTimeout _ | moduleRetrainComplete _ _ _ _ | resumeFlitReceive _ _ | ucieModuleTrained _ _ _ _ =>
    exact faultsUnless_onModule _ _ _
  | answerSend _ | channelRebindHome _ =>
    exact faultsUnless_onChannel _ _ _
  | registerWrite _ _ | unfurlComplete _ | furlWithdrawLimit _ | furlComplete _ | progCheckComplete _ | attestReportComplete
  | fuseProgrammed | scrubSchedule | scrubChunkComplete _ | recheckSchedule | recheckComplete | refreshModeComplete
  | logCompactAuto | logCompactComplete | logRecordWritten | eventNoticeSend | heartbeat | telemetryGet | capSetMgmt _
  | identGet | attestGet _ _ | certGet _ _ | heartbeatLost | pwrCapWrite _ | nlcDeadClear _ _ | hifFlush | hifRetry _
  | pmcCompatWrite _ | cnTimeLoRead | sbMemRead _ | sbMemWrite _ _ | fwChunk _ _ | fwDone _ | fwVerify | aliasRsaReady
  | stepBoundary _ | deadlineDue _ | sampling _ _ | mirrorAckReceive _ _ _ _ | mirrorTimeout _ | bundleTransmit _
  | exportHeaderReceive _ | exportPageReceive _ | exportPageAckReceive _ _ _ | exportPageTimeout _ _ | shardChunkHashed _
  | residualScanComplete _ | shardLoadTimeout _ | fabricRequestTimeout _ | fabricRetryResend _ | inputValid | brownout
  | brownoutEnd | inputShutdown | overVoltage | pllUnlock | watchdog | governorPeriod | powerSample _ | fastLimiter _
  | powerHintPosition | reefSwitch | tjHot _ _ | thermLevelRise _ | tjCool _ | thermLevelFall _ | thermOverRange _
  | thermTrip _ _ | coolflowLost | coolflowPresent | coolflowWire | powerupCrowsNest | powerupHubRails | powerupBootRom
  | powerupMastRails | calibration _ | powerupReady | powerupHoldExpire | hdPwrokFall | hdPwrokRise | hostResetRelease
  | linkTrainComplete | fastLimiterRelease | powerHintEnd | switchWindowEnd | crowsNestUnpowered | contextZeroingEnd _ =>
    exact faultsUnless_settle _ _
  | wireBroken src =>
    cases src with
    | mastUnit _ _ => exact faultsUnless_onMast _ _ _
    | port _ => exact faultsUnless_onPort _ _ _
    | module _ => exact faultsUnless_onModule _ _ _
    | hub _ => exact faultsUnless_settle _ _

end Sys2Proof.Machine
end

section
/-! A request that fails one of checks 1 to 9 is answered, and changes nothing but what its arrival and its answer change (O44). -/
namespace Sys2Proof.Machine

theorem arrive_waiting {s : State} {r : Req} (hlane : r.flitCh < 8) (hkeys : tkeys s.st.chans = List.range 8) :
    ((s.arrive r).chan r.flitCh).waiting = (s.chan r.flitCh).waiting := by
  unfold State.arrive
  exact (congrArg Chan.waiting (chan_modChan (tkeys_present hkeys hlane))).trans rfl

/-- A request that nothing holds up is examined as it arrives (R263, R268). -/
theorem receive_examines {k : Cmd} {r : Req} {s : State} (hlane : r.flitCh < 8) (hkeys : tkeys s.st.chans = List.range 8)
    (hfirst : (s.chan r.flitCh).waiting = []) (hroom : (s.arrive r).blocked r = false) :
    receive k r s = examine k r (s.arrive r) := by
  simp only [receive, arrive_waiting hlane hkeys, hfirst, hroom, List.isEmpty_nil, Bool.not_true, Bool.or_self,
    Bool.false_eq_true, if_false]

theorem examine_refuses {k : Cmd} {r : Req} {s : State} {a : Ans} (hfails : k.check r (s.returnUnits r) = some a) :
    examine k r s = (s.returnUnits r).refuseReq k.opcode r a := by
  simp only [examine, hfails]

/-- The state in which a refusal is answered: its tag is in use, unless it was in use already (R262). -/
def State.refusalTagged (s : State) (r : Req) (a : Ans) : State := if a.status == stTagInUse then s else s.tagged r

theorem refuseReq_eq (s : State) (opcode : Nat) (r : Req) (a : Ans) :
    s.refuseReq opcode r a = (s.refusalTagged r a).queueAnswers r.flitCh (respond opcode r (a.status == stTagInUse) a) := rfl

theorem refusalTagged_st (s : State) (r : Req) (a : Ans) :
    (s.refusalTagged r a).st = { s.st with chans := (s.refusalTagged r a).st.chans } := by
  unfold State.refusalTagged
  split <;> rfl

theorem refusalTagged_agree (s : State) (r : Req) (a : Ans) : Agree [.st] s (s.refusalTagged r a) := by
  unfold State.refusalTagged
  split
  · exact Agree.refl _ s
  · exact State.tagged_agree (by decide) (Agree.refl _ s)

/-- What a request changes by its arrival and the return of its units. -/
theorem arrived_agree (s : State) (r : Req) : Agree [.st, .out] s ((s.arrive r).returnUnits r) :=
  State.returnUnits_agree (by decide) (State.arrive_agree (by decide) (Agree.refl _ s))

theorem arrived_st (s : State) (r : Req) : ((s.arrive r).returnUnits r).st =
    { s.st with chans := ((s.arrive r).returnUnits r).st.chans, arrivals := s.st.arrivals + 1, current := s.st.arrivals + 1 } := by
  unfold State.returnUnits
  rw [giveCredit_st]
  rfl

/-- The end of a meaning, which puts the queue back as the command found it, keeps what its effect keeps. -/
theorem Agree.withPending {M : List Comp} {s t : State} (h : Agree M s t) : Agree M s { t with pending := s.pending } where
  part c hc := by
    cases c with
    | pending => rfl
    | _ => exact h.part _ hc

/-- Settles O44: the request is examined at once, and its refusal is queued as any answer is. -/
theorem refusedRequestsOnlyAnswer : Obligations.RefusedRequestsOnlyAnswer := by
  intro k r s a halive hlane hkeys hfirst hroom hfails
  have happears : stauc k r s = settle s (((s.arrive r).returnUnits r).refuseReq k.opcode r a) := by
    rw [stauc, onChannel_in hlane, whenAlive_alive halive, receive_examines hlane hkeys hfirst hroom, examine_refuses hfails]
  have hagree := arrived_agree s r
  have harrived := arrived_st s r
  generalize (s.arrive r).returnUnits r = u at happears hagree harrived
  have hchan : r.flitCh ∈ tkeys (u.refusalTagged r a).st.chans :=
    tkeys_present ((refusalTagged_agree u r a).part .chanKeys (by decide) (hagree.part .chanKeys (by decide) hkeys)) hlane
  refine ⟨_, happears, Agree.withPending ?_, ?_, queueAnswers_said hchan⟩
  · exact State.refuseReq_agree (by decide) (hagree.mono (by decide))
  · rw [refuseReq_eq]
    show (State.queueAnswers _ _ _).st = _
    rw [queueAnswers_st, refusalTagged_st, harrived]

end Sys2Proof.Machine
end

section
/-! The governor (R387) and the hints of the power controller (R389). -/
namespace Sys2Proof.Machine

/-! ## The governor -/

/-- The edges from sixteen sixteenths down, in the order in which the governor tries them. -/
def edgeTries : List Nat := (List.range 16).map fun k => 16 - k

/-- What the tries come to: the most edges that fit, of 16 to 1. -/
theorem find_edgeTries_some {p : Nat → Bool} {d : Nat} (h : edgeTries.find? p = some d) :
    1 ≤ d ∧ d ≤ 16 ∧ p d = true ∧ ∀ e, d < e → e ≤ 16 → p e = false := by
  rw [edgeTries, List.find?_map, Option.map_eq_some_iff] at h
  obtain ⟨k, hk, rfl⟩ := h
  obtain ⟨hp, hmem, hbefore⟩ := List.find?_range_eq_some.1 hk
  have hlt : k < 16 := List.mem_range.1 hmem
  refine ⟨by omega, by omega, hp, fun e hlo hhi => ?_⟩
  have he := hbefore (16 - e) (by omega)
  rw [Function.comp_apply, show 16 - (16 - e) = e by omega, Bool.not_eq_true'] at he
  exact he

theorem find_edgeTries_none {p : Nat → Bool} (h : edgeTries.find? p = none) {e : Nat} (hlo : 1 ≤ e) (hhi : e ≤ 16) : p e = false := by
  refine Bool.not_eq_true _ ▸ List.find?_eq_none.1 h e ?_
  exact List.mem_map.2 ⟨16 - e, List.mem_range.2 (by omega), by omega⟩

/-- The setting that meets the cap: the lowest level with every edge, or level 4 with the most edges that meet it, of which one
sixteenth is delivered in any case (R387; log entry 25). -/
inductive GovIn.Meets (i : GovIn) : Nat × Nat → Prop
  | level {g : Nat} (hg : g ≤ 4) (hfits : i.fits g 16 1 1 = true) (hlower : ∀ l, l < g → i.fits l 16 1 1 = false) :
      i.Meets (g, 16)
  | edges {d : Nat} (hpos : 1 ≤ d) (hlt : d < 16) (hlevels : ∀ l, l ≤ 4 → i.fits l 16 1 1 = false)
      (hmore : ∀ e, d < e → e ≤ 16 → i.fits 4 e 1 1 = false) (hfits : 1 < d → i.fits 4 d 1 1 = true) : i.Meets (4, d)

theorem GovIn.meets_meet (i : GovIn) : i.Meets i.meet := by
  unfold GovIn.meet
  split
  case h_1 g hfound =>
    obtain ⟨hfits, hmem, hbefore⟩ := List.find?_range_eq_some.1 hfound
    exact .level (Nat.le_of_lt_succ (List.mem_range.1 hmem)) hfits fun l hl => Bool.not_eq_true' _ ▸ hbefore l hl
  case h_2 hnone =>
    have hlevels : ∀ l, l ≤ 4 → i.fits l 16 1 1 = false := fun l hl =>
      Bool.not_eq_true _ ▸ List.find?_eq_none.1 hnone l (List.mem_range.2 (Nat.lt_succ_of_le hl))
    change i.Meets (4, (edgeTries.find? fun d => i.fits 4 d 1 1).getD 1)
    cases hd : edgeTries.find? fun d => i.fits 4 d 1 1 with
    | some d =>
      obtain ⟨hpos, hle, hfits, hmore⟩ := find_edgeTries_some hd
      have hne : d ≠ 16 := by
        rintro rfl
        exact absurd (hfits.symm.trans (hlevels 4 (Nat.le_refl 4))) nofun
      exact .edges hpos (Nat.lt_of_le_of_ne hle hne) hlevels hmore fun _ => hfits
    | none =>
      exact .edges (Nat.le_refl 1) (show 1 < 16 by decide) hlevels (fun e hlo hhi => find_edgeTries_none hd (Nat.le_of_lt hlo) hhi)
        fun h => absurd h (Nat.lt_irrefl 1)

theorem GovIn.Meets.legal {i : GovIn} {q : Nat × Nat} (h : i.Meets q) : legalSetting q.1 q.2 := by
  cases h with
  | level hg => exact ⟨hg, Nat.succ_pos 15, Nat.le_refl 16, fun h => absurd h (Nat.lt_irrefl 16)⟩
  | edges hpos hlt => exact ⟨Nat.le_refl 4, hpos, Nat.le_of_lt hlt, fun _ => rfl⟩

theorem legalSetting_fasterStep {g d : Nat} {q : Nat × Nat} (h : legalSetting g d) (hstep : fasterStep g d = some q) :
    legalSetting q.1 q.2 := by
  obtain ⟨hg, hpos, hle, hlevel⟩ := h
  unfold fasterStep at hstep
  split at hstep
  · cases hstep
    exact ⟨hg, by dsimp only; omega, by dsimp only; omega, fun _ => hlevel ‹_›⟩
  · split at hstep
    · cases hstep
    · cases hstep
      exact ⟨by dsimp only; omega, Nat.succ_pos 15, Nat.le_refl 16, fun h => absurd h (Nat.lt_irrefl 16)⟩

section
variable {p : Power} {i : GovIn} {q : Nat × Nat}

theorem Power.govern_over (h : i.n * i.cap < i.sum) :
    p.govern i = { p with governor := i.meet.1, delivered := i.meet.2, fastRun := 0 } := if_pos h

theorem Power.govern_fastest (h : i.sum ≤ i.n * i.cap) (hstep : fasterStep p.governor p.delivered = none) :
    p.govern i = { p with fastRun := 0 } := by
  rw [Power.govern, if_neg (Nat.not_lt.2 h), hstep]

theorem Power.govern_faster (h : i.sum ≤ i.n * i.cap) (hstep : fasterStep p.governor p.delivered = some q)
    (hfits : i.fits q.1 q.2 9 10 = true) (hrun : p.fastRun = 3) :
    p.govern i = { p with governor := q.1, delivered := q.2, fastRun := 0 } := by
  rw [Power.govern, if_neg (Nat.not_lt.2 h), hstep]
  exact (if_pos hfits).trans (if_pos hrun)

theorem Power.govern_counts (h : i.sum ≤ i.n * i.cap) (hstep : fasterStep p.governor p.delivered = some q)
    (hfits : i.fits q.1 q.2 9 10 = true) (hrun : p.fastRun ≠ 3) : p.govern i = { p with fastRun := p.fastRun + 1 } := by
  rw [Power.govern, if_neg (Nat.not_lt.2 h), hstep]
  exact (if_pos hfits).trans (if_neg hrun)

theorem Power.govern_stays (h : i.sum ≤ i.n * i.cap) (hstep : fasterStep p.governor p.delivered = some q)
    (hfits : i.fits q.1 q.2 9 10 = false) : p.govern i = { p with fastRun := 0 } := by
  rw [Power.govern, if_neg (Nat.not_lt.2 h), hstep]
  exact if_neg (Bool.not_eq_true _ ▸ hfits)

end

/-- What a period within the cap does to the setting: nothing, or the next faster one after four that fitted. -/
theorem Power.govern_setting {p : Power} {i : GovIn} (h : i.sum ≤ i.n * i.cap) :
    ((p.govern i).governor, (p.govern i).delivered) = (p.governor, p.delivered) ∨
      p.fastRun = 3 ∧ fasterStep p.governor p.delivered = some ((p.govern i).governor, (p.govern i).delivered) ∧
        i.fits (p.govern i).governor (p.govern i).delivered 9 10 = true := by
  cases hstep : fasterStep p.governor p.delivered with
  | none => exact .inl (by rw [Power.govern_fastest h hstep])
  | some q =>
    cases hfits : i.fits q.1 q.2 9 10 with
    | false => exact .inl (by rw [Power.govern_stays h hstep hfits])
    | true =>
      by_cases hrun : p.fastRun = 3
      · rw [Power.govern_faster h hstep hfits hrun]
        exact .inr ⟨hrun, rfl, hfits⟩
      · exact .inl (by rw [Power.govern_counts h hstep hfits hrun])

theorem Power.govern_legal {p : Power} (h : legalSetting p.governor p.delivered) (i : GovIn) :
    legalSetting (p.govern i).governor (p.govern i).delivered := by
  by_cases hover : i.n * i.cap < i.sum
  · rw [Power.govern_over hover]
    exact i.meets_meet.legal
  · obtain hsame | ⟨-, hstep, -⟩ := Power.govern_setting (p := p) (Nat.not_lt.1 hover)
    · obtain ⟨hg, hd⟩ := Prod.mk.inj hsame
      rwa [hg, hd]
    · exact legalSetting_fasterStep h hstep

/-- Settles O49: over the cap by what the search finds, within it by the cases of the next faster setting. -/
theorem governorKeepsLegalSettings : Obligations.GovernorKeepsLegalSettings := by
  intro p i hlegal
  refine ⟨Power.govern_legal hlegal i, fun hover => ?_, fun hwithin hmoved => ?_, fun hwithin g d hstep => ⟨?_, ?_, ?_⟩⟩
  · rw [Power.govern_over hover]
    dsimp only
    have hmeets := i.meets_meet
    generalize i.meet = q at hmeets
    cases hmeets with
    | level hg hfits hlower =>
      exact ⟨fun _ _ => hfits, hlower, fun h => absurd h (Nat.lt_irrefl 16), fun _ => hfits⟩
    | edges hpos hlt hlevels hmore hfits =>
      exact ⟨fun h => absurd h (Nat.ne_of_lt hlt), fun l hl => hlevels l (Nat.le_of_lt hl), fun _ => hmore, hfits⟩
  · exact (Power.govern_setting hwithin).resolve_left hmoved
  · intro hfits hrun
    rw [Power.govern_faster hwithin hstep hfits hrun]
    exact ⟨rfl, rfl, rfl⟩
  · exact fun hfits hrun => Power.govern_counts hwithin hstep hfits hrun
  · exact fun hfits => Power.govern_stays hwithin hstep hfits

/-! ## Hints -/

/-- A hint that lies within another is apart from whatever the other is apart from. -/
theorem Hint.apart_of_within {a b x y : Hint} (h : a.apart b) (hx : a.start ≤ x.start ∧ x.stop ≤ a.stop)
    (hy : b.start ≤ y.start ∧ y.stop ≤ b.stop) : x.apart y := by
  unfold Hint.apart at *
  omega

/-- What an older hint keeps lies within it and clear of the newer one. -/
theorem Hint.cut_within {h n x : Hint} {now : Nat} (hx : x ∈ h.cut n now) :
    (h.start ≤ x.start ∧ x.stop ≤ h.stop) ∧ x.apart n := by
  unfold Hint.cut at hx
  split at hx
  case isTrue hclear =>
    cases List.mem_singleton.1 hx
    rw [Bool.or_eq_true_iff, decide_eq_true_iff, decide_eq_true_iff] at hclear
    exact ⟨⟨Nat.le_refl _, Nat.le_refl _⟩, hclear⟩
  case isFalse hmeets =>
    rw [Bool.or_eq_true_iff, decide_eq_true_iff, decide_eq_true_iff, not_or, Nat.not_le, Nat.not_le] at hmeets
    obtain ⟨hstop, hstart⟩ := hmeets
    obtain hx | hx := List.mem_append.1 hx
    · split at hx
      · cases List.mem_singleton.1 hx
        exact ⟨⟨Nat.le_refl _, Nat.le_of_lt hstop⟩, .inl (Nat.le_refl _)⟩
      · cases hx
    · split at hx
      · cases List.mem_singleton.1 hx
        exact ⟨⟨Nat.le_of_lt hstart, Nat.le_refl _⟩, .inr (Nat.le_refl _)⟩
      · cases hx

/-- The two parts that an older hint can keep are apart. -/
theorem Hint.cut_pairwise (h n : Hint) (now : Nat) (hn : n.start ≤ n.stop) : (h.cut n now).Pairwise Hint.apart := by
  unfold Hint.cut
  split
  · exact List.pairwise_singleton _ _
  · split <;> split
    · exact List.pairwise_pair.2 (.inl hn)
    · exact List.pairwise_singleton _ _
    · exact List.pairwise_singleton _ _
    · exact .nil

theorem Hint.cuts_pairwise {now : Nat} {hs : List Hint} {n : Hint} (hhs : hs.Pairwise Hint.apart) (hn : n.start ≤ n.stop) :
    (hs.flatMap fun h => h.cut n now).Pairwise Hint.apart :=
  List.pairwise_flatMap.2 ⟨fun h _ => h.cut_pairwise n now hn, hhs.imp fun hab _ hx _ hy =>
    Hint.apart_of_within hab (Hint.cut_within hx).1 (Hint.cut_within hy).1⟩

/-- Settles O50: what the older hints keep is apart, and apart from the newer one; of all of these the last eight are held. -/
theorem hintsNeverOverlap : Obligations.HintsNeverOverlap := by
  intro now hs n hhs hn
  have hjoined : ((hs.flatMap fun h => h.cut n now) ++ [n]).Pairwise Hint.apart := by
    refine List.pairwise_append.2 ⟨Hint.cuts_pairwise hhs hn, List.pairwise_singleton _ _, fun x hx y hy => ?_⟩
    obtain ⟨h, -, hcut⟩ := List.mem_flatMap.1 hx
    rw [List.mem_singleton.1 hy]
    exact (Hint.cut_within hcut).2
  refine ⟨hjoined.drop, ?_, ?_⟩
  · rw [addHint, List.length_drop]
    omega
  · rw [addHint, List.getLast?_drop, List.getLast?_concat, if_neg]
    rw [List.length_append, List.length_singleton]
    omega

end Sys2Proof.Machine
end

section
/-! The counts of a routing call (R122 to R127): a slot that is given takes one place of its expert, which has room for it. -/
namespace Sys2Proof.Machine

/-! ## The slots of one token -/

/-- One slot takes a place of an expert with room, or is shed (R124). -/
theorem placeSlots_cons_cases (cap : Nat → Nat) (p : List Nat) (d r : Nat) (rs : List Nat) (cur : Nat) (n : Tab Nat) :
    (∃ e st cur', st ≠ 2 ∧ tgetD n e 0 < cap e ∧ placeSlots cap p d (r :: rs) cur n =
      (⟨e, st⟩ :: (placeSlots cap p d rs cur' (tset n e (tgetD n e 0 + 1))).1,
        (placeSlots cap p d rs cur' (tset n e (tgetD n e 0 + 1))).2)) ∨
    ∃ cur', placeSlots cap p d (r :: rs) cur n = (⟨0, 2⟩ :: (placeSlots cap p d rs cur' n).1, (placeSlots cap p d rs cur' n).2) := by
  by_cases hprimary : ∃ e, p[r]? = some e ∧ tgetD n e 0 < cap e
  · obtain ⟨e, hr, hroom⟩ := hprimary
    exact .inl ⟨e, 0, cur, by decide, hroom, placeSlots_cons_primary hr hroom⟩
  · have hfull : ∀ e, p[r]? = some e → decide (tgetD n e 0 < cap e) = false :=
      fun e hr => decide_eq_false fun hroom => hprimary ⟨e, hr, hroom⟩
    have hsearch := fallbackFor_search (fun e => decide (tgetD n e 0 < cap e)) p d cur
    generalize hf : fallbackFor (fun e => decide (tgetD n e 0 < cap e)) p d cur = f at hsearch
    cases hsearch with
    | found _ _ _ hroom _ => exact .inl ⟨_, 1, _, by decide, of_decide_eq_true hroom, placeSlots_cons_fallback hfull hf⟩
    | failed _ _ => exact .inr ⟨_, placeSlots_cons_shed hfull hf⟩

theorem length_placeSlots (cap : Nat → Nat) (p : List Nat) (d : Nat) (rs : List Nat) (cur : Nat) (n : Tab Nat) :
    (placeSlots cap p d rs cur n).1.length = rs.length := by
  induction rs generalizing cur n with
  | nil => rfl
  | cons r rs ih =>
    obtain ⟨e, st, cur', -, -, heq⟩ | ⟨cur', heq⟩ := placeSlots_cons_cases cap p d r rs cur n
    · rw [heq, List.length_cons, ih, List.length_cons]
    · rw [heq, List.length_cons, ih, List.length_cons]

/-- The slots of a token that are given to an expert. -/
def givenTo (e : Nat) (x : Placed) : Bool := x.status != 2 && x.expert == e

/-- A placement counts each slot that it gives, and gives none beyond the capacity. -/
theorem placeSlots_counts (cap : Nat → Nat) (p : List Nat) (d : Nat) (rs : List Nat) (cur : Nat) (n : Tab Nat) (e : Nat) :
    tgetD (placeSlots cap p d rs cur n).2 e 0 = tgetD n e 0 + (placeSlots cap p d rs cur n).1.countP (givenTo e) ∧
      (tgetD n e 0 ≤ cap e → tgetD (placeSlots cap p d rs cur n).2 e 0 ≤ cap e) := by
  induction rs generalizing cur n with
  | nil => exact ⟨rfl, id⟩
  | cons r rs ih =>
    obtain ⟨x, st, cur', hst, hroom, heq⟩ | ⟨cur', heq⟩ := placeSlots_cons_cases cap p d r rs cur n
    · obtain ⟨hcount, hcap⟩ := ih cur' (tset n x (tgetD n x 0 + 1))
      rw [heq]
      dsimp only
      by_cases hx : e = x
      · subst hx
        rw [tgetD_tset_self] at hcount hcap
        have hgiven : givenTo e ⟨e, st⟩ = true := by simp [givenTo, hst]
        rw [List.countP_cons_of_pos hgiven]
        exact ⟨by omega, fun _ => hcap hroom⟩
      · rw [tgetD_tset_ne n _ _ hx] at hcount hcap
        have hother : ¬ givenTo e ⟨x, st⟩ = true := by simp [givenTo, Ne.symm hx]
        rw [List.countP_cons_of_neg hother]
        exact ⟨hcount, hcap⟩
    · obtain ⟨hcount, hcap⟩ := ih cur' n
      rw [heq]
      dsimp only
      have hshed : ¬ givenTo e ⟨0, 2⟩ = true := by simp [givenTo]
      rw [List.countP_cons_of_neg hshed]
      exact ⟨hcount, hcap⟩

/-! ## Their weights -/

/-- Each slot has a weight of its own, and a shed one weighs zero (R127). -/
theorem gates_eq_map (mode : Nat) (scale : Word) (g : Nat → Word) (prim : List Nat) (ps : List Placed) :
    ∃ f : Placed → Word, gates mode scale g prim ps = ps.map f ∧ ∀ x, x.status = 2 → f x = fpZero := by
  unfold gates
  rw [List.map_map]
  refine ⟨_, rfl, fun x hx => ?_⟩
  rw [Function.comp_apply, if_pos hx]

/-- CAP of an expert: 0 where the table has none (R118). -/
def capOf (ps : List ExpertPar) (e : Nat) : Nat := match ps[e]? with | some x => x.cap | none => 0

/-- A token's logits as they are taken, and its preference list over them (R121, R122). -/
def tokenLogits (raw : List Word) : List Word := (raw.map cleanLogit).map (·.1)
def tokenPreference (ps : List ExpertPar) (raw : List Word) : List Nat := preference (eligible ps (tokenLogits raw))

/-- The slots of a token as they are placed, and the counts after them. -/
def tokenPlaces (d : RouteDesc) (ps : List ExpertPar) (n : Tab Nat) (raw : List Word) : List Placed × Tab Nat :=
  placeSlots (capOf ps) (tokenPreference ps raw) d.depth (List.range d.topK) d.topK n

/-- The weights of a token's slots. -/
def tokenGates (d : RouteDesc) (ps : List ExpertPar) (n : Tab Nat) (raw : List Word) : List Word :=
  gates d.mode d.scale
    (baseGate (d.mode % 4) (fun j => (tokenLogits raw).getD j fpZero) ((eligible ps (tokenLogits raw)).map (·.1)))
    ((tokenPreference ps raw).take d.topK) (tokenPlaces d ps n raw).1

/-- A slot once it has its weight. -/
def Placed.weighted (x : Placed) (w : Word) : Slot := { gate := w, expert := x.expert, status := x.status, arrived := false }

theorem routeToken_n (d : RouteDesc) (ps : List ExpertPar) (r : Routed) (raw : List Word) :
    (routeToken d ps r raw).n = (tokenPlaces d ps r.n raw).2 := rfl

theorem routeToken_slots (d : RouteDesc) (ps : List ExpertPar) (r : Routed) (raw : List Word) :
    (routeToken d ps r raw).slots =
      r.slots ++ ((tokenPlaces d ps r.n raw).1.zip (tokenGates d ps r.n raw)).map fun x => x.1.weighted x.2 := rfl

/-- A token adds its slots in their order, each weighted, a shed one with zero. -/
theorem routeToken_adds (d : RouteDesc) (ps : List ExpertPar) (r : Routed) (raw : List Word) :
    ∃ f : Placed → Word, (∀ x, x.status = 2 → f x = fpZero) ∧
      (routeToken d ps r raw).slots = r.slots ++ (tokenPlaces d ps r.n raw).1.map fun x => x.weighted (f x) := by
  obtain ⟨f, hgates, hzero⟩ := gates_eq_map d.mode d.scale _ _ (tokenPlaces d ps r.n raw).1
  refine ⟨f, hzero, ?_⟩
  rw [routeToken_slots, tokenGates, hgates, List.zip_map_right, List.map_map]
  have hzip : ∀ l : List Placed, l.zip l = l.map fun x => (x, x) := fun l => by
    rw [List.zip_eq_zipWith, List.zipWith_self]
  rw [hzip, List.map_map]
  rfl

/-! ## All the tokens -/

/-- What holds of a routing call after each of its tokens. -/
structure Routed.Sound (d : RouteDesc) (ps : List ExpertPar) (tokens : Nat) (r : Routed) : Prop where
  counts : ∀ e, tgetD r.n e 0 = r.slots.countP fun x => x.status != 2 && x.expert == e
  within : ∀ e, tgetD r.n e 0 ≤ capOf ps e
  slots : r.slots.length = tokens * d.topK
  shed : ∀ x ∈ r.slots, x.status = 2 → x.gate = fpZero

theorem Routed.Sound.token {d : RouteDesc} {ps : List ExpertPar} {k : Nat} {r : Routed} (h : r.Sound d ps k) (raw : List Word) :
    (routeToken d ps r raw).Sound d ps (k + 1) := by
  obtain ⟨f, hzero, hadds⟩ := routeToken_adds d ps r raw
  have hplaces := fun e => placeSlots_counts (capOf ps) (tokenPreference ps raw) d.depth (List.range d.topK) d.topK r.n e
  refine ⟨fun e => ?_, fun e => (hplaces e).2 (h.within e), ?_, fun x hx hst => ?_⟩
  · rw [hadds, List.countP_append, List.countP_map, ← h.counts e]
    exact (hplaces e).1
  · rw [hadds, List.length_append, List.length_map, h.slots, tokenPlaces, length_placeSlots, List.length_range, Nat.succ_mul]
  · rw [hadds] at hx
    obtain hx | hx := List.mem_append.1 hx
    · exact h.shed x hx hst
    · obtain ⟨y, -, rfl⟩ := List.mem_map.1 hx
      exact hzero y hst

theorem Routed.Sound.tokens {d : RouteDesc} {ps : List ExpertPar} (rows : List (List Word)) {k : Nat} {r : Routed}
    (h : r.Sound d ps k) : (rows.foldl (routeToken d ps) r).Sound d ps (k + rows.length) := by
  induction rows generalizing k r with
  | nil => exact h
  | cons raw rows ih =>
    rw [List.foldl_cons, List.length_cons, Nat.add_comm rows.length 1, ← Nat.add_assoc]
    exact ih (h.token raw)

/-- Settles O54: token by token, the counts are those of the slots that are given. -/
theorem placementStaysWithinCapacity : Obligations.PlacementStaysWithinCapacity := by
  intro d ps rows
  have hnone : Routed.Sound d ps 0 { slots := [], n := [], subst := 0, all := 0 } :=
    ⟨fun _ => rfl, fun _ => Nat.zero_le _, (Nat.zero_mul _).symm, nofun⟩
  obtain ⟨hcounts, hwithin, hslots, hshed⟩ := hnone.tokens rows
  refine ⟨fun e => ⟨?_, hwithin e⟩, ?_, hshed⟩
  · rw [hcounts e, List.countP_eq_length_filter]
  · rw [hslots, Nat.zero_add]

end Sys2Proof.Machine
end

section
/-! Every offset of a mast's DRAM has a channel and a local offset of its own (R213 to R215). In either mode the local offset
holds the band and all of the offset but one field, which the channel gives back: it is the xor of that field with the others. -/
namespace Sys2Proof.Machine

/-! ## Wide bands (R214) -/

theorem wideMap_band (a : Nat) : (wideMap a).2 / 2 ^ 24 = a / 2 ^ 32 := by
  rw [wideMap_offset]
  omega

/-- Xor with one value tells its operands apart: to xor twice is to do nothing. -/
theorem eq_of_xor_eq {a b c : Nat} (h : a ^^^ c = b ^^^ c) : a = b := by
  have htwice := congrArg (· ^^^ c) h
  simpa only [Nat.xor_assoc, Nat.xor_self, Nat.xor_zero] using htwice

theorem wideMap_injective {a b : Nat} (h : wideMap a = wideMap b) : a = b := by
  obtain ⟨hchannel, hoffset⟩ := Prod.mk.inj h
  have hblock : b / 2 ^ 16 = a / 2 ^ 16 := by omega
  have hupper (lo : Nat) (hlo : 16 ≤ lo) : bits b lo 8 = bits a lo 8 := bits_eq_of_div_eq 8 hlo hblock
  have hfield : bits a 8 8 = bits b 8 8 := by
    rw [hupper 16 (by decide), hupper 24 (by decide), hupper 32 (by decide)] at hchannel
    exact eq_of_xor_eq (eq_of_xor_eq (eq_of_xor_eq hchannel))
  unfold bits at hfield
  omega

/-! ## Grouped bands (R215) -/

theorem foldXor_eq_xor (c fuel v h : Nat) : foldXor c fuel v h = h ^^^ foldXor c fuel v 0 := by
  induction fuel generalizing v h with
  | zero => exact (Nat.xor_zero h).symm
  | succ fuel ih =>
    unfold foldXor
    split
    · exact (Nat.xor_zero h).symm
    · rw [ih, ih (v / 2 ^ c) (0 ^^^ _), Nat.zero_xor, Nat.xor_assoc]

theorem foldXor_lt (c fuel v : Nat) {h : Nat} (hh : h < 2 ^ c) : foldXor c fuel v h < 2 ^ c := by
  induction fuel generalizing v h with
  | zero => exact hh
  | succ fuel ih =>
    unfold foldXor
    split
    · exact hh
    · exact ih _ (Nat.xor_lt_two_pow hh (Nat.mod_lt _ (Nat.two_pow_pos c)))

/-- The lowest field stands in the fold beside the fold of the others. -/
theorem foldXor_succ (c fuel v : Nat) : foldXor c (fuel + 1) v 0 = v % 2 ^ c ^^^ foldXor c fuel (v / 2 ^ c) 0 := by
  by_cases hv : v = 0
  · subst hv
    have hzero : foldXor c fuel 0 0 = 0 := by
      cases fuel with
      | zero => rfl
      | succ _ => exact if_pos rfl
    rw [Nat.zero_mod, Nat.zero_div, hzero, Nat.zero_xor]
    exact if_pos rfl
  · rw [foldXor, if_neg hv, foldXor_eq_xor, Nat.zero_xor]

theorem mod_eq_of_foldXor_eq {c fuel v w : Nat} (hupper : v / 2 ^ c = w / 2 ^ c)
    (h : foldXor c (fuel + 1) v 0 = foldXor c (fuel + 1) w 0) : v % 2 ^ c = w % 2 ^ c := by
  rw [foldXor_succ, foldXor_succ, hupper] at h
  exact eq_of_xor_eq h

section
variable {j a b : Nat}

/-- The number of the sub-range of an offset in its band, and the offset in it. -/
def subRange (j a : Nat) : Nat := a % 2 ^ 32 / 2 ^ (29 + j)
def subOffset (j a : Nat) : Nat := a % 2 ^ 32 % 2 ^ (29 + j)

theorem groupedMap_eq (j a : Nat) : groupedMap j a =
    (subRange j a * 2 ^ (5 + j) + foldXor (5 + j) 8 (subOffset j a / 256) 0,
      a / 2 ^ 32 * 2 ^ 24 + subOffset j a / 2 ^ (8 + (5 + j)) * 256 + subOffset j a % 256) := by
  have hoffset : a - a / 2 ^ 32 * 2 ^ 32 - a % 2 ^ 32 / 2 ^ (29 + j) * 2 ^ (29 + j) = subOffset j a := by
    have hband := Nat.div_add_mod a (2 ^ 32)
    have hrange := Nat.div_add_mod (a % 2 ^ 32) (2 ^ (29 + j))
    rw [Nat.mul_comm] at hband hrange
    unfold subOffset
    omega
  unfold groupedMap
  dsimp only
  rw [hoffset]
  rfl

theorem subRange_lt (hj : j ≤ 2) : subRange j a < 2 ^ (3 - j) := by
  unfold subRange
  rw [Nat.div_lt_iff_lt_mul (Nat.two_pow_pos _), ← Nat.pow_add, show 3 - j + (29 + j) = 32 by omega]
  exact Nat.mod_lt _ (Nat.two_pow_pos 32)

theorem subOffset_div_lt (j a : Nat) : subOffset j a / 2 ^ (8 + (5 + j)) < 2 ^ 16 := by
  unfold subOffset
  rw [Nat.div_lt_iff_lt_mul (Nat.two_pow_pos _), ← Nat.pow_add, show 16 + (8 + (5 + j)) = 29 + j by omega]
  exact Nat.mod_lt _ (Nat.two_pow_pos _)

theorem groupedMap_channel_lt (hj : j ≤ 2) : (groupedMap j a).1 < 256 := by
  have hrange := subRange_lt (a := a) hj
  have hfold := foldXor_lt (5 + j) 8 (subOffset j a / 256) (Nat.two_pow_pos (5 + j))
  rw [groupedMap_eq]
  calc subRange j a * 2 ^ (5 + j) + foldXor (5 + j) 8 (subOffset j a / 256) 0
    _ < (subRange j a + 1) * 2 ^ (5 + j) := by rw [Nat.succ_mul]; exact Nat.add_lt_add_left hfold _
    _ ≤ 2 ^ (3 - j) * 2 ^ (5 + j) := Nat.mul_le_mul_right _ hrange
    _ = 256 := by rw [← Nat.pow_add, show 3 - j + (5 + j) = 8 by omega]

theorem groupedMap_band (j a : Nat) : (groupedMap j a).2 / 2 ^ 24 = a / 2 ^ 32 := by
  have hdiv := subOffset_div_lt j a
  rw [groupedMap_eq]
  dsimp only
  generalize subOffset j a / 2 ^ (8 + (5 + j)) = q at hdiv
  omega

/-- A number in its field and the rest of it give a sum back. -/
theorem div_eq_of_add_mul_eq {n p q x y : Nat} (hx : x < n) (hy : y < n) (h : p * n + x = q * n + y) : p = q := by
  have hp := Nat.mul_add_div (Nat.zero_lt_of_lt hx) p x
  have hq := Nat.mul_add_div (Nat.zero_lt_of_lt hy) q y
  rw [Nat.div_eq_of_lt hx, Nat.mul_comm] at hp
  rw [Nat.div_eq_of_lt hy, Nat.mul_comm, ← h, hp] at hq
  exact hq

/-- The sub-range number and the fold of one channel. -/
theorem groupedMap_channel_inj (h : (groupedMap j a).1 = (groupedMap j b).1) :
    subRange j a = subRange j b ∧
      foldXor (5 + j) 8 (subOffset j a / 256) 0 = foldXor (5 + j) 8 (subOffset j b / 256) 0 := by
  rw [groupedMap_eq, groupedMap_eq] at h
  have hrange : subRange j a = subRange j b :=
    div_eq_of_add_mul_eq (foldXor_lt _ 8 _ (Nat.two_pow_pos _)) (foldXor_lt _ 8 _ (Nat.two_pow_pos _)) h
  dsimp only at h
  rw [hrange] at h
  exact ⟨hrange, Nat.add_left_cancel h⟩

/-- An offset in a sub-range is its first byte's number, the field that the fold hides, and what the local offset holds. -/
theorem subOffset_eq_of {x y c : Nat} (hlow : x % 256 = y % 256) (hfield : x / 256 % 2 ^ c = y / 256 % 2 ^ c)
    (hupper : x / 2 ^ (8 + c) = y / 2 ^ (8 + c)) : x = y := by
  have hsplit (z : Nat) : z = 256 * (2 ^ c * (z / 2 ^ (8 + c)) + z / 256 % 2 ^ c) + z % 256 := by
    rw [Nat.pow_add, ← Nat.div_div_eq_div_mul, Nat.div_add_mod, Nat.div_add_mod]
  rw [hsplit x, hsplit y, hlow, hfield, hupper]

theorem groupedMap_injective (h : groupedMap j a = groupedMap j b) : a = b := by
  obtain ⟨hrange, hfold⟩ := groupedMap_channel_inj (congrArg Prod.fst h)
  have hband : a / 2 ^ 32 = b / 2 ^ 32 := by rw [← groupedMap_band j, h, groupedMap_band]
  have hoffset := congrArg Prod.snd h
  rw [groupedMap_eq, groupedMap_eq, hband] at hoffset
  dsimp only at hoffset
  have hlow : subOffset j a % 256 = subOffset j b % 256 := by omega
  have hupper : subOffset j a / 2 ^ (8 + (5 + j)) = subOffset j b / 2 ^ (8 + (5 + j)) := by omega
  have hfield : subOffset j a / 256 % 2 ^ (5 + j) = subOffset j b / 256 % 2 ^ (5 + j) := by
    refine mod_eq_of_foldXor_eq (fuel := 7) ?_ hfold
    rw [Nat.div_div_eq_div_mul, Nat.div_div_eq_div_mul, ← Nat.pow_add 2 8 (5 + j), hupper]
  have hsub : subOffset j a = subOffset j b := subOffset_eq_of hlow hfield hupper
  have hwithin : a % 2 ^ 32 = b % 2 ^ 32 := by
    rw [← Nat.div_add_mod (a % 2 ^ 32) (2 ^ (29 + j)), ← Nat.div_add_mod (b % 2 ^ 32) (2 ^ (29 + j))]
    unfold subRange at hrange
    unfold subOffset at hsub
    rw [hrange, hsub]
  omega

end

/-! ## The band's mode (R213) -/

theorem channelOf_of_grouped {m : Mast} {a : Nat} (h : m.mc.band (a / 2 ^ 32) ≠ 3) :
    m.channelOf a = groupedMap (m.mc.band (a / 2 ^ 32)) a := if_neg h

theorem channelOf_band (m : Mast) (a : Nat) : (m.channelOf a).2 / 2 ^ 24 = a / 2 ^ 32 := by
  by_cases hmode : m.mc.band (a / 2 ^ 32) = 3
  · rw [channelOf_of_wide hmode, wideMap_band]
  · rw [channelOf_of_grouped hmode, groupedMap_band]

theorem channelOf_channel_lt {m : Mast} {a : Nat} (h : m.mc.band (a / 2 ^ 32) ≤ 3) : (m.channelOf a).1 < 256 := by
  by_cases hmode : m.mc.band (a / 2 ^ 32) = 3
  · rw [channelOf_of_wide hmode]
    exact wideMap_channel_lt a
  · rw [channelOf_of_grouped hmode]
    exact groupedMap_channel_lt (by omega)

/-- The local offset tells the band, the band its mode, and in one mode the map is one-to-one. -/
theorem channelOf_injective {m : Mast} {a b : Nat} (h : m.channelOf a = m.channelOf b) : a = b := by
  have hband : a / 2 ^ 32 = b / 2 ^ 32 := by rw [← channelOf_band m, h, channelOf_band]
  by_cases hmode : m.mc.band (b / 2 ^ 32) = 3
  · rw [channelOf_of_wide (hband ▸ hmode), channelOf_of_wide hmode] at h
    exact wideMap_injective h
  · rw [channelOf_of_grouped (hband ▸ hmode), channelOf_of_grouped hmode, hband] at h
    exact groupedMap_injective h

/-- Settles O56: the channel by its fields, the local offset by the band that it begins with. -/
theorem everyOffsetHasItsOwnPlace : Obligations.EveryOffsetHasItsOwnPlace := by
  intro m a b hmodes ha _
  refine ⟨channelOf_channel_lt (hmodes _), ?_, channelOf_injective⟩
  have hband := channelOf_band m a
  unfold dramSize at ha
  omega

end Sys2Proof.Machine
end

section
/-! The pages that a walk lets in are those that hold a position which some layer's mask admits (R146, R162): through a window
or a sink, as the spans say, or through the list of globals. -/
namespace Sys2Proof.Machine

/-! ## The mask -/

/-- The last position that a layer admits for the queries up to `b` (R146). -/
def LayerAttn.upTo (e : LayerAttn) (b j : Nat) : Prop := if e.exclSelf = true then j < b else j ≤ b

theorem admits_iff {e : LayerAttn} {globals : List Nat} {len p j : Nat} :
    admits e globals len p j = true ↔ j < len ∧ e.upTo p j ∧
      (e.window = 0 ∨ p + 1 ≤ j + e.window ∨ j < e.sink ∨ e.globalEn = true ∧ j ∈ globals) := by
  have hself : (decide (j ≤ p) && (!e.exclSelf || j != p)) = true ↔ e.upTo p j := by
    unfold LayerAttn.upTo
    cases e.exclSelf with
    | true => simp; omega
    | false => simp
  rw [admits, Bool.and_eq_true_iff, Bool.and_assoc (decide (j < len)), Bool.and_eq_true_iff, hself, and_assoc]
  simp only [Bool.or_eq_true, Bool.and_eq_true, decide_eq_true_eq, beq_iff_eq, List.contains_iff_mem, or_assoc]

theorem LayerAttn.upTo_lt {e : LayerAttn} {b j : Nat} (h : e.upTo b j) : j < b + 1 := by
  unfold LayerAttn.upTo at h
  split at h <;> omega

theorem LayerAttn.upTo_mono {e : LayerAttn} {p b j : Nat} (h : e.upTo p j) (hp : p ≤ b) : e.upTo b j := by
  unfold LayerAttn.upTo at h ⊢
  split at h <;> simp only [*, if_true, if_false, Bool.false_eq_true] <;> omega

/-- Some query from `a` to `b` admits the position. -/
def LayerAttn.admitsIn (e : LayerAttn) (globals : List Nat) (a b j : Nat) : Prop :=
  ∃ p, a ≤ p ∧ p ≤ b ∧ admits e globals (b + 1) p j = true

/-- Through the globals, the last query admits whatever any of them does. -/
theorem admitsIn_iff {e : LayerAttn} {globals : List Nat} {a b j : Nat} (hab : a ≤ b) :
    e.admitsIn globals a b j ↔ e.admitsIn [] a b j ∨ e.globalEn = true ∧ j ∈ globals ∧ e.upTo b j := by
  constructor
  · rintro ⟨p, hap, hpb, hadmits⟩
    obtain ⟨hlen, hself, hwhy⟩ := admits_iff.1 hadmits
    obtain h | h | h | ⟨hen, hmem⟩ := hwhy
    · exact .inl ⟨p, hap, hpb, admits_iff.2 ⟨hlen, hself, .inl h⟩⟩
    · exact .inl ⟨p, hap, hpb, admits_iff.2 ⟨hlen, hself, .inr (.inl h)⟩⟩
    · exact .inl ⟨p, hap, hpb, admits_iff.2 ⟨hlen, hself, .inr (.inr (.inl h))⟩⟩
    · exact .inr ⟨hen, hmem, LayerAttn.upTo_mono hself hpb⟩
  · rintro (⟨p, hap, hpb, hadmits⟩ | ⟨hen, hmem, hself⟩)
    · obtain ⟨hlen, hself, hwhy⟩ := admits_iff.1 hadmits
      have hnone : ¬ (e.globalEn = true ∧ j ∈ []) := fun h => absurd h.2 List.not_mem_nil
      obtain h | h | h | h := hwhy
      · exact ⟨p, hap, hpb, admits_iff.2 ⟨hlen, hself, .inl h⟩⟩
      · exact ⟨p, hap, hpb, admits_iff.2 ⟨hlen, hself, .inr (.inl h)⟩⟩
      · exact ⟨p, hap, hpb, admits_iff.2 ⟨hlen, hself, .inr (.inr (.inl h))⟩⟩
      · exact absurd h hnone
    · exact ⟨b, hab, Nat.le_refl b, admits_iff.2 ⟨LayerAttn.upTo_lt hself, hself, .inr (.inr (.inr ⟨hen, hmem⟩))⟩⟩

/-! ## The spans -/

/-- The position lies in one of the spans. -/
def inSpans (spans : List (Nat × Nat)) (j : Nat) : Prop := ∃ r ∈ spans, r.1 ≤ j ∧ j < r.2

theorem layerSpans_nonempty {e : LayerAttn} {a b : Nat} {r : Nat × Nat} (hr : r ∈ layerSpans e a b) : r.1 < r.2 := by
  unfold layerSpans at hr
  split at hr
  · cases hr
  · exact of_decide_eq_true (List.mem_filter.1 hr).2

theorem inSpans_singleton {lo hi j : Nat} : inSpans [(lo, hi)] j ↔ lo ≤ j ∧ j < hi := by
  simp only [inSpans, List.mem_singleton, exists_eq_left]

theorem inSpans_append {l k : List (Nat × Nat)} {j : Nat} : inSpans (l ++ k) j ↔ inSpans l j ∨ inSpans k j := by
  simp only [inSpans, List.mem_append, or_and_right, exists_or]

/-- An empty span holds no position. -/
theorem inSpans_nonempty {l : List (Nat × Nat)} {j : Nat} : inSpans (l.filter fun r => decide (r.1 < r.2)) j ↔ inSpans l j := by
  constructor
  · rintro ⟨r, hr, hlo, hhi⟩
    exact ⟨r, (List.mem_filter.1 hr).1, hlo, hhi⟩
  · rintro ⟨r, hr, hlo, hhi⟩
    exact ⟨r, List.mem_filter.2 ⟨hr, decide_eq_true (Nat.lt_of_le_of_lt hlo hhi)⟩, hlo, hhi⟩

/-- The first position of a window, and one past the last position that a layer admits. -/
def LayerAttn.low (e : LayerAttn) (a : Nat) : Nat := if e.window = 0 then 0 else a + 1 - min e.window (a + 1)
def LayerAttn.top (e : LayerAttn) (b : Nat) : Nat := if e.exclSelf then b else b + 1

/-- A window of the query's own position alone, which the layer excludes. -/
def LayerAttn.noWindow (e : LayerAttn) : Bool := e.window = 1 && e.exclSelf

theorem LayerAttn.lt_top_iff {e : LayerAttn} {b j : Nat} : j < e.top b ↔ e.upTo b j := by
  unfold LayerAttn.top LayerAttn.upTo
  split
  · exact Iff.rfl
  · exact Nat.lt_succ_iff

theorem LayerAttn.low_le_iff {e : LayerAttn} {a j : Nat} : e.low a ≤ j ↔ e.window = 0 ∨ a + 1 ≤ j + e.window := by
  unfold LayerAttn.low
  split <;> omega

/-- A layer's spans are those of its window and its sink, up to the last position that `b` admits. -/
theorem inSpans_layerSpans {e : LayerAttn} {a b j : Nat} (hab : a ≤ b) :
    inSpans (layerSpans e a b) j ↔ e.upTo b j ∧ (e.noWindow = false ∧ (e.window = 0 ∨ a + 1 ≤ j + e.window) ∨ j < e.sink) := by
  have hspans : layerSpans e a b = ((if e.noWindow then [] else [(e.low a, e.top b)]) ++ [(0, min e.sink (e.top b))]).filter
      fun r => decide (r.1 < r.2) := if_neg (Nat.not_lt.2 hab)
  have hwindow : inSpans (if e.noWindow then [] else [(e.low a, e.top b)]) j ↔
      e.noWindow = false ∧ (e.window = 0 ∨ a + 1 ≤ j + e.window) ∧ e.upTo b j := by
    cases e.noWindow with
    | true => exact ⟨fun ⟨_, hr, _⟩ => absurd hr List.not_mem_nil, fun h => nomatch h.1⟩
    | false => exact inSpans_singleton.trans (by simp only [LayerAttn.low_le_iff, LayerAttn.lt_top_iff, true_and])
  rw [hspans, inSpans_nonempty, inSpans_append, hwindow, inSpans_singleton, Nat.lt_min, LayerAttn.lt_top_iff, ← and_assoc,
    ← and_assoc, ← or_and_right, and_comm]
  simp only [Nat.zero_le, true_and]

/-- A position of the window is admitted by the first query that may see it, or by `a`, where that comes later. -/
theorem LayerAttn.admitsIn_of_window {e : LayerAttn} {a b j : Nat} (hab : a ≤ b) (hself : e.upTo b j) (hown : e.noWindow = false)
    (hlow : e.window = 0 ∨ a + 1 ≤ j + e.window) : e.admitsIn [] a b j := by
  have hlen := LayerAttn.upTo_lt hself
  have admitsAt (p : Nat) (hap : a ≤ p) (hpb : p ≤ b) (hp : e.upTo p j) (hnear : e.window = 0 ∨ p + 1 ≤ j + e.window) :
      e.admitsIn [] a b j := ⟨p, hap, hpb, admits_iff.2 ⟨hlen, hp, hnear.imp id .inl⟩⟩
  unfold LayerAttn.noWindow at hown
  unfold LayerAttn.upTo at hself admitsAt
  cases hexcl : e.exclSelf <;>
    simp only [hexcl, Bool.and_true, decide_eq_false_iff_not, if_true, if_false, Bool.false_eq_true] at hself hown admitsAt
  case false =>
    by_cases hja : j ≤ a
    · exact admitsAt a (Nat.le_refl a) hab hja hlow
    · exact admitsAt j (by omega) hself (Nat.le_refl j) (by omega)
  case true =>
    by_cases hja : j < a
    · exact admitsAt a (Nat.le_refl a) hab hja hlow
    · exact admitsAt (j + 1) (by omega) hself (Nat.lt_succ_self j) (by omega)

/-- A position lies in a layer's spans where one of the queries admits it through its window or its sink. -/
theorem inSpans_iff_admitsIn {e : LayerAttn} {a b j : Nat} (hab : a ≤ b) :
    inSpans (layerSpans e a b) j ↔ e.admitsIn [] a b j := by
  rw [inSpans_layerSpans hab]
  constructor
  · rintro ⟨hself, ⟨hown, hlow⟩ | hsink⟩
    · exact LayerAttn.admitsIn_of_window hab hself hown hlow
    · exact ⟨b, hab, Nat.le_refl b, admits_iff.2 ⟨LayerAttn.upTo_lt hself, hself, .inr (.inr (.inl hsink))⟩⟩
  · rintro ⟨p, hap, hpb, hadmits⟩
    obtain ⟨-, hself, hwhy⟩ := admits_iff.1 hadmits
    refine ⟨LayerAttn.upTo_mono hself hpb, ?_⟩
    obtain hall | hnear | hsink | ⟨-, hnone⟩ := hwhy
    · exact .inl ⟨by simp [LayerAttn.noWindow, hall], .inl hall⟩
    · refine .inl ⟨Bool.eq_false_iff.2 fun hown => ?_, .inr (by omega)⟩
      simp only [LayerAttn.noWindow, Bool.and_eq_true, decide_eq_true_eq] at hown
      rw [LayerAttn.upTo, if_pos hown.2] at hself
      omega
    · exact .inr hsink
    · exact absurd hnone List.not_mem_nil

/-- A page is hit by spans that are not empty where one of its positions lies in them. -/
theorem pageHit_iff {spans : List (Nat × Nat)} (hspans : ∀ r ∈ spans, r.1 < r.2) {n : Nat} :
    pageHit spans n = true ↔ ∃ j, j / 256 = n ∧ inSpans spans j := by
  simp only [pageHit, List.any_eq_true, decide_eq_true_eq, inSpans]
  constructor
  · rintro ⟨r, hr, hlo, hhi⟩
    have hlt := hspans r hr
    exact ⟨max r.1 (256 * n), by omega, r, hr, by omega, by omega⟩
  · rintro ⟨j, hj, r, hr, hlo, hhi⟩
    exact ⟨r, hr, by omega, by omega⟩

/-! ## The pages -/

/-- What the layers of a program that attend admit. -/
def attending (attn : List LayerAttn) : List LayerAttn := attn.filter fun e => e.attn

/-- The spans of all the layers, and the globals that some layer admits through its list (R162, R164). -/
def walkSpans (attn : List LayerAttn) (a b : Nat) : List (Nat × Nat) := (attending attn).flatMap fun e => layerSpans e a b
def walkGlobals (attn : List LayerAttn) (globals : List Nat) (b : Nat) : List Nat :=
  globals.filter fun j => (attending attn).any fun e => e.globalEn && (if e.exclSelf then decide (j < b) else decide (j ≤ b))

theorem mem_attending {attn : List LayerAttn} {e : LayerAttn} : e ∈ attending attn ↔ e ∈ attn ∧ e.attn = true := List.mem_filter

theorem inSpans_walkSpans {attn : List LayerAttn} {a b j : Nat} (hab : a ≤ b) :
    inSpans (walkSpans attn a b) j ↔ ∃ e ∈ attending attn, e.admitsIn [] a b j := by
  simp only [← inSpans_iff_admitsIn hab, inSpans, walkSpans, List.mem_flatMap]
  constructor
  · rintro ⟨r, ⟨e, he, hr⟩, hj⟩
    exact ⟨e, he, r, hr, hj⟩
  · rintro ⟨e, he, r, hr, hj⟩
    exact ⟨r, ⟨e, he, hr⟩, hj⟩

theorem pageHit_walkSpans {attn : List LayerAttn} {a b n : Nat} (hab : a ≤ b) :
    pageHit (walkSpans attn a b) n = true ↔ ∃ j, j / 256 = n ∧ ∃ e ∈ attending attn, e.admitsIn [] a b j := by
  have hspans : ∀ r ∈ walkSpans attn a b, r.1 < r.2 := fun r hr =>
    have ⟨_, _, hmem⟩ := List.mem_flatMap.1 hr
    layerSpans_nonempty hmem
  simp only [pageHit_iff hspans, inSpans_walkSpans hab]

theorem mem_walkGlobals {attn : List LayerAttn} {globals : List Nat} {b j : Nat} :
    j ∈ walkGlobals attn globals b ↔ ∃ e ∈ attending attn, e.globalEn = true ∧ j ∈ globals ∧ e.upTo b j := by
  have hself (e : LayerAttn) : (if e.exclSelf = true then decide (j < b) else decide (j ≤ b)) = true ↔ e.upTo b j := by
    unfold LayerAttn.upTo
    split <;> exact decide_eq_true_iff
  simp only [walkGlobals, List.mem_filter, List.any_eq_true, Bool.and_eq_true, hself]
  constructor
  · rintro ⟨hj, e, he, hen, hupTo⟩
    exact ⟨e, he, hen, hj, hupTo⟩
  · rintro ⟨e, he, hen, hj, hupTo⟩
    exact ⟨hj, e, he, hen, hupTo⟩

/-- A page is let in by the spans, or by the globals alone. -/
theorem mem_admittedPages {attn : List LayerAttn} {globals : List Nat} {a b n : Nat} {g : Bool} :
    (n, g) ∈ admittedPages attn globals a b ↔ n < b / 256 + 1 ∧
      (g = false ∧ pageHit (walkSpans attn a b) n = true ∨
        g = true ∧ pageHit (walkSpans attn a b) n = false ∧ ∃ j ∈ walkGlobals attn globals b, j / 256 = n) := by
  have hpages : admittedPages attn globals a b = (List.range (b / 256 + 1)).filterMap fun p =>
      if pageHit (walkSpans attn a b) p then some (p, false)
      else if (walkGlobals attn globals b).any fun j => j / 256 == p then some (p, true) else none := rfl
  rw [hpages, List.mem_filterMap]
  constructor
  · rintro ⟨p, hp, hsome⟩
    split at hsome
    · cases hsome
      exact ⟨List.mem_range.1 hp, .inl ⟨rfl, ‹_›⟩⟩
    · obtain ⟨hany, ⟨⟩⟩ := Option.ite_none_right_eq_some.1 hsome
      obtain ⟨j, hj, heq⟩ := List.any_eq_true.1 hany
      exact ⟨List.mem_range.1 hp, .inr ⟨rfl, Bool.eq_false_iff.2 ‹_›, j, hj, beq_iff_eq.1 heq⟩⟩
  · rintro ⟨hn, ⟨rfl, hhit⟩ | ⟨rfl, hmiss, j, hj, heq⟩⟩
    · exact ⟨n, List.mem_range.2 hn, if_pos hhit⟩
    · refine ⟨n, List.mem_range.2 hn, (if_neg (Bool.eq_false_iff.1 hmiss)).trans (if_pos ?_)⟩
      exact List.any_eq_true.2 ⟨j, hj, beq_iff_eq.2 heq⟩

/-- Settles O57: the pages of the spans by the windows and sinks, the others by the globals. -/
theorem walksAdmitExactlyTheMask : Obligations.WalksAdmitExactlyTheMask := by
  intro attn globals a b hab n
  refine ⟨⟨?_, ?_⟩, ?_⟩
  · rintro ⟨g, hpage⟩
    obtain ⟨-, ⟨-, hhit⟩ | ⟨-, -, j, hj, hn⟩⟩ := mem_admittedPages.1 hpage
    · obtain ⟨j, hn, e, he, hadmits⟩ := (pageHit_walkSpans hab).1 hhit
      obtain ⟨p, hap, hpb, h⟩ := (admitsIn_iff (globals := globals) hab).2 (.inl hadmits)
      obtain ⟨hmem, hattn⟩ := mem_attending.1 he
      exact ⟨e, hmem, hattn, p, j, hap, hpb, hn, h⟩
    · obtain ⟨e, he, hglobal⟩ := mem_walkGlobals.1 hj
      obtain ⟨p, hap, hpb, h⟩ := (admitsIn_iff hab).2 (.inr hglobal)
      obtain ⟨hmem, hattn⟩ := mem_attending.1 he
      exact ⟨e, hmem, hattn, p, j, hap, hpb, hn, h⟩
  · rintro ⟨e, hmem, hattn, p, j, hap, hpb, rfl, h⟩
    have he : e ∈ attending attn := mem_attending.2 ⟨hmem, hattn⟩
    have hlen : j / 256 < b / 256 + 1 := by
      have hlt := (admits_iff.1 h).1
      omega
    cases hhit : pageHit (walkSpans attn a b) (j / 256) with
    | true => exact ⟨false, mem_admittedPages.2 ⟨hlen, .inl ⟨rfl, hhit⟩⟩⟩
    | false =>
      obtain hadmits | hglobal := (admitsIn_iff hab).1 ⟨p, hap, hpb, h⟩
      · exact absurd ((pageHit_walkSpans hab).2 ⟨j, rfl, e, he, hadmits⟩) (Bool.eq_false_iff.1 hhit)
      · exact ⟨true, mem_admittedPages.2 ⟨hlen, .inr ⟨rfl, hhit, j, mem_walkGlobals.2 ⟨e, he, hglobal⟩, rfl⟩⟩⟩
  · intro hpage e hmem hattn p j hap hpb hn
    obtain ⟨-, ⟨hfalse, -⟩ | ⟨-, hmiss, -⟩⟩ := mem_admittedPages.1 hpage
    · cases hfalse
    · refine Bool.eq_false_iff.2 fun h => Bool.eq_false_iff.1 hmiss ?_
      exact (pageHit_walkSpans hab).2 ⟨j, hn, e, mem_attending.2 ⟨hmem, hattn⟩, p, hap, hpb, h⟩

end Sys2Proof.Machine
end

section
/-! The rows of a step (R185): while rows remain a candidate takes at least one, so the first that is skipped has found none. -/
namespace Sys2Proof.Machine

/-- The rows that a candidate asks for: a decode one, a prefill at most a chunk and what is left of its prompt. -/
def rowsWanted (chunk : Nat) (q : Request) (left : Nat) : Nat :=
  if q.length < q.promptEnd then min chunk (min (q.promptEnd - q.length) left) else 1

/-- The row that a candidate gets. -/
def rowOf (chunk left : Nat) (e : Nat × Request) : StepRow :=
  { slot := e.1, start := e.2.length, count := rowsWanted chunk e.2 left, prefill := decide (e.2.length < e.2.promptEnd),
    samples := !decide (e.2.length < e.2.promptEnd) || decide (e.2.length + rowsWanted chunk e.2 left = e.2.promptEnd),
    sampled := none, fault := 0 }

theorem selectRows_cons_zero (chunk : Nat) (e : Nat × Request) (es : List (Nat × Request)) :
    selectRows chunk (e :: es) 0 = ((selectRows chunk es 0).1, e.1 :: (selectRows chunk es 0).2) := rfl

theorem selectRows_cons {chunk left : Nat} (hleft : left ≠ 0) (e : Nat × Request) (es : List (Nat × Request)) :
    selectRows chunk (e :: es) left =
      (rowOf chunk left e :: (selectRows chunk es (left - rowsWanted chunk e.2 left)).1,
        (selectRows chunk es (left - rowsWanted chunk e.2 left)).2) := by
  rw [selectRows, if_neg hleft]
  simp only [rowOf, rowsWanted, decide_eq_true_eq]
  rfl

theorem one_le_rowsWanted {chunk left : Nat} (hchunk : 1 ≤ chunk) (hleft : left ≠ 0) (q : Request) : 1 ≤ rowsWanted chunk q left := by
  unfold rowsWanted
  split <;> omega

theorem rowsWanted_le {chunk left : Nat} (hleft : left ≠ 0) (q : Request) : rowsWanted chunk q left ≤ left := by
  unfold rowsWanted
  split <;> omega

/-- The rows that a selection takes. -/
def rowsTaken (q : List StepRow × List Nat) : Nat := (q.1.map (·.count)).sum

theorem rowsTaken_cons {chunk left : Nat} (hleft : left ≠ 0) (e : Nat × Request) (es : List (Nat × Request)) :
    rowsTaken (selectRows chunk (e :: es) left) =
      rowsWanted chunk e.2 left + rowsTaken (selectRows chunk es (left - rowsWanted chunk e.2 left)) := by
  rw [selectRows_cons hleft]
  exact List.sum_cons

/-- Without a row left every candidate is skipped. -/
theorem selectRows_zero (chunk : Nat) (es : List (Nat × Request)) : selectRows chunk es 0 = ([], es.map (·.1)) := by
  induction es with
  | nil => rfl
  | cons e es ih => rw [selectRows_cons_zero, ih, List.map_cons]

theorem rowsTaken_le (chunk : Nat) (es : List (Nat × Request)) (left : Nat) : rowsTaken (selectRows chunk es left) ≤ left := by
  induction es generalizing left with
  | nil => exact Nat.zero_le _
  | cons e es ih =>
    by_cases hleft : left = 0
    · subst hleft
      rw [selectRows_zero]
      exact Nat.le_refl 0
    · have hrest := ih (left - rowsWanted chunk e.2 left)
      have hown := rowsWanted_le (chunk := chunk) hleft e.2
      rw [rowsTaken_cons hleft]
      omega

theorem selectRows_order (chunk : Nat) (es : List (Nat × Request)) (left : Nat) :
    (selectRows chunk es left).1.map (·.slot) ++ (selectRows chunk es left).2 = es.map (·.1) := by
  induction es generalizing left with
  | nil => rfl
  | cons e es ih =>
    by_cases hleft : left = 0
    · subst hleft
      rw [selectRows_zero]
      rfl
    · rw [selectRows_cons hleft, List.map_cons, List.map_cons, List.cons_append, ih]
      rfl

theorem rowsTaken_of_skipped {chunk : Nat} {es : List (Nat × Request)} {left : Nat} (h : (selectRows chunk es left).2 ≠ []) :
    rowsTaken (selectRows chunk es left) = left := by
  induction es generalizing left with
  | nil => exact absurd rfl h
  | cons e es ih =>
    by_cases hleft : left = 0
    · subst hleft
      rw [selectRows_zero]
      rfl
    · rw [selectRows_cons hleft] at h
      have hrest := ih h
      have hown := rowsWanted_le (chunk := chunk) hleft e.2
      rw [rowsTaken_cons hleft]
      omega

/-- What a row that is taken gives its candidate. -/
def RowFits (chunk : Nat) (e : Nat × Request) (w : StepRow) : Prop :=
  w.slot = e.1 ∧ w.start = e.2.length ∧ 1 ≤ w.count ∧ (e.2.promptEnd ≤ e.2.length → w.count = 1) ∧
    (e.2.length < e.2.promptEnd → w.count ≤ chunk ∧ w.start + w.count ≤ e.2.promptEnd)

theorem rowFits_rowOf {chunk left : Nat} (hchunk : 1 ≤ chunk) (hleft : left ≠ 0) (e : Nat × Request) :
    RowFits chunk e (rowOf chunk left e) := by
  refine ⟨rfl, rfl, one_le_rowsWanted hchunk hleft e.2, fun hdecode => if_neg (Nat.not_lt.2 hdecode), fun hprefill => ?_⟩
  have hcount : (rowOf chunk left e).count = min chunk (min (e.2.promptEnd - e.2.length) left) := if_pos hprefill
  have hstart : (rowOf chunk left e).start = e.2.length := rfl
  omega

theorem selectRows_fits {chunk : Nat} (hchunk : 1 ≤ chunk) {es : List (Nat × Request)} {left : Nat} {w : StepRow}
    (hw : w ∈ (selectRows chunk es left).1) : ∃ e ∈ es, RowFits chunk e w := by
  induction es generalizing left with
  | nil => cases hw
  | cons e es ih =>
    by_cases hleft : left = 0
    · subst hleft
      rw [selectRows_zero] at hw
      cases hw
    · rw [selectRows_cons hleft] at hw
      obtain rfl | hw := List.mem_cons.1 hw
      · exact ⟨e, List.mem_cons_self, rowFits_rowOf hchunk hleft e⟩
      · obtain ⟨x, hx, hfits⟩ := ih hw
        exact ⟨x, List.mem_cons_of_mem e hx, hfits⟩

/-- Settles O58, by induction along the ranked candidates. -/
theorem rowsFitTheStep : Obligations.RowsFitTheStep := fun chunk es left hchunk =>
  ⟨rowsTaken_le chunk es left, selectRows_order chunk es left, rowsTaken_of_skipped, fun _ => selectRows_fits hchunk⟩

end Sys2Proof.Machine
end

section
/-! The token that is sampled (R189): one of the row's ids, and at temperature 0 the first of those with the largest logit. -/
namespace Sys2Proof.Machine

/-! ## Logits -/

theorem fpIsNan_logitOf (w : Word) : fpIsNan (logitOf w) = false := by
  unfold logitOf
  split
  case isTrue => decide
  case isFalse hnan =>
    split
    · decide
    · exact Bool.eq_false_iff.2 hnan

/-- The order of logits is that of their keys. -/
theorem fpLt_of_logits {a b : Word} (ha : fpIsNan a = false) (hb : fpIsNan b = false) : fpLt a b = decide (fpKey a < fpKey b) := by
  rw [fpLt, ha, hb]
  rfl

/-! ## The largest -/

theorem length_enum {α : Type} (l : List α) : (enum l).length = l.length := by
  simp [enum]

theorem enum_eq_map {α : Type} (l : List α) (d : α) : enum l = (List.range l.length).map fun i => (i, l.getD i d) := by
  refine List.ext_getElem (by simp [length_enum]) fun i hi _ => ?_
  rw [length_enum] at hi
  simp [enum, hi]

/-- One step of the search: a later value counts where it is larger. -/
def largerOf (best e : Nat × Word) : Nat × Word := if fpLt best.2 e.2 then e else best

/-- Over the first values of a row, the position is the lowest one of the largest of them. -/
def FirstLargest (z : Nat → Word) (k : Nat) (best : Nat × Word) : Prop :=
  best.1 < k ∧ best.2 = z best.1 ∧ ∀ j < k, fpKey (z j) ≤ fpKey (z best.1) ∧ (j < best.1 → fpKey (z j) < fpKey (z best.1))

theorem firstLargest_step {z : Nat → Word} (hz : ∀ i, fpIsNan (z i) = false) {k : Nat} {best : Nat × Word}
    (h : FirstLargest z k best) : FirstLargest z (k + 1) (largerOf best (k, z k)) := by
  obtain ⟨hlt, hval, hbest⟩ := h
  unfold largerOf
  rw [hval, fpLt_of_logits (hz _) (hz _)]
  split
  case isTrue hlarger =>
    have hlarger := of_decide_eq_true hlarger
    refine ⟨Nat.lt_succ_self k, rfl, fun j hj => ?_⟩
    obtain hj | rfl := Nat.lt_succ_iff_lt_or_eq.1 hj
    · have hle := (hbest j hj).1
      exact ⟨by dsimp only; omega, fun _ => by dsimp only; omega⟩
    · exact ⟨Int.le_refl _, fun h => absurd h (Nat.lt_irrefl _)⟩
  case isFalse hsmaller =>
    have hsmaller : ¬ fpKey (z best.1) < fpKey (z k) := fun h => hsmaller (decide_eq_true h)
    refine ⟨Nat.lt_succ_of_lt hlt, hval, fun j hj => ?_⟩
    obtain hj | rfl := Nat.lt_succ_iff_lt_or_eq.1 hj
    · exact hbest j hj
    · exact ⟨Int.not_lt.1 hsmaller, fun h => absurd h (Nat.not_lt.2 (Nat.le_of_lt hlt))⟩

theorem firstLargest_foldl {z : Nat → Word} (hz : ∀ i, fpIsNan (z i) = false) (k : Nat) :
    FirstLargest z (k + 1) (((List.range (k + 1)).map fun i => (i, z i)).foldl largerOf (0, z 0)) := by
  induction k with
  | zero =>
    have hone : ((List.range 1).map fun i => (i, z i)).foldl largerOf (0, z 0) = (0, z 0) := ite_self (0, z 0)
    rw [hone]
    refine ⟨Nat.one_pos, rfl, fun j hj => ?_⟩
    obtain rfl := Nat.lt_one_iff.1 hj
    exact ⟨Int.le_refl _, fun h => absurd h (Nat.lt_irrefl 0)⟩
  | succ k ih =>
    rw [List.range_succ, List.map_append, List.foldl_append]
    exact firstLargest_step hz ih

/-- The greatest logit of a row that is not empty is the first of the largest. -/
theorem firstLargest_argMax {l : List Word} (hl : l ≠ []) (hnan : ∀ x ∈ l, fpIsNan x = false) :
    argMax l < l.length ∧ ∀ j < l.length,
      fpLt (l.getD (argMax l) fpZero) (l.getD j fpZero) = false ∧
      (j < argMax l → fpLt (l.getD j fpZero) (l.getD (argMax l) fpZero) = true) := by
  have hz : ∀ i, fpIsNan (l.getD i fpZero) = false := fun i => by
    rw [List.getD_eq_getElem?_getD]
    cases hget : l[i]? with
    | none => decide
    | some x => exact hnan x (List.mem_of_getElem? hget)
  obtain ⟨k, hk⟩ : ∃ k, l.length = k + 1 := Nat.exists_eq_succ_of_ne_zero (mt List.length_eq_zero_iff.1 hl)
  have hhead : l.headD fpNegInf = l.getD 0 fpZero := by
    cases l with
    | nil => exact absurd rfl hl
    | cons x xs => rfl
  have hmax : argMax l = (((List.range (k + 1)).map fun i => (i, l.getD i fpZero)).foldl largerOf (0, l.getD 0 fpZero)).1 := by
    rw [← hk, ← enum_eq_map, ← hhead]
    rfl
  obtain ⟨hlt, -, hbest⟩ := firstLargest_foldl hz k
  rw [← hmax] at hlt hbest
  rw [hk]
  refine ⟨hlt, fun j hj => ?_⟩
  obtain ⟨hle, hfirst⟩ := hbest j hj
  rw [fpLt_of_logits (hz _) (hz _), fpLt_of_logits (hz _) (hz _)]
  exact ⟨decide_eq_false (Int.not_lt.2 hle), fun h => decide_eq_true (hfirst h)⟩

/-! ## A draw -/

theorem lt_length_of_mem_enum {α : Type} {l : List α} {e : Nat × α} (h : e ∈ enum l) : e.1 < l.length :=
  List.mem_range.1 (List.of_mem_zip h).1

/-- Every token that can be drawn is an id of the row. -/
theorem lt_length_of_mem_byValue {z : List Word} {e : Nat × Word} (h : e ∈ byValue z) : e.1 < z.length :=
  lt_length_of_mem_enum ((sortBy_perm _ _).mem_iff.1 h)

theorem getD_fst_lt {l : List (Nat × Word)} {n : Nat} (hn : 0 < n) (h : ∀ e ∈ l, e.1 < n) (i : Nat) :
    (l.getD i (0, fpZero)).1 < n := by
  rw [List.getD_eq_getElem?_getD]
  cases hget : l[i]? with
  | none => exact hn
  | some e => exact h e (List.mem_of_getElem? hget)

theorem drawToken_lt (d : Draw) {l : List Word} (hl : l ≠ []) (hnan : ∀ x ∈ l, fpIsNan x = false) :
    (drawToken d l).1 < l.length := by
  unfold drawToken
  split
  case isTrue => exact (firstLargest_argMax hl hnan).1
  case isFalse =>
    refine getD_fst_lt (List.length_pos_iff.2 hl) (fun e he => ?_) _
    have hvalue : e ∈ byValue (l.map (scaled d.temperature)) := by
      split at he
      · exact List.mem_of_mem_take he
      · exact he
    have hlt := lt_length_of_mem_byValue hvalue
    rwa [List.length_map] at hlt

theorem drawToken_zero {d : Draw} (hd : (ofFp d.temperature).isZero = true) (l : List Word) :
    drawToken d l = (argMax l, fpZero) := if_pos hd

/-! ## A row -/

theorem sampleRow_eq_none {d : Draw} {row : List Word} : sampleRow d row = none ↔ ∀ x ∈ row, logitOf x = fpNegInf := by
  simp [sampleRow]

theorem sampleRow_eq_some {d : Draw} {row : List Word} {q : Nat × Word} (h : sampleRow d row = some q) :
    row.map logitOf ≠ [] ∧ q = drawToken d (row.map logitOf) := by
  have hnone := mt (sampleRow_eq_none (d := d) (row := row)).2 (by rw [h]; exact Option.some_ne_none q)
  have hall : ¬ (row.map logitOf).all (· == fpNegInf) = true := by simpa using hnone
  rw [sampleRow, if_neg hall] at h
  exact ⟨fun hnil => hall (by rw [hnil]; rfl), (Option.some.inj h).symm⟩

/-- Settles O59: the draw takes its token from the sorted ids of the row, and at temperature 0 searches the largest logit. -/
theorem sampledTokensAreOfTheVocabulary : Obligations.SampledTokensAreOfTheVocabulary := by
  refine fun d row => ⟨sampleRow_eq_none, fun tok lp hsome => ?_⟩
  obtain ⟨hrow, hdrawn⟩ := sampleRow_eq_some hsome
  have hnan : ∀ x ∈ row.map logitOf, fpIsNan x = false := fun x hx => by
    obtain ⟨w, -, rfl⟩ := List.mem_map.1 hx
    exact fpIsNan_logitOf w
  have htok := drawToken_lt d hrow hnan
  rw [← hdrawn, List.length_map] at htok
  refine ⟨htok, fun hzero => ?_⟩
  rw [drawToken_zero hzero] at hdrawn
  obtain ⟨rfl, rfl⟩ := Prod.mk.inj hdrawn
  have hlargest := (firstLargest_argMax hrow hnan).2
  rw [List.length_map] at hlargest
  exact ⟨rfl, hlargest⟩

end Sys2Proof.Machine
end

section
/-! A layer at a boundary (R105): the samples are appended, and then a command, a widening or a relaxation moves the layer. -/
namespace Sys2Proof.Machine

/-- Appending samples changes the history alone. -/
theorem appendAll_kept (g : Safeguard) (r : LayerRec) (excs : List Bool) :
    (appendAll g r excs).1.state = r.state ∧ (appendAll g r excs).1.relaxLeft = r.relaxLeft := by
  induction excs generalizing r with
  | nil => exact ⟨rfl, rfl⟩
  | cons e es ih => exact ih (r.append e)

/-! ## The steps of a boundary -/

section
variable (g : Safeguard) (autoEn ended : Bool) (r : LayerRec) (excs : List Bool)

/-- The count of a narrow layer reached TT_M, and it may widen by itself. -/
def layerWidens : Bool := (appendAll g r excs).2 && r.state == ltNarrow && g.autoWiden && autoEn

/-- The layer after its samples, where the count that was reached has cleared the history. -/
def layerSampled : LayerRec :=
  if ((appendAll g r excs).2 && r.state == ltNarrow && !layerWidens g autoEn r excs) || ((appendAll g r excs).2 && r.state != ltNarrow)
  then (appendAll g r excs).1.clearHist else (appendAll g r excs).1

/-- A widened layer counts its steps down where the relaxation is on. -/
def layerCounts : Bool := ended && (layerSampled g autoEn r excs).state == ltWidened && g.relaxSteps != 0

/-- The steps that are left of a relaxation. -/
def layerLeft : Nat := if excs.any id then g.relaxSteps else (layerSampled g autoEn r excs).relaxLeft - 1

/-- The layer before a state is entered. -/
def layerCounted : LayerRec :=
  { (if layerCounts g autoEn ended r excs then { layerSampled g autoEn r excs with relaxLeft := layerLeft g autoEn r excs }
     else layerSampled g autoEn r excs) with cmd := 0 }

theorem layerBoundary_eq : (layerBoundary g autoEn ended r excs).rec_ =
    if r.cmd = 1 then
      if r.state = ltNarrow then
        if layerWidens g autoEn r excs then (layerCounted g autoEn ended r excs).clearHist else layerCounted g autoEn ended r excs
      else (layerCounted g autoEn ended r excs).enter g ltNarrow
    else if r.cmd = 2 then
      if r.state = ltPinned then layerCounted g autoEn ended r excs else (layerCounted g autoEn ended r excs).enter g ltPinned
    else if layerWidens g autoEn r excs then
      { (layerCounted g autoEn ended r excs).enter g ltWidened with
        widenCount := min ((layerCounted g autoEn ended r excs).widenCount + 1) 0xFFFF }
    else if layerCounts g autoEn ended r excs && layerLeft g autoEn r excs == 0 then (layerCounted g autoEn ended r excs).enter g ltNarrow
    else layerCounted g autoEn ended r excs := by
  unfold layerBoundary
  simp only [apply_ite LayerStep.rec_]
  rfl

theorem layerSampled_kept : (layerSampled g autoEn r excs).state = r.state ∧ (layerSampled g autoEn r excs).relaxLeft = r.relaxLeft := by
  unfold layerSampled
  split <;> exact appendAll_kept g r excs

theorem layerWidens_iff : layerWidens g autoEn r excs = true ↔
    (appendAll g r excs).2 = true ∧ r.state = ltNarrow ∧ g.autoWiden = true ∧ autoEn = true := by
  simp [layerWidens, and_assoc]

theorem layerCounts_iff : layerCounts g autoEn ended r excs = true ↔ ended = true ∧ r.state = ltWidened ∧ g.relaxSteps ≠ 0 := by
  simp [layerCounts, layerSampled_kept, and_assoc]

theorem layerLeft_eq : layerLeft g autoEn r excs = if excs.any id = true then g.relaxSteps else r.relaxLeft - 1 := by
  rw [layerLeft, (layerSampled_kept g autoEn r excs).2]

theorem layerCounted_cmd : (layerCounted g autoEn ended r excs).cmd = 0 := rfl

theorem layerCounted_state : (layerCounted g autoEn ended r excs).state = r.state := by
  refine Eq.trans ?_ (layerSampled_kept g autoEn r excs).1
  unfold layerCounted
  split <;> rfl

theorem layerCounted_relaxLeft : (layerCounted g autoEn ended r excs).relaxLeft =
    if layerCounts g autoEn ended r excs = true then layerLeft g autoEn r excs else r.relaxLeft := by
  rw [← (layerSampled_kept g autoEn r excs).2]
  unfold layerCounted
  split <;> rfl

/-! ## Where a layer goes -/

/-- What a boundary may leave of a layer: it is in its state still, or it has entered another with an empty history. -/
def MovesTo (st : Nat) (q : LayerRec) : Prop :=
  q.cmd = 0 ∧ q.state = st ∧
    (q.state ≠ r.state → q.hist = 0 ∧ q.histLen = 0 ∧ q.relaxLeft = if q.state = ltWidened then g.relaxSteps else 0)

theorem movesTo_layerCounted : MovesTo g r r.state (layerCounted g autoEn ended r excs) :=
  ⟨rfl, layerCounted_state g autoEn ended r excs, fun h => absurd (layerCounted_state g autoEn ended r excs) h⟩

theorem movesTo_enter (st : Nat) : MovesTo g r st ((layerCounted g autoEn ended r excs).enter g st) :=
  ⟨rfl, rfl, fun _ => ⟨rfl, rfl, rfl⟩⟩

theorem movesTo_narrow_of_cmd (h : r.cmd = 1) : MovesTo g r ltNarrow (layerBoundary g autoEn ended r excs).rec_ := by
  rw [layerBoundary_eq, if_pos h]
  split
  case isTrue hn =>
    rw [← hn]
    split
    · exact ⟨rfl, layerCounted_state g autoEn ended r excs, fun h => absurd (layerCounted_state g autoEn ended r excs) h⟩
    · exact movesTo_layerCounted g autoEn ended r excs
  case isFalse => exact movesTo_enter g autoEn ended r excs ltNarrow

theorem movesTo_pinned_of_cmd (h : r.cmd = 2) : MovesTo g r ltPinned (layerBoundary g autoEn ended r excs).rec_ := by
  rw [layerBoundary_eq, h, if_neg (by decide), if_pos rfl]
  split
  case isTrue hp => exact hp ▸ movesTo_layerCounted g autoEn ended r excs
  case isFalse => exact movesTo_enter g autoEn ended r excs ltPinned

end

section
variable {g : Safeguard} {autoEn ended : Bool} {r : LayerRec} {excs : List Bool}

theorem movesTo_widened (hcmd : r.cmd ≠ 1 ∧ r.cmd ≠ 2) (h : layerWidens g autoEn r excs = true) :
    MovesTo g r ltWidened (layerBoundary g autoEn ended r excs).rec_ := by
  rw [layerBoundary_eq, if_neg hcmd.1, if_neg hcmd.2, if_pos h]
  exact movesTo_enter g autoEn ended r excs ltWidened

theorem movesTo_relaxed (hcmd : r.cmd ≠ 1 ∧ r.cmd ≠ 2) (hw : layerWidens g autoEn r excs = false)
    (h : (layerCounts g autoEn ended r excs && layerLeft g autoEn r excs == 0) = true) :
    MovesTo g r ltNarrow (layerBoundary g autoEn ended r excs).rec_ := by
  rw [layerBoundary_eq, if_neg hcmd.1, if_neg hcmd.2, hw, if_neg Bool.false_ne_true, if_pos h]
  exact movesTo_enter g autoEn ended r excs ltNarrow

theorem layerBoundary_stays (hcmd : r.cmd ≠ 1 ∧ r.cmd ≠ 2) (hw : layerWidens g autoEn r excs = false)
    (h : (layerCounts g autoEn ended r excs && layerLeft g autoEn r excs == 0) = false) :
    (layerBoundary g autoEn ended r excs).rec_ = layerCounted g autoEn ended r excs := by
  rw [layerBoundary_eq, if_neg hcmd.1, if_neg hcmd.2, hw, if_neg Bool.false_ne_true, h, if_neg Bool.false_ne_true]

/-- A layer moves to one state, and what it enters it enters with an empty history. -/
theorem layerBoundary_moves (g : Safeguard) (autoEn ended : Bool) (r : LayerRec) (excs : List Bool) :
    ∃ st, MovesTo g r st (layerBoundary g autoEn ended r excs).rec_ := by
  by_cases h1 : r.cmd = 1
  · exact ⟨_, movesTo_narrow_of_cmd g autoEn ended r excs h1⟩
  by_cases h2 : r.cmd = 2
  · exact ⟨_, movesTo_pinned_of_cmd g autoEn ended r excs h2⟩
  cases hw : layerWidens g autoEn r excs with
  | true => exact ⟨_, movesTo_widened ⟨h1, h2⟩ hw⟩
  | false =>
    cases hb : layerCounts g autoEn ended r excs && layerLeft g autoEn r excs == 0 with
    | true => exact ⟨_, movesTo_relaxed ⟨h1, h2⟩ hw hb⟩
    | false => exact ⟨_, layerBoundary_stays ⟨h1, h2⟩ hw hb ▸ movesTo_layerCounted g autoEn ended r excs⟩

/-- Only the count of a narrow layer widens it. -/
theorem layerWidens_of_not_narrow (h : r.state ≠ ltNarrow) : layerWidens g autoEn r excs = false :=
  Bool.eq_false_iff.2 fun hw => h ((layerWidens_iff g autoEn r excs).1 hw).2.1

/-- Only a widened layer relaxes. -/
theorem layerCounts_of_not_widened (h : r.state ≠ ltWidened) : layerCounts g autoEn ended r excs = false :=
  Bool.eq_false_iff.2 fun hc => h ((layerCounts_iff g autoEn ended r excs).1 hc).2.1

theorem layerBoundary_pinned (hcmd : r.cmd ≠ 1 ∧ r.cmd ≠ 2) (hst : r.state = ltPinned) :
    (layerBoundary g autoEn ended r excs).rec_.state = ltPinned := by
  have hw : layerWidens g autoEn r excs = false := layerWidens_of_not_narrow (by rw [hst]; decide)
  have hc : layerCounts g autoEn ended r excs = false := layerCounts_of_not_widened (by rw [hst]; decide)
  rw [layerBoundary_stays hcmd hw (by rw [hc]; rfl), layerCounted_state, hst]

theorem layerBoundary_narrow (hcmd : r.cmd ≠ 1 ∧ r.cmd ≠ 2) (hst : r.state = ltNarrow) :
    (layerBoundary g autoEn ended r excs).rec_.state = if layerWidens g autoEn r excs = true then ltWidened else ltNarrow := by
  have hc : layerCounts g autoEn ended r excs = false := layerCounts_of_not_widened (by rw [hst]; decide)
  cases hw : layerWidens g autoEn r excs with
  | true => exact (movesTo_widened hcmd hw).2.1
  | false =>
    rw [layerBoundary_stays hcmd hw (by rw [hc]; rfl), layerCounted_state, hst]
    rfl

/-- A widened layer relaxes where its count comes to an end, and else it stays with what is left of the count. -/
theorem layerBoundary_widened (hcmd : r.cmd ≠ 1 ∧ r.cmd ≠ 2) (hst : r.state = ltWidened) :
    ((ended = true ∧ g.relaxSteps ≠ 0) ∧ layerLeft g autoEn r excs = 0 ∧
        (layerBoundary g autoEn ended r excs).rec_.state = ltNarrow) ∨
    (¬ ((ended = true ∧ g.relaxSteps ≠ 0) ∧ layerLeft g autoEn r excs = 0) ∧
      (layerBoundary g autoEn ended r excs).rec_.state = ltWidened ∧
      (layerBoundary g autoEn ended r excs).rec_.relaxLeft =
        if ended = true ∧ g.relaxSteps ≠ 0 then layerLeft g autoEn r excs else r.relaxLeft) := by
  have hw : layerWidens g autoEn r excs = false := layerWidens_of_not_narrow (by rw [hst]; decide)
  have hcount : layerCounts g autoEn ended r excs = true ↔ ended = true ∧ g.relaxSteps ≠ 0 := by simp [layerCounts_iff, hst]
  simp only [← hcount]
  by_cases h : layerCounts g autoEn ended r excs = true ∧ layerLeft g autoEn r excs = 0
  · exact .inl ⟨h.1, h.2, (movesTo_relaxed hcmd hw (by simpa using h)).2.1⟩
  · refine .inr ⟨h, ?_⟩
    rw [layerBoundary_stays hcmd hw (by simpa using h), layerCounted_state, layerCounted_relaxLeft]
    exact ⟨hst, rfl⟩

/-- Settles O60: a boundary ends in one of the moves of R105's table. -/
theorem layersMoveOnlyAsTheTableSays : Obligations.LayersMoveOnlyAsTheTableSays := by
  intro g autoEn ended r excs _
  obtain ⟨_, hcmd, -, hentered⟩ := layerBoundary_moves g autoEn ended r excs
  have hfree : r.cmd = 0 → r.cmd ≠ 1 ∧ r.cmd ≠ 2 := fun h => by omega
  refine ⟨hcmd, fun h => (movesTo_narrow_of_cmd g autoEn ended r excs h).2.1,
    fun h => (movesTo_pinned_of_cmd g autoEn ended r excs h).2.1, fun h => layerBoundary_pinned (hfree h), fun h hst => ?_,
    fun h hst => ?_, hentered⟩
  · rw [layerBoundary_narrow (hfree h) hst]
    have hwidens := layerWidens_iff g autoEn r excs
    simp only [hst, true_and] at hwidens
    rw [← hwidens]
    cases layerWidens g autoEn r excs <;> decide
  · have hmove := layerBoundary_widened (autoEn := autoEn) (ended := ended) (excs := excs) (g := g) (hfree h) hst
    rw [layerLeft_eq] at hmove
    obtain ⟨⟨hended, hsteps⟩, hleft, hstate⟩ | ⟨hgoes, hstays⟩ := hmove
    · have hnone : excs.any id = false := Bool.eq_false_iff.2 fun happended => by
        rw [if_pos happended] at hleft
        exact hsteps hleft
      rw [hnone, if_neg Bool.false_ne_true] at hleft
      exact ⟨⟨fun _ => ⟨hended, hsteps, hnone, hleft⟩, fun _ => hstate⟩, .inl hstate⟩
    · refine ⟨⟨fun hnarrow => absurd (hstays.1.symm.trans hnarrow) (by decide), fun hends => absurd ?_ hgoes⟩, .inr hstays⟩
      obtain ⟨hended, hsteps, hnone, hleft⟩ := hends
      exact ⟨⟨hended, hsteps⟩, by rw [hnone]; exact hleft⟩

end
end Sys2Proof.Machine
end

section
/-! A record that is raised (R408 to R410): it merges, or it takes the next SEQ and its slot of the ring. -/
namespace Sys2Proof.Machine

/-- A record has what another one says of its occurrence, its time and its SEQ. -/
def Record.tells (x r : Record) : Prop :=
  x.cause = r.cause ∧ x.cls = r.cls ∧ x.info0 = r.info0 ∧ x.time = r.time ∧ x.seq = r.seq

/-- The log gives a record at most its LOG_INDEX, and it leaves the ring. -/
theorem Faults.logOffer_kept (f : Faults) (r : Record) :
    (f.logOffer r).2.tells r ∧ (f.logOffer r).1.ring = f.ring := by
  have hsame : ∀ i, Record.tells { r with logIndex := i } r := fun _ => ⟨rfl, rfl, rfl, rfl, rfl⟩
  cases hlogs : f.logs r with
  | false => rw [f.logOffer_of_not_logs hlogs]; exact ⟨hsame _, rfl⟩
  | true =>
    cases hfinds : f.finds r with
    | true => rw [f.logOffer_of_finds hlogs hfinds]; exact ⟨hsame _, rfl⟩
    | false =>
      by_cases hroom : f.logQueue.length < 64
      · rw [f.logOffer_of_waits hlogs hfinds hroom]; exact ⟨hsame _, rfl⟩
      · rw [f.logOffer_of_queue_full hlogs hfinds (Nat.not_lt.1 hroom)]; exact ⟨hsame _, rfl⟩

/-- A notice leaves the ring and the SEQ of the next record. -/
theorem State.notify_ring (s : State) (n : Notice) :
    (s.notify n).flt.ring = s.flt.ring ∧ (s.notify n).flt.seq = s.flt.seq := by
  unfold State.notify
  split
  · exact ⟨rfl, rfl⟩
  · exact ⟨rfl, rfl⟩

theorem State.notify_notices {s : State} (n : Notice) (h : s.st.notices.length < 256) :
    (s.notify n).st.notices = s.st.notices ++ [n] := by
  rw [State.notify, if_pos h]

/-- A record with what raising gives it: the time, the next SEQ and the step number. -/
def State.stamped (s : State) (r : Record) : Record :=
  { r with time := s.time, seq := s.flt.seq, step := match s.ctx? r.ctx with | some c => c.stepNo | none => 0 }

/-- The state with a record in its slot of the ring. -/
def State.ringed (s : State) (r : Record) : State :=
  { s with flt := { (s.flt.logOffer (s.stamped r)).1 with
      ring := tset (s.flt.logOffer (s.stamped r)).1.ring (s.flt.seq % 1024) (s.flt.logOffer (s.stamped r)).2,
      seq := (s.flt.seq + 1) % 2 ^ 32,
      err := (s.flt.logOffer (s.stamped r)).1.err ||| recFlags (s.stamped r) } }

theorem State.raise_merged {s : State} {r : Record} {k : Nat} (h : s.flt.mergeSlot s.time r = some k) :
    s.raise r =
      { s with flt := { s.flt with ring := tmod s.flt.ring k fun e => { e with repeats := min (e.repeats + 1) 0xFFFFFFFF } } } := by
  rw [State.raise, h]

theorem State.raise_merged_ring {s : State} {r : Record} {k : Nat} (h : s.flt.mergeSlot s.time r = some k) :
    (s.raise r).flt.ring = tmod s.flt.ring k fun e => { e with repeats := min (e.repeats + 1) 0xFFFFFFFF } := by
  rw [State.raise_merged h]

theorem State.raise_new {s : State} {r : Record} (h : s.flt.mergeSlot s.time r = none) :
    s.raise r = if r.cls ≤ clsFT ∧ s.st.eventMin ≤ r.cls then (s.ringed r).notify (.event (s.flt.logOffer (s.stamped r)).2)
      else s.ringed r := by
  rw [State.raise, h]
  simp only [Bool.and_eq_true, decide_eq_true_eq]
  rfl

/-- Settles O47: a merged record counts in its slot; a new one goes into the ring, and its notice leaves the ring. -/
theorem recordsGoIntoTheRing : Obligations.RecordsGoIntoTheRing := by
  refine fun s r => ⟨fun hnew => ?_, fun k hmerged => ?_⟩
  · obtain ⟨⟨hcause, hcls, hinfo, htime, hseq⟩, hring⟩ := s.flt.logOffer_kept (s.stamped r)
    have hkept : (s.raise r).flt.ring = (s.ringed r).flt.ring ∧ (s.raise r).flt.seq = (s.ringed r).flt.seq := by
      rw [State.raise_new hnew]
      split
      · exact State.notify_ring _ _
      · exact ⟨rfl, rfl⟩
    refine ⟨_, hcause, hcls, hinfo, htime, hseq, ?_, fun k hk => ?_, hkept.2, fun hlow hmin hroom => ?_, fun hquiet => ?_⟩
    · rw [hkept.1]
      exact tget_tset_self _ _ _
    · rw [hkept.1]
      exact (tget_tset_ne _ _ hk).trans (by rw [hring])
    · rw [State.raise_new hnew, if_pos ⟨hlow, hmin⟩]
      exact State.notify_notices _ hroom
    · rw [State.raise_new hnew, if_neg (by omega)]
      rfl
  · refine ⟨by rw [State.raise_merged hmerged], by rw [State.raise_merged hmerged], fun i => ?_⟩
    rw [State.raise_merged_ring hmerged]
    split
    case isTrue hi => exact hi ▸ tget_tmod_self _ _ _
    case isFalse hi => exact tget_tmod_ne _ _ hi

end Sys2Proof.Machine
end

section
/-! A request that is heard and passes the checks of its command: what acts, what is answered, and what the answer sets off. -/
namespace Sys2Proof.Machine

/-! ## Checks -/

theorem firstErr_cons_pass {b : Bool} {a : Ans} {cs : List (Bool × Ans)} (h : b = false) : firstErr ((b, a) :: cs) = firstErr cs := by
  rw [h]
  rfl

theorem guardAct_passes {cs : List (Bool × Ans)} {s : State} {q : State × Ans} (h : firstErr cs = none) : guardAct cs s q = q := by
  rw [guardAct, h]

/-- Checks whose conditions all hold pass. -/
theorem firstErr_none {cs : List (Bool × Ans)} (h : ∀ c ∈ cs, c.1 = false) : firstErr cs = none := by
  induction cs with
  | nil => rfl
  | cons c cs ih => exact (firstErr_cons_pass (h c List.mem_cons_self)).trans (ih fun d hd => h d (List.mem_cons_of_mem c hd))

theorem firstErr_eq_none {cs : List (Bool × Ans)} : firstErr cs = none ↔ ∀ c ∈ cs, c.1 = false := by
  refine ⟨fun h => ?_, firstErr_none⟩
  induction cs with
  | nil => exact fun c hc => absurd hc List.not_mem_nil
  | cons c cs ih =>
    obtain ⟨b, a⟩ := c
    cases b with
    | true => exact absurd h (Option.some_ne_none a)
    | false =>
      intro c hc
      obtain rfl | hc := List.mem_cons.1 hc
      · rfl
      · exact ih h c hc

theorem guardAct_one {c : Bool × Ans} {s : State} {q : State × Ans} (h : c.1 = false) : guardAct [c] s q = q :=
  guardAct_passes (firstErr_cons_pass h)

/-! ## What is heard -/

/-- What does not look at the channels, the numbers of arrival and the log of what went out reads the same of a request that
is heard. -/
theorem heard_reads {α : Sort _} {f : State → α} (s : State) (r : Req)
    (hf : ∀ cs n m o, f { s with st := { s.st with chans := cs, arrivals := n, current := m }, out := o } = f s) :
    f (s.heard r) = f s := by
  obtain ⟨cs, o, h⟩ := heard_eq s r
  rw [h, hf]

/-- All parts but the keys of the channels and what has been said. -/
def actParts : List Comp :=
  [.time, .cn, .id, .pwr, .flt, .btb, .hif, .st, .masts, .ctxs, .zeroing, .reqs, .sess, .srvSel, .srvErr, .exports, .nextExp,
   .imports, .hal, .nlc, .col, .pmc, .out, .free, .pending, .mem, .caps, .svn, .fatal, .fenced, .cells]

section
variable {k : Cmd} {i : Instr} {r : Req} {s x : State} {a : Ans}

/-- A request that is heard acts. -/
theorem Heard.acts (h : Heard k r s) (e : exec i s = stauc k r s) (kept : ∀ u, Cmd.Kept actParts u k)
    (ha : k.after = fun _ _ y => y) (hx : k.act r (s.heard r) = (x, a)) : Acts k i r s x a := by
  have hagree : Agree actParts (s.heard r) x := by
    have := (kept (s.heard r)).1 r _ (Agree.refl _ _)
    rwa [hx] at this
  obtain ⟨t, ht, hanswered, -, hsame, hst⟩ := heard_runs h e ha hx (hagree.part .chanKeys (by decide))
  exact ⟨t, ht, hsame, hst, hanswered⟩

/-- A request that is heard acts, and its answer sets off what follows. -/
theorem Heard.actsThen (h : Heard k r s) (e : exec i s = stauc k r s) (kept : ∀ u, Cmd.Kept actParts u k)
    {f : State → State} (ha : k.after r a = f) (hx : k.act r (s.heard r) = (x, a)) : ActsThen k i r s x a f := by
  have hagree : Agree actParts (s.heard r) x := by
    have := (kept (s.heard r)).1 r _ (Agree.refl _ _)
    rwa [hx] at this
  obtain ⟨t, y, ht, hanswered, hrest, hsame, hst⟩ := heard_runs_after h e hx (hagree.part .chanKeys (by decide))
    fun y => ((kept y).2 r a y (Agree.refl _ _)).part .said (by decide)
  exact ⟨t, ht, hanswered, y, hsame.mono (by decide), hst, ha ▸ hrest⟩

theorem Acts.runs {P : State → Prop} (h : Acts k i r s x a)
    (hP : ∀ t, Agree [.hif, .st, .out, .pending] x t → t.st = { x.st with chans := t.st.chans } → Answered k r a t → P t) :
    Runs i s P := by
  obtain ⟨t, ht, hsame, hst, hanswered⟩ := h
  exact ⟨t, ht, hP t hsame hst hanswered⟩

theorem ActsThen.runs {P : State → Prop} {f : State → State} (h : ActsThen k i r s x a f)
    (hP : ∀ y, Agree [.hif, .st, .out, .pending] x y → y.st = { x.st with chans := y.st.chans } →
      Answered k r a { f y with pending := s.pending } → P { f y with pending := s.pending }) : Runs i s P := by
  obtain ⟨t, ht, hanswered, y, hsame, hst, rfl⟩ := h
  exact ⟨_, ht, hP y hsame hst hanswered⟩

end

/-! ## What a completion that is owed says -/

theorem owes_owe (x : State) (op : Nat) (r : Req) (w : Owed) : Owes (x.owe op r w) r w := by
  simp [Owes, State.owe]

theorem Owes.of_outstanding {x t : State} {r : Req} {w : Owed} (h : Owes x r w) (ht : t.st.outstanding = x.st.outstanding) :
    Owes t r w := by
  rw [Owes, ht]
  exact h

theorem Owes.of_st {x t : State} {r : Req} {w : Owed} (h : Owes x r w) (ht : t.st = { x.st with chans := t.st.chans }) :
    Owes t r w := h.of_outstanding (by rw [ht])

end Sys2Proof.Machine
end

section
/-! The device commands (R270, R272, R273, R457). -/
namespace Sys2Proof.Machine

/-- Sending what waits changes the channels alone of the Stauc part. -/
theorem pumpAll_st (s : State) : s.pumpAll.st = { s.st with chans := s.pumpAll.st.chans } := by
  unfold State.pumpAll
  generalize List.range 8 = cs
  induction cs generalizing s with
  | nil => rfl
  | cons c cs ih => rw [List.foldl_cons, ih, pump_st]

theorem hello_acts {r : Req} {s : State} (h : Heard helloCmd r s) (hrsv : (argRsv r 0 0).1 = false)
    (hfresh : s.st.negotiated = false) (hversion : 3 ≤ r.version.toNat / 16) :
    Acts helloCmd (.hello r) r s
      (State.pumpAll { s.heard r with st := { (s.heard r).st with negotiated := true } }) (done1 0x130) := by
  refine h.acts rfl (fun _ => helloCmd_agree (by decide)) rfl (guardAct_passes (firstErr_none ?_))
  have hheard : (s.heard r).st.negotiated = false := by rw [heard_st]; exact hfresh
  simp [hrsv, hheard, hversion]

theorem devConfig_acts {r : Req} {s : State} (h : Heard devConfigCmd r s) (hrsv : (argRsv r 0x307 0).1 = false)
    (hclass : bits (a0 r) 8 2 ≠ 3) :
    Acts devConfigCmd (.devConfig r) r s
      { s.heard r with st := { (s.heard r).st with eventCh := a0 r % 8, eventMin := bits (a0 r) 8 2 } } (ans stDone) := by
  refine h.acts rfl (fun _ => devConfigCmd_agree (by decide)) rfl (guardAct_passes (firstErr_none ?_))
  simp [hrsv, hclass]

/-- The record of a MARK. -/
def markRec (r : Req) : Record := { mkRec 0x1601 clsNOTE hubMast noUnit 0 with info0 := a0 r }

theorem mark_acts {r : Req} {s : State} (h : Heard markCmd r s) (hrsv : (argRsv r (lowMask 64) 0).1 = false) :
    Acts markCmd (.mark r) r s ((s.heard r).raise (markRec r)) (done1 (s.heard r).time) :=
  h.acts rfl (fun _ => markCmd_agree (by decide)) rfl (guardAct_passes (firstErr_cons_pass hrsv))

theorem echo_acts {r : Req} {s : State} (h : Heard echoCmd r s) (hrsv : (argRsv r 0 0).1 = false) :
    Acts echoCmd (.echo r) r s (s.heard r) { status := stDone, hi := 0, arg1 := 0, parts := [r.payload] } :=
  h.acts rfl (fun _ => echoCmd_agree (by decide)) rfl (guardAct_passes (firstErr_cons_pass hrsv))

theorem heard_time (s : State) (r : Req) : (s.heard r).time = s.time := (heard_agree s r).part .time (by decide)
theorem heard_flt (s : State) (r : Req) : (s.heard r).flt = s.flt := (heard_agree s r).part .flt (by decide)

/-- Settles O1: each of the four commands acts when heard, and HELLO, DEV_CONFIG, MARK and ECHO leave what they say. -/
theorem deviceCommandsComplete : Obligations.DeviceCommandsComplete := by
  refine ⟨fun r s h hrsv hfresh hversion => ?_, fun r s h hrsv hclass => ?_, fun r s h hrsv => ?_, fun r s h hrsv => ?_⟩
  · refine (hello_acts h hrsv hfresh hversion).runs fun t _ hst hanswered => ⟨?_, hanswered⟩
    rw [hst, pumpAll_st]
  · refine (devConfig_acts h hrsv hclass).runs fun t _ hst hanswered => ⟨?_, hanswered⟩
    rw [hst, heard_st]
  · refine (mark_acts h hrsv).runs fun t hsame hst hanswered => ?_
    have hflt : t.flt = ((s.heard r).raise (markRec r)).flt := hsame.part .flt (by decide)
    obtain ⟨x, hcause, hcls, hinfo, htime, -, hring, -, hseq, -⟩ := (recordsGoIntoTheRing (s.heard r) (markRec r)).1 rfl
    rw [heard_flt] at hring hseq
    rw [heard_time] at htime hanswered
    rw [hflt]
    exact ⟨⟨x, hring, hcause, hcls, hinfo, htime⟩, hseq, hanswered⟩
  · refine (echo_acts h hrsv).runs fun t _ hst hanswered => ⟨?_, hanswered⟩
    rw [hst, heard_st]

/-- Settles O2: a register packet that passes its checks reads or writes the words of its range. -/
theorem registerPacketsComplete : Obligations.RegisterPacketsComplete := by
  refine ⟨fun r s h hchecks => ?_, fun r s h hchecks => ?_⟩
  · exact (h.acts rfl (fun _ => regReadCmd_agree (by decide)) rfl (guardAct_passes hchecks)).runs fun _ _ _ hanswered => hanswered
  · exact (h.acts rfl (fun _ => regWriteCmd_agree (by decide)) rfl (guardAct_passes hchecks)).runs
      fun _ hsame _ hanswered => ⟨hsame, hanswered⟩

end Sys2Proof.Machine
end

section
/-! What stays of a context and of a mast while the hub serves others: predicates on the entries of one id and on each mast,
kept by every operation that leaves them. -/
namespace Sys2Proof.Machine

/-! ## The entries of one id -/

theorem mem_of_tget {α : Type} {t : Tab α} {k : Nat} {a : α} (h : tget t k = some a) : (k, a) ∈ t := by
  induction t with
  | nil => cases h
  | cons e t ih =>
    obtain ⟨j, b⟩ := e
    by_cases hk : k = j
    · subst hk
      simp only [tget, if_pos, Option.some.injEq] at h
      exact h ▸ List.mem_cons_self
    · simp only [tget, if_neg hk] at h
      exact List.mem_cons_of_mem _ (ih h)

theorem mem_tkeys_of_tget {α : Type} {t : Tab α} {k : Nat} {a : α} (h : tget t k = some a) : k ∈ tkeys t :=
  List.mem_map.2 ⟨(k, a), mem_of_tget h, rfl⟩

/-- The id `c` is in the table of contexts, and every entry under it has `P`. -/
structure CtxIs (c : Nat) (P : Ctx → Prop) (s : State) : Prop where
  here : c ∈ tkeys s.ctxs
  all  : ∀ e ∈ s.ctxs, e.1 = c → P e.2

section
variable {c : Nat} {P Q : Ctx → Prop} {s t : State}

theorem CtxIs.get (h : CtxIs c P s) : ∃ y, s.ctx? c = some y ∧ P y := by
  obtain ⟨y, hy⟩ := tget_of_mem h.here
  exact ⟨y, hy, h.all _ (mem_of_tget hy) rfl⟩

theorem CtxIs.of_get (h : CtxIs c P s) {x : Ctx} (hx : s.ctx? c = some x) : P x := h.all _ (mem_of_tget hx) rfl

theorem ctxIs_of_get {x : Ctx} (h : s.ctx? c = some x) : CtxIs c (fun _ => True) s := ⟨mem_tkeys_of_tget h, fun _ _ _ => trivial⟩

theorem CtxIs.imp (h : CtxIs c P s) (hPQ : ∀ x, P x → Q x) : CtxIs c Q s := ⟨h.here, fun e he hc => hPQ _ (h.all e he hc)⟩

theorem CtxIs.congr (h : CtxIs c P s) (e : t.ctxs = s.ctxs) : CtxIs c P t := ⟨e ▸ h.here, e ▸ h.all⟩

theorem CtxIs.agree {M : List Comp} (h : CtxIs c P s) (e : Agree M s t) (hM : Comp.ctxs ∉ M) : CtxIs c P t :=
  h.congr (e.part .ctxs hM)

/-- Every entry of the context is changed by `f`. -/
theorem CtxIs.modCtx_to {f : Ctx → Ctx} (h : CtxIs c P s) (hf : ∀ x, P x → Q (f x)) : CtxIs c Q (s.modCtx c f) := by
  refine ⟨(tkeys_tmod s.ctxs c f).symm ▸ h.here, fun e he hc => ?_⟩
  obtain ⟨d, hd, rfl⟩ := List.mem_map.1 he
  by_cases hk : d.1 = c
  · simp only [hk, beq_self_eq_true, if_true]
    exact hf _ (h.all d hd hk)
  · simp only [beq_iff_eq, hk, if_false] at hc

theorem CtxIs.modCtx {d : Nat} {f : Ctx → Ctx} (h : CtxIs c P s) (hf : d = c → ∀ x, P x → P (f x)) : CtxIs c P (s.modCtx d f) := by
  refine ⟨(tkeys_tmod s.ctxs d f).symm ▸ h.here, fun e he hc => ?_⟩
  obtain ⟨b, hb, rfl⟩ := List.mem_map.1 he
  by_cases hk : b.1 = d
  · simp only [hk, beq_self_eq_true, if_true] at hc ⊢
    exact hf hc _ (h.all b hb (hk.trans hc))
  · simp only [beq_iff_eq, hk, if_false] at hc ⊢
    exact h.all b hb hc

theorem CtxIs.tmap {f : Nat → Ctx → Ctx} (h : CtxIs c P s) (hf : ∀ x, P x → P (f c x)) :
    CtxIs c P { s with ctxs := tmap s.ctxs f } := by
  refine ⟨(tkeys_tmap s.ctxs f).symm ▸ h.here, fun e he hc => ?_⟩
  obtain ⟨b, hb, rfl⟩ := List.mem_map.1 he
  obtain rfl : b.1 = c := hc
  exact hf _ (h.all b hb rfl)

theorem CtxIs.ite {p : Prop} [Decidable p] (ha : p → CtxIs c P s) (hb : ¬ p → CtxIs c P t) : CtxIs c P (if p then s else t) := by
  split
  · exact ha ‹_›
  · exact hb ‹_›

theorem CtxIs.foldl {α : Type} {l : List α} {f : State → α → State} (h : CtxIs c P s)
    (hf : ∀ y, ∀ a ∈ l, CtxIs c P y → CtxIs c P (f y a)) : CtxIs c P (l.foldl f s) := by
  induction l generalizing s with
  | nil => exact h
  | cons a l ih => exact ih (hf s a List.mem_cons_self h) fun y b hb => hf y b (List.mem_cons_of_mem a hb)

end

/-! ## Every mast -/

/-- Every mast has `Q`. -/
def MastAll (Q : Nat → Mast → Prop) (s : State) : Prop := ∀ m, Q m (s.mast m)

section
variable {Q : Nat → Mast → Prop} {s t : State}

theorem MastAll.congr (h : MastAll Q s) (e : t.masts = s.masts) : MastAll Q t := fun m => by
  rw [State.mast, e]
  exact h m

theorem MastAll.agree {M : List Comp} (h : MastAll Q s) (e : Agree M s t) (hM : Comp.masts ∉ M) : MastAll Q t :=
  h.congr (e.part .masts hM)

theorem mast_modMast_ne {n k : Nat} (s : State) (f : Mast → Mast) (h : k ≠ n) : (s.modMast n f).mast k = s.mast k :=
  tgetD_tmod_ne _ _ _ h

/-- A mast that a change is made on has the change, where the package's table lists it. -/
theorem mast_modMast (s : State) (n : Nat) (f : Mast → Mast) (k : Nat) :
    (s.modMast n f).mast k = s.mast k ∨ (k = n ∧ (s.modMast n f).mast k = f (s.mast k)) := by
  by_cases hk : k = n
  · subst hk
    cases hget : tget s.masts k with
    | none => exact .inl (by simp [State.modMast, State.mast, tgetD, hget])
    | some z => exact .inr ⟨rfl, by simp [State.modMast, State.mast, tgetD, hget]⟩
  · exact .inl (mast_modMast_ne s f hk)

theorem MastAll.modMast {n : Nat} {f : Mast → Mast} (h : MastAll Q s) (hf : ∀ z, Q n z → Q n (f z)) : MastAll Q (s.modMast n f) := by
  intro k
  obtain hk | ⟨rfl, hk⟩ := mast_modMast s n f k
  · exact hk.symm ▸ h k
  · exact hk.symm ▸ hf _ (h k)

theorem MastAll.mapMasts {f : Nat → Mast → Mast} (h : MastAll Q s) (hf : ∀ n z, Q n z → Q n (f n z)) : MastAll Q (s.mapMasts f) := by
  intro k
  have hk := h k
  unfold State.mast tgetD at hk ⊢
  rw [State.mapMasts_masts, tget_tmap]
  cases hget : tget s.masts k with
  | none => rw [hget] at hk; exact hk
  | some z => rw [hget] at hk; exact hf k z hk

/-- A change made on every mast of a list makes `Q` there, and a mast that the package's table lacks is as after reset. -/
theorem mastAll_made {l : List Nat} {f : State → Nat → Mast → Mast} {s : State} (hmake : ∀ s m z, Q m (f s m z))
    (hreset : ∀ m, Q m Mast.reset) (hrest : ∀ m, m ∉ l → Q m (s.mast m)) :
    MastAll Q (l.foldl (fun s m => s.modMast m (f s m)) s) := by
  induction l generalizing s with
  | nil => exact fun m => hrest m List.not_mem_nil
  | cons n l ih =>
    refine ih fun k hk => ?_
    by_cases hkn : k = n
    · subst hkn
      cases hget : tget s.masts k with
      | none => simpa [State.modMast, State.mast, tgetD, hget] using hreset k
      | some z => simpa [State.modMast, State.mast, tgetD, hget] using hmake s k z
    · rw [mast_modMast_ne _ _ hkn]
      exact hrest k fun hmem => hk ((List.mem_cons.1 hmem).resolve_left hkn)

theorem MastAll.ite {p : Prop} [Decidable p] (ha : p → MastAll Q s) (hb : ¬ p → MastAll Q t) : MastAll Q (if p then s else t) := by
  split
  · exact ha ‹_›
  · exact hb ‹_›

theorem MastAll.foldl {α : Type} {l : List α} {f : State → α → State} (h : MastAll Q s)
    (hf : ∀ y, ∀ a ∈ l, MastAll Q y → MastAll Q (f y a)) : MastAll Q (l.foldl f s) := by
  induction l generalizing s with
  | nil => exact h
  | cons a l ih => exact ih (hf s a List.mem_cons_self h) fun y b hb => hf y b (List.mem_cons_of_mem a hb)

end

/-! ## The hub's look at a mast (R295, R296) -/

/-- What a predicate of a context's entries bears: the hub's times of waiting, and, where it allows a context that runs, any state
that runs. -/
structure Bears (P : Ctx → Prop) : Prop where
  wait : ∀ x w, P x → P { x with wait := w }
  runs : (∀ x, P x → runsState x.state = false) ∨ (∀ x st, P x → runsState st = true → P { x with state := st })

section
variable {c d m : Nat} {P : Ctx → Prop} {s : State}

theorem Bears.displaced (hP : Bears P) {x : Ctx} (h : P x) (hx : runsState x.state = true) {y : Ctx} (hy : P y)
    {st : CtxState} (hst : runsState st = true) : P { y with state := st } :=
  hP.runs.elim (fun hstill => absurd ((hstill x h).symm.trans hx) (by decide)) fun hruns => hruns y st hy hst

theorem CtxIs.displace (hP : Bears P) (h : CtxIs c P s) (hd : d = c → ∃ x, P x ∧ runsState x.state = true) :
    CtxIs c P (s.displace d m) := by
  refine CtxIs.congr (s := s.modCtx d fun x => { x with state := .displaced }) (h.modCtx fun hdc y hy => ?_) rfl
  obtain ⟨x, hx, hruns⟩ := hd hdc
  exact hP.displaced hx hruns hy rfl

theorem CtxIs.promote (hP : Bears P) (h : CtxIs c P s) : CtxIs c P (s.promote d) := by
  unfold State.promote
  split
  case h_1 => exact h
  case h_2 x hx =>
    refine CtxIs.ite (fun hc => h.modCtx fun hdc y hy => ?_) fun _ => h
    subst hdc
    simp only [Bool.and_eq_true, beq_iff_eq] at hc
    exact hP.displaced (h.of_get hx) (by rw [hc.1]; rfl) hy rfl

theorem CtxIs.takeEngines (hP : Bears P) (h : CtxIs c P s) : CtxIs c P (s.takeEngines d m) := by
  have hwait : ∀ u : State, CtxIs c P u → CtxIs c P ((u.modCtx d fun x => { x with wait := tdel x.wait m }).servePmc d m) :=
    fun u hu => (hu.modCtx fun _ x hx => hP.wait x _ hx).agree (State.servePmc_agree (M := [.masts]) (by decide) (Agree.refl _ _))
      (by decide)
  have htaken := hwait _ (h.congr (t := s.modMast m fun x => { x with me := { x.me with
    holders := (bitsSet (s.maskOn d m) 16).foldl (fun t e => tset t e d) x.me.holders } }) rfl)
  unfold State.takeEngines
  dsimp only
  split
  · exact htaken
  · split
    · exact htaken.congr rfl
    · exact htaken.promote hP

theorem CtxIs.serveWaiters (hP : Bears P) (h : CtxIs c P s) (rs : List Nat) (claimed : Nat) :
    CtxIs c P (State.serveWaiters m rs claimed s) := by
  induction rs generalizing claimed s with
  | nil => exact h
  | cons r rs ih =>
    rw [State.serveWaiters]
    split
    · exact ih (h.takeEngines hP) _
    · exact ih h _

/-- The hub looks at a mast: a context stays what it is. -/
theorem CtxIs.reeval (hP : Bears P) (h : CtxIs c P s) (due : Bool) : CtxIs c P (s.reeval due m) := by
  unfold State.reeval
  split
  · exact h
  · refine CtxIs.serveWaiters hP ?_ _ _
    refine CtxIs.foldl (h.tmap fun x hx => hP.wait x _ hx) fun y d hd hy => CtxIs.ite (fun _ => hy.displace hP fun hdc => ?_) fun _ => hy
    obtain ⟨e, he, rfl⟩ := List.mem_map.1 hd
    obtain ⟨hmem, hruns⟩ := List.mem_filter.1 he
    simp only [Bool.and_eq_true] at hruns
    exact ⟨e.2, (h.tmap fun x hx => hP.wait x _ hx).all e hmem hdc, hruns.1.1.1⟩

theorem CtxIs.reevalAll (hP : Bears P) (h : CtxIs c P s) (due : Bool) : CtxIs c P (s.reevalAll due) :=
  h.foldl fun _ _ _ hy => hy.reeval hP due

end

/-! ## A context that does not run -/

/-- What a predicate of the masts bears while the hub serves other contexts than `c`: their engines and copies, and counters. -/
structure Unmoved (c : Nat) (Q : Nat → Mast → Prop) : Prop where
  bulk    : ∀ m z j, j.ctx ≠ c → Q m z → Q m { z with bulk := z.bulk ++ [j] }
  holders : ∀ m z (l : List Nat) d, d ≠ c → Q m z →
    Q m { z with me := { z.me with holders := l.foldl (fun t e => tset t e d) z.me.holders } }
  pmc     : ∀ m z b, Q m z → Q m { z with pmc := b }

/-- The entries of a context are not of a state that runs. -/
abbrev Still (c : Nat) (s : State) : Prop := CtxIs c (fun x => runsState x.state = false) s

theorem bears_still : Bears fun x => runsState x.state = false := ⟨fun _ _ h => h, .inl fun _ h => h⟩

section
variable {c d m : Nat} {Q : Nat → Mast → Prop} {s : State}

theorem MastAll.displace (hQ : Unmoved c Q) (hd : d ≠ c) (h : MastAll Q s) : MastAll Q (s.displace d m) :=
  MastAll.modMast (s := s.modCtx d fun x => { x with state := .displaced }) (h.congr rfl) fun z hz => hQ.bulk m z _ hd hz

theorem MastAll.takeEngines (hQ : Unmoved c Q) (hd : d ≠ c) (h : MastAll Q s) : MastAll Q (s.takeEngines d m) := by
  have hserve : ∀ u : State, MastAll Q u → MastAll Q (u.servePmc d m) := fun u hu => by
    unfold State.servePmc
    split
    · exact hu
    · exact MastAll.ite (fun _ => hu.modMast fun z hz => hQ.pmc m z _ hz) fun _ => hu
  have htaken := hserve _ (MastAll.congr (t := (s.modMast m fun x => { x with me := { x.me with
    holders := (bitsSet (s.maskOn d m) 16).foldl (fun t e => tset t e d) x.me.holders } }).modCtx d
      fun x => { x with wait := tdel x.wait m }) (h.modMast fun z hz => hQ.holders m z _ d hd hz) rfl)
  unfold State.takeEngines
  dsimp only
  split
  · exact htaken
  · split
    · exact htaken.modMast fun z hz => hQ.bulk m z _ hd hz
    · unfold State.promote
      split
      · exact htaken
      · exact MastAll.ite (fun _ => htaken.congr rfl) fun _ => htaken

theorem MastAll.serveWaiters (hQ : Unmoved c Q) (rs : List Nat) (hrs : c ∉ rs) (claimed : Nat) (h : MastAll Q s) :
    MastAll Q (State.serveWaiters m rs claimed s) := by
  induction rs generalizing claimed s with
  | nil => exact h
  | cons r rs ih =>
    obtain ⟨hr, hrest⟩ := List.ne_and_not_mem_of_not_mem_cons hrs
    rw [State.serveWaiters]
    split
    · exact ih hrest _ (h.takeEngines hQ (Ne.symm hr))
    · exact ih hrest _ h

/-- A context that does not run waits for no engines. -/
theorem Still.not_mem_waiters (h : Still c s) : c ∉ s.waiters m := by
  intro hc
  obtain ⟨e, he, rfl⟩ := List.mem_map.1 hc
  obtain ⟨y, hy, hstill⟩ := h.get
  have hready := (List.mem_filter.1 he).2
  simp [State.ready, hy, hstill] at hready

theorem Still.not_mem_queueFor (h : Still c s) : c ∉ s.queueFor m := fun hc =>
  h.not_mem_waiters ((sortBy_perm _ _).mem_iff.1 hc)

/-- The hub looks at a mast: the masts are as before for a context that does not run. -/
theorem MastAll.reeval (hQ : Unmoved c Q) (hc : Still c s) (h : MastAll Q s) (due : Bool) : MastAll Q (s.reeval due m) := by
  unfold State.reeval
  split
  · exact h
  · dsimp only
    generalize hwaits : (fun d x => _ : Nat → Ctx → Ctx) = f
    have hstill : Still c { s with ctxs := tmap s.ctxs f } := hc.tmap fun x hx => by rw [← hwaits]; exact hx
    generalize hids : List.map _ (List.filter _ _) = ids
    have hids : c ∉ ids := by
      rintro hmem
      rw [← hids] at hmem
      obtain ⟨e, he, rfl⟩ := List.mem_map.1 hmem
      obtain ⟨hin, hruns⟩ := List.mem_filter.1 he
      simp [hstill.all e hin rfl] at hruns
    refine MastAll.serveWaiters hQ _ (Still.not_mem_queueFor ?_) _ ?_
    · exact CtxIs.foldl hstill fun y d hd hy => CtxIs.ite
        (fun _ => hy.displace bears_still fun hdc => absurd (hdc ▸ hd) hids) fun _ => hy
    · exact MastAll.foldl (h.congr rfl) fun y d hd hy => MastAll.ite
        (fun _ => hy.displace hQ fun hdc => hids (hdc ▸ hd)) fun _ => hy

theorem MastAll.reevalAll (hQ : Unmoved c Q) (hc : Still c s) (h : MastAll Q s) (due : Bool) : MastAll Q (s.reevalAll due) := by
  have key : ∀ (l : List Nat) (u : State), Still c u → MastAll Q u → MastAll Q (l.foldl (fun (s : State) m => s.reeval due m) u) := by
    intro l
    induction l with
    | nil => exact fun _ _ hu => hu
    | cons m l ih => exact fun u hcu hu => ih _ (hcu.reeval bears_still due) (hu.reeval hQ hcu due)
  exact key _ s hc h

end

end Sys2Proof.Machine
end

section
/-! The commands of contexts (R274, R285 to R289, R293, R296). -/
namespace Sys2Proof.Machine

theorem Agree.ctx? {M : List Comp} {s t : State} (h : Agree M s t) (hM : Comp.ctxs ∉ M) (c : Nat) : t.ctx? c = s.ctx? c := by
  rw [State.ctx?, h.part .ctxs hM]
  rfl

theorem heard_ctx? (s : State) (r : Req) (c : Nat) : (s.heard r).ctx? c = s.ctx? c := (heard_agree s r).ctx? (by decide) c

theorem modCtx_ctx?_self (s : State) (c : Nat) (f : Ctx → Ctx) : (s.modCtx c f).ctx? c = (s.ctx? c).map f := tget_tmod_self _ _ _

theorem modCtx_ctx?_ne (s : State) {c d : Nat} (f : Ctx → Ctx) (h : d ≠ c) : (s.modCtx c f).ctx? d = s.ctx? d :=
  tget_tmod_ne _ _ h

theorem owe_ctx? (s : State) (op : Nat) (r : Req) (w : Owed) (c : Nat) : (s.owe op r w).ctx? c = s.ctx? c := rfl

/-! ## CTX_CREATE -/

theorem addCtx_ctx?_self (s : State) (c : Nat) (x : Ctx) : (s.addCtx c x).ctx? c = some x := tget_tset_self _ _ _

theorem addCtx_ctx?_ne (s : State) {c d : Nat} (x : Ctx) (h : d ≠ c) : (s.addCtx c x).ctx? d = s.ctx? d := tget_tset_ne _ _ h

theorem createSaves_ctx? {s : State} {pre : Bool} {p : Bytes} {q : State × Tab (Nat × Nat)} (h : s.createSaves pre p = some q)
    (c : Nat) : q.1.ctx? c = s.ctx? c :=
  (State.savePlaces_agree (M := [.free]) (by decide) (Agree.refl _ s) h).ctx? (by decide) c

theorem createSaves_not_preemptible (s : State) (p : Bytes) : s.createSaves false p = some (s, []) := rfl

section
variable {r : Req} {s : State}

theorem ctxCreate_passes (hrsv : (argRsv r 1 0).1 = false) (hrec : createRsv r.payload = none) (hbad : s.createBad r.payload = none)
    (hnew : s.ctx? r.ctx.toNat = none) (hfence : (crMasts r.payload).any s.fencedMast = false) :
    ctxCreateAct r (s.heard r) =
      match (s.heard r).createSaves (bit (a0 r) 0) r.payload with
      | none => (s.heard r, ans stNoMemory)
      | some q => (q.1.addCtx r.ctx.toNat (newCtx r.payload (bit (a0 r) 0) q.2), createAns q.2) := by
  have hbad' : (s.heard r).createBad r.payload = none := (heard_reads (f := fun s => s.createBad r.payload) s r fun _ _ _ _ => rfl).trans hbad
  have hfence' : (crMasts r.payload).any (s.heard r).fencedMast = false :=
    (heard_reads (f := fun s => (crMasts r.payload).any s.fencedMast) s r fun _ _ _ _ => rfl).trans hfence
  refine guardAct_passes (firstErr_none ?_)
  simp [hrsv, hrec, hbad', heard_ctx?, hnew, hfence']

theorem ctxCreate_acts (h : Heard ctxCreateCmd r s) (hrsv : (argRsv r 1 0).1 = false) (hrec : createRsv r.payload = none)
    (hbad : s.createBad r.payload = none) (hnew : s.ctx? r.ctx.toNat = none)
    (hfence : (crMasts r.payload).any s.fencedMast = false) {q : State × Tab (Nat × Nat)}
    (hq : (s.heard r).createSaves (bit (a0 r) 0) r.payload = some q) :
    Acts ctxCreateCmd (.ctxCreate r) r s (q.1.addCtx r.ctx.toNat (newCtx r.payload (bit (a0 r) 0) q.2)) (createAns q.2) :=
  h.acts rfl (fun _ => ctxCreateCmd_agree (by decide)) rfl ((ctxCreate_passes hrsv hrec hbad hnew hfence).trans (by rw [hq]))


/-- The context of CTX_CREATE is in the table, and every other one is as it was. -/
theorem ctxCreate_enters (h : Heard ctxCreateCmd r s) (hrsv : (argRsv r 1 0).1 = false) (hrec : createRsv r.payload = none)
    (hbad : s.createBad r.payload = none) (hnew : s.ctx? r.ctx.toNat = none)
    (hfence : (crMasts r.payload).any s.fencedMast = false)
    (hroom : bit (a0 r) 0 = true → ((s.heard r).createSaves true r.payload).isSome = true) :
    Runs (.ctxCreate r) s fun t =>
      ∃ y, t.ctx? r.ctx.toNat = some y ∧ y.state = .furled ∧ y.preemptible = bit (a0 r) 0 ∧ y.mastMask = crMask r.payload ∧
        y.priority = u8 r.payload 0 % 8 ∧ y.grants = [] ∧ ∀ c, c ≠ r.ctx.toNat → t.ctx? c = s.ctx? c := by
  obtain ⟨q, hq⟩ : ∃ q, (s.heard r).createSaves (bit (a0 r) 0) r.payload = some q := by
    cases hpre : bit (a0 r) 0 with
    | false => exact ⟨_, createSaves_not_preemptible _ _⟩
    | true => exact Option.isSome_iff_exists.1 (hroom hpre)
  refine (ctxCreate_acts h hrsv hrec hbad hnew hfence hq).runs fun t hsame _ _ => ?_
  refine ⟨_, (hsame.ctx? (by decide) _).trans (addCtx_ctx?_self _ _ _), rfl, rfl, rfl, rfl, rfl, fun c hc => ?_⟩
  rw [hsame.ctx? (by decide), addCtx_ctx?_ne _ _ hc, createSaves_ctx? hq, heard_ctx?]

/-! ## CTX_UNFURL -/

theorem ctxUnfurl_acts {x : Ctx} (h : Heard ctxUnfurlCmd r s) (hrsv : (argRsv r 0 0).1 = false) (hx : s.ctx? r.ctx.toNat = some x)
    (hfresh : x.deferred = false) (hst : x.state = .furled) (hzero : x.owesZero = false) :
    Acts ctxUnfurlCmd (.ctxUnfurl r) r s
      (((s.heard r).modCtx r.ctx.toNat fun x => { x with state := .unfurling }).owe 0x0202 r .unfurl) (ans stAccepted) := by
  refine h.acts rfl (fun _ => ctxUnfurlCmd_agree (by decide)) rfl ?_
  simp only [ctxUnfurlCmd, ctxUnfurlAct, heard_ctx?, hx, hst, hfresh, hzero, guardAct_one hrsv,
    Bool.false_eq_true, if_false]

/-- An unfurl that must wait is deferred: during a furl, or while zeroing is owed (R274, R491). -/
theorem ctxUnfurl_defers {x : Ctx} (h : Heard ctxUnfurlCmd r s) (hrsv : (argRsv r 0 0).1 = false) (hx : s.ctx? r.ctx.toNat = some x)
    (hfresh : x.deferred = false) (hst : x.state = .furling ∨ x.state = .furled ∧ x.owesZero = true) :
    Acts ctxUnfurlCmd (.ctxUnfurl r) r s
      (((s.heard r).modCtx r.ctx.toNat fun x => { x with deferred := true }).owe 0x0202 r .unfurl) (ans stDeferred) := by
  refine h.acts rfl (fun _ => ctxUnfurlCmd_agree (by decide)) rfl ?_
  obtain hst | ⟨hst, hzero⟩ := hst
  · simp only [ctxUnfurlCmd, ctxUnfurlAct, heard_ctx?, hx, hst, hfresh, guardAct_one hrsv,
      Bool.false_eq_true, if_false]
  · simp only [ctxUnfurlCmd, ctxUnfurlAct, heard_ctx?, hx, hst, hfresh, hzero, guardAct_one hrsv,
      Bool.false_eq_true, if_false, if_true]

/-- A request that changes its context and owes a completion leaves the changed context and the completion owed. -/
theorem Acts.modCtx_owe {k : Cmd} {i : Instr} {a : Ans} {op : Nat} {w : Owed} {f : Ctx → Ctx} {x : Ctx}
    (h : Acts k i r s (((s.heard r).modCtx r.ctx.toNat f).owe op r w) a) (hx : s.ctx? r.ctx.toNat = some x) :
    Runs i s fun t => t.ctx? r.ctx.toNat = some (f x) ∧ Owes t r w := by
  refine h.runs fun t hsame hst _ => ⟨?_, (owes_owe _ op r w).of_st hst⟩
  rw [hsame.ctx? (by decide), owe_ctx?, modCtx_ctx?_self, heard_ctx?, hx]
  rfl

/-! ## CTX_FURL -/

theorem ctxFurl_acts {x : Ctx} (h : Heard ctxFurlCmd r s) (hrsv : (argRsv r 0 0).1 = false) (hx : s.ctx? r.ctx.toNat = some x)
    (hfurled : x.state ≠ .furled) (hfurling : x.state ≠ .furling) :
    Acts ctxFurlCmd (.ctxFurl r) r s ((s.heard r).startFurl r.ctx.toNat r) (ans stAccepted) := by
  refine h.acts rfl (fun _ => ctxFurlCmd_agree (by decide)) rfl ?_
  simp only [ctxFurlCmd, ctxFurlAct, heard_ctx?, hx, guardAct_one hrsv]

end

/-! ## A furl begins (R284, R291, R292) -/

section
variable {c : Nat} {s : State}

/-- The Masthead's writes of a context's tables change what waits of it and what it met. -/
theorem CtxIs.mastWrite {d m off : Nat} {b : Bytes} {P : Ctx → Prop} (hP : ∀ x l e, P x → P { x with late := l, met := e })
    (h : CtxIs c P s) : CtxIs c P (s.mastWrite d m off b) := by
  have hwritten : CtxIs c P (s.writeDram m (control d 0x18) off b).1 :=
    h.agree (State.writeDram_agree (M := [.flt, .st, .masts, .pmc, .cells]) (by decide) (Agree.refl _ _)) (by decide)
  unfold State.mastWrite
  refine CtxIs.ite (fun _ => h) fun _ => CtxIs.ite (fun _ => h.modCtx fun _ x hx => hP x _ _ hx) fun _ => ?_
  dsimp only
  split
  · exact hwritten.modCtx fun _ x hx => hP x _ _ hx
  · exact hwritten

/-- A context's pool on a mast changes, with the writes of its frame table. -/
theorem CtxIs.setPool {d m : Nat} {p : Pool} {P : Ctx → Prop} (hP : ∀ x l e, P x → P { x with late := l, met := e })
    (hpool : ∀ x l, P x → P { x with pools := l }) (h : CtxIs c P s) : CtxIs c P (s.setPool d m p) := by
  unfold State.setPool
  split
  · exact h
  · split
    · exact h
    · exact CtxIs.foldl (h.modCtx fun _ x hx => hpool x _ hx) fun y _ _ hy => CtxIs.ite (fun _ => hy) fun _ => hy.mastWrite hP

theorem CtxIs.unshipAll {d : Nat} {fs : List (Nat × Nat × Nat)} {P : Ctx → Prop}
    (hP : ∀ x l e, P x → P { x with late := l, met := e }) (hpool : ∀ x l, P x → P { x with pools := l }) (h : CtxIs c P s) :
    CtxIs c P (s.unshipAll d fs) := by
  unfold State.unshipAll
  refine h.foldl fun y _ _ hy => ?_
  split
  · exact hy.setPool hP hpool
  · exact hy

theorem CtxIs.dropRecorded {d : Nat} {P : Ctx → Prop} (hP : ∀ x g k l, P x → P { x with config := g, mirror := k, recorded := l })
    (h : CtxIs c P s) : CtxIs c P (s.dropRecorded d) := by
  unfold State.dropRecorded
  split
  · exact h
  · refine CtxIs.foldl (h.modCtx fun _ x hx => hP x _ _ _ hx) fun y _ _ hy => ?_
    split
    · exact hy.modCtx fun _ x hx => hP x _ _ _ hx
    · exact hy.modCtx fun _ x hx => hP x _ _ _ hx
    · exact hy
    · exact hy

theorem CtxIs.dropExports {d : Nat} {P : Ctx → Prop} (hP : ∀ x l e, P x → P { x with late := l, met := e })
    (hpool : ∀ x l, P x → P { x with pools := l }) (h : CtxIs c P s) : CtxIs c P (s.dropExports d) :=
  h.foldl fun _ _ _ hy => (hy.unshipAll hP hpool).congr rfl

/-- A mast, of the package's eight, copies nothing of the context. -/
def NoCopies (c m : Nat) (z : Mast) : Prop := m < 8 → ∀ j ∈ z.bulk, j.ctx ≠ c

theorem unmoved_noCopies (c : Nat) : Unmoved c (NoCopies c) where
  bulk := fun m z j hj h hm k hk => by
    obtain hk | hk := List.mem_append.1 hk
    · exact h hm k hk
    · obtain rfl := List.mem_singleton.1 hk
      exact hj
  holders := fun _ _ _ _ _ h => h
  pmc := fun _ _ _ h => h

theorem refreshes_bulk (b : Bool) (z : Mast) : (z.refreshes b).bulk = z.bulk := by
  unfold Mast.refreshes
  split
  · rfl
  · rfl

theorem not_mem_copies_filter {l : List BulkJob} : ∀ j ∈ l.filter (fun j => j.ctx != c), j.ctx ≠ c := fun j hj => by
  simpa using (List.mem_filter.1 hj).2

theorem MastAll.withdrawCtx {Q : Nat → Mast → Prop} (hQ : ∀ m z l, Q m z → Q m { z with calls := l }) (h : MastAll Q s) :
    MastAll Q (s.withdrawCtx c) := by
  have hdrop : ∀ (u : State) (k : ColCall), MastAll Q u →
      MastAll Q (((u.colTellAll k kWithdraw 0).modGroup k.group fun g => { g with outcome := 3 }).dropCall k.group k.mast c false) := by
    intro u k hu
    have htold : MastAll Q ((u.colTellAll k kWithdraw 0).modGroup k.group fun g => { g with outcome := 3 }) :=
      (hu.agree (State.colTellAll_agree (M := [.nlc, .col, .out]) (by decide) (Agree.refl _ _)) (by decide)).congr rfl
    unfold State.dropCall
    dsimp only
    rw [if_neg Bool.false_ne_true]
    refine MastAll.modMast ?_ fun z hz => hQ _ z _ hz
    split
    · exact htold.congr rfl
    · exact htold.congr rfl
  exact (MastAll.foldl h fun y k _ hy => hdrop y k hy).congr rfl

theorem stopCtx_noCopies {m : Nat} {z : Mast} (h : NoCopies c m z) (d : Nat) : NoCopies c m (z.stopCtx d) :=
  fun hm j hj => h hm j (List.mem_filter.1 hj).1

theorem refreshes_noCopies {m : Nat} {z : Mast} (h : NoCopies c m z) (b : Bool) : NoCopies c m (z.refreshes b) := fun hm j hj =>
  h hm j (by rwa [refreshes_bulk] at hj)

theorem CtxIs.discardCalls {d : Nat} {P : Ctx → Prop} (hP : ∀ x l, P x → P { x with stopped := l }) (h : CtxIs c P s) :
    CtxIs c P (s.discardCalls d) := by
  have hstopped : CtxIs c P (((s.stopAll d).withdrawCtx d).dropFabric d) :=
    h.agree (M := [.masts, .nlc, .col, .out]) (State.dropFabric_agree (by decide) (State.withdrawCtx_agree (by decide)
      (State.stopAll_agree (by decide) (Agree.refl _ _)))) (by decide)
  exact hstopped.modCtx fun _ x hx => hP x _ hx

theorem MastAll.discardCalls {d : Nat} (h : MastAll (NoCopies c) s) : MastAll (NoCopies c) (s.discardCalls d) := by
  have hstopped : MastAll (NoCopies c) (s.stopAll d) := by
    unfold State.stopAll
    exact h.foldl fun y m _ hy => hy.modMast fun z hz => refreshes_noCopies (stopCtx_noCopies hz d) _
  have hwithdrawn : MastAll (NoCopies c) ((s.stopAll d).withdrawCtx d) := hstopped.withdrawCtx fun _ _ _ hz => hz
  exact hwithdrawn.congr (t := s.discardCalls d) rfl

/-- The state of a furl before the hub looks at the masts: the context is marked, its copies are dropped, and in a coolant stop its
calls are discarded. -/
theorem startFurl_ready {x : Ctx} (hx : s.ctx? c = some x) (r : Req) : ∃ u : State,
    s.startFurl c r = (u.reevalAll false).owe 0x0203 r .furl ∧ CtxIs c (fun y => y.state = .furling) u ∧ MastAll (NoCopies c) u := by
  have hhere : CtxIs c (fun _ => True)
      (((((s.exportsFurled c).completeAll c stContextFurled fun _ => true).dropLoads c).dropRecorded c).dropExports c) := by
    refine CtxIs.dropExports (fun _ _ _ h => h) (fun _ _ h => h) (CtxIs.dropRecorded (fun _ _ _ _ h => h) ?_)
    exact (ctxIs_of_get hx).agree (M := [.hif, .st, .srvErr, .out, .hal, .nlc]) (State.dropLoads_agree (by decide)
      (State.completeAll_agree (by decide) (State.exportsFurled_agree (by decide) (Agree.refl _ _)))) (by decide)
  have hmarked := hhere.modCtx_to (Q := fun y => y.state = .furling) (f := fun y => { y with
    state := .furling, stopAt := s.cleatsAhead x c, stopped := x.masts.filter fun m => !(s.cleatsAhead x c).contains m })
    fun _ _ => rfl
  refine ⟨_, by rw [State.startFurl, hx], ?_, ?_⟩
  · have hcleared := CtxIs.foldl (f := fun (s : State) m => s.modMast m fun z =>
      Mast.refreshes s.pwr.coolstop { z with bulk := z.bulk.filter fun j => j.ctx != c }) (l := List.range 8) hmarked
      fun _ _ _ hy => hy.congr rfl
    exact CtxIs.ite (fun _ => hcleared.discardCalls fun _ _ h => h) fun _ => hcleared
  · refine MastAll.ite (fun _ => MastAll.discardCalls ?_) fun _ => ?_
    all_goals
      exact mastAll_made (f := fun s _ z => Mast.refreshes s.pwr.coolstop { z with bulk := z.bulk.filter fun j => j.ctx != c })
        (fun _ m z => refreshes_noCopies (fun _ => not_mem_copies_filter) _) (fun _ _ j hj => absurd hj List.not_mem_nil)
        fun m hm hlt => absurd (List.mem_range.2 hlt) hm

theorem startFurl_furls {x : Ctx} (hx : s.ctx? c = some x) (r : Req) :
    Owes (s.startFurl c r) r .furl ∧ CtxIs c (fun y => y.state = .furling) (s.startFurl c r) ∧
      MastAll (NoCopies c) (s.startFurl c r) := by
  obtain ⟨u, hu, hfurling, hcopies⟩ := startFurl_ready hx r
  have hbears : Bears fun y => y.state = .furling := ⟨fun _ _ h => h, .inl fun _ h => h ▸ rfl⟩
  have hstill : Still c u := hfurling.imp fun _ h => h ▸ rfl
  rw [hu]
  exact ⟨owes_owe _ _ r _, (hfurling.reevalAll hbears false).congr rfl,
    (hcopies.reevalAll (unmoved_noCopies c) hstill false).congr rfl⟩

end

/-! ## CTX_DESTROY, CTX_QUERY and CTX_PRIORITY -/

section
variable {r : Req} {s : State} {x : Ctx}

theorem heard_noCtx (hx : s.ctx? r.ctx.toNat = some x) : (noCtx (s.heard r) r).1 = false := by
  simp [noCtx, heard_ctx?, hx]

theorem heard_ctxStateCheck (hx : s.ctx? r.ctx.toNat = some x) (hst : stateRefusal x.state = none) :
    (ctxStateCheck (s.heard r) r).1 = false := by
  simp [ctxStateCheck, heard_ctx?, hx, hst]

theorem ctxDestroy_acts (h : Heard ctxDestroyCmd r s) (hrsv : (argRsv r 0 0).1 = false) (hx : s.ctx? r.ctx.toNat = some x)
    (hst : x.state = .furled) :
    Acts ctxDestroyCmd (.ctxDestroy r) r s
      (((s.heard r).completeAll r.ctx.toNat stState fun _ => true).destroy r.ctx.toNat) (ans stDone) := by
  refine h.acts rfl (fun _ => ctxDestroyCmd_agree (by decide)) rfl (guardAct_passes (firstErr_none ?_))
  have hfurled : (ctxState (s.heard r) r.ctx.toNat != some .furled) = false := by simp [ctxState, heard_ctx?, hx, hst]
  simp [hrsv, heard_noCtx hx, heard_ctxStateCheck hx (by rw [hst]; rfl), hfurled]

/-- A destroyed context's id is free. -/
theorem destroy_ctx? (s : State) (c : Nat) : (s.destroy c).ctx? c = none := by
  unfold State.destroy
  split
  · assumption
  · exact tget_tdel_self _ _

theorem ctxQuery_acts (h : Heard ctxQueryCmd r s) (hrsv : (argRsv r 0 0).1 = false) (hx : s.ctx? r.ctx.toNat = some x) :
    Acts ctxQueryCmd (.ctxQuery r) r s (s.heard r)
      (done1 (packFields [(0, 4, x.state.code), (4, 1, b2n x.preemptible), (5, 3, x.priority)])) := by
  refine h.acts rfl (fun _ => ctxQueryCmd_agree (by decide)) rfl ?_
  refine (guardAct_passes (firstErr_none (by simp [hrsv, heard_noCtx hx]))).trans ?_
  rw [heard_ctx?, hx]

theorem ctxPriority_acts (h : Heard ctxPriorityCmd r s) (hrsv : (argRsv r 7 0).1 = false) (hx : s.ctx? r.ctx.toNat = some x)
    (hst : stateRefusal x.state = none) :
    Acts ctxPriorityCmd (.ctxPriority r) r s
      (((s.heard r).modCtx r.ctx.toNat fun x => { x with priority := a0 r % 8 }).reevalAll true) (ans stDone) :=
  h.acts rfl (fun _ => ctxPriorityCmd_agree (by decide)) rfl
    (guardAct_passes (firstErr_none (by simp [hrsv, heard_noCtx hx, heard_ctxStateCheck hx hst])))

end

/-- Settles O3: each command acts when heard, and what it makes of its context is followed through what it sets off. -/
theorem contextCommandsComplete : Obligations.ContextCommandsComplete := by
  refine ⟨fun r s h hrsv hrec hbad hnew hfence => ⟨fun hpre => ?_, fun q hq => ctxCreate_acts h hrsv hrec hbad hnew hfence hq,
      fun hroom => ctxCreate_enters h hrsv hrec hbad hnew hfence hroom⟩,
    fun r s x h hrsv hx hfresh => ⟨fun hst hzero => ?_, fun hst => ?_⟩,
    fun r s x h hrsv hx hfurled hfurling => ⟨ctxFurl_acts h hrsv hx hfurled hfurling, ?_⟩,
    fun r s x h hrsv hx hst => ⟨ctxDestroy_acts h hrsv hx hst, ?_⟩,
    fun r s x h hrsv hx => ctxQuery_acts h hrsv hx,
    fun r s x h hrsv hx hst => ⟨ctxPriority_acts h hrsv hx hst, ?_⟩⟩
  · have hacts := ctxCreate_acts h hrsv hrec hbad hnew hfence (by rw [hpre]; exact createSaves_not_preemptible _ _)
    rwa [hpre] at hacts
  · have hacts := ctxUnfurl_acts h hrsv hx hfresh hst hzero
    exact ⟨hacts, hacts.modCtx_owe hx⟩
  · have hacts := ctxUnfurl_defers h hrsv hx hfresh hst
    exact ⟨hacts, hacts.modCtx_owe hx⟩
  · refine (ctxFurl_acts h hrsv hx hfurled hfurling).runs fun t hsame hst _ => ?_
    obtain ⟨howes, hstate, hcopies⟩ := startFurl_furls ((heard_ctx? s r _).trans hx) r
    exact ⟨howes.of_st hst, (hstate.agree hsame (by decide)).get, fun m hm => hcopies.agree hsame (by decide) m hm⟩
  · refine (ctxDestroy_acts h hrsv hx hst).runs fun t hsame _ _ => ?_
    rw [hsame.ctx? (by decide), destroy_ctx?]
  · refine (ctxPriority_acts h hrsv hx hst).runs fun t hsame _ _ => CtxIs.get (CtxIs.agree ?_ hsame (by decide))
    have hset := (ctxIs_of_get ((heard_ctx? s r _).trans hx)).modCtx_to (Q := fun y => y.priority = a0 r % 8)
      (f := fun x => { x with priority := a0 r % 8 }) fun _ _ => rfl
    exact hset.reevalAll ⟨fun _ _ h => h, .inr fun _ _ h _ => h⟩ true

end Sys2Proof.Machine
end

section
/-! The end of a context's zeroing (R293, R491): a cached line that keeps more bytes than a line has. -/
namespace Sys2Proof.Machine

/-- A dirty line of context 5 over the first 128 bytes of DRAM, which keeps 129 bytes of what DRAM itself holds. -/
def longLine : CLine :=
  { line := 0, way := 0, ctx := 5, dirty := true, used := 0,
    under := some { bytes := List.replicate 129 1#8, poison := [], flaws := [] } }

/-- A furled context that owes its zeroing since a coolant stop. -/
def owingCtx : Ctx := { newCtx [] false [] with owesZero := true }

/-- Mast 0 has the long line in its cache, and byte 128 of its DRAM is to be zeroed for context 5. -/
def longLineState : State :=
  { State.reset with
    masts := fillTab 8 { Mast.reset with lc := { Mast.reset.lc with lines := [longLine] } },
    ctxs := [(5, owingCtx)], zeroing := [(5, [(0, 128, 1)])] }

/-- A byte of mast 0's DRAM after a command. -/
def byteAfter (o : Host.Outcome State Fault Refusal) (a : Nat) : Byte :=
  match o with
  | .next t => memByte (t.mast 0).dram.cells a
  | _ => 0

/-- The line is given up after the region was zeroed, and writes back into the region. -/
theorem longLine_writes_back : byteAfter (exec (.contextZeroingEnd 5) longLineState) 128 = 1 := by decide

/-- Refutes O4: the model's states allow a line of the cache that keeps more than 128 bytes of DRAM. When the zeroing of a
context ends, such a line leaves the cache after the region behind it was zeroed, and its bytes stand in the region. -/
theorem not_contextEventsComplete : ¬ Obligations.ContextEventsComplete := by
  rintro ⟨-, -, -, hzeroing⟩
  obtain ⟨-, -, t, ht, -, hzero⟩ := hzeroing 5 longLineState rfl rfl
  have hbyte : memByte (t.mast 0).dram.cells 128 = 0 := hzero (0, 128, 1) (by decide) (by decide) 128 (by decide) (by decide)
  have hback := longLine_writes_back
  rw [ht] at hback
  exact absurd (hbyte.symm.trans hback) (by decide)

end Sys2Proof.Machine
end

section
/-! A read of DRAM (R218, R219, R229): a cached line that keeps poison of a half-line that is not its own. -/
namespace Sys2Proof.Machine

/-- A clean line of context 5 far from the first byte of DRAM, and in its set, which keeps the first half-line as poisoned. -/
def strayLine : CLine :=
  { line := 16384, way := 0, ctx := 5, dirty := false, used := 0, under := some { bytes := [], poison := [0], flaws := [] } }

/-- A context that has the first megabyte of mast 0's DRAM. -/
def grantedCtx : Ctx :=
  { newCtx [] false [] with state := .unfurled, grants := [{ mast := 0, base := 0, size := 0x100000, releasing := false }] }

/-- The context has one way of mast 0's line cache, in which the stray line lies, and byte 0 of DRAM is 1. -/
def strayLineState : State :=
  { State.reset with
    st := { State.reset.st with negotiated := true },
    masts := fillTab 8 { Mast.reset with
      dram := { Mast.reset.dram with cells := [(0, 1)] }
      mc := { Mast.reset.mc with ctxs := [(5, { McCtx.new with ways := 1 })] }
      lc := { Mast.reset.lc with lines := [strayLine] } },
    ctxs := [(5, grantedCtx)] }

/-- A MEM_READ of the first byte of mast 0's DRAM. -/
def readFirst : Req :=
  { flitCh := 0, version := 0x30, kind := 0, quiet := false, ordered := false, more := false, flagRsv := 0, tag := 7, ctx := 5,
    channel := 0, rsv := 0, arg0 := 0, arg1 := 1, payload := [] }

/-- The read's answer when it delivers the byte of memory. -/
def byteAnswer : Ans := { status := stDone, hi := 0, arg1 := 0, parts := [[1]] }

/-- Whether the packets of an answer to a request of channel 0 wait or have gone out after a command. -/
def answerGiven (k : Cmd) (r : Req) (a : Ans) (o : Host.Outcome State Fault Refusal) : Bool :=
  match o with
  | .next t => (respond k.opcode r false a).all fun p => p.silent || (t.chan 0).answers.contains p || t.out.contains (.packet p)
  | _ => false

theorem answerGiven_of_answered {k : Cmd} {r : Req} {a : Ans} {t : State} (hr : r.flitCh = 0) (h : Answered k r a t) :
    answerGiven k r a (.next t) = true := by
  refine List.all_eq_true.2 fun p hp => ?_
  have hgiven := h p hp
  rw [hr] at hgiven
  simpa [or_assoc] using hgiven

theorem readFirst_heard : Heard memReadCmd readFirst strayLineState :=
  ⟨by decide, by decide, by decide, by decide, by decide, Option.isNone_iff_eq_none.1 (by decide)⟩

/-- The line that is read takes the stray line's way, which poisons what is read: the byte is not delivered. -/
theorem readFirst_not_delivered : answerGiven memReadCmd readFirst byteAnswer (exec (.memRead readFirst) strayLineState) = false := by
  decide

/-- Refutes O5: the model's states allow a cached line that keeps poison of another line's half-lines. A read of memory without
poison and flaws then replaces such a line, DRAM has that poison, and the answer has 0 for the byte that memory holds. -/
theorem not_memoryCommandsComplete : ¬ Obligations.MemoryCommandsComplete := by
  rintro ⟨-, -, -, -, hread⟩
  obtain ⟨-, hclean, -, -⟩ := hread readFirst strayLineState readFirst_heard (Option.isNone_iff_eq_none.1 (by decide))
  obtain ⟨t, ht, hanswered⟩ := hclean (by decide) (by decide) (by decide)
  have hgiven := answerGiven_of_answered rfl hanswered
  rw [← ht] at hgiven
  exact absurd (hgiven.symm.trans readFirst_not_delivered) (by decide)

end Sys2Proof.Machine
end

section
/-! What a write stores in a mast's memory, and what it leaves (R218, R224, R275). -/
namespace Sys2Proof.Machine

/-! ## Bytes that are written -/

/-- The bytes written read back. -/
theorem memByte_memWrite_in {m : Mem} (hm : Memory.wf m = true) {bs : Bytes} (a : Nat) {i : Nat} {b : Byte} (h : bs[i]? = some b) :
    memByte (memWrite m a bs) (a + i) = b := by
  induction bs generalizing m a i with
  | nil => cases h
  | cons c bs ih =>
    rw [memWrite]
    cases i with
    | zero =>
      obtain rfl := Option.some.inj h
      rw [memByte_memWrite_out (by omega), Nat.add_zero, memByte_memSet_self hm]
    | succ i =>
      have hrest := ih (memSet_wf a c hm) (a + 1) (i := i) h
      rwa [Nat.add_right_comm] at hrest

/-- Outside its range a write to DRAM leaves every byte. -/
theorem memByte_put_out {d : Dram} {lost : List Nat} {off : Nat} {data : Bytes} {a : Nat} (ha : a < off ∨ off + data.length ≤ a) :
    memByte (d.put lost off data).cells a = memByte d.cells a := by
  unfold Dram.put
  dsimp only
  split
  · exact memByte_memWrite_out ha
  · have key : ∀ (l : List (Nat × Byte)) (c : Mem), (∀ e ∈ l, e.1 < data.length) →
        memByte (l.foldl (fun c e => if lost.contains ((off + e.1) / 64) then c else memSet c (off + e.1) e.2) c) a = memByte c a := by
      intro l
      induction l with
      | nil => exact fun _ _ => rfl
      | cons e l ih =>
        intro c hl
        obtain ⟨he, hrest⟩ := List.forall_mem_cons.1 hl
        rw [List.foldl_cons, ih _ hrest]
        split
        · rfl
        · exact memByte_memSet_ne (by omega)
    exact key _ _ fun e he => lt_length_of_mem_enum he

/-- A write that loses no half-line stores every byte. -/
theorem memByte_put_in {d : Dram} (hd : Memory.wf d.cells = true) {off : Nat} {data : Bytes} {i : Nat} {b : Byte}
    (h : data[i]? = some b) : memByte (d.put [] off data).cells (off + i) = b :=
  memByte_memWrite_in hd off h

/-! ## Changes of a part of memory -/

section
variable {m : Nat} {dr sp dr' sp' : Nat → Prop} {s t u : State}

theorem OnlyIn.refl (m : Nat) (dr sp : Nat → Prop) (s : State) : OnlyIn m dr sp s s := fun _ _ => ⟨fun _ => rfl, fun _ => rfl⟩

theorem OnlyIn.trans (h : OnlyIn m dr sp s t) (k : OnlyIn m dr sp t u) : OnlyIn m dr sp s u := fun n a =>
  ⟨fun ha => ((k n a).1 ha).trans ((h n a).1 ha), fun ha => ((k n a).2 ha).trans ((h n a).2 ha)⟩

theorem OnlyIn.mono (h : OnlyIn m dr sp s t) (hdr : ∀ a, dr a → dr' a) (hsp : ∀ a, sp a → sp' a) : OnlyIn m dr' sp' s t :=
  fun n a => ⟨fun ha => (h n a).1 (ha.imp_right (mt (hdr a))), fun ha => (h n a).2 (ha.imp_right (mt (hsp a)))⟩

/-- What leaves the bytes of memory changes no part of it. -/
theorem OnlyIn.of_agree {M : List Comp} (h : Agree M s t) (hM : Comp.cells ∉ M) : OnlyIn m dr sp s t := fun n a => by
  obtain ⟨hd, hs⟩ := h.part .cells hM n
  exact ⟨fun _ => by rw [hd], fun _ => by rw [hs]⟩

theorem OnlyIn.agree {M : List Comp} (h : OnlyIn m dr sp s t) (k : Agree M t u) (hM : Comp.cells ∉ M) : OnlyIn m dr sp s u :=
  h.trans (.of_agree k hM)

/-- A change of one mast's memory. -/
theorem OnlyIn.modMast {f : Mast → Mast} (hd : ∀ z a, ¬ dr a → memByte (f z).dram.cells a = memByte z.dram.cells a)
    (hs : ∀ z a, ¬ sp a → memByte (f z).spad.cells a = memByte z.spad.cells a) : OnlyIn m dr sp s (s.modMast m f) := by
  intro n a
  obtain hn | ⟨rfl, hn⟩ := mast_modMast s m f n
  · exact ⟨fun _ => by rw [hn], fun _ => by rw [hn]⟩
  · rw [hn]
    exact ⟨fun ha => hd _ a (ha.resolve_left fun h => h rfl), fun ha => hs _ a (ha.resolve_left fun h => h rfl)⟩

end

/-! ## Writes -/

/-- A write to DRAM before its bytes go in: what it read, and the half-lines that it lost. -/
def State.mergeHalves (s : State) (m : Nat) (r : Reader) (off len : Nat) : State × List (Nat × Nat) :=
  (partialHalves off len).foldl (fun (acc : State × List (Nat × Nat)) h =>
    ((acc.1.touchDram m r h (h + 1)).1,
      match (acc.1.touchDram m r h (h + 1)).2.bad with | some b => acc.2 ++ [b] | none => acc.2)) (s, [])

section
variable (s : State) (m : Nat) (r : Reader) (off : Nat) (data : Bytes)

theorem writeDram_eq : s.writeDram m r off data =
    ((((s.mergeHalves m r off data.length).1.fillRest m r off data.length).modMast m fun z =>
      { z.lookup r off data.length true with dram := z.dram.put ((s.mergeHalves m r off data.length).2.map (·.1)) off data }),
     (s.mergeHalves m r off data.length).2.head?) := rfl

theorem mergeHalves_agree (len : Nat) : Agree [.flt, .st, .masts, .pmc] s (s.mergeHalves m r off len).1 :=
  Agree.foldl_fst (Agree.refl _ s) fun y h hy => State.touchDram_agree (a1 := m) (a2 := r) (a3 := h) (a4 := h + 1) (by decide) hy

/-- A write to DRAM changes no byte but those of its range. -/
theorem writeDram_onlyIn : OnlyIn m (fun a => off ≤ a ∧ a < off + data.length) (fun _ => False) s (s.writeDram m r off data).1 := by
  rw [writeDram_eq]
  refine OnlyIn.trans (.of_agree (State.fillRest_agree (by decide) (mergeHalves_agree s m r off _)) (by decide))
    (OnlyIn.modMast (fun z a ha => ?_) fun z a _ => ?_)
  · exact memByte_put_out (by omega)
  · rw [(MastTo.lookup_same z r off data.length true).1]

end

theorem ptrSpace_ptr {space off : Nat} (hs : space < 2 ^ 8) (ho : off < 2 ^ 48) : ptrSpace (space * 2 ^ 48 + off) = space := by
  unfold ptrSpace bits
  omega

theorem ptrOff_ptr {space off : Nat} (ho : off < 2 ^ 48) : ptrOff (space * 2 ^ 48 + off) = off := by
  unfold ptrOff bits
  omega

section
variable (s : State) (m : Nat) (r : Reader) (x : Nat) (data : Bytes)

/-- A write of a unit changes only the bytes at its pointer. -/
theorem writeAt_onlyAt : OnlyAt m x data.length s (s.writeAt m r x data).1 := by
  unfold State.writeAt
  split
  case isTrue hspace =>
    exact (writeDram_onlyIn s m r (ptrOff x) data).mono (fun a ha => ⟨hspace, ha⟩) fun _ ha => ha.elim
  case isFalse hspace =>
    refine OnlyIn.modMast (fun _ _ _ => rfl) fun z a ha => memByte_memWrite_out ?_
    omega

end

/-! ## DRAM without poison and flaws -/

/-- DRAM of a mast holds neither poison nor flaws. -/
def CleanDram (m : Nat) (s : State) : Prop := (s.mast m).dram.poison = [] ∧ (s.mast m).dram.flaws = []

/-- What a read of DRAM without poison and flaws meets. -/
theorem touch_clean {z : Mast} (hp : z.dram.poison = []) (hf : z.dram.flaws = []) (lo hi : Nat) :
    (z.touch lo hi).1.poison = [] ∧ (z.touch lo hi).1.flaws = [] ∧ (z.touch lo hi).2 = { ce := [], uc := [], poison := [] } := by
  simp [Mast.touch, Dram.touch, hp, hf]

section
variable {s : State} {m : Nat}

/-- A read of DRAM without poison and flaws meets nothing and repairs nothing. -/
theorem touchDram_clean (h : CleanDram m s) (r : Reader) (lo hi : Nat) :
    CleanDram m (s.touchDram m r lo hi).1 ∧ (s.touchDram m r lo hi).2 = { ce := [], uc := [], poison := [] } := by
  obtain ⟨hp, hf⟩ := h
  obtain ⟨-, -, hmet⟩ := touch_clean hp hf lo hi
  have hrows : repairRows ((s.mast m).touch lo hi).1 ((s.mast m).touch lo hi).2 = [] := by rw [hmet]; rfl
  unfold State.touchDram
  dsimp only
  rw [hrows]
  refine ⟨?_, hmet⟩
  unfold CleanDram
  rw [List.foldl_nil]
  obtain hsame | ⟨-, htouched⟩ := mast_modMast s m (fun x => Mast.noteMet { x with dram := (x.touch lo hi).1 } r
    ((s.mast m).touch lo hi).2) m
  · rw [hsame]
    exact ⟨hp, hf⟩
  · rw [htouched]
    exact ⟨(touch_clean hp hf lo hi).1, (touch_clean hp hf lo hi).2.1⟩

/-- A write to DRAM without poison and flaws loses no half-line. -/
theorem mergeHalves_clean (h : CleanDram m s) (r : Reader) (off len : Nat) : (s.mergeHalves m r off len).2 = [] := by
  unfold State.mergeHalves
  have key : ∀ (l : List Nat) (u : State), CleanDram m u →
      (l.foldl (fun (acc : State × List (Nat × Nat)) h => ((acc.1.touchDram m r h (h + 1)).1,
        match (acc.1.touchDram m r h (h + 1)).2.bad with | some b => acc.2 ++ [b] | none => acc.2)) (u, [])).2 = [] := by
    intro l
    induction l with
    | nil => exact fun _ _ => rfl
    | cons k l ih =>
      intro u hu
      obtain ⟨hclean, hmet⟩ := touchDram_clean hu r k (k + 1)
      rw [List.foldl_cons, hmet]
      exact ih _ hclean
  exact key _ s h

end

/-! ## MEM_WRITE -/

theorem dptr_space_lt (x : Nat) : (dptr x).space < 2 ^ 8 := bits_lt _ _ _
theorem dptr_off_lt (x : Nat) : (dptr x).off < 2 ^ 48 := bits_lt _ _ _

/-- The pointer at which a MEM_WRITE stores its payload. -/
def writePtr (r : Req) : Nat := (dptr (a0 r)).space * 2 ^ 48 + (dptr (a0 r)).off

theorem ptrSpace_writePtr (r : Req) : ptrSpace (writePtr r) = (dptr (a0 r)).space := ptrSpace_ptr (dptr_space_lt _) (dptr_off_lt _)
theorem ptrOff_writePtr (r : Req) : ptrOff (writePtr r) = (dptr (a0 r)).off := ptrOff_ptr (dptr_off_lt _)

/-- The write of a MEM_WRITE. -/
def State.hostWrites (s : State) (r : Req) : State × IoErr :=
  s.writeAt (dptr (a0 r)).mast (hostReader r.ctx.toNat) (writePtr r) r.payload

/-- The parts that a command's answer, and the records around it, may change: no byte of memory is among them. -/
def aroundParts : List Comp := [.flt, .hif, .st, .hal, .pmc, .out, .pending]

theorem memWritten_around (c : Nat) (p : Dptr) (n : Nat) (x : State × Option (Nat × Nat)) :
    Agree aroundParts x.1 (memWritten c p n x).1 :=
  memWritten_agree (by decide) (Agree.refl _ _)

theorem Agree.setPending {M : List Comp} {s t : State} (h : Agree M s t) (hM : Comp.pending ∈ M) (l : List Instr) :
    Agree M s { t with pending := l } where
  part c hc := by
    cases c with
    | pending => exact absurd hM hc
    | _ => exact h.part _ hc

/-- A request acts, or it changes neither a mast nor a context. -/
theorem stauc_next {k : Cmd} {r : Req} {s t : State} (h : stauc k r s = .next t) :
    Agree [.hif, .st, .out] s t ∨ t = { k.run r (s.heard r) with pending := s.pending } := by
  have hwhole := h
  unfold stauc onChannel State.whenAlive receive examine at h
  by_cases hlane : r.flitCh < 8
  · rw [if_pos hlane] at h
    by_cases halive : s.alive = true
    · rw [if_pos halive] at h
      dsimp only at h
      split at h
      · refine .inl (Agree.settle ?_ (by decide) h)
        exact State.modChan_agree (by decide) (State.arrive_agree (by decide) (Agree.refl _ _)) fun _ _ q => q
      · split at h
        · exact .inl (Agree.settle (State.refuseReq_agree (by decide) (State.returnUnits_agree (by decide)
            (State.arrive_agree (by decide) (Agree.refl _ _)))) (by decide) h)
        · exact .inr (Host.Outcome.next.inj h).symm
    · rw [if_neg halive] at h
      exact .inl (Agree.settle (Agree.refl _ _) (by decide) h)
  · rw [if_neg hlane] at h
    cases h

theorem memWriteAct_eq (r : Req) (s : State) : memWriteAct r s =
    guardAct (memWriteChecks r s) s (memWritten r.ctx.toNat (dptr (a0 r)) r.payload.length (s.hostWrites r)) := rfl

/-- MEM_WRITE leaves memory, or stores its payload. -/
theorem memWrite_next {r : Req} {s t : State} (h : exec (.memWrite r) s = .next t) :
    Agree aroundParts s t ∨ Agree aroundParts ((s.heard r).hostWrites r).1 t := by
  obtain hsame | rfl := stauc_next (k := memWriteCmd) h
  · exact .inl (hsame.mono (by decide))
  · have hrun : ∀ u : State, Agree aroundParts u (memWriteAct r (s.heard r)).1 →
        Agree aroundParts u { memWriteCmd.run r (s.heard r) with pending := s.pending } := fun u hu =>
      Agree.setPending (State.queueAnswers_agree (M := aroundParts) (by decide) hu) (by decide) _
    rw [memWriteAct_eq] at hrun
    cases hchecks : firstErr (memWriteChecks r (s.heard r)) with
    | some a =>
      rw [guardAct, hchecks] at hrun
      exact .inl (hrun s ((heard_agree s r).mono (by decide)))
    | none =>
      rw [guardAct_passes hchecks] at hrun
      exact .inr (hrun _ (memWritten_around _ _ _ _))

theorem hostWrites_onlyAt (s : State) (r : Req) :
    OnlyAt (dptr (a0 r)).mast (writePtr r) r.payload.length s ((s.heard r).hostWrites r).1 :=
  OnlyIn.trans (.of_agree (heard_agree s r) (by decide)) (writeAt_onlyAt (s.heard r) _ _ _ _)

theorem memWrite_onlyAt {r : Req} {s t : State} (h : exec (.memWrite r) s = .next t) :
    OnlyAt (dptr (a0 r)).mast (writePtr r) r.payload.length s t := by
  obtain hsame | hwritten := memWrite_next h
  · exact .of_agree hsame (by decide)
  · exact (hostWrites_onlyAt s r).agree hwritten (by decide)

theorem mem_of_mastKeys {s : State} (h : tkeys s.masts = List.range 8) {n : Nat} (hn : n < 8) : n ∈ tkeys s.masts :=
  h ▸ List.mem_range.2 hn

theorem mast_modMast_self {s : State} {n : Nat} (h : n ∈ tkeys s.masts) (f : Mast → Mast) : (s.modMast n f).mast n = f (s.mast n) :=
  tgetD_tmod_self f _ h

theorem mast_memOk {s : State} (h : s.memOk) (n : Nat) : (s.mast n).memOk := by
  unfold State.mast tgetD
  cases hget : tget s.masts n with
  | none => exact ⟨by decide, by decide⟩
  | some z => exact h (n, z) (mem_of_tget hget)

/-- A write leaves the memory of its mast that its pointer does not name. -/
theorem writeAt_other_space (s : State) (m : Nat) (r : Reader) (x : Nat) (data : Bytes) :
    (ptrSpace x ≠ 0 → ((s.writeAt m r x data).1.mast m).dram.cells = (s.mast m).dram.cells) ∧
    (ptrSpace x = 0 → ((s.writeAt m r x data).1.mast m).spad.cells = (s.mast m).spad.cells) := by
  unfold State.writeAt
  refine ⟨fun hx => ?_, fun hx => ?_⟩
  · rw [if_neg hx]
    obtain hsame | ⟨-, hwritten⟩ := mast_modMast s m (fun z => z.writeSpad (ptrOff x) data) m
    · rw [hsame]
    · rw [hwritten]
      rfl
  · rw [if_pos hx, writeDram_eq]
    dsimp only
    have hagree : Agree [.flt, .st, .masts, .pmc] s ((s.mergeHalves m r (ptrOff x) data.length).1.fillRest m r (ptrOff x) data.length) :=
      State.fillRest_agree (by decide) (mergeHalves_agree s m r _ _)
    refine Eq.trans ?_ (hagree.part .cells (by decide) m).2
    obtain hsame | ⟨-, hwritten⟩ := mast_modMast ((s.mergeHalves m r (ptrOff x) data.length).1.fillRest m r (ptrOff x) data.length) m
      (fun z => { z.lookup r (ptrOff x) data.length true with
        dram := z.dram.put ((s.mergeHalves m r (ptrOff x) data.length).2.map (·.1)) (ptrOff x) data }) m
    · rw [hsame]
    · rw [hwritten]
      exact congrArg Spad.cells (MastTo.lookup_same _ r (ptrOff x) data.length true).1

section
variable {s : State} {m : Nat}

/-- A write to DRAM without poison and flaws stores its bytes. -/
theorem writeDram_stores (hkeys : tkeys s.masts = List.range 8) (hm : m < 8) (hok : s.memOk) (hclean : CleanDram m s) (r : Reader)
    (off : Nat) {data : Bytes} {i : Nat} {b : Byte} (hi : data[i]? = some b) :
    memByte ((s.writeDram m r off data).1.mast m).dram.cells (off + i) = b := by
  have hagree : Agree [.flt, .st, .masts, .pmc] s ((s.mergeHalves m r off data.length).1.fillRest m r off data.length) :=
    State.fillRest_agree (by decide) (mergeHalves_agree s m r off _)
  have hkeys := hagree.part .mastKeys (by decide) hkeys
  have hok := mast_memOk (hagree.part .mem (by decide) hok) m
  rw [writeDram_eq, mast_modMast_self (mem_of_mastKeys hkeys hm), mergeHalves_clean hclean]
  exact memByte_put_in hok.1 hi

theorem writeAt_dram_stores (hkeys : tkeys s.masts = List.range 8) (hm : m < 8) (hok : s.memOk) (hclean : CleanDram m s) (r : Reader)
    {x : Nat} (hx : ptrSpace x = 0) {data : Bytes} {i : Nat} {b : Byte} (hi : data[i]? = some b) :
    memByte ((s.writeAt m r x data).1.mast m).dram.cells (ptrOff x + i) = b := by
  unfold State.writeAt
  rw [if_pos hx]
  exact writeDram_stores hkeys hm hok hclean r _ hi

theorem writeAt_spad_stores (hkeys : tkeys s.masts = List.range 8) (hm : m < 8) (hok : s.memOk) (r : Reader) {x : Nat}
    (hx : ptrSpace x ≠ 0) {data : Bytes} {i : Nat} {b : Byte} (hi : data[i]? = some b) :
    memByte ((s.writeAt m r x data).1.mast m).spad.cells (ptrOff x + i) = b := by
  unfold State.writeAt
  rw [if_neg hx, mast_modMast_self (mem_of_mastKeys hkeys hm)]
  exact memByte_memWrite_in (mast_memOk hok m).2 _ hi

end

theorem dptr_mast_lt (x : Nat) : (dptr x).mast < 8 := bits_lt _ _ _

/-- A MEM_WRITE that is heard and passes its checks leaves its payload's write. -/
theorem memWrite_stored {r : Req} {s t : State} (h : Heard memWriteCmd r s) (hchecks : firstErr (memWriteChecks r s) = none)
    (ht : exec (.memWrite r) s = .next t) : Agree aroundParts ((s.heard r).hostWrites r).1 t := by
  have hchecks' : firstErr (memWriteChecks r (s.heard r)) = none :=
    (heard_reads (f := fun s => firstErr (memWriteChecks r s)) s r fun _ _ _ _ => rfl).trans hchecks
  obtain ⟨u, hu, hsame, -, -⟩ := h.acts (i := .memWrite r) rfl (fun _ => memWriteCmd_agree (by decide)) rfl
    (x := (memWriteAct r (s.heard r)).1) rfl
  obtain rfl : u = t := Host.Outcome.next.inj (hu.symm.trans ht)
  refine Agree.trans ?_ (hsame.mono (by decide))
  rw [memWriteAct_eq, guardAct_passes hchecks']
  exact memWritten_around _ _ _ _

/-- Settles O6: a write of a mast's memory puts its bytes at its pointer and leaves the rest, and what surrounds it leaves memory. -/
theorem memWriteStoresItsBytes : Obligations.MemWriteStoresItsBytes := by
  refine ⟨fun r s t ht n a ha => ?_, fun r s t ht => ⟨fun hspace => ?_, fun hspace => ?_⟩, fun r s t hkeys hok h hchecks ht => ?_⟩
  · obtain ⟨hd, hs⟩ := memWrite_onlyAt ht n a
    rw [ptrSpace_writePtr, ptrOff_writePtr] at hd hs
    exact ⟨hd (ha.imp_right fun h => by omega), hs (ha.imp_right fun h => by omega)⟩
  · obtain hsame | hwritten := memWrite_next ht
    · exact (hsame.part .cells (by decide) _).1
    · refine ((hwritten.part .cells (by decide) _).1.trans ((writeAt_other_space _ _ _ _ _).1 ?_)).trans
        ((heard_agree s r).part .cells (by decide) _).1
      rwa [ptrSpace_writePtr]
  · obtain hsame | hwritten := memWrite_next ht
    · exact (hsame.part .cells (by decide) _).2
    · refine ((hwritten.part .cells (by decide) _).2.trans ((writeAt_other_space _ _ _ _ _).2 ?_)).trans
        ((heard_agree s r).part .cells (by decide) _).2
      rwa [ptrSpace_writePtr]
  · have hwritten := memWrite_stored h hchecks ht
    have hheard := heard_agree s r
    have hkeys := hheard.part .mastKeys (by decide) hkeys
    have hok := hheard.part .mem (by decide) hok
    refine ⟨fun hp hf hspace i b hi => ?_, fun hspace i b hi => ?_⟩
    · have hclean : CleanDram (dptr (a0 r)).mast (s.heard r) := by
        unfold CleanDram State.mast
        rw [hheard.part .masts (by decide)]
        exact ⟨hp, hf⟩
      rw [(hwritten.part .cells (by decide) _).1, ← ptrOff_writePtr]
      exact writeAt_dram_stores hkeys (dptr_mast_lt _) hok hclean _ ((ptrSpace_writePtr r).trans hspace) hi
    · rw [(hwritten.part .cells (by decide) _).2, ← ptrOff_writePtr]
      exact writeAt_spad_stores hkeys (dptr_mast_lt _) hok _ (by rw [ptrSpace_writePtr, hspace]; decide) hi

end Sys2Proof.Machine
end

section
/-! The commands of shards and programs (R276, R306 to R312). -/
namespace Sys2Proof.Machine

/-! ## The table of shards -/

theorem Agree.shard? {M : List Comp} {s t : State} (h : Agree M s t) (hM : Comp.hal ∉ M) (id : Nat) : t.shard? id = s.shard? id := by
  rw [State.shard?, h.part .hal hM]
  rfl

theorem modShard_shard?_self (s : State) (id : Nat) (f : Shard → Shard) : (s.modShard id f).shard? id = (s.shard? id).map f :=
  tget_tmod_self _ _ _

theorem modShard_shard?_none {s : State} {id : Nat} (h : s.shard? id = none) (j : Nat) (f : Shard → Shard) :
    (s.modShard j f).shard? id = none := by
  by_cases hj : id = j
  · subst hj
    rw [modShard_shard?_self, h]
    rfl
  · exact (tget_tmod_ne _ _ hj).trans h

section
variable {s : State} {id : Nat}

/-- A queued activity that starts enters no shard. -/
theorem startQueued_shard?_none (h : s.shard? id = none) (cls : Nat) : (s.startQueued cls).shard? id = none := by
  unfold State.startQueued
  split
  · exact h
  · dsimp only
    split
    · split
      · unfold State.holdClass
        dsimp only
        split
        · exact modShard_shard?_none h _ _
        · exact h
      · exact h
    · exact h

theorem endMaint_shard?_none (h : s.shard? id = none) (activity : Nat) (a : Ans) : (s.endMaint activity a).shard? id = none := by
  unfold State.endMaint State.releaseClass
  split
  · exact h
  · split
    · exact h
    · refine startQueued_shard?_none ?_ _
      change State.shard? (if _ then s else s.complete (.maint activity) a) id = none
      split
      · exact h
      · rw [Agree.shard? (State.complete_agree (M := [.hif, .st, .out]) (by decide) (Agree.refl _ s)) (by decide), h]

theorem dropShard_shard? (s : State) (id : Nat) : (s.dropShard id).shard? id = none := tget_tdel_self _ _

/-- A shard that is removed is not there. -/
theorem removeShard_shard? (s : State) (id : Nat) : (s.removeShard id).shard? id = none := by
  unfold State.removeShard
  split
  · assumption
  · dsimp only
    split
    · split
      · exact endMaint_shard?_none (dropShard_shard? _ _) _ _
      · exact dropShard_shard? _ _
    · exact dropShard_shard? _ _

end

/-! ## SHARD_LOAD -/

theorem heard_btb (s : State) (r : Req) : (s.heard r).btb = s.btb := (heard_agree s r).part .btb (by decide)

theorem heard_shard? (s : State) (r : Req) (id : Nat) : (s.heard r).shard? id = s.shard? id := (heard_agree s r).shard? (by decide) id

/-- The state with a new shard in the table, and its completion owed. -/
def State.addShard (s : State) (r : Req) : State :=
  State.owe { s with hal := { s.hal with shards := tset s.hal.shards (a0 r) (newShard r.ctx.toNat r.payload) } } 0x0305 r (.shard (a0 r))

theorem addShard_shard? (s : State) (r : Req) : (s.addShard r).shard? (a0 r) = some (newShard r.ctx.toNat r.payload) :=
  tget_tset_self _ _ _

/-- A load that the host makes reads nothing. -/
theorem startIngest_host {s : State} {id : Nat} {h : Shard} (hid : s.shard? id = some h) (hhost : h.fabric = false) :
    s.startIngest id = s := by
  unfold State.startIngest
  rw [hid]
  simp [hhost]

section
variable {r : Req} {s : State}

theorem shardLoad_acts (h : Heard shardLoadCmd r s) (hpre : firstErr (shardLoadPre r s) = none)
    (hsigned : ((s.heard r).slSigned r.ctx.toNat r.payload).2 = true) (hsvn : s.btb.fusedSvn ≤ u8 (slMan r.payload) 2)
    (hpost : firstErr (shardLoadPost r ((s.heard r).slSigned r.ctx.toNat r.payload).1) = none) :
    ActsThen shardLoadCmd (.shardLoad r) r s (((s.heard r).slSigned r.ctx.toNat r.payload).1.addShard r) (ans stAccepted)
      (fun y => y.startIngest (a0 r)) := by
  have hpre' : firstErr (shardLoadPre r (s.heard r)) = none :=
    (heard_reads (f := fun s => firstErr (shardLoadPre r s)) s r fun _ _ _ _ => rfl).trans hpre
  refine h.actsThen rfl (fun _ => shardLoadCmd_agree (by decide)) rfl ?_
  refine (guardAct_passes hpre').trans ?_
  dsimp only
  rw [heard_btb, hsigned, Bool.not_true, if_neg Bool.false_ne_true, if_neg (Nat.not_lt.2 hsvn), guardAct_passes hpost]
  rfl

theorem shardDrop_acts (h : Heard shardDropCmd r s) (hchecks : firstErr (shardDropChecks r s) = none) :
    Acts shardDropCmd (.shardDrop r) r s ((s.heard r).removeShard (a0 r)) (ans stDone) :=
  h.acts rfl (fun _ => shardDropCmd_agree (by decide)) rfl (guardAct_passes
    ((heard_reads (f := fun s => firstErr (shardDropChecks r s)) s r fun _ _ _ _ => rfl).trans hchecks))

theorem shardQuery_acts (h : Heard shardQueryCmd r s) (hchecks : firstErr (shardQueryChecks r s) = none) :
    Acts shardQueryCmd (.shardQuery r) r s (s.heard r)
      (match s.shard? (a0 r) with | some h => done1 (h.state + h.reason * 65536) | none => done1 0) := by
  refine h.acts rfl (fun _ => shardQueryCmd_agree (by decide)) rfl ((guardAct_passes
    ((heard_reads (f := fun s => firstErr (shardQueryChecks r s)) s r fun _ _ _ _ => rfl).trans hchecks)).trans ?_)
  rw [heard_shard?] <;> rfl

theorem progLoad_acts (h : Heard progLoadCmd r s) (hchecks : firstErr (progLoadChecks r s) = none) :
    Acts progLoadCmd (.progLoad r) r s ((s.heard r).owe 0x0401 r (.prog (a0 r) (a1 r))) (ans stAccepted) :=
  h.acts rfl (fun _ => progLoadCmd_agree (by decide)) rfl (guardAct_passes
    ((heard_reads (f := fun s => firstErr (progLoadChecks r s)) s r fun _ _ _ _ => rfl).trans hchecks))

theorem progQuery_acts {x : Ctx} (h : Heard progQueryCmd r s) (hrsv : (argRsv r 0 0).1 = false)
    (hx : s.ctx? r.ctx.toNat = some x) (hst : stateRefusal x.state = none) :
    Acts progQueryCmd (.progQuery r) r s (s.heard r)
      (match x.loaded with | some p => done1 (p.guards.length + 8192) | none => done1 0) := by
  refine h.acts rfl (fun _ => progQueryCmd_agree (by decide)) rfl ((guardAct_passes (firstErr_none
    (by simp [hrsv, heard_noCtx hx, heard_ctxStateCheck hx hst]))).trans ?_)
  rw [heard_ctx?, hx] <;> rfl

end

/-- Settles O7: each command acts when heard, and what it makes of its shard or owes for its program is read off. -/
theorem shardAndProgramCommandsComplete : Obligations.ShardAndProgramCommandsComplete := by
  refine ⟨fun r s h hpre => ?_, fun r s h hchecks => ⟨shardDrop_acts h hchecks, ?_⟩, fun r s h hchecks => shardQuery_acts h hchecks,
    fun r s h hchecks => ⟨progLoad_acts h hchecks, ?_⟩, fun r s x h hrsv hx hst => progQuery_acts h hrsv hx hst⟩
  · intro q hsigned hsvn hpost x
    have hacts : ActsThen shardLoadCmd (.shardLoad r) r s (q.1.addShard r) (ans stAccepted) (fun y => y.startIngest (a0 r)) :=
      shardLoad_acts h hpre hsigned hsvn hpost
    refine ⟨hacts, fun hhost => hacts.runs fun y hsame hst _ => ?_⟩
    have hshard : y.shard? (a0 r) = some (newShard r.ctx.toNat r.payload) := by
      rw [hsame.shard? (by decide), addShard_shard?]
    dsimp only
    rw [startIngest_host hshard hhost]
    exact ⟨hshard, (owes_owe _ _ r _).of_st hst⟩
  · refine (shardDrop_acts h hchecks).runs fun t hsame _ _ => ?_
    rw [hsame.shard? (by decide), removeShard_shard?]
  · exact (progLoad_acts h hchecks).runs fun t _ hst _ => (owes_owe _ _ r _).of_st hst

end Sys2Proof.Machine
end

section
/-! The events of shards and programs (R276, R308, R313 to R315). -/
namespace Sys2Proof.Machine

/-- A triple is known by its last part. -/
theorem eq_of_last {α β γ : Type} {q : α × β × γ} {c : γ} (h : q.2.2 = c) : q = (q.1, q.2.1, c) := by
  obtain ⟨a, b, d⟩ := q
  exact h ▸ rfl

/-! ## A chunk is hashed -/

/-- A shard with one leaf more. -/
def Shard.hashedLeaf (h : Shard) (k : Nat) (leaf : Bytes) : Shard :=
  { h with leaves := tset h.leaves k leaf, ready := h.ready.filter fun j => j != k }

section
variable {s u : State} {id k : Nat} {h : Shard} {b : Bytes}

/-- A chunk that is read back without poison has its leaf. -/
theorem hashChunk_read {r : Reader} (hid : s.shard? id = some h)
    (hread : s.readShard h r (k * 0x100000) (min 0x100000 (h.len - k * 0x100000)) = (u, b, none)) :
    s.hashChunk id k r = u.modShard id fun h => h.hashedLeaf k (sha384 ([0#8] ++ b)) := by
  simp only [State.hashChunk, hid, hread]
  rfl

theorem checkRoot_waits (hid : u.shard? id = some h) (hmore : h.leaves.length ≠ h.chunks) : u.checkRoot id = u := by
  simp [State.checkRoot, hid, Shard.allHashed, hmore]

theorem checkRoot_matches (hid : u.shard? id = some h) (hst : h.state = 1) (hall : h.leaves.length = h.chunks)
    (hroot : merkleRoot 17 (h.leaves.map (·.2)) = h.root) :
    u.checkRoot id = u.modShard id fun h => { h with scanning := true } := by
  simp [State.checkRoot, hid, hst, Shard.allHashed, hall, Shard.rootOk, hroot]

theorem checkRoot_differs (hid : u.shard? id = some h) (hst : h.state = 1) (hall : h.leaves.length = h.chunks)
    (hroot : merkleRoot 17 (h.leaves.map (·.2)) ≠ h.root) : u.checkRoot id = u.quarantine id 1 none := by
  simp [State.checkRoot, hid, hst, Shard.allHashed, hall, Shard.rootOk, hroot]

/-- A complete chunk of a load is hashed, and then the root is compared. -/
theorem chunkHashed_loading {l : List Nat} (hid : s.shard? id = some h) (hcool : s.pwr.coolstop = false) (hst : h.state = 1)
    (hready : h.ready = k :: l) : s.chunkHashed id = (s.hashChunk id k (bulkReader h.ctx)).checkRoot id := by
  simp [State.chunkHashed, hid, hcool, hst, hready]

theorem readShard_shard? (s : State) (h : Shard) (r : Reader) (o n id : Nat) : (s.readShard h r o n).1.shard? id = s.shard? id :=
  Agree.shard? (State.readShard_agree (M := [.flt, .st, .masts, .pmc]) (by decide) (Agree.refl _ s)) (by decide) id

end

/-! ## The scan, the timeout of a load, and the check of an image -/

section
variable {s u : State} {id c a n : Nat} {h : Shard} {x : Ctx}

theorem scanEnd_loaded (hid : s.shard? id = some h) (hcool : s.pwr.coolstop = false) (hst : h.state = 1) (hscan : h.scanning = true)
    (hclean : s.scanDir h (List.range h.dirCount) = (u, none)) :
    s.scanEnd id = (((u.modShard id fun h => { h with state := 2, scanning := false, lines := [], ready := [] }).complete (.shard id)
      (ans stDone)).idle h.ctx) := by
  unfold State.scanEnd
  rw [hid]
  dsimp only
  rw [if_neg (by simp [hcool, hst, hscan]), hclean]

theorem scanEnd_faulty {f : Nat × Nat} (hid : s.shard? id = some h) (hcool : s.pwr.coolstop = false) (hst : h.state = 1)
    (hscan : h.scanning = true) (hfault : s.scanDir h (List.range h.dirCount) = (u, some f)) :
    s.scanEnd id = u.quarantine id f.1 (some f.2) := by
  simp [State.scanEnd, hid, hcool, hst, hscan, hfault]

/-- The image that a context's PROG_LOAD names is read. -/
def State.readImage (s : State) (c a n : Nat) : State × Bytes × IoErr :=
  s.readAt (dptr a).mast (hostReader c) ((dptr a).space * 2 ^ 48 + (dptr a).off) n

theorem progChecked_reads (howed : s.progOwed c = some (a, n)) (hcool : s.pwr.coolstop = false)
    (hup : s.fencedMast (dptr a).mast = false) : s.progChecked c = State.progRead c a n (dptr a) (s.readImage c a n) := by
  unfold State.progChecked
  rw [howed]
  dsimp only
  rw [hup, hcool, if_neg Bool.false_ne_true, if_neg Bool.false_ne_true]
  rfl

/-- An image that is read and passes its checks is the program that takes effect next. -/
theorem progRead_taken {q : State × Bytes × IoErr} {p : Config.ImageParts} (hread : q.2.2 = none) (hx : q.1.ctx? c = some x)
    (hparse : Config.parseImage q.2.1 = .ok p) (hfault : q.1.imageFault x p = none) :
    State.progRead c a n (dptr a) q =
      (((q.1.modCtx c fun x => { x with nextProg := some (progOf p) }).completeOf c (.prog a n) (ans stDone)).idle c) := by
  unfold State.progRead State.progTake
  rw [hread]
  dsimp only
  rw [hx]
  dsimp only
  rw [hparse]
  dsimp only
  rw [hfault]

end

/-- Settles O8: each event is followed to the branch of its meaning that its conditions choose. -/
theorem shardAndProgramEventsComplete : Obligations.ShardAndProgramEventsComplete := by
  refine ⟨fun id k l s h halive hcool hid hst hready => ?_, fun id s u h halive hcool hid hst hscan => ⟨fun hclean => ?_, fun f hf => ?_⟩,
    fun id s h halive hcool hid hhost hscan => ?_, fun c a n s x p halive hcool howed hup => ?_⟩
  · intro q leaves u hread
    have hhashed : s.hashChunk id k (bulkReader h.ctx) = u :=
      hashChunk_read (u := q.1) (b := q.2.1) hid (eq_of_last hread)
    have hleaf : u.shard? id = some (h.hashedLeaf k (sha384 ([0#8] ++ q.2.1))) := by
      rw [modShard_shard?_self, readShard_shard?, hid]
      rfl
    have hdoes : ∀ t, u.checkRoot id = t → Does (.shardChunkHashed id) s t := fun t ht =>
      does_alive rfl halive ((chunkHashed_loading hid hcool hst hready).trans (hhashed ▸ ht))
    refine ⟨fun hmore => ?_, fun hall hroot => ?_, fun hall hroot => ?_⟩
    · have hwaits := hdoes _ (checkRoot_waits hleaf hmore)
      exact ⟨hwaits, hwaits.runs hleaf⟩
    · have hscans := hdoes _ (checkRoot_matches hleaf hst hall hroot)
      refine ⟨hscans, hscans.runs ((modShard_shard?_self u id fun h => { h with scanning := true }).trans ?_)⟩
      rw [hleaf]
      rfl
    · exact hdoes _ (checkRoot_differs hleaf hst hall hroot)
  · exact does_alive rfl halive (scanEnd_loaded hid hcool hst hscan hclean)
  · exact does_alive rfl halive (scanEnd_faulty hid hcool hst hscan hf)
  · refine does_alive rfl halive ?_
    simp [hid, hhost, hscan, hcool]
  · intro q hread hx hparse hfault
    have hreads : s.progChecked c = State.progRead c a n (dptr a) q := progChecked_reads howed hcool hup
    clear_value q
    exact does_alive rfl halive (hreads.trans (progRead_taken hread hx hparse hfault))

end Sys2Proof.Machine
end

section
/-! What the hub's look at the masts leaves of the entry of one context: all but its state and its times of waiting. -/
namespace Sys2Proof.Machine

/-- The entry of the context `c` has `P`. -/
def CtxGets (c : Nat) (P : Ctx → Prop) (s : State) : Prop := ∃ y, s.ctx? c = some y ∧ P y

/-- `P` does not see a context's state and its times of waiting. -/
def Unseen (P : Ctx → Prop) : Prop := ∀ x st w, P x → P { x with state := st, wait := w }

section
variable {c d m : Nat} {P Q : Ctx → Prop} {s t : State}

theorem CtxGets.congr (h : CtxGets c P s) (e : t.ctxs = s.ctxs) : CtxGets c P t := by
  rw [CtxGets, State.ctx?, e]
  exact h

theorem CtxGets.agree {M : List Comp} (h : CtxGets c P s) (e : Agree M s t) (hM : Comp.ctxs ∉ M) : CtxGets c P t :=
  h.congr (e.part .ctxs hM)

theorem CtxGets.modCtx_to {f : Ctx → Ctx} (h : CtxGets c P s) (hf : ∀ x, P x → Q (f x)) : CtxGets c Q (s.modCtx c f) := by
  obtain ⟨y, hy, hP⟩ := h
  exact ⟨f y, by rw [modCtx_ctx?_self, hy]; rfl, hf y hP⟩

theorem CtxGets.modCtx {f : Ctx → Ctx} (h : CtxGets c P s) (hf : d = c → ∀ x, P x → P (f x)) : CtxGets c P (s.modCtx d f) := by
  by_cases hd : d = c
  · subst hd
    exact h.modCtx_to (hf rfl)
  · obtain ⟨y, hy, hP⟩ := h
    exact ⟨y, by rw [modCtx_ctx?_ne s f (Ne.symm hd), hy], hP⟩

theorem CtxGets.tmap {f : Nat → Ctx → Ctx} (h : CtxGets c P s) (hf : ∀ x, P x → P (f c x)) :
    CtxGets c P { s with ctxs := tmap s.ctxs f } := by
  obtain ⟨y, hy, hP⟩ := h
  refine ⟨f c y, ?_, hf y hP⟩
  change tget (Machine.tmap s.ctxs f) c = _
  rw [tget_tmap]
  exact congrArg (Option.map (f c)) hy

theorem CtxGets.ite {p : Prop} [Decidable p] (ha : p → CtxGets c P s) (hb : ¬ p → CtxGets c P t) : CtxGets c P (if p then s else t) := by
  split
  · exact ha ‹_›
  · exact hb ‹_›

theorem CtxGets.foldl {α : Type} {l : List α} {f : State → α → State} (h : CtxGets c P s)
    (hf : ∀ y a, CtxGets c P y → CtxGets c P (f y a)) : CtxGets c P (l.foldl f s) := by
  induction l generalizing s with
  | nil => exact h
  | cons a l ih => exact ih (hf s a h)

theorem CtxGets.displace (hP : Unseen P) (h : CtxGets c P s) : CtxGets c P (s.displace d m) :=
  CtxGets.congr (s := s.modCtx d fun x => { x with state := .displaced }) (h.modCtx fun _ x hx => hP x _ x.wait hx) rfl

theorem CtxGets.promote (hP : Unseen P) (h : CtxGets c P s) : CtxGets c P (s.promote d) := by
  unfold State.promote
  split
  · exact h
  · exact CtxGets.ite (fun _ => h.modCtx fun _ x hx => hP x _ x.wait hx) fun _ => h

theorem CtxGets.takeEngines (hP : Unseen P) (h : CtxGets c P s) : CtxGets c P (s.takeEngines d m) := by
  have hwait : ∀ u : State, CtxGets c P u → CtxGets c P ((u.modCtx d fun x => { x with wait := tdel x.wait m }).servePmc d m) :=
    fun u hu => (hu.modCtx fun _ x hx => hP x x.state _ hx).agree (State.servePmc_agree (M := [.masts]) (by decide) (Agree.refl _ _))
      (by decide)
  have htaken := hwait _ (h.congr (t := s.modMast m fun x => { x with me := { x.me with
    holders := (bitsSet (s.maskOn d m) 16).foldl (fun t e => tset t e d) x.me.holders } }) rfl)
  unfold State.takeEngines
  dsimp only
  split
  · exact htaken
  · split
    · exact htaken.congr rfl
    · exact htaken.promote hP

theorem CtxGets.serveWaiters (hP : Unseen P) (h : CtxGets c P s) (rs : List Nat) (claimed : Nat) :
    CtxGets c P (State.serveWaiters m rs claimed s) := by
  induction rs generalizing claimed s with
  | nil => exact h
  | cons r rs ih =>
    rw [State.serveWaiters]
    split
    · exact ih (h.takeEngines hP) _
    · exact ih h _

theorem CtxGets.reeval (hP : Unseen P) (h : CtxGets c P s) (due : Bool) : CtxGets c P (s.reeval due m) := by
  unfold State.reeval
  split
  · exact h
  · exact CtxGets.serveWaiters hP (CtxGets.foldl (h.tmap fun x hx => hP x x.state _ hx) fun y d hy =>
      CtxGets.ite (fun _ => hy.displace hP) fun _ => hy) _ _

theorem CtxGets.reevalAll (hP : Unseen P) (h : CtxGets c P s) (due : Bool) : CtxGets c P (s.reevalAll due) :=
  h.foldl fun _ _ hy => hy.reeval hP due

/-- The contained errors that a context met are none: raising them changes nothing else of it. -/
theorem CtxGets.raiseMet (hmet : ∀ x, P x → x.met = []) (hP : ∀ x, P x → P { x with met := [] }) (h : CtxGets c P s) :
    CtxGets c P (s.raiseMet c) := by
  obtain ⟨y, hy, hPy⟩ := h
  unfold State.raiseMet
  rw [hy]
  dsimp only
  rw [hmet y hPy, List.foldl_nil]
  exact CtxGets.modCtx ⟨y, hy, hPy⟩ fun _ => hP

end
end Sys2Proof.Machine
end

section
/-! The serving commands that are recorded for the next boundary (R180 to R182, R277, R489). -/
namespace Sys2Proof.Machine

section
variable {c : Nat} {s : State} {x : Ctx}

/-- A context at no boundary stays in the middle of its step, with what it has recorded. -/
theorem idle_midStep (hx : s.ctx? c = some x) (hmid : x.midStep) :
    CtxGets c (fun y => y.recorded = x.recorded ∧ y.met = []) (s.idle c) := by
  obtain ⟨hmet, hstep⟩ := hmid
  have hrests : (runsState x.state && x.step.isNone) = false := by
    cases hruns : runsState x.state with
    | false => rfl
    | true => simpa using hstep hruns
  have hthere : CtxGets c (fun y => y.recorded = x.recorded ∧ y.met = []) s := ⟨x, hx, rfl, hmet⟩
  have hraised : ∀ u : State, CtxGets c (fun y => y.recorded = x.recorded ∧ y.met = []) u →
      CtxGets c (fun y => y.recorded = x.recorded ∧ y.met = []) (u.raiseMet c) := fun u hu =>
    hu.raiseMet (fun _ h => h.2) fun _ h => ⟨h.1, rfl⟩
  unfold State.idle
  rw [hx]
  dsimp only
  rw [hrests, if_neg Bool.false_ne_true]
  exact CtxGets.ite (fun _ => hraised _ (hthere.reevalAll (fun _ _ _ h => h) false)) fun _ => hraised _ hthere

end

theorem heard_current (s : State) (r : Req) : (s.heard r).st.current = s.st.arrivals + 1 := by rw [heard_st]

/-- A serving command that records what it says and sets off the boundary that is due is one of those that `RecordsIt` speaks of. -/
theorem recordsIt_of_act {k : Cmd} {i : Req → Instr} {checks : Req → State → List (Bool × Ans)} {what : Req → State → ServeCmd}
    (he : ∀ r s, exec (i r) s = stauc k r s) (hkept : ∀ u, Cmd.Kept actParts u k) (hafter : k.after = recordAfter)
    (hact : ∀ r s, k.act r (s.heard r) = guardAct (checks r (s.heard r)) (s.heard r) (recordAct (s.heard r) r (what r s))) :
    RecordsIt k i checks what := by
  intro r s x h hchecks hx
  have hacts : ActsThen k (i r) r s ((s.heard r).record r.ctx.toNat (what r s)) (ans stDone) (fun y => y.idle r.ctx.toNat) :=
    h.actsThen (he r s) hkept (by rw [hafter]; rfl) ((hact r s).trans (guardAct_passes hchecks))
  refine ⟨hacts, fun hmid => hacts.runs fun y hsame _ _ => ?_⟩
  have hthere : y.ctx? r.ctx.toNat = some { x with recorded := recordAt (s.st.arrivals + 1) (what r s) x.recorded } := by
    rw [hsame.ctx? (by decide), State.record, modCtx_ctx?_self, heard_ctx?, hx, heard_current]
    rfl
  obtain ⟨z, hz, hrecorded, -⟩ := idle_midStep hthere hmid
  exact ⟨z, hz, hrecorded⟩

/-- Settles O9: each of the twelve commands checks, records what it says, and sets off the boundary that is due. -/
theorem recordedCommandsComplete : Obligations.RecordedCommandsComplete := by
  refine ⟨recordsIt_of_act (fun _ _ => rfl) (fun _ => reqSubmitCmd_agree (by decide)) rfl fun r s => ?_,
    recordsIt_of_act (fun _ _ => rfl) (fun _ => reqCancelCmd_agree (by decide)) rfl fun _ _ => rfl,
    recordsIt_of_act (fun _ _ => rfl) (fun _ => reqParkCmd_agree (by decide)) rfl fun _ _ => rfl,
    recordsIt_of_act (fun _ _ => rfl) (fun _ => reqResumeCmd_agree (by decide)) rfl fun _ _ => rfl,
    recordsIt_of_act (fun _ _ => rfl) (fun _ => reqReleaseCmd_agree (by decide)) rfl fun _ _ => rfl,
    recordsIt_of_act (fun _ _ => rfl) (fun _ => sessionOpenCmd_agree (by decide)) rfl fun r s => ?_,
    recordsIt_of_act (fun _ _ => rfl) (fun _ => sessionCloseCmd_agree (by decide)) rfl fun _ _ => rfl,
    recordsIt_of_act (fun _ _ => rfl) (fun _ => sessionShareCmd_agree (by decide)) rfl fun _ _ => rfl,
    recordsIt_of_act (fun _ _ => rfl) (fun _ => sessionTruncateCmd_agree (by decide)) rfl fun _ _ => rfl,
    recordsIt_of_act (fun _ _ => rfl) (fun _ => sessionGlobalsCmd_agree (by decide)) rfl fun _ _ => rfl,
    recordsIt_of_act (fun _ _ => rfl) (fun _ => mirrorSetCmd_agree (by decide)) rfl fun _ _ => rfl,
    recordsIt_of_act (fun _ _ => rfl) (fun _ => serveConfigCmd_agree (by decide)) rfl fun _ _ => rfl⟩
  · rw [← heard_current s r]
    rfl
  · rw [← heard_ctx? s r]
    rfl

end Sys2Proof.Machine
end

section
/-! The events of a step, of the mirror and of the bundles (R185, R188, R189, R191, R201, R203). -/
namespace Sys2Proof.Machine

/-- A meaning of a device that acts and knows its place in the partition. -/
theorem does_assigned {i : Instr} {s x t : State} (e : exec i s = settle s (s.whenAlive (s.whenAssigned x))) (ha : s.alive = true)
    (hid : s.nlc.partId ≠ 0) (h : x = t) : Does i s t :=
  does_alive e ha ((if_neg hid).trans h)

section
variable {c : Nat} {s : State} {P : Ctx → Prop}

/-! ## Writing the log changes the mirror of a context alone -/

/-- `P` does not see the mirror of a context. -/
def NoMirror (P : Ctx → Prop) : Prop := ∀ x w, P x → P { x with mirror := w }

theorem CtxGets.logLine (hP : NoMirror P) (h : CtxGets c P s) (line : Bytes) : CtxGets c P (s.logLine c line) := by
  unfold State.logLine
  split
  · exact h
  · dsimp only
    split
    · exact CtxGets.congr (s := s.modCtx c fun x => { x with mirror := { x.mirror with backlog := x.mirror.backlog ++ [line] } })
        (h.modCtx fun _ x hx => hP x _ hx) rfl
    · exact (h.modCtx fun _ x hx => hP x _ hx).agree (State.issue_agree (M := [.nlc, .out]) (by decide) (Agree.refl _ _)) (by decide)

theorem CtxGets.logRecord (hP : NoMirror P) (h : CtxGets c P s) (hdr payload : Bytes) : CtxGets c P (s.logRecord c hdr payload) := by
  unfold State.logRecord
  split
  · exact h
  · exact CtxGets.ite (fun _ => CtxGets.foldl (h.modCtx fun _ x hx => hP x _ hx) fun _ _ hy => hy.logLine hP _) fun _ => h

theorem CtxGets.commitLog (hP : NoMirror P) (h : CtxGets c P s) (w : StepRun) : CtxGets c P (s.commitLog c w) := by
  unfold State.commitLog
  split
  · exact h
  · refine CtxGets.ite (fun _ => ?_) fun _ => h
    refine CtxGets.modCtx (CtxGets.logRecord hP (CtxGets.ite (fun _ => ?_) fun _ => CtxGets.logRecord hP ?_ _ _) _ _)
      fun _ x hx => hP x _ hx
    · exact CtxGets.ite (fun _ => h) fun _ => h.logRecord hP _ _
    · exact CtxGets.ite (fun _ => h) fun _ => h.logRecord hP _ _

/-! ## Sampling -/

/-- What sampling makes of one row. -/
def State.rowSampled (s : State) (ls : List (Nat × Nat × List Word)) (r : StepRow) : StepRow :=
  match logitsFor ls r.slot with
  | some e => if r.samples && r.fault == 0 then (s.sampleOne 0 0 r e.2).2 else r
  | none => r

/-- One row of a step is sampled where it samples, after the rows before it. -/
def sampleNext (c : Nat) (ls : List (Nat × Nat × List Word)) (acc : State × List StepRow) (r : StepRow) : State × List StepRow :=
  match logitsFor ls r.slot with
  | some e => if r.samples && r.fault == 0 then
      let y := acc.1.sampleOne c e.1 r e.2
      (y.1, acc.2 ++ [y.2])
    else (acc.1, acc.2 ++ [r])
  | none => (acc.1, acc.2 ++ [r])

theorem sampleOne_row (s : State) (c m : Nat) (r : StepRow) (l : List Word) :
    (s.sampleOne c m r l).2 = match s.req? r.slot with
      | none => r
      | some q => match sampleRow (drawOf q (r.start + r.count)) l with
        | some v => { r with sampled := some v }
        | none => { r with fault := 3 } := by
  unfold State.sampleOne
  cases s.req? r.slot <;> rfl

theorem sampleOne_row_of_reqs {s t : State} (h : t.reqs = s.reqs) (c m d n : Nat) (r : StepRow) (l : List Word) :
    (t.sampleOne c m r l).2 = (s.sampleOne d n r l).2 := by
  rw [sampleOne_row, sampleOne_row, State.req?, State.req?, h]

theorem sampleNext_row {s y : State} (h : y.reqs = s.reqs) (ls : List (Nat × Nat × List Word)) (l : List StepRow) (r : StepRow) :
    (sampleNext c ls (y, l) r).2 = l ++ [s.rowSampled ls r] := by
  unfold sampleNext State.rowSampled
  split
  · split
    · exact congrArg (fun x => l ++ [x]) (sampleOne_row_of_reqs h _ _ _ _ r _)
    · rfl
  · rfl

theorem sampleNext_agree (ls : List (Nat × Nat × List Word)) (a : State × List StepRow) (r : StepRow) :
    Agree [.masts, .srvErr] a.1 (sampleNext c ls a r).1 := by
  unfold sampleNext
  split
  · split
    · exact State.sampleOne_agree (by decide) (Agree.refl _ _)
    · exact Agree.refl _ _
  · exact Agree.refl _ _

theorem sampleNexts (ls : List (Nat × Nat × List Word)) (rows : List StepRow) {y : State} (h : Agree [.masts, .srvErr] s y)
    (l : List StepRow) :
    Agree [.masts, .srvErr] s (rows.foldl (sampleNext c ls) (y, l)).1 ∧
      (rows.foldl (sampleNext c ls) (y, l)).2 = l ++ rows.map (s.rowSampled ls) := by
  induction rows generalizing y l with
  | nil => exact ⟨h, (List.append_nil l).symm⟩
  | cons r rows ih =>
    obtain ⟨hagree, hrows⟩ := ih (h.trans (sampleNext_agree (c := c) ls (y, l) r)) (sampleNext c ls (y, l) r).2
    refine ⟨hagree, hrows.trans ?_⟩
    rw [sampleNext_row (h.part .reqs (by decide)), List.append_assoc]
    rfl

/-- A step whose rows have been sampled. -/
def StepRun.sampledAs (w : StepRun) (rows : List StepRow) : StepRun := { w with rows, sampled := true }

theorem sampleAll_step {x : Ctx} (hx : s.ctx? c = some x) (w : StepRun) (ls : List (Nat × Nat × List Word)) :
    CtxGets c (fun y => y.step = some (w.sampledAs (w.rows.map (s.rowSampled ls)))) (s.sampleAll c w ls) := by
  obtain ⟨hagree, hrows⟩ := sampleNexts (c := c) ls w.rows (Agree.refl [.masts, .srvErr] s) []
  change CtxGets c _ (State.commitLog ((w.rows.foldl (sampleNext c ls) (s, [])).1.modCtx c fun x => { x with
    step := some (w.sampledAs (w.rows.foldl (sampleNext c ls) (s, [])).2) }) c
      (w.sampledAs (w.rows.foldl (sampleNext c ls) (s, [])).2))
  rw [hrows, List.nil_append]
  have hkept : NoMirror fun y => y.step = some (w.sampledAs (w.rows.map (s.rowSampled ls))) := fun _ _ h => h
  refine CtxGets.commitLog hkept (CtxGets.modCtx_to (P := fun _ => True) ⟨x, ?_, trivial⟩ fun _ _ => rfl) _
  rw [hagree.ctx? (by decide), hx]

/-- What a row that samples becomes. -/
theorem rowSampled_samples {ls : List (Nat × Nat × List Word)} {r : StepRow} {q : Request} {e : Nat × List Word}
    (hr : r.samples = true ∧ r.fault = 0) (hq : s.req? r.slot = some q) (he : logitsFor ls r.slot = some e) :
    s.rowSampled ls r = match sampleRow (drawOf q (r.start + r.count)) e.2 with
      | some tok => { r with sampled := some tok }
      | none => { r with fault := 3 } := by
  have hsamples : (r.samples && r.fault == 0) = true := by simp [hr.1, hr.2]
  rw [State.rowSampled, he]
  dsimp only
  rw [if_pos hsamples, sampleOne_row, hq]

/-- A row that does not sample stays as it is. -/
theorem rowSampled_rests {ls : List (Nat × Nat × List Word)} {r : StepRow} (hr : r.samples = false ∨ r.fault ≠ 0) :
    s.rowSampled ls r = r := by
  have hrests : ¬ (r.samples && r.fault == 0) = true := by
    obtain h | h := hr <;> simp [h]
  unfold State.rowSampled
  split
  · exact if_neg hrests
  · rfl

/-! ## Bundles -/

theorem transmit_said {p : Pkt} {t : State} (hp : p.silent = false) (h : Comp.same (s.transmit p) t .said) :
    Out.packet p ∈ t.out :=
  h.1 _ (transmit_sent (by rw [hp]; decide))

/-- What an operation that goes on sending bundles may change. -/
def sendsParts : List Comp :=
  [.pwr, .flt, .hif, .st, .masts, .ctxs, .reqs, .sess, .srvErr, .exports, .nextExp, .hal, .nlc, .col, .pmc, .out, .cells]

/-- The next part of the oldest bundle goes out where its channel has room. -/
theorem sendParts_sends {x : Ctx} {b : Bundle} {bs : List Bundle} {g : ServeConfig} {ch : Nat} (hx : s.ctx? c = some x)
    (hq : x.txq = b :: bs) (hg : x.config = some g) (hch : (if b.sent = 0 then g.noticeCh else b.ch) = ch)
    (hroom : (s.st.negotiated && !s.otherBundle c ch && !s.answerBusy ch && s.canSend ch (b.part c ch b.sent).payload.length) = true)
    (fuel : Nat) : Out.packet (b.part c ch b.sent) ∈ (s.sendParts c (fuel + 1)).out := by
  rw [State.sendParts, hx]
  dsimp only
  rw [hq, hg]
  dsimp only
  rw [hch, if_pos hroom]
  refine transmit_said (s := s) rfl (Agree.part (M := sendsParts) (Agree.ite (fun _ => ?_) fun _ => ?_) .said (by decide))
  · exact State.sendParts_agree (by decide) (State.modCtx_agree (by decide) (Agree.refl _ _))
  · exact State.idle_agree (by decide) (State.pump_agree (by decide) (State.releaseBundles_agree (by decide)
      (State.modCtx_agree (by decide) (Agree.refl _ _))))

end

/-- Settles O11: each event does, from a state in which it is due, what its operation does there. -/
theorem stepEventsComplete : Obligations.StepEventsComplete := by
  refine ⟨fun c s x w halive hx hw hcool hend hat => ⟨fun hfurl => ?_, fun hruns hsampled => ?_⟩,
    fun c s x halive hx hruns hstep => ?_,
    fun c ls s x w g halive hx hw hg hruns hcool hsampled hup hcalling hfit => ?_,
    fun c n pos l s x halive hid hx hen => ⟨fun hlate => ?_, fun hlost hnotlate => ⟨fun hun => ?_, fun hun => ⟨fun horphan => ?_, fun horphan => ?_⟩⟩⟩,
    fun c s x halive hx hen hlost hown => ?_,
    fun c s x b bs g halive hx hq hg hn hother hbusy hroom => ?_⟩
  · refine does_alive rfl halive ?_
    unfold State.stepEnds
    rw [hx]
    dsimp only
    rw [hw]
    simp only [hcool, hend, hat, hfurl]
    rfl
  · have hnot : (x.state == CtxState.furling) = false := by
      cases hst : x.state <;> simp_all [runsState]
    refine does_alive rfl halive ?_
    unfold State.stepEnds
    rw [hx]
    dsimp only
    rw [hw]
    simp only [hcool, hend, hat, hnot, hruns, hsampled]
    rfl
  · refine does_alive rfl halive ?_
    unfold State.idle
    rw [hx]
    dsimp only
    rw [hruns, hstep]
    rfl
  · have hdoes : Does (.sampling c ls) s (s.sampleAll c w ls) := by
      refine does_alive rfl halive ?_
      unfold State.sampling
      rw [hx]
      dsimp only
      rw [hw, hg]
      simp only [hruns, hcool, hsampled, hup, hcalling, hfit]
      rfl
    obtain ⟨y, hy, hstep⟩ := sampleAll_step hx w ls
    refine ⟨hdoes, hdoes.runs ⟨y, _, hy, hstep, rfl, rfl, List.length_map .., fun i r hr => ?_⟩⟩
    have hrow : (w.sampledAs (w.rows.map (s.rowSampled ls))).rows[i]? = some (s.rowSampled ls r) := by
      rw [StepRun.sampledAs, List.getElem?_map, hr]
      rfl
    exact ⟨fun hsamples q e hq he => hrow.trans (congrArg some (rowSampled_samples hsamples hq he)),
      fun hrests => hrow.trans (congrArg some (rowSampled_rests hrests))⟩
  · refine does_assigned rfl halive hid ?_
    unfold State.mirrorAck
    rw [hx]
    dsimp only
    rw [hen, if_neg (by decide), if_pos (by simpa using hlate)]
  · refine does_assigned rfl halive hid ?_
    unfold State.mirrorAck
    rw [hx]
    dsimp only
    rw [hen, hlost, hnotlate, hun]
    rfl
  · refine does_assigned rfl halive hid ?_
    unfold State.mirrorAck
    rw [hx]
    dsimp only
    rw [hen, hlost, hnotlate, hun, horphan]
    rfl
  · refine does_assigned rfl halive hid ?_
    unfold State.mirrorAck
    rw [hx]
    dsimp only
    rw [hen, hlost, hnotlate, hun, horphan]
    rfl
  · refine does_alive rfl halive ?_
    unfold State.mirrorLost
    rw [hx]
    dsimp only
    rw [hen, hlost, List.isEmpty_eq_false_iff.2 hown]
    rfl
  · have hdoes : Does (.bundleTransmit c) s (s.sendParts c 131) := does_alive rfl halive rfl
    exact ⟨hdoes, hdoes.runs (sendParts_sends hx hq hg rfl (by simp only [hn, hother, hbusy, hroom]; rfl) 130)⟩

end Sys2Proof.Machine
end

section
/-! The events of exports (R196, R197, R204). -/
namespace Sys2Proof.Machine

/-- The import that a header opens. -/
def importOf (h : ExportHeader) (session : Nat) (refused : Bool) : Import :=
  { ctx := h.targetCtx, slot := h.targetSlot, session, copy := false, refused, got := [], done := [] }

section
variable {s u : State} {p : ExportPage} {h : ExportHeader} {i : Import} {x : Ctx} {q : Request}

/-! ## Headers -/

theorem headerIn_of_noCtx (hx : s.ctx? h.targetCtx = none) :
    s.headerIn h = s.setImport (importKey h.srcPkg h.exportId) (importOf h 0 true) := by
  unfold State.headerIn
  rw [hx]
  rfl

theorem headerIn_of_request (hx : s.ctx? h.targetCtx = some x)
    (hholder : ((match x.config with | some g => g.holder | none => false) && !x.holder.promoted) = false) :
    s.headerIn h = s.headerFor h x := by
  unfold State.headerIn
  rw [hx]
  exact if_neg (Bool.eq_false_iff.1 hholder)

theorem headerIn_of_holder (hx : s.ctx? h.targetCtx = some x)
    (hholder : ((match x.config with | some g => g.holder | none => false) && !x.holder.promoted) = true) :
    s.headerIn h = s.headerToHolder h x := by
  unfold State.headerIn
  rw [hx]
  exact if_pos hholder

/-- The entry that a header of a request names can take it. -/
def State.fitsHeader (s : State) (h : ExportHeader) (q : Request) : Prop :=
  q.ctx = h.targetCtx ∧ q.state = rQueued ∧ q.imp = true ∧ (s.session? q.session).isSome = true

theorem misfit_iff : (q.ctx != h.targetCtx || q.state != rQueued || !q.imp || (s.session? q.session).isNone) = false ↔
    s.fitsHeader h q := by
  cases hs : s.session? q.session <;> simp [State.fitsHeader, hs, and_assoc]

theorem headerFor_of_none (hq : s.req? h.targetSlot = none) :
    s.headerFor h x = s.setImport (importKey h.srcPkg h.exportId) (importOf h 0 true) := by
  unfold State.headerFor
  rw [hq]
  rfl

theorem headerFor_of_misfit (hmisfit : ∀ q, s.req? h.targetSlot = some q → ¬ s.fitsHeader h q) :
    s.headerFor h x = s.setImport (importKey h.srcPkg h.exportId) (importOf h 0 true) := by
  cases hq : s.req? h.targetSlot with
  | none => exact headerFor_of_none hq
  | some q =>
    have hbad := mt misfit_iff.1 (hmisfit q hq)
    unfold State.headerFor
    rw [hq]
    exact if_pos (Bool.of_not_eq_false hbad)

theorem headerFor_of_fits (hq : s.req? h.targetSlot = some q) (hfits : s.fitsHeader h q) :
    s.headerFor h x =
      if headerMatches x h then
        (((s.modReq h.targetSlot (importFields h s.time)).modSession q.session fun y => { y with length := h.length }).setImport
          (importKey h.srcPkg h.exportId) (importOf h q.session false)).idle h.targetCtx
      else
        (((({ s with srvErr := s.srvErr ||| 4 } : State).faultReq h.targetSlot 5).oweEntry h.targetCtx h.targetSlot 5 q.stop
          5).setImport (importKey h.srcPkg h.exportId) (importOf h q.session true)).idle h.targetCtx := by
  unfold State.headerFor
  rw [hq]
  exact if_neg (Bool.eq_false_iff.1 (misfit_iff.2 hfits))

/-! ## Pages -/

/-- What a page that is neither answered nor refused does, once it is there or has been taken. -/
theorem pageIn_of_open (hi : tget s.imports (importKey p.srcPkg p.exportId) = some i) (hdone : i.done.contains p.page = false)
    (hrefused : i.refused = false) (hgone : s.importGone i = false) (hcool : s.pwr.coolstop = false)
    (hup : s.mastUp p.mast = true) :
    s.pageIn p =
      match (if ((s.session? i.session).bind fun y => y.frame p.mast p.page).isSome then some s
        else (s.takePage i p).map fun s => { s with imports := tmod s.imports (importKey p.srcPkg p.exportId) fun i =>
          { i with got := i.got ++ [(p.page, p.mast)] } }) with
      | none =>
        let s := (s.returnPage (importKey p.srcPkg p.exportId) i p.page).answerPage (importKey p.srcPkg p.exportId) p.srcPkg
          p.exportId p.page true
        (if i.copy then s.holderLoses i.ctx i.slot else s).raiseMet i.ctx
      | some s =>
        if s.pageWhole i p.page then
          (s.answerPage (importKey p.srcPkg p.exportId) p.srcPkg p.exportId p.page false).idle i.ctx
        else s.raiseMet i.ctx := by
  unfold State.pageIn
  dsimp only
  rw [hi]
  dsimp only
  rw [hdone, hrefused, hgone, hcool, hup]
  rfl

theorem pageIn_of_taken (hi : tget s.imports (importKey p.srcPkg p.exportId) = some i) (hdone : i.done.contains p.page = false)
    (hrefused : i.refused = false) (hgone : s.importGone i = false) (hcool : s.pwr.coolstop = false)
    (hup : s.mastUp p.mast = true) (hnew : ((s.session? i.session).bind fun y => y.frame p.mast p.page) = none)
    (htake : s.takePage i p = some u) {v : State}
    (hv : v = { u with imports := tmod u.imports (importKey p.srcPkg p.exportId) fun i =>
      { i with got := i.got ++ [(p.page, p.mast)] } }) :
    s.pageIn p = if v.pageWhole i p.page then
        (v.answerPage (importKey p.srcPkg p.exportId) p.srcPkg p.exportId p.page false).idle i.ctx
      else v.raiseMet i.ctx := by
  rw [pageIn_of_open hi hdone hrefused hgone hcool hup, hnew, htake, hv]
  rfl

/-- The meaning of a page that comes in for a mast of the package. -/
theorem does_page {t : State} (hm : p.mast < 8) (ha : s.alive = true) (hid : s.nlc.partId ≠ 0) (h : s.pageIn p = t) :
    Does (.exportPageReceive p) s t :=
  does_assigned (congrArg (settle s) (if_pos hm)) ha hid h

theorem pageEnds_of_sent {id n st : Nat} {e : Export} (he : tget s.exports id = some e) (hn : tget e.pages n = some 3) :
    s.pageEnds id n st =
      (if e.resync then (s.endPage id n st).syncCheck e.ctx else s.endPage id n st).idle e.ctx := by
  unfold State.pageEnds
  rw [he]
  exact if_pos hn

end

/-- Settles O12: headers, pages, acknowledgements and timeouts each reach their own branch. -/
theorem exportEventsComplete : Obligations.ExportEventsComplete := by
  refine ⟨fun h s x q halive hid hx hholder hq hctx hst himp hsess hmatch => ?_,
    fun h s halive hid => ⟨fun hx => ?_, fun x hx => ⟨fun hholder hmisfit => ?_, fun q hholder hq hfits hmatch => ?_,
      fun hholder => ⟨fun hmatch => ?_, fun hmatch hslot => ?_, fun hmatch hslot u o ho => ⟨fun hnone => ?_, fun i hi => ?_⟩⟩⟩⟩,
    fun p s u i hm halive hid hcool hi hdone hrefused hgone hup hnew htake => ⟨fun hwhole => ?_, fun hwhole => ?_⟩,
    fun p s hm halive hid => ⟨fun hi => ?_, fun i hi => ⟨fun hdone => ?_, fun hdone => ⟨fun hbad => ?_,
      fun hrefused hgone hcool hup => ⟨fun hheld => ⟨fun hwhole => ?_, fun hwhole => ?_⟩,
        fun hheld htake => ⟨fun hcopy => ?_, fun hcopy => ?_⟩⟩⟩⟩⟩,
    fun id p s e halive he hp => ⟨fun b hid => ?_, ?_⟩⟩
  · refine does_assigned rfl halive hid ?_
    rw [headerIn_of_request hx hholder, headerFor_of_fits hq ⟨hctx, hst, himp, hsess⟩, if_pos hmatch]
    rfl
  · exact does_assigned rfl halive hid (headerIn_of_noCtx hx)
  · exact does_assigned rfl halive hid ((headerIn_of_request hx hholder).trans (headerFor_of_misfit hmisfit))
  · refine does_assigned rfl halive hid ?_
    rw [headerIn_of_request hx hholder, headerFor_of_fits hq hfits, hmatch]
    rfl
  · refine does_assigned rfl halive hid ((headerIn_of_holder hx hholder).trans ?_)
    unfold State.headerToHolder
    dsimp only
    rw [hmatch]
    rfl
  · refine does_assigned rfl halive hid ((headerIn_of_holder hx hholder).trans ?_)
    unfold State.headerToHolder
    dsimp only
    rw [hmatch, if_pos hslot]
    rfl
  · refine does_assigned rfl halive hid ((headerIn_of_holder hx hholder).trans ?_)
    unfold State.headerToHolder
    dsimp only
    rw [hmatch, if_neg (Nat.not_le.2 hslot), ho, hnone]
    rfl
  · refine does_assigned rfl halive hid ((headerIn_of_holder hx hholder).trans ?_)
    unfold State.headerToHolder
    dsimp only
    rw [hmatch, if_neg (Nat.not_le.2 hslot), ho, hi]
    rfl
  · exact does_page hm halive hid ((pageIn_of_taken hi hdone hrefused hgone hcool hup hnew htake rfl).trans
      (if_neg (Bool.eq_false_iff.1 hwhole)))
  · exact does_page hm halive hid ((pageIn_of_taken hi hdone hrefused hgone hcool hup hnew htake rfl).trans (if_pos hwhole))
  · refine does_page hm halive hid ?_
    unfold State.pageIn
    dsimp only
    rw [hi]
  · refine does_page hm halive hid ?_
    unfold State.pageIn
    dsimp only
    rw [hi]
    exact if_pos hdone
  · refine does_page hm halive hid ?_
    unfold State.pageIn
    dsimp only
    rw [hi]
    dsimp only
    rw [hdone, if_neg (by decide), if_pos (by simpa using hbad)]
  · refine does_page hm halive hid ((pageIn_of_open hi hdone hrefused hgone hcool hup).trans ?_)
    rw [if_pos hheld]
    exact if_neg (Bool.eq_false_iff.1 hwhole)
  · refine does_page hm halive hid ((pageIn_of_open hi hdone hrefused hgone hcool hup).trans ?_)
    rw [if_pos hheld]
    exact if_pos hwhole
  · refine does_page hm halive hid ((pageIn_of_open hi hdone hrefused hgone hcool hup).trans ?_)
    rw [if_neg (Bool.eq_false_iff.1 hheld), htake]
    simp only [Option.map_none, hcopy]
    rfl
  · refine does_page hm halive hid ((pageIn_of_open hi hdone hrefused hgone hcool hup).trans ?_)
    rw [if_neg (Bool.eq_false_iff.1 hheld), htake]
    simp only [Option.map_none, hcopy]
    rfl
  · exact does_assigned rfl halive hid (pageEnds_of_sent he hp)
  · exact does_alive rfl halive (pageEnds_of_sent he hp)

end Sys2Proof.Machine
end

section
/-! The grouped, routing and attention calls that nothing fails (R77 to R81, R121 to R128, R133, R138, R146 to R153). -/
namespace Sys2Proof.Machine

section
variable {s u : State} {c m desc len : Nat} {b : Bytes}

theorem strikeAll_nil (s : State) : s.strikeAll [] = s := rfl

/-! ## Grouped calls -/

theorem groupedCall_issued {f : State → Bytes → State} (hi : Issues s c m desc) (hd : DescRead s c m desc 32 u b)
    (he : exec (.groupedCall c m desc [] []) s = onMast m s (s.whenAlive (
      if !s.canStart c m desc then s
      else if !s.alive || !s.canStart c m desc then s
      else (if s.descFault c m desc 32 then s.meErr m meGrp else s).withDesc c m 0x1008 desc 32 f))) :
    Does (.groupedCall c m desc [] []) s (f u b) := by
  obtain ⟨hm, halive, hstart⟩ := hi
  refine does_mast he hm halive ?_
  rw [hstart, halive, descRead_ok hd]
  exact withDesc_read hd

/-- A grouped call that is issued with a descriptor that holds, for engines that are free, runs its groups. -/
theorem groupedDesc_runs {g : Safeguard} (hg : u.guardOf c (parseGrp b).layer = some g) (hok : u.grpDescOk c m (parseGrp b) = true)
    (hfree : (u.mast m).enginesFree (parseGrp b).mask = true) :
    u.groupedDesc c m desc [] b =
      State.groupsRan (u.grpCall c m desc (parseGrp b) g) (GrpRun.walk (u.grpCall c m desc (parseGrp b) g) u) := by
  unfold State.groupedDesc
  dsimp only
  rw [hg]
  dsimp only
  rw [if_pos hok, if_pos hfree]
  rfl

theorem groupsRan_holds {q : GrpCall} {r : GrpRun} (hfail : r.fail = none) (hw : (r.s.writeOutputs q r.done r.regions).2 = none) :
    State.groupsRan q r = (r.s.writeOutputs q r.done r.regions).1.holdEngines q := by
  unfold State.groupsRan
  dsimp only
  rw [hfail, hw]

theorem countM_tt (hm : m ∈ tkeys s.masts) (o : Occ) : ((s.countM m o).mast m).tt = (s.mast m).tt := by
  rw [State.countM, mast_modMast_self hm]
  split <;> rfl

theorem countM_mastKeys (s : State) (m : Nat) (o : Occ) : tkeys (s.countM m o).masts = tkeys s.masts := by
  rw [State.countM, State.modMast_masts, tkeys_tmod]

/-- The mast on which a grouped call of the context `c` has ended. -/
def Mast.groupedEnded (z : Mast) (c : Nat) (r : RunCall) : Mast :=
  { z with
    calls := z.calls.erase r,
    tt := { z.tt with samples := z.tt.samples.map fun x => if bit r.mask x.engine then { x with live := false } else x },
    me := { z.me with engines := z.me.engines.filter fun e => !(bit r.mask e.1 && e.2.ctx == c) } }

theorem groupedCallComplete_does {r : RunCall} (hm : m < 8) (halive : s.alive = true) (hfrozen : s.frozen c = false)
    (hr : ((s.mast m).calls.find? fun r => r.ctx == c && r.kind == .grouped) = some r) :
    Does (.groupedCallComplete c m) s ((s.callEnded c m r.desc).modMast m fun z => z.groupedEnded c r) := by
  refine does_mast rfl hm halive ?_
  rw [hfrozen, hr]
  rfl

theorem compareSample_tt (hm : m ∈ tkeys s.masts) (x : TtSample) :
    ((s.compareSample m x).mast m).tt =
      { (s.mast m).tt with results := (s.mast m).tt.results ++ [(x.ctx, x.layer, x.tile, (ttExceeds x).1)] } := by
  have hkeys : ∀ f : Mast → Mast, m ∈ tkeys (s.modMast m f).masts := fun f => (tkeys_tmod s.masts m f).symm ▸ hm
  unfold State.compareSample
  dsimp only
  split <;> split <;>
    simp only [countM_tt, countM_mastKeys, mast_modMast_self, hkeys, hm]

/-! ## Calls of the routing unit -/

theorem atOnce_read {cause : Nat} {f : State → Bytes → State} (h : DescRead s c m desc len u b) :
    s.atOnce c m cause desc len f = (f u b).callEnded c m desc := by
  rw [State.atOnce, withDesc_read h]

theorem rtuDesc_read {cause : Nat} {f : State → Bytes → State} (h : DescRead s c m desc len u b) :
    s.rtuDesc c m cause desc len f = (f u b).callEnded c m desc := by
  rw [State.rtuDesc, descRead_ok h]
  exact atOnce_read h

/-- A call of the routing unit that is issued goes on with the bytes of its descriptor, and ends. -/
theorem rtu_does {i : Instr} {cause : Nat} {f : State → Bytes → State} {t : State} (hi : IssuesRtu s c m desc)
    (he : exec i s = onMast m s (s.whenAlive (if !s.rtuTakes c m desc then s else s.rtuDesc c m cause desc len f)))
    (hd : DescRead s c m desc len u b) (ht : f u b = t) : Does i s (t.callEnded c m desc) := by
  obtain ⟨hm, halive, htakes⟩ := hi
  refine does_mast he hm halive ?_
  rw [htakes, ← ht]
  exact rtuDesc_read hd

theorem withRegions_in {rs : List (Nat × Nat)} {bad f : State → State} (h : s.allIn c m rs = true) :
    s.withRegions c m rs bad f = f s := by
  have hnone : (rs.find? fun r => !s.ptrIn c m r.1 r.2) = none := by
    rw [List.find?_eq_none]
    intro r hr
    simpa using List.all_eq_true.1 h r hr
  unfold State.withRegions
  rw [hnone]

/-- The tag of the next received row is read, after those of the rows before it. -/
def nextTag (c m : Nat) (d : IntakeDesc) (a : State × Except (Nat × Nat) (List RecvRow)) (i : Nat) :
    State × Except (Nat × Nat) (List RecvRow) :=
  match a.2 with
  | .error _ => a
  | .ok l => match a.1.fetch m (stream c 0x16) (d.recv + 128 + i * (128 + rowImageLen d.fmt d.k)) 8 with
    | (s, .error x) => (s, .error x)
    | (s, .ok b) => (s, .ok (l ++ [{ idx := i, tag := u64 b 0 }]))

/-- The tags have been read, and the rows are taken in. -/
theorem tags_read {d : IntakeDesc} {emap : Nat → Nat} {q : State × Except (Nat × Nat) (List RecvRow)} {rs : List RecvRow} :
    q.2 = .ok rs → (match q with
      | (s, .error x) => s.ioFail c m noUnit x
      | (s, .ok rs) => s.intakeRows c m d emap rs) = q.1.intakeRows c m d emap rs := by
  intro hrs
  obtain ⟨t, e⟩ := q
  cases hrs
  rfl

/-- An intake call whose checks pass, and whose tags can be read, takes the rows in. -/
theorem intakeRun_checked {u1 u2 : State} {d : IntakeDesc} {eb hb : Bytes} (hrsv : d.rsv = false) (hfmt : d.fmt ≤ 1) (hk : d.k ≠ 0)
    (hk' : d.k ≤ 262144) (hguard : (u.guardOf c d.layer).isSome = true) (hrecv : u.ptrIn c m d.recv 128 = true)
    (hemap : u.ptrIn c m d.emap 4096 = true) (htable : ptrOk d.table = true) (heb : Reads u m (control c 0x16) d.emap 4096 u1 eb)
    (hmapOk : emapOk (fun e => u32 eb (4 * e)) = true) (hhb : Reads u1 m (stream c 0x16) d.recv 128 u2 hb)
    (hrows : u2.inMem c m d.recv (128 + u32 hb 0 * (128 + rowImageLen d.fmt d.k)) = true)
    {q : State × Except (Nat × Nat) (List RecvRow)} {rs : List RecvRow}
    (hq : (List.range (u32 hb 0)).foldl (nextTag c m d) (u2, .ok []) = q) (hrs : q.2 = .ok rs) :
    u.intakeRun c m d = q.1.intakeRows c m d (fun e => u32 eb (4 * e)) rs := by
  have hregions : u.allIn c m [(d.recv, 128), (d.emap, 4096)] = true := by simp [State.allIn, hrecv, hemap]
  have hnone : (u.guardOf c d.layer).isNone = false := by rw [Option.isNone_eq_false_iff, hguard]
  unfold State.intakeRun
  dsimp only
  rw [if_neg (by simp only [hrsv, hnone, htable]; simp [hfmt, hk, hk']), withRegions_in hregions, withRead_reads heb, if_neg (by simp [hmapOk]),
    withRead_reads hhb, if_neg (by simp [hrows])]
  subst hq
  exact tags_read hrs

end

/-- Settles O13: a grouped call that runs writes and holds its engines, its end frees them, and the oldest sample is compared. -/
theorem groupedCallsComplete : Obligations.GroupedCallsComplete := by
  refine ⟨fun c m desc s u b g hi hd hg hok hfree hfail hw => ?_, fun c m s r hm hk halive hfrozen hr => ?_,
    fun m s x xs hm hk halive hup hcool hxs => ?_⟩
  · have := groupedCall_issued (f := fun s b => s.groupedDesc c m desc [] b) hi hd rfl
    rwa [groupedDesc_runs hg hok hfree, groupsRan_holds hfail hw] at this
  · have hmast : (((s.callEnded c m r.desc).modMast m fun z => z.groupedEnded c r).mast m) = (s.mast m).groupedEnded c r :=
      mast_modMast_self (s := s.callEnded c m r.desc) (mem_of_mastKeys hk hm) _
    exact (groupedCallComplete_does hm halive hfrozen hr).runs ⟨congrArg Mast.calls hmast, congrArg (fun z => z.me.engines) hmast⟩
  · have hdoes : Does (.ttCompare m) s ((s.setSamples m xs).compareSample m x) := by
      refine does_mast rfl hm halive ?_
      rw [hup, hcool, State.compareTile, hxs]
      rfl
    have hkeys : tkeys (s.setSamples m xs).masts = List.range 8 := by
      rw [State.setSamples, State.modMast_masts, tkeys_tmod, hk]
    have htt := compareSample_tt (mem_of_mastKeys hkeys hm) x
    rw [State.setSamples, mast_modMast_self (mem_of_mastKeys hk hm)] at htt
    exact hdoes.runs ⟨congrArg TtBlk.samples htt, congrArg TtBlk.results htt⟩

/-- Settles O14: each call reads what it needs, passes its checks and runs. -/
theorem routingCallsComplete : Obligations.RoutingCallsComplete := by
  refine ⟨fun c m desc s u u1 u2 u3 u4 b tb pb mb lb hi hd hok htb horder hpb hmb hpar hlb => ?_,
    fun c m desc s u u1 u2 b eb hb q rs hi hd hrsv hfmt hk hk' hguard hrecv hemap htable heb hmapOk hhb hrows hq hrs => ?_,
    fun c m desc s u v w b ab hi hd hok hin hab hmissing hw => ?_⟩
  · refine rtu_does hi rfl hd ?_
    unfold State.routeRun
    dsimp only
    rw [if_neg (by simp [hok]), withRead_reads htb, if_neg (by simp [horder]), withRead_reads hpb, withRead_reads hmb,
      if_neg (by simp [hpar]), withRead_reads hlb]
  · exact rtu_does hi rfl hd (intakeRun_checked hrsv hfmt hk hk' hguard hrecv hemap htable heb hmapOk hhb hrows hq hrs)
  · refine rtu_does hi rfl hd ?_
    unfold State.combineRun
    dsimp only
    rw [if_neg (by simp [hok]), withRegions_in hin, withRead_reads hab, hmissing, hw]

/-! ## Attention calls -/

section
variable {s u : State} {c m ae desc : Nat} {b : Bytes} {x : Ctx} {a : AttnCall}

/-- The call that a descriptor describes is of its context, mast, engine and descriptor. -/
theorem attnCall_parts {d : AttnDesc} (h : u.attnCall c m ae d = some a) : a.c = c ∧ a.m = m ∧ a.ae = ae ∧ a.d = d := by
  unfold State.attnCall at h
  split at h
  · exact absurd h (Option.some_ne_none a).symm
  · obtain ⟨-, hcall⟩ := Option.ite_none_right_eq_some.1 h
    cases hcall
    exact ⟨rfl, rfl, rfl, rfl⟩

/-- An attention call that is issued goes on with the bytes of its descriptor, and ends. -/
theorem attentionCall_issued (hi : Issues s c m desc) (hx : s.ctx? c = some x) (hae : bit (x.aePlace m) ae = true)
    (hd : DescRead s c m desc 64 u b) {t : State} (ht : u.attnDesc c m ae b = t) :
    Does (.attentionCall c m ae desc []) s (t.callEnded c m desc) := by
  obtain ⟨hm, halive, hstart⟩ := hi
  refine does_mast rfl hm halive ?_
  have hopen : (!s.canStart c m desc || !(match s.ctx? c with | some x => bit (x.aePlace m) ae | none => false)) = false := by
    rw [hx]
    simp [hstart, hae]
  refine (if_neg (Bool.eq_false_iff.1 hopen)).trans ?_
  dsimp only
  rw [strikeAll_nil, halive, hstart, descRead_ok hd, ← ht]
  exact atOnce_read hd

theorem attnDesc_runs {u1 : State} {qb : Bytes} (ha : u.attnCall c m ae (parseAttnCall b) = some a)
    (hqb : Reads u m (control c (0x10 + ae)) a.d.qlist (8 * a.d.count) u1 qb)
    (hok : u1.queriesOk c ((List.range a.d.count).map fun i => u64 qb (8 * i)) = true) :
    u.attnDesc c m ae b = u1.attnRun a (((List.range a.d.count).map fun i => u64 qb (8 * i)).map parseQuery) := by
  obtain ⟨-, -, -, hd⟩ := attnCall_parts ha
  rw [hd] at hqb hok
  unfold State.attnDesc
  dsimp only
  rw [ha]
  dsimp only
  rw [withRead_reads hqb, if_pos hok, hd]

end

/-- Settles O15: the call reads its descriptor and its queries, writes and logs its entries, and attends. -/
theorem attentionCallsComplete : Obligations.AttentionCallsComplete := by
  intro c m ae desc s u u1 u2 u3 u5 x b qb nb raw a cache hi hx hae hd ha hqb es qs real hok hplaces hnb ns hw u4 hcache v hraw
  obtain ⟨hc, hm, -, -⟩ := attnCall_parts ha
  refine attentionCall_issued hi hx hae hd ((attnDesc_runs ha hqb hok).trans ?_)
  subst hc hm
  unfold State.attnRun
  dsimp only
  rw [if_neg (Bool.eq_false_iff.1 hplaces), withRead_reads hnb, hw]
  dsimp only
  unfold State.attend
  dsimp only
  rw [hcache]
  dsimp only
  rw [hraw]

end Sys2Proof.Machine
end

section
/-! A vector operation on a tensor so long that its scales lie in the next space of the pointer (R47, R75). -/
namespace Sys2Proof.Machine

/-! ## The scales of an MXFP4 tensor -/

theorem fitTo_length (b : Bytes) (n : Nat) : (fitTo b n).length = n := by
  simp only [fitTo, List.length_append, List.length_take, List.length_replicate]
  omega

/-- A whole number of lines of elements and one scale for each block. -/
theorem vuWrite_length {xs : List Num} {n : Nat} (hx : xs.length = 256 * n) :
    (vuWrite .mxfp4 xs).1.length = 128 * n + 8 * n := by
  unfold vuWrite
  simp only [List.length_append, List.length_map, List.length_range, fitTo_length, hx, scaleAt, elemBytes, roundUp, ceilDiv]
  omega

theorem elemBytes_lines (n : Nat) : elemBytes .mxfp4 (256 * n) = 128 * n := by
  simp only [elemBytes]
  omega

theorem scaleAt_lines (n : Nat) : scaleAt .mxfp4 (256 * n) = 128 * n := by
  rw [scaleAt, elemBytes_lines, roundUp]
  omega

/-! ## A write of whole half-lines loses none -/

theorem partialHalves_whole {off len : Nat} (ho : off % 64 = 0) (hl : len % 64 = 0) (h : 64 ≤ len) : partialHalves off len = [] := by
  have hlen : len ≠ 0 := by omega
  have hend : (off + len) % 64 = 0 := by omega
  rw [partialHalves, if_neg hlen, if_pos (by simp [ho, h]), if_pos hend]
  rfl

theorem writeAt_whole {s : State} {m x : Nat} {r : Reader} {data : Bytes} (hx : ptrSpace x = 0) (ho : ptrOff x % 64 = 0)
    (hl : data.length % 64 = 0) (h : 64 ≤ data.length) : (s.writeAt m r x data).2 = none := by
  rw [State.writeAt, if_pos hx, writeDram_eq, State.mergeHalves, partialHalves_whole ho hl h]
  rfl

/-! ## The state -/

/-- A running context with all of mast 0's DRAM and more. -/
def vastCtx : Ctx :=
  { newCtx [] false [] with
    state := .unfurled, mastMask := 1, places := [(0, { me := 0xFFFF, ae := 0, vu := 1, units := 0 })],
    grants := [{ mast := 0, base := 0, size := 0x1000000000000000, releasing := false }],
    step := some { num := 1, rows := [], early := [], sampled := true, named := [], ended := Config.needs 5 0 0, orphan := false,
                   due := none } }

/-- The context holds mast 0's engines, and the first byte of that mast's scratchpad is `v`. -/
def vastState (v : Byte) : State :=
  { State.reset with
    masts := fillTab 8 { Mast.reset with
      spad := { Mast.reset.spad with cells := [(0, v)] }
      me := { Mast.reset.me with holders := [(0, 5)] } },
    ctxs := [(5, vastCtx)] }

theorem vastState_canStart {v : Byte} (hv : v = 1 ∨ v = 2) : (vastState v).canStart 5 0 0 = true := by
  have hissue : (vastState v).canIssue 5 0 = true := by obtain rfl | rfl := hv <;> decide
  have hneeds : (vastState v).depsMet 5 0 0 = true := by
    change (Config.needs 5 0 0).all (Config.needs 5 0 0).contains = true
    simp
  rw [State.canStart, hissue, hneeds]
  rfl

theorem vastState_memOk {v : Byte} (hv : v = 1 ∨ v = 2) : (vastState v).memOk := by
  have hcells : Memory.wf [(0, v)] = true := by obtain rfl | rfl := hv <;> decide
  intro e he
  obtain ⟨n, -, rfl⟩ := List.mem_map.1 he
  exact ⟨(by decide : Memory.wf Mast.reset.dram.cells = true), hcells⟩

/-- What an operation on `256 * n` elements writes. -/
def vastWrite (n : Nat) : Bytes × Nat :=
  vuWrite .mxfp4 ((List.range (256 * n)).map fun i => ofFp (Config.freeWord (State.reset.free + i)))

/-- The vector unit that runs it. -/
def vastCall : VuCall := { c := 5, m := 0, vu := 0, layer := 0 }

/-- The elements and the scales that it writes. -/
def vastElems (n : Nat) : Bytes := (vastWrite n).1.take (elemBytes .mxfp4 (256 * n))
def vastScales (n : Nat) : Bytes := (vastWrite n).1.drop (scaleAt .mxfp4 (256 * n))

theorem vastElems_length (n : Nat) : (vastElems n).length = 128 * n := by
  rw [vastElems, elemBytes_lines, List.length_take, vastWrite, vuWrite_length (by rw [List.length_map, List.length_range])]
  omega

theorem vastScales_length (n : Nat) : (vastScales n).length = 8 * n := by
  rw [vastScales, scaleAt_lines, List.length_drop, vastWrite, vuWrite_length (by rw [List.length_map, List.length_range])]
  omega

theorem vastScales_writes {s : State} {x : Nat} (hx : ptrSpace x ≠ 0) (n : Nat) :
    (s.writeAt 0 vastCall.reader x (vastScales n)).2 = none := by
  rw [State.writeAt, if_neg hx]

/-- Where the scales lie in the scratchpad's space, the first of them is the first byte of the scratchpad. -/
theorem vast_first_scale {v β : Byte} {n : Nat} (hv : v = 1 ∨ v = 2) (hβ : (vastScales n)[0]? = some β) (hspace : ptrSpace (0 + 128 * n) ≠ 0)
    (hoff : ptrOff (0 + 128 * n) = 0) {u w : State}
    (hu : (((vastState v).drawnN (256 * n)).writeAt 0 vastCall.reader 0 (vastElems n)).1 = u)
    (hw : (u.writeAt 0 vastCall.reader (0 + 128 * n) (vastScales n)).1 = w) :
    memByte (((w.vuSubst vastCall (vastWrite n).2).callEnded 5 0 0).mast 0).spad.cells 0 = β := by
  have hagree : Agree [.flt, .st, .masts, .pmc, .cells, .free] (vastState v) u :=
    hu ▸ State.writeAt_agree (by decide) (State.drawnN_agree (by decide) (Agree.refl _ _))
  have hstored := writeAt_spad_stores (s := u) (m := 0) (hagree.part .mastKeys (by decide) rfl) (by decide)
    (hagree.part .mem (by decide) (vastState_memOk hv)) vastCall.reader hspace hβ
  rw [hoff, hw] at hstored
  have hend : Agree [.flt, .st, .masts, .pmc, .ctxs] w ((w.vuSubst vastCall (vastWrite n).2).callEnded 5 0 0) :=
    State.callEnded_agree (by decide) (State.vuSubst_agree (by decide) (Agree.refl _ _))
  rw [(hend.part .cells (by decide) 0).2]
  exact hstored

/-- The length at which the scales lie one space further than the elements. -/
theorem vast_pointer : ptrSpace (0 + 128 * 0x20000000000) ≠ 0 ∧ ptrOff (0 + 128 * 0x20000000000) = 0 ∧
    ∀ v, v = 1 ∨ v = 2 → (vastState v).ptrIn 5 0 0 (tensorBytes .mxfp4 (256 * 0x20000000000)) = true :=
  ⟨by decide, by decide, fun _ hv => by obtain rfl | rfl := hv <;> decide⟩

theorem not_onlyAt_vast {n : Nat} (hn : 0 < n) (hspace : ptrSpace (0 + 128 * n) ≠ 0) (hoff : ptrOff (0 + 128 * n) = 0)
    (hin : ∀ v, v = 1 ∨ v = 2 → (vastState v).ptrIn 5 0 0 (tensorBytes .mxfp4 (256 * n)) = true) : ¬ Obligations.OtherCallsComplete := by
  rintro ⟨-, -, -, hvector⟩
  obtain ⟨β, hβ⟩ : ∃ β, (vastScales n)[0]? = some β := ⟨_, List.getElem?_eq_getElem (by rw [vastScales_length]; omega)⟩
  obtain ⟨v, hv, hvβ⟩ : ∃ v : Byte, (v = 1 ∨ v = 2) ∧ v ≠ β := by
    by_cases h : β = 1
    · exact ⟨2, .inr rfl, by rw [h]; decide⟩
    · exact ⟨1, .inl rfl, Ne.symm h⟩
  have helems : (((vastState v).drawnN (256 * n)).writeAt 0 vastCall.reader 0 (vastElems n)).2 = none :=
    writeAt_whole (by decide) (by decide) (by rw [vastElems_length]; omega) (by rw [vastElems_length]; omega)
  obtain ⟨hother, -, -⟩ := hvector 5 0 0 0 (vastState v) _ _ vastCtx (by decide) rfl rfl (by decide)
  obtain ⟨-, hscaled⟩ := hother 0 .mxfp4 (256 * n) (vastState_canStart hv) (by omega) (.inr (by omega)) (hin v hv)
    (Prod.ext rfl helems)
  obtain ⟨-, honly⟩ := hscaled rfl (Prod.ext rfl (vastScales_writes (x := 0 + scaleAt .mxfp4 (256 * n)) (by rw [scaleAt_lines]; exact hspace) n))
  have hkept : memByte _ 0 = v := (honly 0 0).2 (.inr fun h => h.1 (by decide))
  have hscale := vast_first_scale hv hβ hspace hoff rfl rfl
  rw [← scaleAt_lines] at hscale
  exact hvβ (hkept.symm.trans hscale)

/-- Refutes O16: a pointer's offset has 48 bits, and the model's states allow a grant that reaches past them. An operation that writes
2^49 elements in MXFP4 from offset 0 of DRAM on puts their scales 2^48 bytes further, which is offset 0 of the scratchpad. -/
theorem not_otherCallsComplete : ¬ Obligations.OtherCallsComplete := by
  obtain ⟨hspace, hoff, hin⟩ := vast_pointer
  exact not_onlyAt_vast (by decide) hspace hoff hin

end Sys2Proof.Machine
end

section
/-! Cleats, spills, restores and seals (R169, R291, R296 to R300). -/
namespace Sys2Proof.Machine

section
variable {s u : State} {c m k : Nat} {x : Ctx}

/-! ## Cleats -/

theorem cleat_recorded (hx : s.ctx? c = some x) :
    (s.modCtx c fun x => { x with cleat := tset x.cleat m k }).ctx? c = some { x with cleat := tset x.cleat m k } := by
  rw [modCtx_ctx?_self, hx]
  rfl

theorem atCleat_furling (hx : s.ctx? c = some x) (hst : x.state = .furling) :
    (s.atCleat c m k).ctx? c =
      some { x with cleat := tset x.cleat m k, stopAt := x.stopAt.erase m, stopped := insAsc m x.stopped } := by
  unfold State.atCleat
  dsimp only
  rw [cleat_recorded hx]
  dsimp only
  rw [if_pos (by rw [hst]; decide), modCtx_ctx?_self, cleat_recorded hx]
  rfl

theorem atCleat_running (hx : s.ctx? c = some x) (hst : x.state ≠ .furling) :
    CtxGets c (fun y => tget y.cleat m = some k) (s.atCleat c m k) := by
  have hrecorded : CtxGets c (fun y => tget y.cleat m = some k) (s.modCtx c fun x => { x with cleat := tset x.cleat m k }) :=
    ⟨_, cleat_recorded hx, tget_tset_self _ _ _⟩
  have hfurl : ¬ (x.state == .furling) = true := by simpa using hst
  unfold State.atCleat
  dsimp only
  rw [cleat_recorded hx]
  dsimp only
  rw [if_neg hfurl]
  exact CtxGets.ite (fun _ => (hrecorded.reeval (fun _ _ _ h => h) true).displace fun _ _ _ h => h)
    fun _ => hrecorded.reeval (fun _ _ _ h => h) true

theorem cleatReached_does (hm : m < 8) (halive : s.alive = true) (hopen : s.cleatOpen c m = true) (hk : k < 65536) :
    Does (.cleatReached c m k) s (s.atCleat c m k) :=
  does_mast rfl hm halive (if_pos (by simp [hopen, hk]))

/-! ## Copies -/

theorem memRead_length (z : Mem) (a n : Nat) : (memRead z a n).length = n := by
  induction n generalizing a with
  | zero => rfl
  | succ n ih => rw [memRead, List.length_cons, ih]

theorem dramBytes_length (d : Dram) (off len : Nat) : (d.bytes off len).length = len := by
  unfold Dram.bytes
  split
  · exact memRead_length _ _ _
  · rw [List.length_map, length_enum, memRead_length]

/-- A saved region goes into the save area alone. -/
theorem saveRegions_onlyIn (c m base : Nat) (rs : List (Nat × Nat)) (s : State) :
    OnlyIn m (fun a => base ≤ a ∧ a < base + (rs.map (·.2)).sum) (fun _ => False) s (s.saveRegions c m base rs).1 := by
  induction rs generalizing s base with
  | nil => exact OnlyIn.refl _ _ _ _
  | cons r rs ih =>
    have hread : OnlyIn m (fun a => base ≤ a ∧ a < base + ((r :: rs).map (·.2)).sum) (fun _ => False) s
        (s.modMast m fun z => (z.readSpad (bulkReader c) r.1 r.2).1) :=
      OnlyIn.modMast (fun _ _ _ => rfl) fun _ _ _ => rfl
    have hlen : ((s.mast m).readSpad (bulkReader c) r.1 r.2).2.1.length = r.2 := memRead_length _ _ _
    have hsum : ((r :: rs).map (·.2)).sum = r.2 + (rs.map (·.2)).sum := List.sum_cons
    have hwrite := hread.trans ((writeDram_onlyIn _ m (bulkReader c) base _).mono
      (fun a ha => ⟨ha.1, by rw [hlen] at ha; omega⟩) fun _ h => h)
    unfold State.saveRegions
    dsimp only
    split
    · exact hread
    · split
      · exact hwrite
      · exact hwrite.trans ((ih (base + r.2) _).mono (fun a ha => by omega) fun _ h => h)

theorem writeSpad_onlyIn (s : State) (m off : Nat) (data : Bytes) :
    OnlyIn m (fun _ => False) (fun a => off ≤ a ∧ a < off + data.length) s (s.modMast m fun z => z.writeSpad off data) :=
  OnlyIn.modMast (fun _ _ _ => rfl) fun z a ha => memByte_memWrite_out (m := z.spad.cells) (by omega)

/-- A restored region is written over the slices that were saved alone. -/
theorem loadRegions_onlyIn (c m base : Nat) (rs : List (Nat × Nat)) (s : State) :
    OnlyIn m (fun _ => False) (fun a => ∃ r ∈ rs, r.1 ≤ a ∧ a < r.1 + r.2) s (s.loadRegions c m base rs).1 := by
  induction rs generalizing s base with
  | nil => exact OnlyIn.refl _ _ _ _
  | cons r rs ih =>
    have hread : OnlyIn m (fun _ => False) (fun a => ∃ q ∈ r :: rs, q.1 ≤ a ∧ a < q.1 + q.2) s
        (s.readDram m (bulkReader c) base r.2).1 :=
      .of_agree (State.readDram_agree (by decide) (Agree.refl [.flt, .st, .masts, .pmc] s)) (by decide)
    have hlen : (s.readDram m (bulkReader c) base r.2).2.1.length = r.2 := dramBytes_length _ _ _
    unfold State.loadRegions
    dsimp only
    split
    · exact hread
    · have hput := hread.trans ((writeSpad_onlyIn _ m r.1 _).mono (fun _ h => h) fun a ha =>
        ⟨r, List.mem_cons_self, ha.1, by rw [hlen] at ha; exact ha.2⟩)
      exact hput.trans ((ih (base + r.2) _).mono (fun _ h => h) fun a ⟨q, hq, ha⟩ => ⟨q, List.mem_cons_of_mem _ hq, ha⟩)

end

/-- Settles O17: a cleat is recorded by the operation of a cleat, the copies keep to their regions, and the seals run in order. -/
theorem scheduleEventsComplete : Obligations.ScheduleEventsComplete := by
  refine ⟨fun c m k s x hm halive hx hopen hk => ⟨fun hst => ?_, fun hst => ⟨cleatReached_does hm halive hopen hk, ?_⟩⟩,
    fun m s u j hm halive hj => ⟨fun hrestore hsave => ⟨?_, fun hfrozen => ?_, fun hfrozen => ?_⟩, fun hrestore hload => ⟨?_, ?_⟩⟩,
    fun m s hm halive hcool hup => ?_,
    fun m s j js x k f hm halive hcool hup hbuilding hjobs hx hk hf v img out hread hconvert y hy => ?_⟩
  · exact (cleatReached_does hm halive hopen hk).runs (atCleat_furling hx hst)
  · exact (cleatReached_does hm halive hopen hk).runs (atCleat_running hx hst)
  · have := saveRegions_onlyIn j.ctx m (s.saveBase j.ctx m) j.regions s
    rwa [hsave] at this
  · refine does_mast rfl hm halive ?_
    rw [hj]
    dsimp only
    rw [hrestore, if_neg Bool.false_ne_true, State.spillEnd, hsave]
    exact if_neg (Bool.eq_false_iff.1 hfrozen)
  · refine does_mast rfl hm halive ?_
    rw [hj]
    dsimp only
    rw [hrestore, if_neg Bool.false_ne_true, State.spillEnd, hsave]
    exact if_pos hfrozen
  · have := loadRegions_onlyIn j.ctx m (s.saveBase j.ctx m) j.regions s
    rwa [hload] at this
  · refine does_mast rfl hm halive ?_
    rw [hj]
    dsimp only
    rw [if_pos hrestore, State.restoreEnd, hload]
  · exact does_mast rfl hm halive (if_neg (by simp [hcool, hup]))
  · refine does_mast rfl hm halive ((if_neg (by simp [hcool, hup, hbuilding])).trans ?_)
    have hframe : ∀ g, (((s.modMast m g).ctx? j.ctx).bind fun x => (tget x.kv m).bind fun k =>
        (tget (x.pool m).frames j.frame).map fun f => (k, f)) = some (k, f) := fun g => by
      rw [show (s.modMast m g).ctx? j.ctx = some x from hx, Option.bind_some, hk, Option.bind_some, hf]
      rfl
    unfold State.sealDone
    rw [hjobs]
    dsimp only
    rw [hframe]
    dsimp only
    rw [hy]

end Sys2Proof.Machine
end

section
/-! The fabric, power and counter commands (R278 to R280, R329 to R334, R350 to R352, R380, R383 to R385, R389, R395, R445 to R458). -/
namespace Sys2Proof.Machine

section
variable {r : Req} {s : State}

theorem heard_nlc (s : State) (r : Req) : (s.heard r).nlc = s.nlc := (heard_agree s r).part .nlc (by decide)
theorem heard_col (s : State) (r : Req) : (s.heard r).col = s.col := (heard_agree s r).part .col (by decide)
theorem heard_pwr (s : State) (r : Req) : (s.heard r).pwr = s.pwr := (heard_agree s r).part .pwr (by decide)

/-! ## Fabric commands -/

theorem linkTrain_acts (h : Heard linkTrainCmd r s) (hrsv : (argRsv r (lowMask 42) 0).1 = false) (hplan : s.nlc.plan ≠ none) :
    Acts linkTrainCmd (.linkTrain r) r s ((((portsOf (a0 r % 2 ^ 42)).filter (s.heard r).trains).foldl
      (fun (s : State) p => s.startTraining p) (s.heard r)).owe 0x0601 r (.linkTrain (a0 r % 2 ^ 42))) (ans stAccepted) := by
  refine h.acts rfl (fun _ => linkTrainCmd_agree (by decide)) rfl (guardAct_passes (firstErr_none ?_))
  simp [hrsv, heard_nlc, Option.isSome_iff_ne_none.2 hplan]

theorem linkStop_acts (h : Heard linkStopCmd r s) (hrsv : (argRsv r (lowMask 42) 0).1 = false) :
    Acts linkStopCmd (.linkStop r) r s ((portsOf (a0 r % 2 ^ 42)).foldl (fun (s : State) p => s.stopPort p) (s.heard r)) (ans stDone) :=
  h.acts rfl (fun _ => linkStopCmd_agree (by decide)) rfl (guardAct_one hrsv)

theorem partitionSet_acts (h : Heard partitionSetCmd r s) (hchecks : firstErr (partitionSetChecks r s) = none) :
    Acts partitionSetCmd (.partitionSet r) r s ((s.heard r).takePartition (bits (a0 r) 0 16) (bits (a0 r) 16 8)) (ans stDone) := by
  have hheard : partitionSetChecks r (s.heard r) = partitionSetChecks r s := heard_reads s r fun _ _ _ _ => rfl
  exact h.acts rfl (fun _ => partitionSetCmd_agree (by decide)) rfl (guardAct_passes (hheard ▸ hchecks))

theorem groupLoadChecks_heard (r : Req) (s : State) : groupLoadChecks r (s.heard r) = groupLoadChecks r s :=
  heard_reads s r fun _ _ _ _ => rfl

theorem groupUnloadChecks_heard (r : Req) (s : State) : groupUnloadChecks r (s.heard r) = groupUnloadChecks r s :=
  heard_reads s r fun _ _ _ _ => rfl

/-- Settles O18: each command acts, and leaves the part of the fabric that it names as it says. -/
theorem fabricCommandsComplete : Obligations.FabricCommandsComplete := by
  refine ⟨fun r s h hrsv hplan => linkTrain_acts h hrsv hplan, fun r s h hrsv => linkStop_acts h hrsv,
    fun r s h hchecks => h.acts rfl (fun _ => planLoadCmd_agree (by decide)) rfl (guardAct_passes hchecks),
    fun r s h hchecks => partitionSet_acts h hchecks, fun r s h hchecks => ?_, fun r s h hchecks => ?_, fun r s h hchecks => ?_⟩
  · refine (h.acts rfl (fun _ => windowMapCmd_agree (by decide)) rfl (guardAct_passes hchecks)).runs
      fun t hsame _ hanswered => ⟨hanswered, ?_⟩
    rw [hsame.part .nlc (by decide), State.modNlc, heard_nlc]
  · rw [← groupLoadChecks_heard] at hchecks
    refine (h.acts rfl (fun _ => groupLoadCmd_agree (by decide)) rfl (guardAct_passes hchecks)).runs
      fun t hsame _ hanswered => ⟨hanswered, ?_⟩
    rw [State.group?, hsame.part .col (by decide)]
    exact tget_tset_self _ _ _
  · rw [← groupUnloadChecks_heard] at hchecks
    refine (h.acts rfl (fun _ => groupUnloadCmd_agree (by decide)) rfl (guardAct_passes hchecks)).runs
      fun t hsame _ hanswered => ?_
    have hcol : t.col = s.col.unload (a0 r % 4096) := by
      rw [hsame.part .col (by decide), State.modCol, heard_col]
    refine ⟨hanswered, hcol, ?_⟩
    rw [State.group?, hcol]
    exact tget_tdel_self _ _

/-! ## Power commands -/

/-- A cap that is in range is stored where none was below the least. -/
theorem writeCap_host_cap {w : Nat} (hw : 450 ≤ w) (hfloor : s.pwr.floorMgmt = false) (hcap : s.pwr.floorCap = false) :
    (s.writeCap 1 w).pwr.cap = min 2000 w := by
  have hlow : decide (w < 450) = false := decide_eq_false (by omega)
  unfold State.writeCap
  simp only [hlow, hfloor, hcap]
  change max 450 (min 2000 w) = min 2000 w
  omega

end

/-- Settles O19: each command acts; a cap in range is stored, and the end of the coolant stop lets a promotion go on. -/
theorem powerCommandsComplete : Obligations.PowerCommandsComplete := by
  refine ⟨fun r s h hrsv => ⟨h.acts rfl (fun _ => capSetCmd_agree (by decide)) rfl (guardAct_one hrsv), fun hw hcap hmgmt => ?_⟩,
    fun r s h hrsv hlevel => ?_, fun r s h hrsv => h.acts rfl (fun _ => powerHintCmd_agree (by decide)) rfl (guardAct_one hrsv),
    fun r s h hchecks => ?_⟩
  · exact writeCap_host_cap hw (by rw [heard_pwr]; exact hmgmt) (by rw [heard_pwr]; exact hcap)
  · refine h.acts rfl (fun _ => reefLimitCmd_agree (by decide)) rfl (guardAct_passes (firstErr_none ?_))
    simp [hrsv, hlevel]
  · have hheard : coolResumeChecks r (s.heard r) = coolResumeChecks r s := heard_reads s r fun _ _ _ _ => rfl
    exact h.actsThen rfl (fun _ => coolResumeCmd_agree (by decide)) rfl (guardAct_passes (hheard ▸ hchecks))

/-! ## Counters -/

section
variable {r : Req} {s t : State}

theorem Agree.pmcOf {M : List Comp} (h : Agree M s t) (hm : Comp.masts ∉ M) (hp : Comp.pmc ∉ M) (u : Nat) : t.pmcOf u = s.pmcOf u := by
  rw [State.pmcOf, State.pmcOf, State.mast, State.mast, h.part .masts hm, h.part .pmc hp]

theorem modPmc_pmcOf {u : Nat} (hk : tkeys s.masts = List.range 8) (hu : s.unitBad u = false) (f : PmcBlk → PmcBlk) :
    (s.modPmc u f).pmcOf u = f (s.pmcOf u) := by
  unfold State.modPmc State.pmcOf
  split
  · rfl
  · have hlt : u < 8 := by
      simp only [State.unitBad, Bool.or_eq_false_iff, decide_eq_false_iff_not] at hu
      omega
    rw [mast_modMast_self (mem_of_mastKeys hk hlt)]

end

/-- Settles O20: each command reads or programs what it names. -/
theorem counterCommandsComplete : Obligations.CounterCommandsComplete := by
  refine ⟨fun r s h hchecks => ?_, fun r s hk h hchecks => ?_, fun r s x h hrsv hx hst => ?_, fun r s h hrsv => ?_⟩
  · have hheard : ctrReadChecks r (s.heard r) = ctrReadChecks r s := heard_reads s r fun _ _ _ _ => rfl
    refine (h.acts rfl (fun _ => ctrReadCmd_agree (by decide)) rfl (guardAct_passes (hheard ▸ hchecks))).runs
      fun t _ _ hanswered => ?_
    rwa [(heard_agree s r).pmcOf (by decide) (by decide)] at hanswered
  · have hheard : ctrProgramChecks r (s.heard r) = ctrProgramChecks r s := heard_reads s r fun _ _ _ _ => rfl
    have hkeys : tkeys (s.heard r).masts = List.range 8 := (heard_agree s r).part .mastKeys (by decide) hk
    have hunit : s.unitBad (crUnit r) = false :=
      firstErr_eq_none.1 hchecks (s.unitBad (crUnit r), refuse stBadArgument 16) (by simp [ctrProgramChecks])
    have hunit' : (s.heard r).unitBad (crUnit r) = false := by
      rw [← hunit]
      exact heard_reads (f := fun s => s.unitBad (crUnit r)) s r fun _ _ _ _ => rfl
    refine (h.acts rfl (fun _ => ctrProgramCmd_agree (by decide)) rfl (guardAct_passes (hheard ▸ hchecks))).runs
      fun t hsame _ hanswered => ⟨hanswered, ?_⟩
    rw [hsame.pmcOf (by decide) (by decide), modPmc_pmcOf hkeys hunit', (heard_agree s r).pmcOf (by decide) (by decide)]
  · refine (h.acts rfl (fun _ => ctrGrantCmd_agree (by decide)) rfl (guardAct_passes (firstErr_none ?_))).runs
      fun t hsame _ hanswered => ⟨hanswered, ?_⟩
    · simp [hrsv, heard_noCtx hx, heard_ctxStateCheck hx hst]
    · rw [hsame.ctx? (by decide), modCtx_ctx?_self, heard_ctx?, hx]
      rfl
  · refine (h.acts rfl (fun _ => telemetryCmd_agree (by decide)) rfl (guardAct_one hrsv)).runs fun t _ _ hanswered => ?_
    rwa [show (s.heard r).telemetry = s.telemetry from heard_reads s r fun _ _ _ _ => rfl] at hanswered

end Sys2Proof.Machine
end

section
/-! The security commands (R281, R432 to R440). -/
namespace Sys2Proof.Machine

section
variable {r : Req} {s t : State}

/-! ## Reports -/

theorem heard_reportContent (r : Req) (s : State) (nonce : Bytes) : (s.heard r).reportContent nonce = s.reportContent nonce :=
  heard_reads (f := fun s => s.reportContent nonce) s r fun _ _ _ _ => rfl

theorem attest_acts (h : Heard attestCmd r s) (hrsv : (argRsv r 0 0).1 = false) :
    Acts attestCmd (.attest r) r s (((s.heard r).captureReport r.payload false).owe 0x0901 r .attest) (ans stAccepted) :=
  h.acts rfl (fun _ => attestCmd_agree (by decide)) rfl (guardAct_one hrsv)

/-- A report without its place in the queue: the state in which it goes to whom it answers. -/
def State.reportTaken (s : State) (xs : List Report) : State := (s.modBtb fun t => { t with reports := xs }).drawn

/-- The answer that carries a signed report. -/
def reportAns (b : Bytes) : Ans := { status := stDone, hi := 0, arg1 := b.length, parts := partsOf 4096 b, rise := 2 ^ 32 }

theorem reportDone_eq {x : Report} {xs : List Report} (hx : s.btb.reports = x :: xs) :
    s.reportDone =
      if x.endpoint then ((s.reportTaken xs).modBtb fun t => { t with held := some (x.nonce, s.signed x.content) }).emit
        (endpointPart 5 (s.signed x.content) 0)
      else (s.reportTaken xs).completeOldest .attest (reportAns (s.signed x.content)) := by
  unfold State.reportDone
  rw [hx]
  rfl

theorem attestReportComplete_does (halive : s.alive = true) (hkey : s.btb.aliasRsa = true) : Does .attestReportComplete s s.reportDone :=
  does_alive rfl halive (if_pos hkey)

theorem completeOldest_btb (s : State) (w : Owed) (a : Ans) : (s.completeOldest w a).btb = s.btb :=
  (State.completeOldest_agree (M := [.hif, .st, .out]) (by decide) (Agree.refl _ _)).part .btb (by decide)

theorem completeOldest_of_owed {w : Owed} {o : Outstanding} (ho : (s.st.outstanding.find? fun o => o.what == w) = some o) (a : Ans) :
    s.completeOldest w a = State.queueAnswers { s with st := { s.st with outstanding := s.st.outstanding.erase o } } o.ch
      (pktsOf 2 o.opcode o.tag o.ctx o.ch false false a) := by
  unfold State.completeOldest
  rw [ho]

theorem completeOldest_outstanding {w : Owed} {o : Outstanding} (ho : (s.st.outstanding.find? fun o => o.what == w) = some o) (a : Ans) :
    (s.completeOldest w a).st.outstanding = s.st.outstanding.erase o := by
  rw [completeOldest_of_owed ho, queueAnswers_st]

theorem completeOldest_said {w : Owed} {o : Outstanding} (ho : (s.st.outstanding.find? fun o => o.what == w) = some o) (a : Ans)
    (hkeys : tkeys s.st.chans = List.range 8) (hch : o.ch < 8) {p : Pkt} (hp : p ∈ pktsOf 2 o.opcode o.tag o.ctx o.ch false false a) :
    p ∈ ((s.completeOldest w a).chan o.ch).answers ∨ Out.packet p ∈ (s.completeOldest w a).out := by
  obtain ⟨-, hloud, -⟩ := mem_pktsOf hp
  rw [completeOldest_of_owed ho]
  refine (queueAnswers_said ?_ p hp).resolve_left (by rw [hloud]; decide)
  exact hkeys ▸ List.mem_range.2 hch

/-! ## Commits -/

theorem svnCommit_act (hrsv : (argRsv r 0x3F 0).1 = false) (hlow : s.btb.fusedSvn ≤ a0 r % 64) (hhigh : a0 r % 64 ≤ s.btb.fwSvn)
    (hbusy : s.btb.commitBusy = false) : svnCommitAct r s = ((s.startCommit (a0 r % 64)).owe 0x0904 r .svn, ans stAccepted) := by
  have hchecks : firstErr [argRsv r 0x3F 0] = none := firstErr_cons_pass hrsv
  unfold svnCommitAct
  dsimp only
  rw [hchecks]
  dsimp only
  rw [if_neg (Nat.not_lt.2 hlow), if_neg (Nat.not_lt.2 hhigh), hbusy]
  rfl

theorem startCommit_fusedSvn (s : State) (v : Nat) : (s.startCommit v).btb.fusedSvn = s.btb.fusedSvn := rfl

theorem svnCommitAfter_btb (a : Ans) (s : State) : (svnCommitAfter r a s).btb = s.btb :=
  (Agree.ite (M := [.hif, .st, .out]) (fun _ => State.complete_agree (by decide) (Agree.refl _ s)) fun _ => Agree.refl _ s).part .btb
    (by decide)

theorem svnCommitAfter_busy {a : Ans} (h : s.btb.commitBusy = true) : svnCommitAfter r a s = s :=
  if_neg (by simp [h])

theorem linkKey_act (hrsv : (argRsv r 0x3F 0).1 = false) (hport : lkPort r < 42) (hkey : s.keyBad (lkPort r) r.payload = false)
    (hsync : (s.port (lkPort r)).syncOwed = false) :
    linkKeyAct r s = (s.acceptKey (lkPort r) r.payload, ans stDone) := by
  have hchecks : firstErr [argRsv r 0x3F 0, (decide (42 ≤ lkPort r), refuse stBadArgument 16)] = none :=
    firstErr_none (by simp [hrsv, hport])
  unfold linkKeyAct
  dsimp only
  rw [hchecks]
  dsimp only
  rw [hkey, hsync]
  rfl

theorem fuseDone_svn (s : State) : s.fuseDone.btb.fusedSvn = s.btb.fusedSvn + 1 := by
  unfold State.fuseDone
  dsimp only
  split
  · rfl
  · rw [(State.complete_agree (M := [.hif, .st, .out]) (by decide) (Agree.refl _ _)).part .btb (by decide)]
    rfl

end

/-- Settles O21: the commands act, a report goes to whom it answers, and a fuse raises the fused version by one. -/
theorem securityCommandsComplete : Obligations.SecurityCommandsComplete := by
  refine ⟨fun r s h hrsv => ?_, fun s x xs halive hkey hx => ?_, fun r s h hrsv hi hrsa => ?_, fun r s h hrsv hport hkey hsync => ?_,
    fun r s h hrsv hlow hhigh hbusy => ?_, fun s hfuse hrails => ?_⟩
  · refine (attest_acts h hrsv).runs fun t hsame hst hanswered => ⟨hanswered, (owes_owe _ _ _ _).of_st hst, ?_⟩
    have hbtb : t.btb = ((s.heard r).captureReport r.payload false).btb := hsame.part .btb (by decide)
    rw [hbtb, State.captureReport, State.modBtb, heard_reportContent, heard_btb]
  · refine (attestReportComplete_does halive hkey).runs ?_
    rw [reportDone_eq hx]
    cases hend : x.endpoint with
    | true => exact ⟨rfl, fun _ => ⟨rfl, List.mem_append_right _ (List.mem_singleton.2 rfl)⟩, fun _ h => absurd h (by decide)⟩
    | false =>
      refine ⟨congrArg Trust.reports (completeOldest_btb (s.reportTaken xs) .attest _), fun h => absurd h (by decide),
        fun o _ hkeys ho hch => ⟨completeOldest_outstanding (s := s.reportTaken xs) ho _, ?_⟩⟩
      exact fun p hp => completeOldest_said (s := s.reportTaken xs) ho _ hkeys hch hp
  · refine (h.acts rfl (fun _ => certReadCmd_agree (by decide)) rfl (guardAct_passes (firstErr_none ?_))).runs fun t _ _ hanswered => ?_
    · have hready : (a0 r % 256 == 4 && !s.btb.aliasRsa) = false := by
        by_cases h4 : a0 r % 256 = 4
        · simp [hrsa h4]
        · simp [h4]
      simp [hrsv, hi, heard_btb, hready]
    · rwa [State.cert, heard_btb] at hanswered
  · refine h.acts rfl (fun _ => linkKeyCmd_agree (by decide)) rfl (linkKey_act hrsv hport ?_ ?_)
    · rw [← hkey]
      exact heard_reads (f := fun s => s.keyBad (lkPort r) r.payload) s r fun _ _ _ _ => rfl
    · rw [State.port, heard_nlc]
      exact hsync
  · refine (h.actsThen rfl (fun _ => svnCommitCmd_agree (by decide)) rfl (svnCommit_act hrsv ?_ ?_ ?_)).runs
      fun y hsame hst hanswered => ?_
    · rwa [heard_btb]
    · rwa [heard_btb]
    · rwa [heard_btb]
    · have hbtb : y.btb = ((s.heard r).startCommit (a0 r % 64)).btb := hsame.part .btb (by decide)
      have hafter : (svnCommitAfter r (ans stAccepted) y).btb = ((s.heard r).startCommit (a0 r % 64)).btb :=
        (svnCommitAfter_btb _ y).trans hbtb
      refine ⟨hanswered, congrArg Trust.commitTarget hafter, (congrArg Trust.fusedSvn hafter).trans ?_, fun hless => ?_⟩
      · rw [startCommit_fusedSvn, heard_btb]
      have hbusy' : y.btb.commitBusy = true :=
        (congrArg Trust.commitBusy hbtb).trans (decide_eq_true (by rw [heard_btb]; exact hless))
      rw [show svnCommitCmd.after r (ans stAccepted) y = y from svnCommitAfter_busy (r := r) hbusy']
      exact ⟨hbusy', (owes_owe _ _ _ _).of_st hst⟩
  · exact (show Does .fuseProgrammed s s.fuseDone from congrArg (settle s) (if_pos (by simp [hfuse, hrails]))).runs (fuseDone_svn s)

end Sys2Proof.Machine
end

section
/-! Maintenance, notices and answers (R221, R222, R261, R268, R270, R282, R283, R317, R416 to R420). -/
namespace Sys2Proof.Machine

section
variable {r : Req} {s t : State}

/-! ## The maintenance commands -/

theorem maintStartChecks_heard (r : Req) (s : State) : maintStartChecks r (s.heard r) = maintStartChecks r s :=
  heard_reads s r fun _ _ _ _ => rfl

theorem holder?_heard (r : Req) (s : State) (c : Nat) : (s.heard r).holder? c = s.holder? c := by
  rw [State.holder?, State.holder?, heard_flt]

theorem maintStart_act (hchecks : firstErr (maintStartChecks r s) = none) (hfree : s.holder? (maintClass (maActivity r)) = none) :
    maintStartAct r s =
      (let x := (s.holdClass { activity := maActivity r, arg := a1 r, tag := r.tag.toNat, ch := r.flitCh, device := false }).owe
        0x0A01 r (.maint (maActivity r))
      if maActivity r = actRetrain then x.startRetrain (a1 r) else x, ans stAccepted) := by
  unfold maintStartAct
  dsimp only
  rw [hchecks]
  dsimp only
  rw [hfree]

theorem maintStarts {i : Req → Instr} {a : Nat} (he : ∀ r s, exec (i r) s = stauc maintStartCmd r s) : MaintStarts i a := by
  rintro r s h rfl hchecks hfree
  exact h.acts (he r s) (fun _ => maintStartCmd_agree (by decide)) rfl
    (maintStart_act (maintStartChecks_heard r s ▸ hchecks) (holder?_heard r s _ ▸ hfree))

end

/-- Settles O22: an activity that starts holds its class, and the queries answer what they read. -/
theorem maintenanceCommandsComplete : Obligations.MaintenanceCommandsComplete := by
  refine ⟨maintStarts fun _ _ => rfl, maintStarts fun _ _ => rfl, maintStarts fun _ _ => rfl, maintStarts fun _ _ => rfl,
    maintStarts fun _ _ => rfl, fun r s h hrsv => ?_, fun r s h hrsv hcount => ?_⟩
  · refine (h.acts rfl (fun _ => maintQueryCmd_agree (by decide)) rfl (guardAct_one hrsv)).runs fun t _ _ hanswered => ?_
    simp only [holder?_heard] at hanswered
    exact hanswered
  · refine (h.acts rfl (fun _ => logReadCmd_agree (by decide)) rfl (guardAct_passes (firstErr_none ?_))).runs fun t _ _ hanswered => ?_
    · simp [hrsv, hcount]
    · rwa [heard_flt] at hanswered

/-! ## The ends of maintenance -/

section
variable {s : State}

theorem startQueued_log (s : State) (cls : Nat) :
    (s.startQueued cls).flt.sectors = s.flt.sectors ∧ (s.startQueued cls).flt.log = s.flt.log := by
  have hhold : ∀ (u : State) (m : Maint), (u.holdClass m).flt.sectors = u.flt.sectors ∧ (u.holdClass m).flt.log = u.flt.log := by
    intro u m
    unfold State.holdClass
    dsimp only
    split <;> exact ⟨rfl, rfl⟩
  unfold State.startQueued
  dsimp only
  split
  · exact ⟨rfl, rfl⟩
  · split
    · split
      · exact hhold _ _
      · exact ⟨rfl, rfl⟩
    · exact ⟨rfl, rfl⟩

theorem releaseClass_log (s : State) (cls : Nat) :
    (s.releaseClass cls).flt.sectors = s.flt.sectors ∧ (s.releaseClass cls).flt.log = s.flt.log := startQueued_log _ cls

/-- The end of an activity leaves the records of the log. -/
theorem endMaint_log (s : State) (a : Nat) (e : Ans) :
    (s.endMaint a e).flt.sectors = s.flt.sectors ∧ (s.endMaint a e).flt.log = s.flt.log := by
  have hflt : ∀ w, (s.complete w e).flt = s.flt := fun w =>
    (State.complete_agree (M := [.hif, .st, .out]) (by decide) (Agree.refl _ s)).part .flt (by decide)
  unfold State.endMaint
  split
  · exact ⟨rfl, rfl⟩
  · split
    · exact ⟨rfl, rfl⟩
    · split
      · exact releaseClass_log s _
      · rw [← hflt]
        exact releaseClass_log _ _

/-- Records that find places leave what is in the log. -/
theorem takeQueued_log (f : Faults) : f.takeQueued.sectors = f.sectors ∧ f.takeQueued.log = f.log := by
  have key : ∀ (l : List Record) (g : Faults), (l.foldl (fun (f : Faults) r =>
      if f.finds r then { f with logWrites := f.logWrites ++ [r], logQueue := f.logQueue.erase r } else f) g).sectors = g.sectors ∧
      (l.foldl (fun (f : Faults) r =>
        if f.finds r then { f with logWrites := f.logWrites ++ [r], logQueue := f.logQueue.erase r } else f) g).log = g.log := by
    intro l
    induction l with
    | nil => exact fun _ => ⟨rfl, rfl⟩
    | cons r l ih =>
      intro g
      obtain ⟨hsectors, hlog⟩ := ih (if g.finds r then { g with logWrites := g.logWrites ++ [r], logQueue := g.logQueue.erase r } else g)
      exact ⟨hsectors.trans (by split <;> rfl), hlog.trans (by split <;> rfl)⟩
  exact key f.logQueue f

theorem compact_log {f : Faults} {l : List Nat} {ls : List (List Nat)} (h : f.sectors = l :: ls) :
    f.compact.sectors = ls ∧ f.compact.log = tfilter f.log fun i _ => !l.contains i := by
  unfold Faults.compact
  rw [h]
  exact takeQueued_log _

/-- A mast of the package after a change of every mast. -/
theorem mast_mapMasts {n : Nat} (hk : tkeys s.masts = List.range 8) (hn : n < 8) (f : Nat → Mast → Mast) :
    (s.mapMasts f).mast n = f n (s.mast n) := by
  obtain ⟨z, hz⟩ := tget_of_mem (hk ▸ List.mem_range.2 hn)
  rw [State.mast, State.mast, tgetD, tgetD, State.mapMasts, tget_tmap, hz]
  rfl

end

/-- Settles O23: each event starts or ends its activity; a compaction takes the oldest sector, and a record is programmed. -/
theorem maintenanceEventsComplete : Obligations.MaintenanceEventsComplete := by
  refine ⟨fun s halive hmasts => ?_, fun found s m halive hm hact hu => ?_, fun s i halive hi hperiod => ?_,
    fun s m h halive hm hact hcool hh => ?_, fun s m hk halive hm hact hcool => ?_, fun s halive hsectors hqueue => ?_,
    fun s m l ls halive hm hact hsectors => ?_, fun s x xs hrun hx => ?_⟩
  · refine does_alive rfl halive (if_neg ?_)
    rwa [List.isEmpty_iff]
  · refine does_alive rfl halive ?_
    unfold State.scrubEnd
    rw [hm]
    dsimp only
    rw [hact, if_neg (by decide), if_neg (by simp [hu])]
  · refine does_alive rfl halive ?_
    rw [hi]
    exact if_neg hperiod
  · refine does_alive rfl halive ?_
    unfold State.recheckEnd
    rw [hm]
    dsimp only
    rw [if_neg (by simp [hact, hcool]), hh]
  · have hdoes : Does .refreshModeComplete s
        ((s.mapMasts fun _ z => { z with mc := { z.mc with refreshReq := m.arg % 4 } }).endMaint actRefresh (ans stDone)) := by
      refine does_alive rfl halive ?_
      unfold State.refreshEnd
      rw [hm]
      exact if_neg (Bool.eq_false_iff.1 hcool)
    refine hdoes.runs fun n hn => ?_
    have hmasts := (State.endMaint_agree (a1 := actRefresh) (a2 := ans stDone) (M := [.flt, .hif, .st, .hal, .out]) (by decide)
      (Agree.refl _ (s.mapMasts fun _ z => { z with mc := { z.mc with refreshReq := m.arg % 4 } }))).part .masts (by decide)
    rw [State.mast, hmasts]
    exact congrArg (fun z => z.mc.refreshReq) (mast_mapMasts hk hn _)
  · refine does_alive rfl halive (if_pos ?_)
    have hlen : 64 < s.flt.sectors.length + 2 := by omega
    simp [hlen, hqueue]
  · have hdoes : Does .logCompactComplete s (({ s with flt := s.flt.compact } : State).endMaint actCompact (ans stDone)) := by
      refine does_alive rfl halive (if_pos ?_)
      rw [hm]
      rfl
    obtain ⟨hend, hlog⟩ := endMaint_log { s with flt := s.flt.compact } actCompact (ans stDone)
    obtain ⟨hend', hlog'⟩ := compact_log hsectors
    exact hdoes.runs ⟨hend.trans hend', hlog.trans hlog'⟩
  · have hdoes : Does .logRecordWritten s { s with flt := s.flt.written } :=
      congrArg (settle s) (if_pos (by simpa using hrun))
    refine hdoes.runs ?_
    unfold Faults.written
    rw [hx]
    exact ⟨tget_tset_self _ _ _, rfl⟩

end Sys2Proof.Machine
end

section
/-! Notices and answers go out (R261, R268, R270, R283). -/
namespace Sys2Proof.Machine

section
variable {s : State} {c : Nat}

theorem sendNotice_of_room {n : Notice} {rest : List Notice} (hn : s.st.notices = n :: rest)
    (hroom : (s.st.negotiated && !s.bundleBusy s.st.eventCh && !s.answerBusy s.st.eventCh &&
      s.canSend s.st.eventCh (n.packet s.st.eventCh s.st.dropped).payload.length) = true) :
    s.sendNotice = State.transmit { s with st := { s.st with notices := rest, dropped := n.reported s.st.dropped } }
      (n.packet s.st.eventCh s.st.dropped) := by
  unfold State.sendNotice
  rw [hn]
  exact if_pos hroom

theorem notice_loud (n : Notice) (ch dropped : Nat) : (n.packet ch dropped).silent = false := by
  cases n <;> rfl

/-- A change of a channel's tags and credits leaves the rest of every channel. -/
theorem modChan_waiting {n : Nat} {f : Chan → Chan} (hf : ∀ z, (f z).waiting = z.waiting) :
    ((s.modChan n f).chan c).waiting = (s.chan c).waiting := by
  by_cases hc : c = n
  · subst hc
    rw [State.modChan, State.chan, State.chan, tgetD, tgetD, tget_tmod_self]
    cases tget s.st.chans c with
    | none => rfl
    | some z => exact hf z
  · exact congrArg Chan.waiting (tgetD_tmod_ne _ _ _ hc)

theorem transmit_waiting (s : State) (p : Pkt) (c : Nat) : ((s.transmit p).chan c).waiting = (s.chan c).waiting := by
  have hfinal : ∀ (b : Prop) [Decidable b], ((if b then s.modChan p.channel fun x => { x with tags := x.tags.erase p.tag } else s).chan
      c).waiting = (s.chan c).waiting := by
    intro b _
    split
    · exact modChan_waiting fun _ => rfl
    · rfl
  unfold State.transmit
  dsimp only
  split
  · exact hfinal _
  · exact (modChan_waiting (n := p.channel) (f := fun x => { x with host := x.host - units p.payload.length }) fun _ => rfl).trans
      (hfinal _)

/-- The first answer of a channel that may go out does. -/
theorem pump_one {p : Pkt} {ps : List Pkt} (hn : s.st.negotiated = true) (ha : (s.chan c).answers = p :: ps)
    (hroom : s.canSend c p.payload.length = true) (hbusy : s.bundleBusy c = false) :
    s.pump c 1 = (s.modChan c fun x => { x with answers := x.answers.erase p }).transmit p := by
  have hfound : (s.chan c).answers.find? (sendableNow s.st.negotiated) = some p := by
    rw [ha, hn]
    rfl
  have hnext : s.nextAnswer c = some p := by
    rw [State.nextAnswer, hbusy, if_neg Bool.false_ne_true, hfound]
    exact if_pos (by simp [hroom])
  rw [State.pump, hnext]
  rfl

theorem answerSend_does {t : State} (hc : c < 8) (halive : s.alive = true) (h : s.sendAnswer c = t) : Does (.answerSend c) s t :=
  (onChannel_in hc).trans (congrArg (settle s) ((whenAlive_alive halive).trans h))

end

/-- Settles O24: where the channel has room, the oldest notice and the oldest answer go out, and nothing else does. -/
theorem noticesAndAnswersGoOut : Obligations.NoticesAndAnswersGoOut := by
  refine ⟨fun s n rest halive hn hnegotiated hbusy hanswer hroom => ?_, fun c s hc halive => ?_,
    fun c s p ps hc hkeys halive hnegotiated ha hp hroom hbusy hwait => ?_⟩
  · refine (does_alive rfl halive (sendNotice_of_room hn (by simp [hnegotiated, hbusy, hanswer, hroom]))).runs ⟨?_, ?_, ?_⟩
    · rw [transmit_st]
    · rw [transmit_st]
    · exact transmit_sent (by rw [notice_loud]; decide)
  · exact answerSend_does hc halive rfl
  · have hanswers : ((s.pump c 1).chan c).answers = ps := by
      rw [pump_one hnegotiated ha hroom hbusy, transmit_answers, chan_modChan (hkeys ▸ List.mem_range.2 hc)]
      change (s.chan c).answers.erase p = ps
      rw [ha, List.erase_cons_head]
    have hwaiting : ((s.pump c 1).chan c).waiting = [] := by
      rw [pump_one hnegotiated ha hroom hbusy, transmit_waiting]
      exact (modChan_waiting (f := fun x => { x with answers := x.answers.erase p }) fun _ => rfl).trans hwait
    have hout : Out.packet p ∈ (s.pump c 1).out := by
      rw [pump_one hnegotiated ha hroom hbusy]
      exact transmit_sent (by rw [hp]; decide)
    have hsent : s.sendAnswer c = s.pump c 1 := by
      unfold State.sendAnswer
      dsimp only
      rw [hwaiting]
      rfl
    exact (answerSend_does hc halive hsent).runs ⟨hout, hanswers⟩

end Sys2Proof.Machine
end

section
/-! Register writes, and the registers with a behaviour of their own (R4, R10, R18, R107, R216, R249 to R251, R339, R384, R454, R469). -/
namespace Sys2Proof.Machine

section
variable {s : State} {off m : Nat}

/-! ## The register that is written -/

theorem hostWrite_writable (h : Writable s off) (v : Nat) : s.hostWrite off v = (writeReg s off v).1 := by
  obtain ⟨haligned, hpresent, hserved, hfatal⟩ := h
  exact if_neg (by simp [haligned, hpresent, hserved, hfatal])

theorem mastReg_parts {blk o : Nat} (hm : m < 8) (hblk : blk < 16) (ho : o < 0x10000) :
    mastAt (mastReg m blk o) = some m ∧ mastReg m blk o % 0x100000 / 0x10000 = blk ∧ mastReg m blk o % 0x10000 = o := by
  unfold mastAt mastReg
  have hin : (0x1000000 ≤ 0x1000000 + m * 0x100000 + blk * 0x10000 + o && 0x1000000 + m * 0x100000 + blk * 0x10000 + o < 0x1800000) =
      true := by
    simp only [Bool.and_eq_true, decide_eq_true_eq]
    omega
  rw [if_pos hin]
  exact ⟨congrArg some (by omega), by omega, by omega⟩

/-- A write of a mast's register reaches its block. -/
theorem writeReg_of_mastAt {blk o v : Nat} (hmast : mastAt off = some m) (hblk : off % 0x100000 / 0x10000 = blk)
    (ho : off % 0x10000 = o) : writeReg s off v = writeMast s m blk o v := by
  unfold writeReg
  rw [hmast, hblk, ho]

theorem writeReg_mast {blk o v : Nat} (hm : m < 8) (hblk : blk < 16) (ho : o < 0x10000) :
    writeReg s (mastReg m blk o) v = writeMast s m blk o v :=
  have hparts := mastReg_parts hm hblk ho
  writeReg_of_mastAt hparts.1 hparts.2.1 hparts.2.2

/-! ## Bands -/

theorem writeMc_band {b v : Nat} (hb : b < 12) : writeMc s m (0x10 + 4 * b) v = s.writeBand m b v := by
  have hin : (0x10 ≤ 0x10 + 4 * b && 0x10 + 4 * b < 0x40) = true := by
    simp only [Bool.and_eq_true, decide_eq_true_eq]
    omega
  unfold writeMc
  dsimp only
  rw [if_pos hin]
  congr 1
  omega

theorem writeBand_free {b v : Nat} (hk : tkeys s.masts = List.range 8) (hm : m < 8) (hpending : thas (s.mast m).mc.bandPending b = false)
    (htaken : s.taken m (b * 2 ^ 32) (2 ^ 32) = false) :
    tget ((s.writeBand m b v).1.mast m).mc.bandPending b = some (v % 4) := by
  unfold State.writeBand
  dsimp only
  rw [hpending, htaken, if_neg (by decide), mast_modMast_self (mem_of_mastKeys hk hm)]
  exact tget_tset_self _ _ _

theorem bandDone_changes {b j : Nat} (hk : tkeys s.masts = List.range 8) (hm : m < 8) (hup : s.mastUp m = true)
    (hcool : s.pwr.coolstop = false) (hj : tget (s.mast m).mc.bandPending b = some j) :
    tget ((s.bandDone m b).mast m).mc.bandPending b = none ∧
      tget ((s.bandDone m b).mast m).mc.setLog2 b = (if j = 3 then none else some j) := by
  unfold State.bandDone
  rw [hj]
  dsimp only
  rw [if_neg (by simp [hup, hcool]), mast_modMast_self (mem_of_mastKeys hk hm)]
  refine ⟨tget_tdel_self _ _, ?_⟩
  dsimp only
  split
  · exact tget_tdel_self _ _
  · exact tget_tset_self _ _ _

/-! ## Dead targets -/

theorem writeReg_nlc {v : Nat} (h : 0x80000 ≤ off ∧ off < 0xC0000) : (writeReg s off v).1 = writeNlc s (off - 0x80000) v := by
  have hmast : mastAt off = none := if_neg (by simp only [Bool.and_eq_true, decide_eq_true_eq]; omega)
  unfold writeReg
  rw [hmast]
  simp only [if_neg (show ¬ off < 0x10000 by omega), if_neg (show ¬ off < 0x20000 by omega), if_neg (show ¬ off < 0x30000 by omega),
    if_neg (show ¬ off < 0x40000 by omega), if_neg (show ¬ off < 0x50000 by omega), if_neg (show ¬ off < 0x80000 by omega),
    if_pos h.2]

theorem writeNlc_dead {k v : Nat} (hk : k < 8) : writeNlc s (0x20 + 4 * k) v = s.clearDead k v := by
  have hin : (0x20 ≤ 0x20 + 4 * k && 0x20 + 4 * k < 0x40) = true := by
    simp only [Bool.and_eq_true, decide_eq_true_eq]
    omega
  unfold writeNlc
  rw [if_pos hin, show (0x20 + 4 * k - 0x20) / 4 = k by omega]

/-- A dead target that is cleared. -/
def Nalec.revive (n : Nalec) (d : Nat) : Nalec :=
  { n with dead := n.dead.filter (· != d), epochs := tset n.epochs d ((tgetD n.epochs d 0 + 1) % 256),
           nextWrite := tset n.nextWrite d 0 }

theorem clearDead_eq (s : State) (k v : Nat) : s.clearDead k v =
    (s.nlc.dead.filter fun d => d / 32 == k && bit v (d % 32)).foldl (fun (s : State) d => s.modNlc fun n => n.revive d) s := rfl

theorem mem_dead_of_revived (l : List Nat) {s : State} {d : Nat}
    (h : d ∈ (l.foldl (fun (s : State) d => s.modNlc fun n => n.revive d) s).nlc.dead) : d ∈ s.nlc.dead ∧ d ∉ l := by
  induction l generalizing s with
  | nil => exact ⟨h, List.not_mem_nil⟩
  | cons e l ih =>
    obtain ⟨hmem, hl⟩ := ih h
    obtain ⟨hdead, hne⟩ := List.mem_filter.1 (show d ∈ s.nlc.dead.filter (· != e) from hmem)
    exact ⟨hdead, by simpa [hl] using hne⟩

theorem clearDead_clears {k v d : Nat} (h : d ∈ (s.clearDead k v).nlc.dead) : ¬ (d / 32 = k ∧ bit v (d % 32) = true) := by
  rintro ⟨hk, hbit⟩
  rw [clearDead_eq] at h
  obtain ⟨hdead, hout⟩ := mem_dead_of_revived _ h
  exact hout (List.mem_filter.2 ⟨hdead, by simp [hk, hbit]⟩)

/-! ## The host link -/

theorem grantAll_st (s : State) : s.grantAll.st = { s.st with chans := s.grantAll.st.chans } := by
  unfold State.grantAll
  generalize List.range 8 = cs
  induction cs generalizing s with
  | nil => rfl
  | cons c cs ih => rw [List.foldl_cons, ih, sendCredit_st, modChan_st]

theorem writeReg_modCtrl (s : State) (v : Nat) :
    (writeReg s 0x10000C v).1 = (if bit v 4 then s.flush else s).retryModules (v % 16) := rfl

theorem bit_four_of_lt {v : Nat} (h : v < 16) : bit v 4 = false := by
  simp only [bit, beq_eq_false_iff_ne]
  omega

/-- What a flush leaves of the negotiation and of the modules. -/
def Flushed (s : State) : Prop := s.st.negotiated = false ∧ ∀ e ∈ s.hif.mods, e.2.replay = [] ∧ e.2.txSeq = 0

theorem flush_flushed (s : State) : Flushed s.flush := by
  unfold State.flush
  extract_lets _ _ u
  have hmods : ∀ e ∈ u.hif.mods, e.2.replay = [] ∧ e.2.txSeq = 0 := by
    intro e he
    obtain ⟨x, -, rfl⟩ := List.mem_map.1 he
    exact ⟨rfl, rfl⟩
  split
  · refine ⟨by rw [grantAll_st], ?_⟩
    rw [(State.grantAll_agree (M := [.st, .out]) (by decide) (Agree.refl _ u)).part .hif (by decide)]
    exact hmods
  · exact ⟨rfl, hmods⟩

theorem retryModules_flushed (h : Flushed s) (mask : Nat) : Flushed (s.retryModules mask) := by
  obtain ⟨hneg, hmods⟩ := h
  unfold State.retryModules
  dsimp only
  split
  · refine ⟨hneg, fun e he => ?_⟩
    obtain ⟨x, hx, rfl⟩ := List.mem_map.1 he
    have := hmods x hx
    dsimp only
    split <;> exact this
  · exact ⟨hneg, hmods⟩

/-! ## Layer commands -/

theorem ttCmdWord_fields {cmd c l : Nat} (hcmd : cmd < 4) (hc : c < 128) (hl : l < 4096) :
    bits (ttCmdWord cmd c l) 30 2 = cmd ∧ bits (ttCmdWord cmd c l) 16 7 = c ∧ bits (ttCmdWord cmd c l) 0 12 = l ∧
      bits (ttCmdWord cmd c l) 23 7 = 0 ∧ bits (ttCmdWord cmd c l) 12 4 = 0 := by
  simp only [ttCmdWord, packFields, bits, List.foldl_cons, List.foldl_nil]
  omega

theorem writeMast_layerCmd (s : State) (m v : Nat) : (writeMast s m 4 0x24 v).1 = s.layerCmd m v := rfl

theorem layerCmd_named {cmd c l : Nat} (hk : tkeys s.masts = List.range 8) (hm : m < 8) (hcmd : cmd = 1 ∨ cmd = 2) (hc : c < 128)
    (hl : l < 4096) (hnamed : (s.layerNamed c l).isSome = true) :
    ((s.layerCmd m (ttCmdWord cmd c l)).mast m).tt.cmdStatus = 1 ∧
      (((s.layerCmd m (ttCmdWord cmd c l)).mast m).tt.rec? c l).cmd = cmd := by
  obtain ⟨h30, h16, h0, h23, h12⟩ := ttCmdWord_fields (cmd := cmd) (by omega) hc hl
  have hsome : (s.layerNamed c l).isNone = false := by rw [Option.isNone_eq_false_iff, hnamed]
  have hcmd0 : cmd ≠ 0 := by omega
  have hcmd3 : (cmd = 3) = False := by simp only [eq_iff_iff, iff_false]; omega
  unfold State.layerCmd
  dsimp only
  rw [h30, h16, h0, h23, h12, hsome, if_neg hcmd0, if_neg (by simp [hcmd3]), mast_modMast_self (mem_of_mastKeys hk hm)]
  refine ⟨rfl, ?_⟩
  simp only [TtBlk.rec?, tgetD, tget_tset_self]
  rfl

/-! ## Sideband reads -/

theorem readReg_latchTime (s : State) (off : Nat) : readReg (s.latchTime off) off = readReg s off := by
  unfold State.latchTime
  split
  next h =>
    subst h
    rfl
  next => rfl

theorem readReg_time (s : State) : readReg s 0x40000 = lo32 s.time := rfl

theorem sidebandRead_served (haligned : off % 4 = 0) (hpresent : s.regAbsent off = false) (hserved : s.served off = true) :
    s.sidebandRead off = (s.latchTime off).emit (.sbData off (BitVec.ofNat 32 (readReg s off))) :=
  if_neg (by simp [haligned, hpresent, hserved])

end

/-- Settles O25: a register that can be written takes its value at its own place, and a read gives what it holds. -/
theorem registerAccessesComplete : Obligations.RegisterAccessesComplete := by
  refine ⟨fun off v s h => ?_, fun v s h => ?_, fun m b v s hm hb hk h hpending htaken => ?_,
    fun m b j s hm hk halive hup hcool hj => ?_, fun k v s hk h => ?_, fun s h => ?_, fun mask s h => ?_,
    fun m c l s hm hc hl hk h hnamed => ?_, fun v s h => ?_, fun off s haligned hpresent hserved => ?_, fun s hserved => ?_⟩
  · have hwrite := congrArg (settle s) (hostWrite_writable h v.toNat)
    exact ⟨hwrite, hwrite⟩
  · exact congrArg (settle s) (hostWrite_writable h v.toNat)
  · have hwrite : s.hostWrite (mastReg m 5 (0x10 + 4 * b)) v.toNat = (s.writeBand m b v.toNat).1 := by
      rw [hostWrite_writable h, writeReg_mast hm (by decide) (by omega)]
      exact congrArg Prod.fst (writeMc_band hb)
    have hdoes : Does (.mcBandWrite m b v) s (s.writeBand m b v.toNat).1 :=
      (onMast_in hm).trans (congrArg (settle s) ((if_pos hb).trans hwrite))
    exact hdoes.runs (writeBand_free hk hm hpending htaken)
  · have hdoes : Does (.bandChangeComplete m b) s (s.bandDone m b) := does_mast rfl hm halive rfl
    exact hdoes.runs (bandDone_changes hk hm hup hcool hj)
  · have hreg : (writeReg s (0x80020 + 4 * k) v.toNat).1 = s.clearDead k v.toNat := by
      rw [writeReg_nlc (by omega), show 0x80020 + 4 * k - 0x80000 = 0x20 + 4 * k by omega, writeNlc_dead hk]
    have hdoes : Does (.nlcDeadClear k v) s (s.clearDead k v.toNat) :=
      congrArg (settle s) ((if_pos hk).trans ((hostWrite_writable h v.toNat).trans hreg))
    exact ⟨hdoes, hdoes.runs fun d hd => clearDead_clears hd⟩
  · have hdoes : Does .hifFlush s (s.flush.retryModules (16 % 16)) := congrArg (settle s) (hostWrite_writable h 16)
    exact hdoes.runs (retryModules_flushed (flush_flushed s) _)
  · have hreg : (writeReg s 0x10000C (mask % 16)).1 = s.retryModules (mask % 16) := by
      rw [writeReg_modCtrl, Nat.mod_mod, if_neg (by rw [bit_four_of_lt (Nat.mod_lt _ (by decide))]; decide)]
    exact congrArg (settle s) ((hostWrite_writable h _).trans hreg)
  · have hdoes : ∀ cmd, onMast m s (s.hostWrite (mastReg m 4 0x24) (ttCmdWord cmd c l)) =
        settle s (s.layerCmd m (ttCmdWord cmd c l)) := by
      intro cmd
      rw [onMast_in hm, hostWrite_writable h, writeReg_mast hm (by decide) (by decide), writeMast_layerCmd]
    exact ⟨⟨_, hdoes 1, layerCmd_named hk hm (.inl rfl) hc hl hnamed⟩, ⟨_, hdoes 2, layerCmd_named hk hm (.inr rfl) hc hl hnamed⟩⟩
  · exact congrArg (settle s) (hostWrite_writable h v.toNat)
  · have hdoes : Does (.sbMemRead off) s ((s.latchTime off).emit (.sbData off (BitVec.ofNat 32 (readReg s off)))) :=
      congrArg (settle s) (sidebandRead_served haligned hpresent hserved)
    refine hdoes.runs ?_
    rw [readReg_latchTime]
    exact List.mem_append_right _ (List.mem_singleton.2 rfl)
  · have hdoes : Does .cnTimeLoRead s ((s.latchTime 0x40000).emit (.sbData 0x40000 (BitVec.ofNat 32 (readReg s 0x40000)))) :=
      congrArg (settle s) (sidebandRead_served (by decide) rfl hserved)
    have htime : BitVec.ofNat 32 (readReg s 0x40000) = BitVec.ofNat 32 s.time := by
      exact BitVec.eq_of_toNat_eq (by rw [readReg_time, lo32, BitVec.toNat_ofNat, BitVec.toNat_ofNat, Nat.mod_mod])
    refine hdoes.runs ⟨rfl, ?_⟩
    rw [← htime]
    exact List.mem_append_right _ (List.mem_singleton.2 rfl)

end Sys2Proof.Machine
end

section
/-! The management endpoint and the delivery of firmware (R250 to R254, R386, R427 to R431, R435, R459, R460). -/
namespace Sys2Proof.Machine

section
variable {s t : State}

/-! ## The endpoint -/

/-- A command of the endpoint that is ready takes effect. -/
theorem does_endpoint {i : Instr} {cmd : Nat} {ready : Bool} (e : exec i s = settle s (s.endpoint cmd ready t))
    (hruns : s.endpointRuns = true) (hready : ready = true) : Does i s t := by
  unfold State.endpoint at e
  rw [hruns, hready] at e
  exact e

theorem mem_emit (s : State) (o : Out) : o ∈ (s.emit o).out := List.mem_append_right _ (List.mem_singleton.2 rfl)

theorem writeCap_rack_cap {w : Nat} (hw : 450 ≤ w) (hfloor : s.pwr.floorMgmt = false) (hcap : s.pwr.floorCap = false) :
    (s.writeCap 2 w).pwr.capMgmt = min 2000 w := by
  have hlow : decide (w < 450) = false := decide_eq_false (by omega)
  unfold State.writeCap
  simp only [hlow, hfloor, hcap]
  change max 450 (min 2000 w) = min 2000 w
  omega

theorem capMgmtSet_of_lt {w : Nat} (hw : w < 65536) :
    s.capMgmtSet w = (s.writeCap 2 w).emit (.mgmt 3 mgOk (natLe 2 (s.writeCap 2 w).pwr.capMgmt)) := if_neg (Nat.not_le.2 hw)

theorem attestPart_sound {n : Bytes} {p : Nat} (hn : n.length = 48) (hp : p < 65536) :
    s.attestPart n p = if p = 0 then s.captureReport n true else match s.btb.held with
      | some h => if h.1 = n then s.emit (endpointPart 5 h.2 p) else s.emit (.mgmt 5 mgMalformed [])
      | none => s.emit (.mgmt 5 mgMalformed []) :=
  if_neg (by simp [hn, hp])

theorem certPart_sound {i p : Nat} (hi : i ≤ 5) (hp : p < 65536) (hrsa : i = 4 → s.btb.aliasRsa = true) :
    s.certPart i p = s.emit (endpointPart 6 (s.cert i) p) := by
  have hready : (decide (i = 4) && !s.btb.aliasRsa) = false := by
    by_cases h4 : i = 4
    · simp [hrsa h4]
    · simp [h4]
  unfold State.certPart
  rw [if_neg (by simp [hi, hp]), hready]
  rfl

theorem raise_pwr (s : State) (r : Record) : (s.raise r).pwr = s.pwr :=
  (State.raise_agree (M := [.flt, .st, .pmc]) (by decide) (Agree.refl _ s)).part .pwr (by decide)

theorem heartbeatOver_noted (hen : s.pwr.hbEn = true) (hlost : s.pwr.hbLost = false) :
    s.heartbeatOver.pwr.hbLost = true ∧ s.heartbeatOver.pwr.err = s.pwr.err ||| 0x80 := by
  have hover : s.heartbeatOver = (s.modPwr fun p => { p with hbLost := true, hbAge := max p.hbAge 2000000 }).pwrEvent 0x0206 0x80 :=
    if_neg (by simp [hen, hlost])
  rw [hover, State.pwrEvent, raise_pwr]
  exact ⟨rfl, rfl⟩

end

/-- Settles O26: the endpoint answers each command with its content, and a lost heartbeat is noted. -/
theorem endpointCommandsComplete : Obligations.EndpointCommandsComplete := by
  refine ⟨fun s hruns halive => (does_endpoint rfl hruns halive).runs ⟨rfl, rfl, mem_emit _ _⟩, fun s hruns hready => ?_,
    fun w s hruns halive hlow hw hcap hmgmt => ?_, fun s hruns => (does_endpoint rfl hruns rfl).runs (mem_emit _ _),
    fun n p s hruns halive hn hp => ⟨fun h0 => ?_, fun b h0 hheld => ?_⟩, fun i p s hruns halive hi hp hrsa => ?_,
    fun s halive hen hlost => ?_⟩
  · exact (does_endpoint rfl hruns (by simpa using hready)).runs (mem_emit _ _)
  · have hstored := writeCap_rack_cap hlow hmgmt hcap
    refine (does_endpoint rfl hruns halive).runs ?_
    rw [capMgmtSet_of_lt hw]
    refine ⟨hstored, ?_⟩
    rw [← hstored]
    exact mem_emit _ _
  · refine (does_endpoint rfl hruns halive).runs ?_
    rw [attestPart_sound hn hp, if_pos h0]
    rfl
  · refine (does_endpoint rfl hruns halive).runs ?_
    rw [attestPart_sound hn hp, if_neg h0, hheld]
    dsimp only
    rw [if_pos rfl]
    exact mem_emit _ _
  · refine (does_endpoint rfl hruns halive).runs ?_
    rw [certPart_sound hi hp hrsa]
    exact mem_emit _ _
  · exact (does_alive rfl halive rfl : Does .heartbeatLost s s.heartbeatOver).runs (heartbeatOver_noted hen hlost)

/-! ## Firmware -/

section
variable {s : State}

theorem bootChanged_agree (s : State) : Agree [.out] s s.bootChanged :=
  State.bootChanged_agree (by decide) (Agree.refl _ s)

theorem startVerify_verifying (hdone : s.hif.fwDone = true) (hready : s.hif.ready = true) (hoper : s.hif.oper = false)
    (hpaused : s.cn.paused = false) : s.startVerify.hif.verifying = true := by
  unfold State.startVerify
  cases hverifying : s.hif.verifying with
  | true => rw [if_neg (by simp)]; exact hverifying
  | false =>
    rw [if_pos (by simp [hdone, hready, hoper, hpaused])]
    rw [(bootChanged_agree _).part .hif (by decide)]

theorem startVerify_image (s : State) : s.startVerify.hif.fwDone = s.hif.fwDone ∧ s.startVerify.hif.imageLen = s.hif.imageLen := by
  unfold State.startVerify
  split
  · rw [(bootChanged_agree _).part .hif (by decide)]
    exact ⟨rfl, rfl⟩
  · exact ⟨rfl, rfl⟩

/-- The state in which the delivery has ended. -/
def State.delivered (s : State) (len : Nat) : State :=
  State.bootChanged { s with hif := { s.hif with fwDone := true, imageLen := len } }

theorem delivered_hif (s : State) (len : Nat) : (s.delivered len).hif = { s.hif with fwDone := true, imageLen := len } :=
  (bootChanged_agree _).part .hif (by decide)

theorem fwDone_does {len : Nat} (hrom : s.bootRom = true) (hdone : s.hif.fwDone = false) :
    Does (.fwDone len) s (s.delivered len).startVerify :=
  congrArg (settle s) (if_neg (by simp [hrom, hdone]))

theorem fwVerify_does {t : State} (hverifying : s.hif.verifying = true) (hfatal : s.flt.fatal = false)
    (h : (match s.fwReason with | some r => s.fwRejected r | none => s.fwRuns) = t) : Does .fwVerify s t :=
  congrArg (settle s) ((if_neg (by simp [hverifying, hfatal])).trans h)

/-- An image that runs. -/
theorem fwRuns_runs (s : State) : s.fwRuns.hif.oper = true ∧ s.fwRuns.cn.stage = 7 ∧ s.fwRuns.btb.fwSvn = u8 s.hif.image 2 ∧
    s.fwRuns.btb.measure = sha384 (s.hif.image.take 1024) := by
  obtain ⟨u, hu, hoper, hstage, hsvn, hmeasure⟩ : ∃ u : State, s.fwRuns = u.drawn.bootChanged.grantAll ∧ u.hif.oper = true ∧
    u.cn.stage = 7 ∧ u.btb.fwSvn = u8 s.hif.image 2 ∧ u.btb.measure = sha384 (s.hif.image.take 1024) := ⟨_, rfl, rfl, rfl, rfl, rfl⟩
  have hsame : Agree [.st, .out, .free] u u.drawn.bootChanged.grantAll :=
    State.grantAll_agree (by decide) (State.bootChanged_agree (by decide) (State.drawn_agree (by decide) (Agree.refl _ u)))
  rw [hu, hsame.part .hif (by decide), hsame.part .cn (by decide), hsame.part .btb (by decide)]
  exact ⟨hoper, hstage, hsvn, hmeasure⟩

/-- An image that is rejected. -/
theorem fwRejected_rejected (s : State) (r : Nat) : (s.fwRejected r).hif.oper = s.hif.oper ∧ (s.fwRejected r).hif.rejected = true ∧
    (s.fwRejected r).btb.rejectReason = r ∧ (s.fwRejected r).hif.chunks = [] := by
  obtain ⟨u, x, hu, hoper, hrejected, hreason, hchunks⟩ : ∃ (u : State) (x : Record), s.fwRejected r = (u.raise x).bootChanged ∧
    u.hif.oper = s.hif.oper ∧ u.hif.rejected = true ∧ u.btb.rejectReason = r ∧ u.hif.chunks = [] := ⟨_, _, rfl, rfl, rfl, rfl, rfl⟩
  have hsame : Agree [.flt, .st, .pmc, .out] u (u.raise x).bootChanged :=
    State.bootChanged_agree (by decide) (State.raise_agree (by decide) (Agree.refl _ u))
  rw [hu, hsame.part .hif (by decide), hsame.part .btb (by decide)]
  exact ⟨hoper, hrejected, hreason, hchunks⟩

end

/-- Settles O27: a chunk is kept, the delivery ends and is verified, and the image runs or is rejected. -/
theorem firmwareDeliveryCompletes : Obligations.FirmwareDeliveryCompletes := by
  refine ⟨fun off d s hrom hlen haligned hoff hdone => ?_, fun len s hrom hdone => ?_,
    fun s hverifying hfatal => ⟨fun hreason => ?_, fun r hreason => ?_⟩, fun s halive => ?_⟩
  · have hdoes : Does (.fwChunk off d) s { s with hif := { s.hif with chunks := tset s.hif.chunks (off / 8) d } } := by
      refine congrArg (settle s) ?_
      unfold State.fwChunk
      rw [if_neg (by simp [hrom, hlen, haligned]), if_neg (by simp [hdone]), if_neg (Nat.not_le.2 hoff)]
    exact hdoes.runs (tget_tset_self _ _ _)
  · obtain ⟨hended, himage⟩ := startVerify_image (s.delivered len)
    rw [delivered_hif] at hended himage
    refine (fwDone_does hrom hdone).runs ⟨hended, himage, fun hready hoper hpaused => ?_⟩
    refine startVerify_verifying ?_ ?_ ?_ ?_
    · rw [delivered_hif]
    · rw [delivered_hif]
      exact hready
    · rw [delivered_hif]
      exact hoper
    · rw [State.delivered, (bootChanged_agree _).part .cn (by decide)]
      exact hpaused
  · have hdoes : Does .fwVerify s s.fwRuns := fwVerify_does hverifying hfatal (by rw [hreason])
    have hruns := fwRuns_runs s
    generalize s.fwRuns = t at hdoes hruns
    exact hdoes.runs hruns
  · have hdoes : Does .fwVerify s (s.fwRejected r) := fwVerify_does hverifying hfatal (by rw [hreason])
    exact hdoes.runs (fwRejected_rejected s r)
  · exact (does_alive rfl halive rfl : Does .aliasRsaReady s { s with btb := { s.btb with aliasRsa := true } }).runs rfl

end Sys2Proof.Machine
end

section
/-! The host link: training, flits, retrains and the way home (R241 to R249). -/
namespace Sys2Proof.Machine

section
variable {s : State} {m : Nat}

/-- A meaning on a module. -/
theorem does_module {i : Instr} {x t : State} (e : exec i s = onModule m s x) (hm : m < 4) (h : x = t) : Does i s t := by
  rw [onModule_in hm, h] at e
  exact e

/-- A change of a module that keeps `view` keeps it, whether or not the module is listed. -/
theorem modHmod_view {α : Type} {f : Module → Module} (view : Module → α) (hf : ∀ x, view (f x) = view x) :
    view ((s.modHmod m f).hmod m) = view (s.hmod m) := by
  rw [State.modHmod, State.hmod, State.hmod, tgetD, tgetD, tget_tmod_self]
  cases tget s.hif.mods m with
  | none => rfl
  | some x => exact hf x

theorem moduleTrained_full {rep : Nat} (hmain : s.mainband = true) (htrains : (s.hmod m).trains = true) (hbroken : (s.hmod m).broken = false) :
    s.moduleTrained m 32 64 rep =
      (s.modHmod m fun x => { x with rate := 32, lanes := 64, repaired := rep, fresh := false }).moduleUp m 64 rep := by
  have hstill : ((s.modHmod m fun x => { x with rate := 32, lanes := 64, repaired := rep, fresh := false }).hmod m).broken = false :=
    (modHmod_view (f := fun x => { x with rate := 32, lanes := 64, repaired := rep, fresh := false }) Module.broken
      fun _ => rfl).trans hbroken
  have hrate : ucieRate 32 = true := by decide
  unfold State.moduleTrained
  rw [if_neg (by simp [hmain, htrains, hrate])]
  exact if_pos (by simp [hstill])

theorem flitIn_carried {b : Bytes} (hcarries : s.carries m = true) (hlen : b.length = 256) :
    s.flitIn m b = (if flitOk b then s.goodFlit m (parseFlit b) else s.nakIn m).whenAlive
      (if flitOk b then s.goodFlit m (parseFlit b) else s.nakIn m).drainAll :=
  if_neg (by simp [hlen, hcarries])

/-- A flit in sequence is accepted and acknowledged, and takes its effect. -/
theorem goodFlit_next {f : FlitIn} (htype : f.typ ≠ 0) (hseq : f.seq = ((s.hmod m).rxLast + 1) % 4096) :
    s.goodFlit m f = (((s.modHmod m fun x => { x with rxLast := f.seq }).ackFlit m false f.seq).flitFields m f).flitEffect m f :=
  (if_neg htype).trans (if_neg (by simp [hseq]))

/-- What was sent stays sent while the waiting requests are examined. -/
theorem drained_out {o : Out} (h : o ∈ s.out) : o ∈ (s.whenAlive s.drainAll).out := by
  unfold State.whenAlive
  split
  · have hsaid : Comp.same s s.drainAll .said := (State.drainAll_agree (M := [.hif, .st, .out, .flt, .pmc, .cn, .pwr, .btb, .masts,
      .ctxs, .reqs, .sess, .srvSel, .srvErr, .exports, .nextExp, .hal, .nlc, .col, .free, .zeroing, .cells]) (by decide)
      (Agree.refl _ s)).part .said (by decide)
    exact hsaid.1 o h
  · exact h

end

/-- Settles O28: modules train and retrain, flits are accepted in sequence or asked for again, and channels return home. -/
theorem hostLinkEventsComplete : Obligations.HostLinkEventsComplete := by
  refine ⟨fun m lanes rep s hm hmain htrains hbroken hlanes => ?_, fun m b s hm hcarries hlen hok htype hseq => ⟨?_, fun hresume => ?_⟩,
    fun m b s hm hcarries hlen hbad => ?_, fun m s hm hcarries hreplay => ?_, fun m lanes rep ok s hm hmain hstate =>
    ⟨fun hgood => ?_, fun hbad => ?_⟩, fun c s hc hkeys hcarries hout => ?_⟩
  · subst hlanes
    exact does_module rfl hm (moduleTrained_full hmain htrains hbroken)
  · refine does_module rfl hm ((flitIn_carried hcarries hlen).trans ?_)
    rw [if_pos hok, goodFlit_next htype hseq]
    rfl
  · refine does_module rfl hm ((if_pos ?_).trans (goodFlit_next htype hseq))
    simp [hlen, hcarries, hok, hresume]
  · refine Does.runs (does_module rfl hm (flitIn_carried hcarries hlen)) ?_
    rw [if_neg (by simp [hbad])]
    exact drained_out (mem_emit s _)
  · exact does_module rfl hm (if_pos (by simp [hcarries, hreplay]))
  · refine does_module rfl hm ?_
    obtain ⟨hk, hl⟩ := hgood
    rw [if_neg (by simp [hmain, hstate]), if_pos (by simp [hk, hl])]
  · refine does_module rfl hm ?_
    rw [if_neg (by simp [hmain, hstate]), if_neg (by simpa using hbad)]
  · have hdoes : Does (.channelRebindHome c) s (s.modChan c fun x => { x with module := c % 4 }) := by
      refine (onChannel_in hc).trans (congrArg (settle s) (if_pos ?_))
      simp [hcarries, hout]
    refine hdoes.runs ?_
    exact congrArg Chan.module (chan_modChan (hkeys ▸ List.mem_range.2 hc))

end Sys2Proof.Machine
end

section
/-! Packets and times of collective calls (R335, R352, R357, R362 to R369). -/
namespace Sys2Proof.Machine

section
variable {s : State} {p : TPkt}

theorem withPacket_arrives (h : Arrives p s) (f : State → State) : s.withPacket p f = f s := by
  obtain ⟨-, -, hhears, hpart, hassigned⟩ := h
  exact (if_neg (by simp [hhears])).trans ((if_neg (by simp [hpart])).trans (if_neg hassigned))

/-- A packet that comes for this package, or comes back to it, is examined. -/
theorem colArrives_of (h : Arrives p s) (hus : s.forUs p = true ∨ p.status = 3) :
    s.colArrives p = ((s.colPacket p).replayFallen (colGroup p)).hubSettle := by
  refine (withPacket_arrives h _).trans (if_neg ?_)
  rcases hus with hus | hback
  · simp [hus]
  · simp [hback]

/-- A command for packets of the KIND `k` has the effect `t` of a packet of that KIND. -/
theorem does_colKind {i : Instr} {k : Nat} {t : State} {h : ColHdr} (ha : Arrives p s) (hop : p.op = 8) (hcol : p.col = some h)
    (hkind : h.kind = k) (ht : s.colArrives p = t) (e : exec i s = onPort p.port s (s.whenAlive (s.colKind k p))) : Does i s t := by
  refine does_port e ha.port ha.alive ((if_pos ?_).trans ht)
  simp [hop, kindOf, hcol, hkind]

theorem colPacket_unreach {h : ColHdr} (hcol : p.col = some h) (hback : p.status = 3) :
    s.colPacket p = s.colUnreach p := by
  unfold State.colPacket
  rw [hcol]
  exact if_pos hback

theorem colArrives_unreach {h : ColHdr} {d : Nat} (ha : Arrives p s) (hcol : p.col = some h) (hback : p.status = 3)
    (hd : (if bits p.addr 52 8 = s.nlc.ownIndex then p.srcPkg else bits p.addr 52 8) = d) (hother : d ≠ s.nlc.ownIndex) :
    s.colArrives p = ((s.declareDead d).replayFallen (colGroup p)).hubSettle := by
  rw [colArrives_of ha (.inr hback), colPacket_unreach hcol hback, State.colUnreach, hd]
  exact congrArg (fun x : State => (x.replayFallen (colGroup p)).hubSettle) (if_neg hother)

/-- A change of a call that keeps what names it is seen where the call is looked up. -/
theorem modCall_colCall? {g m : Nat} {f : ColCall → ColCall} (hf : ∀ c, (f c).group = c.group ∧ (f c).mast = c.mast) :
    (s.modCall g m f).colCall? g m = (s.colCall? g m).map f := by
  change (s.col.calls.map _).find? _ = (s.col.calls.find? _).map f
  rw [List.find?_map]
  have hsame : ∀ c : ColCall, ((fun c : ColCall => c.group == g && c.mast == m) ∘
      fun c => if (c.group == g && c.mast == m) = true then f c else c) c = (c.group == g && c.mast == m) := by
    intro c
    dsimp only [Function.comp]
    split
    · rw [(hf c).1, (hf c).2]
    · rfl
  rw [funext hsame]
  cases hfound : s.col.calls.find? fun c => c.group == g && c.mast == m with
  | none => rfl
  | some c => exact congrArg some (if_pos (List.find?_some (p := fun c : ColCall => c.group == g && c.mast == m) hfound))

/-- What a packet that arrives asks of Reef is noted for its call. -/
def State.reefNoted (s : State) (p : TPkt) (h : ColHdr) : State :=
  s.modCall (colGroup p) (colMast p) fun c => { c with reefMax := max c.reefMax h.reefReq }

section
variable {kind : Nat} {h : ColHdr} {c d : ColCall} {g : Group}

theorem noteReef_inCall (hin : InCall kind p s h c g) : s.noteReef p h = s.reefNoted p h := by
  obtain ⟨hcall, hseq⟩ := hin.call
  obtain ⟨hcrc, hop, hdtype⟩ := hin.same
  unfold State.noteReef
  simp only [hcall, hin.group, Option.filter, hseq, beq_self_eq_true, if_true]
  exact if_neg (by simp [ColCall.differs, hcrc, hop, hdtype])

/-- A call in flight to which packets of the KIND `kind` come is what its packets are compared with. -/
theorem colCall?_reefNoted (hin : InCall kind p s h c g) (hd : (s.reefNoted p h).colCall? (colGroup p) (colMast p) = some d) :
    d = { c with reefMax := max c.reefMax h.reefReq } := by
  have hmapped : (s.reefNoted p h).colCall? (colGroup p) (colMast p) =
      (s.colCall? (colGroup p) (colMast p)).map fun c => { c with reefMax := max c.reefMax h.reefReq } :=
    modCall_colCall? fun _ => ⟨rfl, rfl⟩
  rw [hmapped, hin.call.1] at hd
  exact (Option.some.inj hd).symm

theorem withColCall_inCall (hin : InCall kind p s h c g) (hd : (s.reefNoted p h).colCall? (colGroup p) (colMast p) = some d)
    (f : State → ColCall → Group → State) : (s.reefNoted p h).withColCall p h f = f (s.reefNoted p h) d g := by
  have hgroup : (s.reefNoted p h).group? (colGroup p) = some g := hin.group
  obtain ⟨hcrc, hop, hdtype⟩ := hin.same
  have hseq := hin.call.2
  have heq := colCall?_reefNoted hin hd
  unfold State.withColCall
  simp only [hd, hgroup]
  rw [if_neg (by simp [heq, hseq]), if_neg (by simp [heq, ColCall.differs, hcrc, hop, hdtype])]

theorem running_inCall (hin : InCall kind p s h c g) (hd : (s.reefNoted p h).colCall? (colGroup p) (colMast p) = some d) :
    (((s.reefNoted p h).colCall? (colGroup p) (colMast p)).any fun c => c.seq == colSeq p) = true := by
  rw [hd, colCall?_reefNoted hin hd]
  simp [hin.call.2]

theorem orEarly_inCall (hin : InCall kind p s h c g) (hd : (s.reefNoted p h).colCall? (colGroup p) (colMast p) = some d)
    (hallowed : s.colDenied p = false) (f : State → ColCall → Group → State) :
    (s.reefNoted p h).orEarly p h f = f (s.reefNoted p h) d g := by
  have hstill : (s.reefNoted p h).colDenied p = false := hallowed
  refine (if_neg (by simp [hstill])).trans ((if_pos (running_inCall hin hd)).trans (withColCall_inCall hin hd f))

theorem colData_inCall (hin : InCall kind p s h c g) (hd : (s.reefNoted p h).colCall? (colGroup p) (colMast p) = some d)
    (hallowed : s.colDenied p = false) (hruns : s.colStalled p true = false) :
    (s.reefNoted p h).colData p h = (s.reefNoted p h).takeChunk p h d g := by
  have hstill : (s.reefNoted p h).colDenied p = false := hallowed
  have hgoes : (s.reefNoted p h).colStalled p true = false := hruns
  unfold State.colData
  simp only [running_inCall hin hd, hstill, hgoes]
  simpa using withColCall_inCall hin hd fun s c k => s.takeChunk p h c k

/-- A packet of a call in flight is examined by its KIND, after what it asks of Reef has been noted. -/
theorem colArrives_inCall {t : State} (hin : InCall kind p s h c g) (ht : s.colPacket p = t) :
    s.colArrives p = (t.replayFallen (colGroup p)).hubSettle := by
  rw [colArrives_of hin.comes (.inl hin.ours), ht]

/-- What the packet of a call in flight does, by its KIND (R361). -/
def State.byKind (s : State) (p : TPkt) (h : ColHdr) (kind : Nat) : State :=
  match kind with
  | 1 => s.colData p h
  | 2 => s.withColCall p h fun s c k => s.takeAck p h c k
  | 3 => s.orEarly p h fun s c _ => s.failCall c.group c.mast 0x0708
  | 4 => s.orEarly p h fun s c _ => s.failCall c.group c.mast 0x0709
  | 5 => s.orEarly p h fun s c _ => s.fallBack c.group c.mast
  | 6 => s.orEarly p h fun s c _ => s.fallBack c.group c.mast
  | 7 => s.orEarly p h fun s c _ =>
      (s.modCall c.group c.mast fun c => { c with ends := tset c.ends h.srcRank (h.info % 2 ^ 32) }).checkGroup c.group
  | _ => s

theorem colPacket_inCall (hin : InCall kind p s h c g) : s.colPacket p = (s.reefNoted p h).byKind p h kind := by
  obtain ⟨hcol, hkind⟩ := hin.head
  unfold State.colPacket
  simp only [hcol, if_neg hin.op.2, noteReef_inCall hin, hkind]
  rfl

/-- The command for packets of the KIND `kind` of a call in flight has the effect of that KIND. -/
theorem does_inCall {i : Instr} {t : State} (hin : InCall kind p s h c g) (ht : (s.reefNoted p h).byKind p h kind = t)
    (e : exec i s = onPort p.port s (s.whenAlive (s.colKind kind p))) :
    Does i s ((t.replayFallen (colGroup p)).hubSettle) :=
  does_colKind hin.comes hin.op.1 hin.head.1 hin.head.2 (colArrives_inCall hin ((colPacket_inCall hin).trans ht)) e

end

theorem chunkTimeout_sent {grp m r i : Nat} {x : ColChunk} (hm : m < 8) (halive : s.alive = true) (hx : s.chunkAt grp m r i = some x)
    (hport : x.port ≠ retried) : Does (.colChunkTimeout grp m r i) s (s.resendChunk grp m r i true).hubSettle := by
  refine does_mast rfl hm halive ?_
  rw [hx]
  exact if_neg hport

theorem retryResend_held {grp m r i : Nat} {x : ColChunk} (hm : m < 8) (halive : s.alive = true) (hx : s.chunkAt grp m r i = some x)
    (hport : x.port = retried) : Does (.colRetryResend grp m r i) s (s.resendChunk grp m r i false).hubSettle := by
  refine does_mast rfl hm halive ?_
  rw [hx]
  exact if_pos hport

end

/-- Settles O29: packets of a call in flight by their KIND, packets that come back, acknowledgements and the times of a call. -/
theorem collectiveEventsComplete : Obligations.CollectiveEventsComplete := by
  refine ⟨fun kind p s h c d g hin => ?_, fun p s h ha hop hback hcol => ?_,
    fun grp m r s c g hm halive _ _ _ => does_mast rfl hm halive rfl,
    fun grp m r i s x hm halive hx => ⟨chunkTimeout_sent hm halive hx, retryResend_held hm halive hx⟩,
    fun grp m s c hm halive _ => does_mast rfl hm halive rfl⟩
  · intro u fin hd
    refine ⟨fun hk hallowed hruns => ?_, fun hk => ?_, fun hk hallowed => ?_, fun hk hallowed => ?_, fun hk hallowed => ?_,
      fun hk hallowed => ?_, fun hk hallowed => ?_⟩
    · subst hk; exact does_inCall hin (colData_inCall hin hd hallowed hruns) rfl
    · subst hk; exact does_inCall hin (withColCall_inCall hin hd fun s c k => s.takeAck p h c k) rfl
    all_goals subst hk; exact does_inCall hin (orEarly_inCall hin hd hallowed _) rfl
  · intro d hother t
    have ht := colArrives_unreach ha hcol hback (d := d) rfl hother
    exact ⟨fun hk => does_colKind ha hop hcol hk ht rfl, fun hk => does_colKind ha hop hcol hk ht rfl,
      fun hk => does_colKind ha hop hcol hk ht rfl, fun hk => does_colKind ha hop hcol hk ht rfl,
      fun hk => does_colKind ha hop hcol hk ht rfl, fun hk => does_colKind ha hop hcol hk ht rfl,
      fun hk => does_colKind ha hop hcol hk ht rfl⟩

end Sys2Proof.Machine
end

section
/-! Ports: training, frames, retrains and keys (R278, R325 to R330, R343, R344). -/
namespace Sys2Proof.Machine

section
variable {s : State} {p : Nat}

theorem port_modPort {f : Port → Port} (h : p ∈ tkeys s.nlc.ports) : (s.modPort p f).port p = f (s.port p) :=
  tgetD_tmod_self f _ h

/-- A change of a port that keeps `view` keeps it, whether or not the port is listed. -/
theorem modPort_view {α : Type} {f : Port → Port} (view : Port → α) (hf : ∀ x, view (f x) = view x) :
    view ((s.modPort p f).port p) = view (s.port p) := by
  rw [State.modPort, State.modNlc, State.port, State.port, tgetD, tgetD, tget_tmod_self]
  cases tget s.nlc.ports p with
  | none => rfl
  | some x => exact hf x

/-- The port has gone to its other receive slot, and is done with the one it leaves (R344). -/
def Port.otherSlot (x : Port) : Port :=
  { x with rxSlot := 1 - x.rxSlot, slots := tmod x.slots x.rxSlot fun k => { k with rxDone := true } }

theorem otherSlot_accepts (x : Port) : x.otherSlot.accepts x.rxSlot = false := by
  simp only [Port.accepts, Port.otherSlot, tget_tmod_self]
  cases tget x.slots x.rxSlot with
  | none => rfl
  | some k => exact Bool.and_false _

/-- A frame that says nothing of this end's frames. -/
theorem linkFields_silent {h : FrameHdr} (hack : h.ackValid = false) (hnak : h.nak = false) (hcredit : h.credit = 0) :
    s.linkFields p h = s := by
  simp [State.linkFields, hack, hnak, hcredit]

/-- A frame in sequence that is not encrypted is accepted. -/
theorem goodFrame_plain {h : FrameHdr} (b : Bytes) (hsilent : s.linkFields p h = s) (htrained : (s.port p).trained = true)
    (hlow : 1 ≤ h.typ) (hhigh : h.typ ≤ 3) (hplain : h.enc = false) (hseq : h.seq = ((s.port p).rxLast + 1) % 4096) :
    s.goodFrame p h b = s.acceptFrame p h (sub b 8 h.len) := by
  have hdata : decide (h.typ = 0) = false := decide_eq_false (by omega)
  have hknown : decide (4 ≤ h.typ) = false := decide_eq_false (by omega)
  unfold State.goodFrame
  dsimp only
  rw [hsilent, if_neg (by simp [hdata, htrained]), if_neg (by simp [hknown, hseq]), if_neg (by simp [hplain])]

theorem linkFrameIn_good {b : Bytes} (htrained : (s.port p).trained = true) (hok : frameOk b = true) :
    s.linkFrameIn p b = s.goodFrame p (parseFrame b) b :=
  (if_neg (by simp [htrained])).trans (if_pos hok)

theorem linkFrameIn_bad {b : Bytes} (htrained : (s.port p).trained = true) (hbad : frameOk b = false) :
    s.linkFrameIn p b = s.nakFrame p :=
  (if_neg (by simp [htrained])).trans (if_neg (by simp [hbad]))

/-- A frame that is asked for again leaves an acknowledgement for the port and nothing else. -/
theorem nakFrame_sends (s : State) (p : Nat) :
    Out.linkAck p true (s.port p).rxLast 0 ∈ (s.nakFrame p).out ∧ (s.nakFrame p).port p = s.port p :=
  ⟨List.mem_append_left _ (mem_emit s _), rfl⟩

theorem trainingEnds_of {m : Nat} (h : s.trainMask = some m) :
    let u := ((portsOf m).filter fun p => (s.port p).state == pTraining).foldl (fun (s : State) p =>
      (s.modPort p fun x => { x.retire with state := pDown }).retrainEnds p false) s
    s.trainingEnds = u.complete (.linkTrain m) (done1 (u.portMask pUp)) := by
  unfold State.trainingEnds
  rw [h]

theorem keysyncIn_trained (htrained : (s.port p).trained = true) : s.keysyncIn p = s.modPort p Port.otherSlot := if_pos htrained

end

/-- Settles O30: ports train, compare their peers, take frames or ask for them again, retrain, and change keys. -/
theorem portEventsComplete : Obligations.PortEventsComplete := by
  refine ⟨fun p s hp halive hstate => ⟨?_, ?_⟩, fun p b s hp halive hlen htrained => ?_, fun p b s hp halive htrained => ?_,
    fun p s hp halive htrained hreplay => ?_, fun p s hp halive hstate => ⟨?_, ?_⟩, fun p s hp hkeys halive htrained => ?_,
    fun p s hp halive htrained hspent => ?_, fun s m halive hmask => does_alive rfl halive (trainingEnds_of hmask)⟩
  · exact does_port rfl hp halive ((if_neg (by simp [hstate])).trans (if_pos rfl))
  · exact does_port rfl hp halive ((if_neg (by simp [hstate])).trans (if_neg (by simp)))
  · exact does_port rfl hp halive (if_pos (by simp [hlen, htrained]))
  · intro h
    refine ⟨fun hok hack hnak hcredit hlow hhigh hplain hseq => ?_, fun hbad => ?_⟩
    · exact does_port rfl hp halive ((linkFrameIn_good htrained hok).trans
        (goodFrame_plain b (linkFields_silent hack hnak hcredit) htrained hlow hhigh hplain hseq))
    · exact (does_port rfl hp halive (linkFrameIn_bad htrained hbad) : Does (.linkFrameReceive p b) s _).runs (nakFrame_sends s p)
  · exact does_port rfl hp halive (if_pos (by simp [htrained, hreplay]))
  · exact does_port rfl hp halive ((if_neg (by simp [hstate])).trans (if_pos rfl))
  · exact does_port rfl hp halive ((if_neg (by simp [hstate])).trans (if_neg (by simp)))
  · refine (does_port rfl hp halive (keysyncIn_trained htrained) : Does (.keysyncReceive p) s _).runs ?_
    have hport : (s.modPort p Port.otherSlot).port p = (s.port p).otherSlot := port_modPort (hkeys ▸ List.mem_range.2 hp)
    refine ⟨hport, ?_⟩
    exact (congrArg (fun x : Port => x.accepts (s.port p).rxSlot) hport).trans (otherSlot_accepts _)
  · exact does_port rfl hp halive (if_pos (by simp [htrained, hspent]))

end Sys2Proof.Machine
end

section
/-! Requests and responses of the fabric (R331, R332, R335 to R341). -/
namespace Sys2Proof.Machine

section
variable {s : State} {p : TPkt}

/-- A packet of the operation `op` that arrives has the effect `t` that the package gives it. -/
theorem does_packet {i : Instr} {f : State → State} {t : State} {refused : Bool} (ha : Arrives p s) (htaken : refused = false) (ht : f s = t)
    (e : exec i s = onPort p.port s (s.whenAlive (if refused then s else s.withPacket p f))) : Does i s t :=
  does_port e ha.port ha.alive ((if_neg (by simp [htaken])).trans ((withPacket_arrives ha f).trans ht))

theorem serveRead_read {u : State} {b : Bytes} (hus : s.forUs p = true) (hallowed : s.fabDenied p false = false)
    (hruns : s.pwr.coolstop = false)
    (hread : s.readDram (reqMast p) (fabricReader p.targetCtx) (reqOff p) 128 = (u, b, none)) :
    s.serveRead p = u.answerFab p 2 0 b := by
  unfold State.serveRead
  rw [if_neg (by simp [hus]), if_neg (by simp [hallowed]), if_neg (by simp [hruns]), hread]

/-- The source of a WRITE is remembered. -/
def State.sourced (s : State) (p : TPkt) (x : FabSrc) : State :=
  s.modNlc fun n => { n with sources := tset n.sources p.srcPkg x }

theorem serveWrite_applied {x : FabSrc} (hus : s.forUs p = true) (hx : FabSrc.takeIn (tget s.nlc.sources p.srcPkg) p.boot p.epoch = some x)
    (hallowed : (s.sourced p x).fabDenied p true = false) (hruns : s.pwr.coolstop = false) (hnew : x.seen p.reqId = false)
    (hnear : x.ahead p.reqId < 65536) : s.serveWrite p = (s.sourced p x).applyWrite p x := by
  have hstill : (s.sourced p x).pwr.coolstop = false := hruns
  unfold State.serveWrite
  rw [if_neg (by simp [hus]), hx]
  have hopen : ¬ (s.sourced p x).fabDenied p true = true := by rw [hallowed]; decide
  exact (if_neg hopen).trans ((if_neg (by simp [hruns])).trans
    ((if_neg (by simp [hnew])).trans (if_neg (by omega))))

theorem ringIndex_sourced {x : FabSrc} {c m off : Nat} : (s.sourced p x).ringIndex c m off = s.ringIndex c m off := rfl

/-- The bytes of a WRITE are in memory, and it has been acknowledged. -/
def State.written (s : State) (p : TPkt) (x : FabSrc) : State :=
  (((s.writeDram (reqMast p) (fabricReader p.targetCtx) (reqOff p) p.data).1).sourced p (x.mark p.reqId)).answerFab p 4 0 []

theorem written_agree (x : FabSrc) :
    Agree [.nlc, .out] (s.writeDram (reqMast p) (fabricReader p.targetCtx) (reqOff p) p.data).1 (s.written p x) :=
  State.answerFab_agree (by decide) (State.modNlc_agree (by decide) (Agree.refl _ _) id)

/-- A WRITE whose line is none of a mirror log is written, and that is all. -/
theorem applyWrite_plain {x : FabSrc} (hplain : s.ringIndex p.targetCtx (reqMast p) (reqOff p) = none) :
    s.applyWrite p x = s.written p x := by
  have hctxs : (s.written p x).ctxs = s.ctxs := ((written_agree x).part .ctxs (by decide)).trans
    ((State.writeDram_agree (M := [.flt, .st, .masts, .pmc, .cells]) (by decide) (Agree.refl _ s)).part .ctxs (by decide))
  have hstill : (s.written p x).ringIndex p.targetCtx (reqMast p) (reqOff p) = none := by
    rw [← hplain, State.ringIndex, State.ringIndex, State.ctx?, State.ctx?, hctxs]
  unfold State.written State.sourced at hstill ⊢
  unfold State.applyWrite
  dsimp only
  rw [hstill]

/-- A write that loses no half-line stores its bytes. -/
theorem writeDram_kept {m off i : Nat} {r : Reader} {data : Bytes} {b : Byte} (hkeys : tkeys s.masts = List.range 8) (hm : m < 8)
    (hok : s.memOk) (hnone : (s.writeDram m r off data).2 = none) (hi : data[i]? = some b) :
    memByte ((s.writeDram m r off data).1.mast m).dram.cells (off + i) = b := by
  have hagree : Agree [.flt, .st, .masts, .pmc] s ((s.mergeHalves m r off data.length).1.fillRest m r off data.length) :=
    State.fillRest_agree (by decide) (mergeHalves_agree s m r off _)
  have hwf := mast_memOk (hagree.part .mem (by decide) hok) m
  have hnil : (s.mergeHalves m r off data.length).2 = [] := List.head?_eq_none_iff.1 hnone
  rw [writeDram_eq, mast_modMast_self (mem_of_mastKeys (hagree.part .mastKeys (by decide) hkeys) hm), hnil]
  exact memByte_put_in hwf.1 hi

/-- The queue is no part of memory. -/
theorem OnlyIn.queue {m : Nat} {dr sp : Nat → Prop} {t : State} (h : OnlyIn m dr sp s t) (q : List Instr) :
    OnlyIn m dr sp s { t with pending := q } := h

theorem memByte_queue (s : State) (q : List Instr) (m a : Nat) :
    memByte (({ s with pending := q } : State).mast m).dram.cells a = memByte (s.mast m).dram.cells a := rfl

/-- Of memory, a WRITE changes its line only. -/
theorem written_onlyIn {x : FabSrc} (hlen : p.data.length = 128) :
    OnlyIn (reqMast p) (fun a => reqOff p ≤ a ∧ a < reqOff p + 128) (fun _ => False) s ((s.sourced p x).written p x) := by
  rw [← hlen]
  exact (writeDram_onlyIn (s.sourced p x) (reqMast p) (fabricReader p.targetCtx) (reqOff p) p.data).agree (written_agree x) (by decide)

theorem written_stores {x : FabSrc} {i : Nat} {b : Byte} (hkeys : tkeys s.masts = List.range 8) (hok : s.memOk)
    (hnone : ((s.sourced p x).writeDram (reqMast p) (fabricReader p.targetCtx) (reqOff p) p.data).2 = none) (hi : p.data[i]? = some b) :
    memByte (((s.sourced p x).written p x).mast (reqMast p)).dram.cells (reqOff p + i) = b := by
  rw [((written_agree x).part .cells (by decide) (reqMast p)).1]
  exact writeDram_kept (s := s.sourced p x) hkeys (bits_lt _ _ 3) hok hnone hi

theorem response_done {k : Nat} {q : FabReq} {write : Bool} (hok : s.responseOk p = true) (hstatus : p.status = 0)
    (hruns : s.issuerFrozen q = false) (hdata : write = true ∨ p.data.length = 128) (hq : s.answered p write = some (k, q)) :
    (if s.responseOk p then s.response p write else s) = s.reqDone k q p.data := by
  have hfull : (write || decide (p.data.length = 128)) = true := by simpa using hdata
  rw [if_pos hok, State.response, hq]
  dsimp only
  rw [hstatus]
  exact (if_neg (by simp [hruns])).trans (if_pos hfull)

end

/-- Settles O31: reads and writes are served, answers end their requests, and requests go again. -/
theorem fabricEventsComplete : Obligations.FabricEventsComplete := by
  refine ⟨fun p s u b ha hop hus hallowed hruns hread => ?_, fun p s x ha hop hlen hus hx => ?_,
    fun p s k q ha hok hstatus hruns => ⟨fun hop hlen hq => ?_, fun hop hq => ?_⟩, fun k s q halive hq hsent => ⟨fun hport => ?_, fun hport hruns => ?_⟩⟩
  · exact does_packet ha (by simp [hop]) (serveRead_read hus hallowed hruns hread) rfl
  · intro u hallowed hruns hnew hnear
    have hdoes : Does (.nlcWriteReceive p) s (u.applyWrite p x) :=
      does_packet ha (by simp [hop, hlen]) (serveWrite_applied hus hx hallowed hruns hnew hnear) rfl
    refine ⟨hdoes, fun hplain => ?_⟩
    have hwritten := (congrArg _ (applyWrite_plain (ringIndex_sourced.trans hplain))).mp hdoes
    exact hwritten.runs ⟨(written_onlyIn hlen).queue _, fun hkeys hmem hnone i b hi =>
      (memByte_queue _ _ _ _).trans (written_stores hkeys hmem hnone hi)⟩
  · exact does_packet ha (by simp [hop]) (response_done hok hstatus hruns (.inr hlen) hq) rfl
  · exact does_packet ha (by simp [hop]) (response_done hok hstatus hruns (.inl rfl) hq) rfl
  · refine does_alive rfl halive ?_
    rw [hq]
    exact if_pos (by simp [hsent, hport])
  · refine does_alive rfl halive ?_
    rw [hq]
    exact if_pos (by simp [hsent, hport, hruns])

end Sys2Proof.Machine
end

section
/-! The input, the converter, the clocks and broken wires (R376, R403, R413, R415, R421). -/
namespace Sys2Proof.Machine

section
variable {s : State}

/-- A record that is raised changes of the fault collector only the ring and its SEQ, the log and the error flags. -/
theorem raise_flt {α : Type} (view : Faults → α)
    (hview : ∀ (f : Faults) ring seq err next writes queue,
      view { f with ring := ring, seq := seq, err := err, logNext := next, logWrites := writes, logQueue := queue } = view f)
    (s : State) (r : Record) : view (s.raise r).flt = view s.flt := by
  have hoffer : ∀ (f : Faults) (r : Record) ring seq err,
      view { (f.logOffer r).1 with ring := ring, seq := seq, err := err } = view f := by
    intro f r ring seq err
    unfold Faults.logOffer
    dsimp only
    repeat' split
    all_goals exact hview f _ _ _ _ _ _
  have hnotify : ∀ (t : State) (n : Notice), view (t.notify n).flt = view t.flt := by
    intro t n
    unfold State.notify
    split
    · rfl
    · exact hview t.flt t.flt.ring t.flt.seq _ t.flt.logNext t.flt.logWrites t.flt.logQueue
  cases hslot : s.flt.mergeSlot s.time r with
  | some k =>
    rw [State.raise_merged hslot]
    exact hview s.flt _ s.flt.seq s.flt.err s.flt.logNext s.flt.logWrites s.flt.logQueue
  | none =>
    rw [State.raise_new hslot]
    split
    · exact (hnotify _ _).trans (hoffer _ _ _ _ _)
    · exact hoffer _ _ _ _ _

theorem raise_out (s : State) (r : Record) : (s.raise r).out = s.out :=
  (State.raise_agree (M := [.flt, .st, .pmc]) (by decide) (Agree.refl _ s)).part .out (by decide)

/-! ## What each event does -/

theorem does_hub {i : Instr} {x t : State} (e : exec i s = settle s (s.whenHub x)) (hruns : s.hubRuns = true) (h : x = t) : Does i s t := by
  rw [State.whenHub, if_pos hruns, h] at e
  exact e

theorem does_nest {i : Instr} {x t : State} (e : exec i s = settle s (s.whenNest x)) (hruns : s.nestRuns = true) (h : x = t) : Does i s t := by
  rw [State.whenNest, if_pos hruns, h] at e
  exact e

theorem fatal_of_hubRuns (h : s.hubRuns = true) : s.flt.fatal = false := by
  simpa using (Bool.and_eq_true_iff.1 h).2

theorem fatal_of_nestRuns (h : s.nestRuns = true) : s.flt.fatal = false := by
  simpa using (Bool.and_eq_true_iff.1 h).2

theorem fatal_of_alive (h : s.alive = true) : s.flt.fatal = false := by
  simpa using (Bool.and_eq_true_iff.1 h).2

/-- The package stops with the cause of the record (R414). -/
theorem fatalAt_stops (h : s.flt.fatal = false) (r : Record) : (s.fatalAt r).flt.fatal = true ∧ (s.fatalAt r).flt.fatalCause = r.cause := by
  unfold State.fatalAt
  rw [if_neg (by simp [h])]
  exact ⟨rfl, rfl⟩

theorem nestPowered_cn (s : State) : s.nestPowered.cn = { s.cn with powered := true, cold := s.cn.cold || !s.cn.powered } := by
  unfold State.nestPowered
  cases hpowered : s.cn.powered with
  | true => rw [if_pos rfl, Bool.not_true, Bool.or_false, ← hpowered]
  | false => rw [if_neg Bool.false_ne_true, Bool.not_false, Bool.or_true]; rfl

/-- Where nothing had power, the FAULT pair is driven and no fatal state stands. -/
theorem nestPowered_cold (h : s.cn.powered = false) : s.nestPowered.flt.fatal = false ∧ Out.fault false true ∈ s.nestPowered.out := by
  unfold State.nestPowered
  rw [if_neg (by simp [h])]
  exact ⟨rfl, mem_emit _ _⟩

theorem brownout_told (hfatal : s.flt.fatal = false) :
    let t := (s.brownoutOn.faultPair true).pwrEvent 0x0201 0x40
    t.pwr.brownout = true ∧ t.flt.faultOut = true ∧ Out.fault true false ∈ t.out := by
  have hpair : s.brownoutOn.faultPair true =
      ({ s.brownoutOn with flt := { s.flt with faultOut := true } } : State).emit (.fault true false) := if_neg (by simp [State.brownoutOn, hfatal])
  intro t
  rw [show t = (s.brownoutOn.faultPair true).pwrEvent 0x0201 0x40 from rfl, State.pwrEvent, raise_pwr, raise_out,
    raise_flt Faults.faultOut (fun _ _ _ _ _ _ _ => rfl), hpair]
  exact ⟨rfl, rfl, mem_emit _ _⟩

/-- A mast that is fenced stays so while its work is given up (R411). -/
theorem fence_fences {m : Nat} (cause : Nat) (hkeys : tkeys s.masts = List.range 8) (hm : m < 8) (hpresent : s.present m = true) :
    (s.fence m cause).fencedMast m = true := by
  cases hfenced : s.fencedMast m with
  | true => rw [State.fence, if_pos (by simp [hfenced])]; exact hfenced
  | false =>
    unfold State.fence
    rw [if_neg (by simp [hfenced, hpresent])]
    dsimp only
    generalize hu : (s.modMast m fun z => _) = u
    have hset : u.fencedMast m = true := by
      rw [← hu, State.fencedMast, mast_modMast_self (mem_of_mastKeys hkeys hm)]
    refine Agree.part (s := u) (M := [.pwr, .flt, .hif, .st, .masts, .ctxs, .reqs, .sess, .srvErr, .exports, .hal, .nlc, .col, .pmc,
      .out, .cells]) ?_ .fenced (by decide) m hset
    refine Agree.foldl (Agree.foldl ?_ fun y e hy => State.contained_agree (by decide) hy) fun y e hy => State.quarantine_agree (by decide) hy
    exact State.fenceLoads_agree (by decide) (State.raise_agree (by decide) (Agree.upd_flt (by decide) (Agree.refl _ u) id))

/-- What a broken wire of a port or of a module leaves before the unit is marked. -/
theorem portDown_keys {p q : Nat} {r : Record} (h : tkeys s.nlc.ports = List.range 42) :
    tkeys (((s.wireSeen hubMast q).raise r).portDown p).nlc.ports = List.range 42 :=
  (State.portDown_agree (M := [.pwr, .flt, .hif, .st, .masts, .ctxs, .reqs, .sess, .srvErr, .exports, .hal, .nlc, .col, .pmc, .out,
    .cells]) (by decide) (State.raise_agree (by decide) (Agree.upd_flt (by decide) (Agree.refl _ s) fun q => by
      split
      · exact q
      · exact q))).part .portKeys (by decide) h

theorem moduleDown_keys {m q : Nat} {r : Record} (h : tkeys s.hif.mods = List.range 4) :
    tkeys (((s.wireSeen hubMast q).raise r).moduleDown m).hif.mods = List.range 4 :=
  (State.moduleDown_agree (M := [.flt, .hif, .st, .pmc, .out]) (by decide) (State.raise_agree (by decide)
    (Agree.upd_flt (by decide) (Agree.refl _ s) fun q => by
      split
      · exact q
      · exact q))).part .modKeys (by decide) h

theorem wireBroken_mast {m u : Nat} (hkeys : tkeys s.masts = List.range 8) (hm : m < 8) (hpresent : s.present m = true) :
    (s.wireBroken (.mastUnit m u)).fencedMast m = true := by
  have hagree : Agree [.flt, .st, .pmc] s ((s.wireSeen m u).raise (wireRec m u)) :=
    State.raise_agree (by decide) (Agree.upd_flt (by decide) (Agree.refl _ s) fun q => by
      split
      · exact q
      · exact q)
  unfold State.wireBroken
  dsimp only
  rw [if_pos hpresent]
  refine fence_fences _ (hagree.part .mastKeys (by decide) hkeys) hm ?_
  rw [State.present, hagree.part .id (by decide)]
  exact hpresent

theorem wireBroken_port {p : Nat} (hp : p < 42) (hkeys : tkeys s.nlc.ports = List.range 42) (hwhole : (s.port p).broken = false) :
    ((s.wireBroken (.port p)).port p).broken = true := by
  unfold State.wireBroken
  dsimp only
  rw [if_neg (by simp [hwhole]), port_modPort (portDown_keys hkeys ▸ List.mem_range.2 hp)]

theorem hmod_modHmod {m : Nat} {f : Module → Module} (h : m ∈ tkeys s.hif.mods) : (s.modHmod m f).hmod m = f (s.hmod m) :=
  tgetD_tmod_self f _ h

theorem wireBroken_module {m : Nat} (hm : m < 4) (hkeys : tkeys s.hif.mods = List.range 4) (hwhole : (s.hmod m).broken = false) :
    ((s.wireBroken (.module m)).hmod m).broken = true := by
  unfold State.wireBroken
  dsimp only
  rw [if_neg (by simp [hwhole]), hmod_modHmod (moduleDown_keys hkeys ▸ List.mem_range.2 hm)]

theorem assertReset_keeps (s : State) : s.assertReset.btb.fusedSvn = s.btb.fusedSvn ∧ s.assertReset.flt.repair = s.flt.repair ∧
    s.assertReset.cn.powered = s.cn.powered := by
  unfold State.assertReset
  split
  · exact ⟨rfl, rfl, rfl⟩
  · exact ⟨rfl, rfl, rfl⟩

/-- What is left of the package where the input was valid and fails. -/
def State.inputLost (s : State) : State := if s.cn.inputValid then s.assertReset.railsOff else s

theorem inputLost_powered (s : State) : s.inputLost.cn.powered = s.cn.powered := by
  unfold State.inputLost
  split
  · exact (assertReset_keeps s).2.2
  · rfl

/-- The Crow's Nest loses its own power. -/
def State.nestLost (t : State) : State :=
  let u := if t.cn.powered then t.emit .faultOff else t
  { u with time := 0, cn := { u.cn with powered := false, running := false, held := false }, pwr := { u.pwr with pair := 1 } }

theorem nestLost_lost (t : State) : t.nestLost.time = 0 ∧ t.nestLost.cn.powered = false ∧
    (t.cn.powered = true → Out.faultOff ∈ t.nestLost.out) := by
  refine ⟨rfl, rfl, fun h => ?_⟩
  unfold State.nestLost
  rw [if_pos h]
  exact mem_emit t _

end

/-- Settles O32: the input comes and goes, and the converter, the clocks and broken wires have their effects. -/
theorem inputEventsComplete : Obligations.InputEventsComplete := by
  refine ⟨fun s hinput => ⟨fun hover => ?_, fun hover => ?_, fun hheld => ?_⟩, fun s hheld => ?_, fun s hruns hbrown => ?_,
    fun s hruns hbrown => does_nest rfl hruns rfl, fun s hinput => ⟨?_, ?_⟩, fun s => ?_, fun s hruns => ?_, fun s hruns => ?_,
    fun s halive => ?_, fun s hruns => ⟨fun m u hm hpresent hkeys => ?_, fun p hp hkeys hwhole => ?_, fun m hm hkeys hwhole => ?_, fun u => ?_⟩⟩
  · exact congrArg (settle s) ((if_neg (by simp [hinput])).trans (if_pos hover))
  · have hdoes : Does .inputValid s
        { s.nestPowered with cn := { s.nestPowered.cn with inputValid := true, held := true } } :=
      congrArg (settle s) ((if_neg (by simp [hinput])).trans (if_neg (by simp [hover])))
    exact hdoes.runs ⟨congrArg (fun c : CrowsNest => { c with inputValid := true, held := true }) (nestPowered_cn s), nestPowered_cold⟩
  · have hdoes : Does .powerupHoldExpire s { s with cn := { s.cn with holdOver := true } } :=
      congrArg (settle s) ((if_neg (by simp [hheld])).trans (if_neg (by simp [hinput])))
    exact hdoes.runs rfl
  · exact congrArg (settle s) (if_pos hheld)
  · exact (does_nest rfl hruns (if_neg (by simp [hbrown])) : Does .brownout s ((s.brownoutOn.faultPair true).pwrEvent 0x0201 0x40)).runs
      (brownout_told (fatal_of_nestRuns hruns))
  · exact congrArg (settle s) (if_pos hinput)
  · have hdoes : Does .inputShutdown s s.assertReset.railsOff := congrArg (settle s) (if_pos hinput)
    obtain ⟨hsvn, hrepair, -⟩ := assertReset_keeps s
    exact hdoes.runs ⟨rfl, rfl, rfl, hsvn, hrepair⟩
  · obtain ⟨htime, hpowered, hoff⟩ := nestLost_lost s.inputLost
    exact (does_settle rfl : Does .crowsNestUnpowered s s.inputLost.nestLost).runs
      ⟨htime, hpowered, fun h => hoff ((inputLost_powered s).trans h)⟩
  · exact (does_nest rfl hruns rfl : Does .overVoltage s (s.fatalNow 0x0202)).runs (fatalAt_stops (fatal_of_nestRuns hruns) _)
  · exact (does_hub rfl hruns rfl : Does .pllUnlock s (s.fatalNow 0x0203)).runs (fatalAt_stops (fatal_of_hubRuns hruns) _)
  · exact (does_alive rfl halive rfl : Does .watchdog s (s.fatalNow 0x0104)).runs (fatalAt_stops (fatal_of_alive halive) _)
  · refine Does.runs (does_settle ((onMast_in hm).trans (congrArg (settle s) (if_pos hruns)))) ?_
    exact wireBroken_mast hkeys hm hpresent
  · refine Does.runs (does_settle ((onPort_in hp).trans (congrArg (settle s) (if_pos hruns)))) ?_
    exact wireBroken_port hp hkeys hwhole
  · refine Does.runs (does_settle ((onModule_in hm).trans (congrArg (settle s) (if_pos hruns)))) ?_
    exact wireBroken_module hm hkeys hwhole
  · refine Does.runs (does_hub (t := (s.wireSeen hubMast u).fatalAt (wireRec hubMast u)) rfl hruns rfl) ?_
    have hfatal : (s.wireSeen hubMast u).flt.fatal = false := by
      have h := fatal_of_hubRuns hruns
      unfold State.wireSeen
      dsimp only
      split
      · exact h
      · exact h
    exact (fatalAt_stops hfatal _).1

end Sys2Proof.Machine
end

section
/-! The governor, the limiter, droops, temperatures and the coolant (R222, R378, R387 to R394, R413). -/
namespace Sys2Proof.Machine

section
variable {s : State} {m : Nat}

/-! ## Power -/

/-- Counting on a mast leaves all of every mast but its counters. -/
theorem countM_view {α : Type} (view : Mast → α) (hview : ∀ z p, view { z with pmc := p } = view z) (s : State) (m : Nat) (o : Occ) (n : Nat) :
    view ((s.countM m o).mast n) = view (s.mast n) := by
  obtain hsame | ⟨-, hcounted⟩ := mast_modMast s m (fun x => if x.fenced then x else { x with pmc := x.pmc.count o }) n
  · exact congrArg view hsame
  · refine (congrArg view hcounted).trans ?_
    split
    · rfl
    · exact hview _ _

/-- The figures of the period that ends have been reported (R400, R458). -/
def State.periodEnded (s : State) : State :=
  (s.mastFigures.modPwr fun p => { p with
    avgW := s.pwr.govIn.sum / s.pwr.govIn.n, peakW := maxD (p.samples.map (·.inputW)) p.peakW, samples := [],
    capEff := p.effCap }).countH (pwrOcc 0x001 1)

theorem governor_still (h : s.pwr.coolstop = true) :
    s.governor.pwr.governor = s.pwr.governor ∧ s.governor.pwr.delivered = s.pwr.delivered := by
  have hdef : s.governor = s.periodEnded := if_pos h
  rw [hdef]
  exact ⟨rfl, rfl⟩

theorem limit_pwr (s : State) (e : Nat) :
    (s.limit e).pwr = { s.pwr with limiter := true, err := if e = 0 then s.pwr.err else s.pwr.err ||| 1 } :=
  (Agree.foldl (M := [.masts]) (Agree.refl _ _) fun _ _ hy => State.countM_agree (by decide) hy).part .pwr (by decide)

theorem reefSwitch_switches {a : Nat} (htarget : s.pwr.target = some a) (hmay : s.maySwitch = true) :
    s.reefSwitch = s.modPwr fun p => { p with applied := a, target := none, window := true } := by
  unfold State.reefSwitch
  rw [htarget]
  exact if_pos hmay

/-- A droop event starts: the mast is marked, and the event is told of and counted. -/
theorem droopTrip_trips (hkeys : tkeys s.masts = List.range 8) (hm : m < 8) (hquiet : (s.mast m).droop = false)
    (hpresent : s.present m = true) (hrails : s.cn.mastRails = true) :
    ((s.droopTrip m).mast m).droop = true ∧ (s.droopTrip m).pwr.err = s.pwr.err ||| 2 := by
  unfold State.droopTrip
  rw [if_neg (by simp [hquiet, hpresent, hrails])]
  refine ⟨(countM_view Mast.droop (fun _ _ => rfl) _ _ _ _).trans ?_, rfl⟩
  exact congrArg Mast.droop (mast_modMast_self (mem_of_mastKeys hkeys hm) fun z => { z with droop := true })

theorem droopClear_clears {e : Nat} (hkeys : tkeys s.masts = List.range 8) (hm : m < 8) (hdroop : (s.mast m).droop = true) :
    ((s.droopClear m e).mast m).droop = false ∧ (s.droopClear m e).pwr.droopEnd = s.time := by
  unfold State.droopClear
  rw [if_pos hdroop]
  refine ⟨(countM_view Mast.droop (fun _ _ => rfl) _ _ _ _).trans ?_, rfl⟩
  exact congrArg Mast.droop (mast_modMast_self (mem_of_mastKeys hkeys hm) fun z => { z with droop := false })

end

/-- Settles O33: the governor, the limiter, hints, Reef switches and droop detectors act. -/
theorem powerEventsComplete : Obligations.PowerEventsComplete := by
  refine ⟨fun s hruns => does_hub rfl hruns rfl, fun s hruns hcool => (does_hub rfl hruns rfl : Does .governorPeriod s s.governor).runs
    (governor_still hcool), fun x s hruns => (does_hub rfl hruns rfl : Does (.powerSample x) s (s.sample x)).runs ⟨rfl, rfl⟩,
    fun e s hruns => ⟨?_, (does_hub rfl hruns rfl).runs rfl⟩,
    fun s hruns => ⟨(does_hub rfl hruns rfl).runs rfl, (does_hub rfl hruns rfl).runs rfl, (does_hub rfl hruns rfl).runs rfl⟩,
    fun s a hruns htarget hmay => (does_hub rfl hruns (reefSwitch_switches htarget hmay)).runs rfl,
    fun m e s hm hkeys hruns => ⟨fun hquiet hpresent hrails => ?_, fun hdroop => ?_⟩⟩
  · refine (does_hub rfl hruns rfl : Does (.fastLimiter e) s (s.limit e)).runs ?_
    have hpwr := limit_pwr s e
    exact ⟨congrArg Power.limiter hpwr, fun he => (congrArg Power.err hpwr).trans (if_neg he)⟩
  · refine Does.runs (t := s.droopTrip m) ((onMast_in hm).trans (congrArg (settle s) (if_pos hruns))) ?_
    exact droopTrip_trips hkeys hm hquiet hpresent hrails
  · refine Does.runs (t := s.droopClear m e) ((onMast_in hm).trans (congrArg (settle s) (if_pos hruns))) ?_
    exact droopClear_clears hkeys hm hdroop

/-! ## Temperatures -/

section
variable {s : State} {m : Nat}

theorem pwrEvent_pwr (s : State) (c : Nat) (f : Word) : (s.pwrEvent c f).pwr = { s.pwr with err := s.pwr.err ||| f } := by
  rw [State.pwrEvent, raise_pwr]
  rfl

theorem thermLevel_pwr (h : s.pwr.coolstop = false) (l : Nat) :
    (s.thermLevel l).pwr.thermal = l ∧ (s.thermLevel l).pwr.excursion = s.pwr.excursion ∧ (s.thermLevel l).pwr.tj = s.pwr.tj := by
  unfold State.thermLevel
  rw [if_neg (by simp [h])]
  exact ⟨rfl, rfl, rfl⟩

/-- The excursion begins, and is told of once. -/
def State.excursed (s : State) (tj die : Nat) : State :=
  let t := s.modPwr fun p => { p with tj, hotDie := die, excursion := true }
  if !s.pwr.excursion then t.pwrEvent 0x0207 4 else t

theorem excursed_pwr (s : State) (tj die : Nat) : (s.excursed tj die).pwr.thermal = s.pwr.thermal ∧ (s.excursed tj die).pwr.excursion = true ∧
    (s.excursed tj die).pwr.tj = tj ∧ (s.excursed tj die).pwr.coolstop = s.pwr.coolstop := by
  unfold State.excursed
  dsimp only
  split
  · rw [pwrEvent_pwr]
    exact ⟨rfl, rfl, rfl, rfl⟩
  · exact ⟨rfl, rfl, rfl, rfl⟩

theorem tjHot_hot {tj die : Nat} (hcool : s.pwr.coolstop = false) (hhot : 1600 ≤ tj) :
    (s.tjHot tj die).pwr.thermal = min 4 (s.pwr.thermal + 1) ∧ (s.tjHot tj die).pwr.excursion = true ∧ (s.tjHot tj die).pwr.tj = tj := by
  have hdef : s.tjHot tj die = (s.excursed tj die).thermLevel (min 4 ((s.excursed tj die).pwr.thermal + 1)) := if_neg (by omega)
  obtain ⟨hthermal, hexcursion, htj, hstop⟩ := excursed_pwr s tj die
  obtain ⟨hl, he, ht⟩ := thermLevel_pwr (hstop.trans hcool) (min 4 ((s.excursed tj die).pwr.thermal + 1))
  rw [hdef]
  exact ⟨hl.trans (by rw [hthermal]), he.trans hexcursion, ht.trans htj⟩

/-- Above 105 °C the flag of the range is up, and is told of once. -/
def State.rangeOver (s : State) (tj : Nat) : State :=
  let t := s.modPwr fun p => { p with tj, overRange := true }
  if s.pwr.overRange then t else t.pwrEvent 0x0208 8

theorem rangeOver_over (s : State) (tj : Nat) : (s.rangeOver tj).pwr.overRange = true ∧
    (s.pwr.overRange = false → (s.rangeOver tj).pwr.err = s.pwr.err ||| 8) := by
  unfold State.rangeOver
  dsimp only
  split
  · rename_i h
    exact ⟨rfl, fun hno => absurd (hno.symm.trans h) Bool.false_ne_true⟩
  · rw [pwrEvent_pwr]
    exact ⟨rfl, fun _ => rfl⟩

/-! ## The coolant stop -/

/-- A mast that goes on toward self-refresh: copies that are frozen stay so, and DRAM does not enter or leave it while one runs. -/
def Mast.Cools (z x : Mast) : Prop :=
  ((z.bulk.all fun j => j.frozen) = true → (x.bulk.all fun j => j.frozen) = true) ∧
    ((x.bulk.all fun j => j.frozen) = false → x.mc.selfRefresh = z.mc.selfRefresh)

theorem Mast.Cools.refl (z : Mast) : z.Cools z := ⟨id, fun _ => rfl⟩

theorem Mast.Cools.trans {x y z : Mast} (h : x.Cools y) (k : y.Cools z) : x.Cools z := by
  refine ⟨fun hx => k.1 (h.1 hx), fun hz => (k.2 hz).trans (h.2 ?_)⟩
  cases hy : y.bulk.all fun j => j.frozen with
  | false => rfl
  | true => exact absurd (hz.symm.trans (k.1 hy)) Bool.false_ne_true

theorem refreshes_cools (b : Bool) (z : Mast) : z.Cools (z.refreshes b) := by
  unfold Mast.refreshes
  split
  · rename_i h
    obtain ⟨-, hall⟩ := Bool.and_eq_true_iff.1 h
    exact ⟨id, fun hnot => absurd (hnot.symm.trans hall) Bool.false_ne_true⟩
  · exact .refl z

theorem stopCtx_cools (z : Mast) (c : Nat) : z.Cools (z.stopCtx c) := by
  refine ⟨fun h => ?_, fun _ => rfl⟩
  rw [List.all_eq_true] at h ⊢
  exact fun j hj => h j (List.mem_filter.1 hj).1

/-- The waiting copies are frozen. -/
def Mast.waitersFrozen (z : Mast) : Mast :=
  { z with bulk := match z.bulk with | j :: js => j :: js.map (fun k => { k with frozen := true }) | [] => [] }

theorem waitersFrozen_cools (z : Mast) : z.Cools z.waitersFrozen := by
  refine ⟨fun h => ?_, fun _ => rfl⟩
  unfold Mast.waitersFrozen
  cases hbulk : z.bulk with
  | nil => rfl
  | cons j js =>
    rw [hbulk] at h
    simp only [List.all_cons, Bool.and_eq_true, List.all_map, List.all_eq_true] at h ⊢
    exact ⟨h.1, fun _ _ => rfl⟩

theorem freezeCopies_cools (z : Mast) : z.Cools z.freezeCopies := (waitersFrozen_cools z).trans (refreshes_cools true _)

/-- A mast whose copies are all frozen is in self-refresh once the masts have stopped. -/
theorem freezeCopies_refreshes {z : Mast} (h : (z.freezeCopies.bulk.all fun j => j.frozen) = true) : z.freezeCopies.mc.selfRefresh = true := by
  have hbulk : z.freezeCopies.bulk = z.waitersFrozen.bulk := refreshes_bulk _ _
  rw [hbulk] at h
  change (z.waitersFrozen.refreshes true).mc.selfRefresh = true
  rw [Mast.refreshes, if_pos (by simpa using h)]

/-- Every mast of the state has gone on from what it was in `s` toward self-refresh. -/
def CoolsFrom (s : State) : State → Prop := MastAll fun n z => (s.mast n).Cools z

theorem CoolsFrom.discardCalls {u : State} (h : CoolsFrom s u) (c : Nat) : CoolsFrom s (u.discardCalls c) := by
  have hstopped : CoolsFrom s (u.stopAll c) := by
    unfold State.stopAll
    exact MastAll.foldl h fun y n _ hy => hy.modMast fun z hz => (hz.trans (stopCtx_cools z c)).trans (refreshes_cools _ _)
  have hwithdrawn : CoolsFrom s ((u.stopAll c).withdrawCtx c) := MastAll.withdrawCtx (fun _ _ _ hz => hz) hstopped
  exact hwithdrawn.congr (t := u.discardCalls c) rfl

theorem CoolsFrom.coolCtx {u : State} (h : CoolsFrom s u) (c : Nat) : CoolsFrom s (u.coolCtx c) := by
  unfold State.coolCtx
  split
  · exact h
  · split
    · exact h.congr rfl
    · split
      · exact h.discardCalls c
      · exact h

theorem CoolsFrom.coolCtxs {u : State} (h : CoolsFrom s u) (l : List Nat) :
    CoolsFrom s (l.foldl (fun (s : State) c => s.coolCtx c) u) := MastAll.foldl h fun _ c _ hy => CoolsFrom.coolCtx hy c

theorem coolCtxs_agree (u : State) (l : List Nat) :
    Agree [.masts, .ctxs, .nlc, .col, .out] u (l.foldl (fun (s : State) c => s.coolCtx c) u) :=
  Agree.foldl (Agree.refl _ u) fun _ _ hy => State.coolCtx_agree (by decide) hy

theorem raise_wires (s : State) (r : Record) : (s.raise r).flt.wires = s.flt.wires := raise_flt Faults.wires (fun _ _ _ _ _ _ _ => rfl) s r

theorem raise_fatal (s : State) (r : Record) : (s.raise r).flt.fatal = s.flt.fatal := raise_flt Faults.fatal (fun _ _ _ _ _ _ _ => rfl) s r

theorem pwrEvent_fatal (s : State) (c : Nat) (f : Word) : (s.pwrEvent c f).flt.fatal = s.flt.fatal := raise_fatal _ _

theorem pwrEvent_wires (s : State) (c : Nat) (f : Word) : (s.pwrEvent c f).flt.wires = s.flt.wires := raise_wires _ _

/-- The coolant stop: the contexts enter it, and then the masts stop. -/
theorem coolantStop_stops (h : s.pwr.coolstop = false) :
    ∃ u, s.coolantStop = u.stopMasts ∧ u.pwr.pair = s.pwr.pair ∧ u.flt.wires = s.flt.wires ∧ CoolsFrom s u := by
  have hself : CoolsFrom s s := fun n => .refl _
  unfold State.coolantStop
  rw [if_neg (by simp [h])]
  split
  · refine ⟨_, rfl, ?_, ?_, hself.coolCtxs _⟩
    · rw [(coolCtxs_agree s _).part .pwr (by decide)]
    · rw [(coolCtxs_agree s _).part .flt (by decide)]
  · dsimp only
    refine ⟨_, rfl, ?_, ?_, CoolsFrom.coolCtxs (MastAll.agree hself (M := [.pwr, .flt, .st, .pmc])
      (State.raise_agree (by decide) ?_) (by decide)) _⟩
    · rw [(coolCtxs_agree _ _).part .pwr (by decide), pwrEvent_pwr]
      rfl
    · rw [(coolCtxs_agree _ _).part .flt (by decide), pwrEvent_wires]
      rfl
    · exact State.modPwr_agree (by decide) (State.modPwr_agree (by decide) (Agree.refl _ s) id) id

/-- The end of an activity changes of the fault collector only the holders and queues of the classes. -/
theorem endMaint_flt {α : Type} (view : Faults → α) (hview : ∀ (f : Faults) h q, view { f with holders := h, queues := q } = view f)
    (s : State) (a : Nat) (e : Ans) : view (s.endMaint a e).flt = view s.flt := by
  have hhold : ∀ (u : State) (m : Maint), view (u.holdClass m).flt = view u.flt := by
    intro u m
    unfold State.holdClass
    dsimp only
    split
    · exact hview u.flt _ u.flt.queues
    · exact hview u.flt _ u.flt.queues
  have hqueued : ∀ (u : State) l, view ({ u.flt with queues := l }) = view u.flt := fun u l => hview u.flt u.flt.holders l
  have hstart : ∀ (u : State) (cls : Nat), view (u.startQueued cls).flt = view u.flt := by
    intro u cls
    unfold State.startQueued
    dsimp only
    split
    · rfl
    · split
      · split
        · exact (hhold _ _).trans (hqueued u _)
        · exact hqueued u _
      · exact hqueued u _
  have hrelease : ∀ (u : State) (cls : Nat), view (u.releaseClass cls).flt = view u.flt := fun u cls =>
    (hstart _ cls).trans (hview u.flt _ u.flt.queues)
  have hcomplete : ∀ w, (s.complete w e).flt = s.flt := fun w =>
    (State.complete_agree (M := [.hif, .st, .out]) (by decide) (Agree.refl _ s)).part .flt (by decide)
  unfold State.endMaint
  split
  · rfl
  · split
    · rfl
    · split
      · exact hrelease s _
      · exact (hrelease _ _).trans (congrArg view (hcomplete _))

theorem abandonScrub_wires (s : State) : s.abandonScrub.flt.wires = s.flt.wires := by
  unfold State.abandonScrub
  split
  · split
    · exact endMaint_flt Faults.wires (fun _ _ _ => rfl) s _ _
    · rfl
  · rfl

/-- What stopping the masts does to power, wires and masts. -/
theorem stopMasts_stops (s : State) : s.stopMasts.pwr = { s.pwr with coolstop := true } ∧ s.stopMasts.flt.wires = s.flt.wires ∧
    s.stopMasts.masts = tmap s.masts fun _ z => z.freezeCopies := by
  have hagree : ∀ u : State, Agree [.flt, .hif, .st, .hal, .out] u u.abandonScrub := fun u =>
    State.abandonScrub_agree (by decide) (Agree.refl _ u)
  exact ⟨(hagree _).part .pwr (by decide), abandonScrub_wires _, (hagree _).part .masts (by decide)⟩

/-- What the loss of the coolant makes of power and masts (R394). -/
theorem coolantStop_cools (h : s.pwr.coolstop = false) :
    let t := s.coolantStop
    t.pwr.coolstop = true ∧ t.pwr.pair = s.pwr.pair ∧ t.flt.wires = s.flt.wires ∧
      (∀ e ∈ t.masts, (e.2.bulk.all fun j => j.frozen) = true → e.2.mc.selfRefresh = true) ∧
      ∀ n, (t.mast n).bulk.all (fun j => j.frozen) = false → (t.mast n).mc.selfRefresh = (s.mast n).mc.selfRefresh := by
  obtain ⟨u, hu, hpair, hwires, hcools⟩ := coolantStop_stops h
  obtain ⟨hpwr, hkept, hmasts⟩ := stopMasts_stops u
  intro t
  rw [show t = u.stopMasts from hu]
  refine ⟨congrArg Power.coolstop hpwr, (congrArg Power.pair hpwr).trans hpair, hkept.trans hwires, fun e he hall => ?_, ?_⟩
  · rw [hmasts] at he
    obtain ⟨x, -, rfl⟩ := List.mem_map.1 he
    exact freezeCopies_refreshes hall
  · have hfrozen : CoolsFrom s (u.mapMasts fun _ z => z.freezeCopies) :=
      MastAll.mapMasts hcools fun n z hz => hz.trans (freezeCopies_cools z)
    exact fun n hn => ((hfrozen.congr (t := u.stopMasts) hmasts) n).2 hn

/-- The package's part in lost flow after READY: the coolant stop. -/
theorem flowLost_ready (hfatal : s.flt.fatal = false) (hready : 6 ≤ s.cn.stage) : s.flowLost = s.coolantStop :=
  (if_neg (by simp [hfatal])).trans (if_pos hready)

/-- A broken pair is counted where the collector works, and leaves the rest of what the stop starts from. -/
theorem pairRecords_records (s : State) : s.pairRecords.pwr.coolstop = s.pwr.coolstop ∧ s.pairRecords.pwr.pair = s.pwr.pair ∧
    s.pairRecords.flt.fatal = s.flt.fatal ∧ (s.cn.hubRails = true → s.pairRecords.flt.wires = min (s.flt.wires + 1) 65535) := by
  have hseen : (s.wireSeen hubMast noUnit).flt.fatal = s.flt.fatal ∧
      (s.wireSeen hubMast noUnit).flt.wires = min (s.flt.wires + 1) 65535 := by
    unfold State.wireSeen
    dsimp only
    split
    · rename_i h
      exact ⟨rfl, by rw [h]; rfl⟩
    · exact ⟨rfl, rfl⟩
  unfold State.pairRecords
  split
  · refine ⟨?_, ?_, ?_, fun _ => ?_⟩
    · rw [pwrEvent_pwr, raise_pwr]; rfl
    · rw [pwrEvent_pwr, raise_pwr]; rfl
    · rw [pwrEvent_fatal, raise_fatal, hseen.1]
    · rw [pwrEvent_wires, raise_wires, hseen.2]
  · rename_i h
    exact ⟨rfl, rfl, rfl, fun hrails => absurd (by simp [State.collectorRuns, hrails]) h⟩

theorem flowGate_pwr (s : State) : s.flowGate.pwr = s.pwr := by
  unfold State.flowGate
  split
  · split
    · rfl
    · rfl
  · rfl

theorem does_pair {i : Instr} {x t : State} (e : exec i s = settle s (s.whenPair x)) (hseen : s.pairSeen = true) (h : x = t) : Does i s t := by
  rw [State.whenPair, if_pos hseen, h] at e
  exact e

end

/-- Settles O34: temperatures raise and lower the thermal level, and lost coolant stops the masts. -/
theorem thermalEventsComplete : Obligations.ThermalEventsComplete := by
  refine ⟨fun tj die s hruns hcool hhot => ⟨?_, fun hexc => ?_⟩, fun tj s hruns hlow => ⟨?_, fun hexc hcool => ?_⟩, fun tj s hruns hover => ?_,
    fun tj die s hruns htrip => ?_, fun m s hm hkeys hruns => ⟨?_, ?_⟩, fun s hseen hfatal => ⟨fun hpair hready hcool => ?_,
    fun hpair hready hcool => ?_, ?_⟩⟩
  · exact (does_hub rfl hruns rfl : Does (.tjHot tj die) s (s.tjHot tj die)).runs (tjHot_hot hcool hhot)
  · have hcold : decide (tj < 1600) = false := decide_eq_false (by omega)
    refine (does_hub rfl hruns (if_neg (by simp [hcold, hexc])) : Does (.thermLevelRise tj) s
      ((s.modPwr fun p => { p with tj }).thermLevel (min 4 (s.pwr.thermal + 1)))).runs ?_
    obtain ⟨hl, -, ht⟩ := thermLevel_pwr (s := s.modPwr fun p => { p with tj }) hcool (min 4 (s.pwr.thermal + 1))
    exact ⟨hl, ht⟩
  · exact (does_hub rfl hruns (if_neg (by omega))).runs rfl
  · have hwarm : decide (1552 < tj) = false := decide_eq_false (by omega)
    refine (does_hub rfl hruns (if_neg (by simp [hwarm, hexc])) : Does (.thermLevelFall tj) s
      ((s.modPwr fun p => { p with tj }).thermLevel (s.pwr.thermal - 1))).runs ?_
    obtain ⟨hl, -, ht⟩ := thermLevel_pwr (s := s.modPwr fun p => { p with tj }) hcool (s.pwr.thermal - 1)
    exact ⟨hl, ht⟩
  · exact (does_hub rfl hruns (if_neg (by omega)) : Does (.thermOverRange tj) s (s.rangeOver tj)).runs (rangeOver_over s tj)
  · refine (does_nest rfl hruns (if_neg (by omega)) : Does (.thermTrip tj die) s
      ((s.modPwr fun p => { p with tj, hotDie := die }).fatalNow 0x0204)).runs ?_
    exact fatalAt_stops (s := s.modPwr fun p => { p with tj, hotDie := die }) (fatal_of_nestRuns hruns) _
  · refine Does.runs ((onMast_in hm).trans (congrArg (settle s) (if_pos hruns))) ?_
    exact congrArg (fun z : Mast => z.mc.auto2x)
      (mast_modMast_self (mem_of_mastKeys hkeys hm) fun z => { z with mc := { z.mc with auto2x := true } })
  · refine Does.runs ((onMast_in hm).trans (congrArg (settle s) (if_pos hruns))) ?_
    exact congrArg (fun z : Mast => z.mc.auto2x)
      (mast_modMast_self (mem_of_mastKeys hkeys hm) fun z => { z with mc := { z.mc with auto2x := false } })
  · have hdoes : Does .coolflowLost s (s.modPwr fun p => { p with pair := 1 }).coolantStop :=
      does_pair rfl hseen ((if_neg hpair).trans (flowLost_ready (s := s.modPwr fun p => { p with pair := 1 }) hfatal hready))
    obtain ⟨hstop, hpaired, -, hall, hsome⟩ := coolantStop_cools (s := s.modPwr fun p => { p with pair := 1 }) hcool
    exact hdoes.runs ⟨hstop, hpaired, hall, hsome⟩
  · obtain ⟨u, hu⟩ : ∃ u, u = s.modPwr fun p => { p with pair := 2 } := ⟨_, rfl⟩
    obtain ⟨hcooled, hpaired, hstill, hcounted⟩ := pairRecords_records u
    have hstage : u.pairRecords.cn = u.cn :=
      (State.pairRecords_agree (M := [.pwr, .flt, .st, .pmc]) (by decide) (Agree.refl _ u)).part .cn (by decide)
    have hdoes : Does .coolflowWire s u.pairRecords.coolantStop := by
      refine does_pair rfl hseen ((if_neg hpair).trans ?_)
      rw [← hu]
      exact flowLost_ready (by rw [hstill, hu]; exact hfatal) (by rw [hstage, hu]; exact hready)
    obtain ⟨hstop, hkept, hwires, -, -⟩ := coolantStop_cools (s := u.pairRecords) (by rw [hcooled, hu]; exact hcool)
    refine hdoes.runs ⟨hstop, hkept.trans (hpaired.trans (by rw [hu]; rfl)), fun hrails => hwires.trans ?_⟩
    rw [hcounted (by rw [hu]; exact hrails), hu]
    rfl
  · exact (does_pair rfl hseen rfl : Does .coolflowPresent s (s.modPwr fun p => { p with pair := 0 }).flowGate).runs
      (flowGate_pwr (s.modPwr fun p => { p with pair := 0 }))

end Sys2Proof.Machine
end

section
/-! The patrol and contention windows of a mast, the power-up sequence and the host die reset (R226, R231, R232, R463 to R465, R478,
R487). -/
namespace Sys2Proof.Machine

section
variable {s : State} {m : Nat}

/-- A word that a patrol of all slices does not reach lies past them. -/
theorem spadSize_le_of_not_wordsIn {w : Nat} (h : wordsIn 0 spadSize w = false) : spadSize ≤ w * 8 := by
  have hnot := of_decide_eq_false h
  unfold spadSize at hnot ⊢
  omega

theorem patrolUcs_agree (l : List Nat) (u : State) : Agree [.flt, .st, .pmc] u (l.foldl (fun (s : State) w => s.patrolUc m w) u) :=
  Agree.foldl (Agree.refl _ u) fun _ _ hy => State.raise_agree (by decide) hy

/-- A patrol leaves the flaws that it does not correct. -/
theorem patrol_flaws (hkeys : tkeys s.masts = List.range 8) (hm : m < 8) :
    ((s.patrol m).mast m).spad.flaws = (s.mast m).spad.flaws.filter fun e => !(wordsIn 0 spadSize e.1 && e.2 == .ce) := by
  unfold State.patrol
  dsimp only
  rw [State.mast, (patrolUcs_agree _ _).part .masts (by decide)]
  exact congrArg (fun z : Mast => z.spad.flaws)
    (mast_modMast_self (mem_of_mastKeys hkeys hm) fun z => (z.readSpad maintReader 0 spadSize).1)

theorem spadPatrol_does (found : List Upset) (hm : m < 8) (halive : s.alive = true) (hup : s.mastUp m = true) :
    Does (.spadPatrol m found) s ((s.strikeAll (found.filter (spadUpset m))).patrol m) :=
  does_mast rfl hm halive (if_pos hup)

end

/-- Settles O35: the patrol corrects what can be corrected, and a contention window is closed for every context. -/
theorem mastEventsComplete : Obligations.MastEventsComplete := by
  refine ⟨fun m found s hm halive hup => spadPatrol_does found hm halive hup, fun m s hm hkeys halive hup hce => ?_,
    fun m l s hm halive hup => does_mast rfl hm halive (if_pos hup)⟩
  refine (spadPatrol_does [] hm halive hup).runs fun e he => ?_
  have hleft : e ∈ ((s.patrol m).mast m).spad.flaws := he
  rw [patrol_flaws hkeys hm] at hleft
  obtain ⟨hin, hmissed⟩ := List.mem_filter.1 hleft
  refine spadSize_le_of_not_wordsIn ?_
  simpa [hce e hin] using hmissed

/-! ## Power-up -/

section
variable {s : State}

theorem pairRecords_cn (s : State) : s.pairRecords.cn = s.cn :=
  (State.pairRecords_agree (M := [.pwr, .flt, .st, .pmc]) (by decide) (Agree.refl _ s)).part .cn (by decide)

theorem hubPowered_cn (s : State) : s.hubPowered.cn.stage = 2 ∧ s.hubPowered.cn.hubRails = true := by
  unfold State.hubPowered
  dsimp only
  split
  · rw [pairRecords_cn]
    exact ⟨rfl, rfl⟩
  · exact ⟨rfl, rfl⟩

/-- At the third stage the gate of the coolant keeps the stage, and all but the Crow's Nest. -/
theorem flowGate_third (h : s.cn.stage = 3) : s.flowGate.cn.stage = 3 ∧ s.flowGate.btb = s.btb ∧ s.flowGate.flt = s.flt := by
  unfold State.flowGate
  rw [if_pos h]
  split
  · exact ⟨h, rfl, rfl⟩
  · exact ⟨h, rfl, rfl⟩

theorem bootStart_starts (s : State) : s.bootStart.cn.stage = 3 ∧ s.bootStart.btb.stage = 1 ∧ s.bootStart.flt = s.flt.scan := by
  obtain ⟨hstage, hbtb, hflt⟩ := flowGate_third
    (s := ({ s with flt := s.flt.scan, btb := { s.btb with stage := 1 } } : State).toStage 3) rfl
  exact ⟨hstage, congrArg Trust.stage hbtb, hflt⟩

/-- Calibration with its figures taken, before its steps run. -/
def State.calFigures (s : State) (c : CalResult) : State :=
  { s with id := { s.id with fencedCal := 0, failMasts := 0, failStep := 0, calMs := min c.calMs 65535 },
           pwr := { s.pwr with staticW := c.staticW, dyn := c.dyn } }

/-- All steps of calibration, without a hub failure. -/
def State.calSteps (s : State) (c : CalResult) : State :=
  (([1, 2, 3, 4, 5, 6, 7].foldl (fun (s : State) st => s.calStepRuns c st) (s.calFigures c)).calPassed c).toStage 5

theorem calibrated_steps {c : CalResult} (h1 : c.hubFail ≠ 1) (h2 : c.hubFail ≠ 2) : s.calibrated c = s.calSteps c :=
  (if_neg h1).trans (if_neg h2)

theorem calSteps_staticW (c : CalResult) : (s.calSteps c).pwr.staticW = c.staticW := by
  have hagree : Agree [.cn, .id, .flt, .st, .masts, .pmc] (s.calFigures c)
      (([1, 2, 3, 4, 5, 6, 7].foldl (fun (s : State) st => s.calStepRuns c st) (s.calFigures c)).calPassed c) :=
    State.calPassed_agree (by decide) (Agree.foldl (Agree.refl _ _) fun _ _ hy => State.calStepRuns_agree (by decide) hy)
  exact congrArg Power.staticW (hagree.part .pwr (by decide))

/-- A mast's memories and cache hold nothing. -/
def Mast.cleared (z : Mast) : Mast :=
  { z with dram := Dram.reset, spad := { cells := [], flaws := [] }, lc := { lines := [], clock := 0 } }

/-- Memory is zero and the mainband may train, before READY is told of. -/
def State.readied (s : State) : State :=
  let t := s.mapMasts fun _ z => z.cleared
  State.toStage { t with
    hif := { t.hif with ready := true, mods := tmap t.hif.mods fun _ x => if x.broken then x else { x with state := hmTraining } },
    cn := { t.cn with readyTime := t.time } } 6

theorem becomeReady_agree (s : State) : Agree [.btb, .hif, .out] s.readied s.becomeReady :=
  State.startVerify_agree (by decide) (State.bootChanged_agree (by decide) (Agree.refl _ _))

theorem startVerify_ready (s : State) : s.startVerify.hif.ready = s.hif.ready := by
  unfold State.startVerify
  split
  · rw [(bootChanged_agree _).part .hif (by decide)]
  · rfl

theorem becomeReady_hif (s : State) : s.becomeReady.hif.ready = true :=
  (startVerify_ready _).trans (congrArg HostIf.ready ((bootChanged_agree s.readied).part .hif (by decide)))

/-- A change made on every mast makes `Q` there, and a mast that the package's table lacks is as after reset. -/
theorem mastAll_mapped {Q : Nat → Mast → Prop} {f : Nat → Mast → Mast} (hmake : ∀ n z, Q n (f n z)) (hreset : ∀ n, Q n Mast.reset) :
    MastAll Q (s.mapMasts f) := fun n => by
  rw [State.mast, tgetD, State.mapMasts_masts, tget_tmap]
  cases tget s.masts n with
  | none => exact hreset n
  | some z => exact hmake n z

theorem becomeReady_zero (s : State) (n a : Nat) :
    memByte (s.becomeReady.mast n).dram.cells a = 0 ∧ memByte (s.becomeReady.mast n).spad.cells a = 0 := by
  have hzero : MastAll (fun _ z => z.dram.cells = [] ∧ z.spad.cells = []) s.readied :=
    MastAll.congr (mastAll_mapped (s := s) (f := fun _ z => z.cleared) (fun _ _ => ⟨rfl, rfl⟩) fun _ => ⟨rfl, rfl⟩) rfl
  obtain ⟨hdram, hspad⟩ := (hzero.agree (becomeReady_agree s) (by decide)) n
  rw [hdram, hspad]
  exact ⟨rfl, rfl⟩

theorem pwrokFall_cn (s : State) :
    let t := (({ s with cn := { s.cn with pwrok := false } } : State).assertReset.allModulesDown)
    t.cn.pwrok = false ∧ t.cn.resetOut = true := by
  intro t
  have hcn : t.cn = ({ s with cn := { s.cn with pwrok := false } } : State).assertReset.cn :=
    (State.allModulesDown_agree (M := [.flt, .hif, .st, .pmc]) (by decide) (Agree.refl _ _)).part .cn (by decide)
  rw [hcn]
  unfold State.assertReset
  split
  · rename_i h
    exact ⟨rfl, h⟩
  · exact ⟨rfl, rfl⟩

end

/-- Settles O36: the sequence goes from stage to stage, and the host die reset follows HD_PWROK. -/
theorem powerUpStepsComplete : Obligations.PowerUpStepsComplete := by
  refine ⟨fun s hs => ?_, fun s hs => ?_, fun s hs => ?_, fun s hs hok => ?_, fun c s hs h1 h2 => ?_, fun s hs => ?_, fun s => ⟨?_, ?_⟩,
    fun s hpwrok hrails hreset => ?_⟩
  · exact (does_settle (congrArg (settle s) (if_pos hs)) : Does .powerupCrowsNest s _).runs rfl
  · exact (does_settle (congrArg (settle s) (if_pos hs)) : Does .powerupHubRails s s.hubPowered).runs (hubPowered_cn s)
  · exact (does_settle (congrArg (settle s) (if_pos hs)) : Does .powerupBootRom s s.bootStart).runs (bootStart_starts s)
  · have hstep : (s.stageIs 3 && s.mastRailsOk) = true := by rw [hs, hok]; rfl
    exact (does_settle (congrArg (settle s) (if_pos hstep)) : Does .powerupMastRails s _).runs ⟨rfl, rfl⟩
  · have hdoes : Does (.calibration c) s (s.calSteps c) :=
      does_settle (congrArg (settle s) ((if_pos hs).trans (calibrated_steps h1 h2)))
    exact hdoes.runs ⟨rfl, calSteps_staticW c⟩
  · have hcn : s.becomeReady.cn = s.readied.cn := (becomeReady_agree s).part .cn (by decide)
    exact (does_settle (congrArg (settle s) (if_pos hs)) : Does .powerupReady s s.becomeReady).runs
      ⟨congrArg CrowsNest.stage hcn, becomeReady_hif s, congrArg CrowsNest.readyTime hcn, fun n a _ => becomeReady_zero s n a⟩
  · exact (does_settle rfl : Does .hdPwrokRise s { s with cn := { s.cn with pwrok := true } }).runs rfl
  · exact (does_settle rfl : Does .hdPwrokFall s
      (({ s with cn := { s.cn with pwrok := false } } : State).assertReset.allModulesDown)).runs (pwrokFall_cn s)
  · have hstep : (s.cn.pwrok && s.cn.hubRails && s.cn.resetOut) = true := by rw [hpwrok, hrails, hreset]; rfl
    exact (does_settle (congrArg (settle s) (if_pos hstep)) : Does .hostResetRelease s
      (({ s with cn := { s.cn with resetOut := false } } : State).emit (.hostReset false))).runs ⟨rfl, mem_emit _ _⟩

end Sys2Proof.Machine
end

section
/-! What the projected state of R182 does not depend on: what the host has been sent and what is owed to it, the host link, the hub's
counters, and error records. -/
namespace Sys2Proof.Machine

/-! ## States that serve alike -/

/-- `t` is `s` but for requests and answers of the host, what has been sent, the host link, the hub's counters, and the fault
collector, of which it has the repair list. -/
def Alike (s t : State) : Prop :=
  ∃ st out hif pmc flt, flt.repair = s.flt.repair ∧ t = { s with st := st, out := out, hif := hif, pmc := pmc, flt := flt }

section
variable {s t u : State}

theorem Alike.refl (s : State) : Alike s s := ⟨_, _, _, _, _, rfl, rfl⟩

theorem Alike.symm (h : Alike s t) : Alike t s := by
  obtain ⟨_, _, _, _, _, hrepair, rfl⟩ := h
  exact ⟨s.st, s.out, s.hif, s.pmc, s.flt, hrepair.symm, rfl⟩

theorem Alike.trans (h : Alike s t) (k : Alike t u) : Alike s u := by
  obtain ⟨_, _, _, _, _, hrepair, rfl⟩ := h
  obtain ⟨_, _, _, _, _, krepair, rfl⟩ := k
  exact ⟨_, _, _, _, _, krepair.trans hrepair, rfl⟩

/-- What a frame leaves alike. -/
theorem Alike.of_agree (h : Agree [.st, .out, .hif, .pmc, .flt] s t) (hrepair : t.flt.repair = s.flt.repair) : Alike s t := by
  refine ⟨t.st, t.out, t.hif, t.pmc, t.flt, hrepair, ?_⟩
  have e : ∀ c, c ∉ [Comp.st, .out, .hif, .pmc, .flt] → c.same s t := h.part
  clear h hrepair
  obtain ⟨⟩ := s
  obtain ⟨⟩ := t
  congr 1
  · exact e .time (by decide)
  · exact e .cn (by decide)
  · exact e .id (by decide)
  · exact e .pwr (by decide)
  · exact e .btb (by decide)
  · exact e .masts (by decide)
  · exact e .ctxs (by decide)
  · exact e .zeroing (by decide)
  · exact e .reqs (by decide)
  · exact e .sess (by decide)
  · exact e .srvSel (by decide)
  · exact e .srvErr (by decide)
  · exact e .exports (by decide)
  · exact e .nextExp (by decide)
  · exact e .imports (by decide)
  · exact e .hal (by decide)
  · exact e .nlc (by decide)
  · exact e .col (by decide)
  · exact e .free (by decide)
  · exact e .pending (by decide)

/-- An operation that leaves what it starts from alike keeps states alike. -/
theorem Alike.both {f g : State → State} (h : Alike s t) (hs : Alike s (f s)) (ht : Alike t (g t)) : Alike (f s) (g t) :=
  hs.symm.trans (h.trans ht)

theorem Alike.foldl {α : Type} {f g : State → α → State} (l : List α) (h : Alike s t)
    (hf : ∀ y z a, Alike y z → Alike (f y a) (g z a)) : Alike (l.foldl f s) (l.foldl g t) := by
  induction l generalizing s t with
  | nil => exact h
  | cons a l ih => exact ih (hf s t a h)

/-- The same for a fold that gathers a value as it goes. -/
theorem Alike.foldl_fst {α β : Type} {f : State × β → α → State × β} (l : List α) {x y : State × β} (h : Alike x.1 y.1 ∧ y.2 = x.2)
    (hf : ∀ x y a, Alike x.1 y.1 ∧ y.2 = x.2 → Alike (f x a).1 (f y a).1 ∧ (f y a).2 = (f x a).2) :
    Alike (l.foldl f x).1 (l.foldl f y).1 ∧ (l.foldl f y).2 = (l.foldl f x).2 := by
  induction l generalizing x y with
  | nil => exact h
  | cons a l ih => exact ih (hf x y a h)

theorem Alike.ite {p : Prop} [Decidable p] {s' t' : State} (h : Alike s t) (k : Alike s' t') :
    Alike (if p then s else s') (if p then t else t') := by
  split
  · exact h
  · exact k

/-! ## What is read alike -/

theorem Alike.time (h : Alike s t) : t.time = s.time := by obtain ⟨_, _, _, _, _, _, rfl⟩ := h; rfl
theorem Alike.pwr (h : Alike s t) : t.pwr = s.pwr := by obtain ⟨_, _, _, _, _, _, rfl⟩ := h; rfl
theorem Alike.nlc (h : Alike s t) : t.nlc = s.nlc := by obtain ⟨_, _, _, _, _, _, rfl⟩ := h; rfl
theorem Alike.reqs (h : Alike s t) : t.reqs = s.reqs := by obtain ⟨_, _, _, _, _, _, rfl⟩ := h; rfl
theorem Alike.sess (h : Alike s t) : t.sess = s.sess := by obtain ⟨_, _, _, _, _, _, rfl⟩ := h; rfl
theorem Alike.ctxs (h : Alike s t) : t.ctxs = s.ctxs := by obtain ⟨_, _, _, _, _, _, rfl⟩ := h; rfl
theorem Alike.exports (h : Alike s t) : t.exports = s.exports := by obtain ⟨_, _, _, _, _, _, rfl⟩ := h; rfl
theorem Alike.nextExp (h : Alike s t) : t.nextExp = s.nextExp := by obtain ⟨_, _, _, _, _, _, rfl⟩ := h; rfl
theorem Alike.mast (h : Alike s t) : t.mast = s.mast := by obtain ⟨_, _, _, _, _, _, rfl⟩ := h; rfl
theorem Alike.mastUp (h : Alike s t) : t.mastUp = s.mastUp := by obtain ⟨_, _, _, _, _, _, rfl⟩ := h; rfl
theorem Alike.ctx? (h : Alike s t) : t.ctx? = s.ctx? := by obtain ⟨_, _, _, _, _, _, rfl⟩ := h; rfl
theorem Alike.req? (h : Alike s t) : t.req? = s.req? := by obtain ⟨_, _, _, _, _, _, rfl⟩ := h; rfl
theorem Alike.session? (h : Alike s t) : t.session? = s.session? := by obtain ⟨_, _, _, _, _, _, rfl⟩ := h; rfl
theorem Alike.ownReq (h : Alike s t) : t.ownReq = s.ownReq := by obtain ⟨_, _, _, _, _, _, rfl⟩ := h; rfl
theorem Alike.ownSess (h : Alike s t) : t.ownSess = s.ownSess := by obtain ⟨_, _, _, _, _, _, rfl⟩ := h; rfl
theorem Alike.slotsOf (h : Alike s t) : t.slotsOf = s.slotsOf := by obtain ⟨_, _, _, _, _, _, rfl⟩ := h; rfl
theorem Alike.exporting (h : Alike s t) : t.exporting = s.exporting := by obtain ⟨_, _, _, _, _, _, rfl⟩ := h; rfl
theorem Alike.unreleased (h : Alike s t) : t.unreleased = s.unreleased := by obtain ⟨_, _, _, _, _, _, rfl⟩ := h; rfl
theorem Alike.exportHeader (h : Alike s t) : t.exportHeader = s.exportHeader := by obtain ⟨_, _, _, _, _, _, rfl⟩ := h; rfl
theorem Alike.resyncHeader (h : Alike s t) : t.resyncHeader = s.resyncHeader := by obtain ⟨_, _, _, _, _, _, rfl⟩ := h; rfl
theorem Alike.exportLength (h : Alike s t) : t.exportLength = s.exportLength := by obtain ⟨_, _, _, _, _, _, rfl⟩ := h; rfl
theorem Alike.pageParts (h : Alike s t) : t.pageParts = s.pageParts := by obtain ⟨_, _, _, _, _, _, rfl⟩ := h; rfl
theorem Alike.canShip (h : Alike s t) : t.canShip = s.canShip := by obtain ⟨_, _, _, _, _, _, rfl⟩ := h; rfl
theorem Alike.releasable (h : Alike s t) : t.releasable = s.releasable := by obtain ⟨_, _, _, _, _, _, rfl⟩ := h; rfl

theorem Alike.repair (h : Alike s t) : t.flt.repair = s.flt.repair := by
  obtain ⟨_, _, _, _, _, hrepair, rfl⟩ := h
  exact hrepair

/-! ## What is changed alike -/

theorem Alike.modCtx (h : Alike s t) (c : Nat) (f : Ctx → Ctx) : Alike (s.modCtx c f) (t.modCtx c f) := by
  obtain ⟨a, b, c, d, e, hrepair, rfl⟩ := h
  exact ⟨a, b, c, d, e, hrepair, rfl⟩

theorem Alike.modMast (h : Alike s t) (m : Nat) (f : Mast → Mast) : Alike (s.modMast m f) (t.modMast m f) := by
  obtain ⟨a, b, c, d, e, hrepair, rfl⟩ := h
  exact ⟨a, b, c, d, e, hrepair, rfl⟩

theorem Alike.modReq (h : Alike s t) (i : Nat) (f : Request → Request) : Alike (s.modReq i f) (t.modReq i f) := by
  obtain ⟨a, b, c, d, e, hrepair, rfl⟩ := h
  exact ⟨a, b, c, d, e, hrepair, rfl⟩

theorem Alike.modSession (h : Alike s t) (i : Nat) (f : Session → Session) : Alike (s.modSession i f) (t.modSession i f) := by
  obtain ⟨a, b, c, d, e, hrepair, rfl⟩ := h
  exact ⟨a, b, c, d, e, hrepair, rfl⟩

theorem Alike.modExport (h : Alike s t) (i : Nat) (f : Export → Export) : Alike (s.modExport i f) (t.modExport i f) := by
  obtain ⟨a, b, c, d, e, hrepair, rfl⟩ := h
  exact ⟨a, b, c, d, e, hrepair, rfl⟩

theorem Alike.setMirror (h : Alike s t) (c st : Nat) (p : Nat → Bool) : Alike (s.setMirror c st p) (t.setMirror c st p) := by
  obtain ⟨a, b, c, d, e, hrepair, rfl⟩ := h
  exact ⟨a, b, c, d, e, hrepair, rfl⟩

theorem Alike.withExports (h : Alike s t) (l : Tab Export) : Alike { s with exports := l } { t with exports := l } := by
  obtain ⟨a, b, c, d, e, hrepair, rfl⟩ := h
  exact ⟨a, b, c, d, e, hrepair, rfl⟩

theorem Alike.withNextExp (h : Alike s t) (n : Nat) : Alike { s with nextExp := n } { t with nextExp := n } := by
  obtain ⟨a, b, c, d, e, hrepair, rfl⟩ := h
  exact ⟨a, b, c, d, e, hrepair, rfl⟩

theorem Alike.withSess (h : Alike s t) (l : Tab Session) : Alike { s with sess := l } { t with sess := l } := by
  obtain ⟨a, b, c, d, e, hrepair, rfl⟩ := h
  exact ⟨a, b, c, d, e, hrepair, rfl⟩

theorem Alike.withReqs (h : Alike s t) (l : Tab Request) : Alike { s with reqs := l } { t with reqs := l } := by
  obtain ⟨a, b, c, d, e, hrepair, rfl⟩ := h
  exact ⟨a, b, c, d, e, hrepair, rfl⟩

theorem Alike.withCtxs (h : Alike s t) (l : Tab Ctx) : Alike { s with ctxs := l } { t with ctxs := l } := by
  obtain ⟨a, b, c, d, e, hrepair, rfl⟩ := h
  exact ⟨a, b, c, d, e, hrepair, rfl⟩

theorem Alike.withRepair (h : Alike s t) (l : List (Nat × Nat)) :
    Alike { s with flt := { s.flt with repair := l } } { t with flt := { t.flt with repair := l } } := by
  obtain ⟨a, b, c, d, e, hrepair, rfl⟩ := h
  exact ⟨a, b, c, d, { e with repair := l }, rfl, rfl⟩

theorem Alike.raise (h : Alike s t) (r : Record) : Alike (s.raise r) (t.raise r) := by
  have hraised : ∀ u : State, Alike u (u.raise r) := fun u =>
    .of_agree (State.raise_agree (by decide) (Agree.refl _ u)) (raise_flt Faults.repair (fun _ _ _ _ _ _ _ => rfl) u r)
  exact h.both (f := fun s => s.raise r) (g := fun s => s.raise r) (hraised s) (hraised t)

theorem Alike.complete (h : Alike s t) (w : Owed) (a : Ans) : Alike (s.complete w a) (t.complete w a) := by
  have hdone : ∀ u : State, Alike u (u.complete w a) := fun u =>
    .of_agree (State.complete_agree (by decide) (Agree.refl _ u)) (congrArg Faults.repair
      ((State.complete_agree (M := [.hif, .st, .out]) (by decide) (Agree.refl _ u)).part .flt (by decide)))
  exact h.both (f := fun s => s.complete w a) (g := fun s => s.complete w a) (hdone s) (hdone t)

theorem Alike.emit (h : Alike s t) (o : Out) : Alike (s.emit o) (t.emit o) := by
  obtain ⟨a, b, c, d, e, hrepair, rfl⟩ := h
  exact ⟨a, _, c, d, e, hrepair, rfl⟩

theorem Alike.emitFab (h : Alike s t) (pkg : Nat) (o : Out) : Alike (s.emitFab pkg o) (t.emitFab pkg o) := by
  unfold State.emitFab
  rw [h.nlc]
  exact h.ite (h.emit o)

/-! ## Memory -/

theorem Alike.repairRow (h : Alike s t) (m row half : Nat) : Alike (s.repairRow m row half) (t.repairRow m row half) := by
  unfold State.repairRow
  rw [h.repair]
  exact h.ite (((h.withRepair _).modMast m _).raise _)

theorem Alike.touchDram (h : Alike s t) (m : Nat) (r : Reader) (lo hi : Nat) :
    Alike (s.touchDram m r lo hi).1 (t.touchDram m r lo hi).1 ∧ (t.touchDram m r lo hi).2 = (s.touchDram m r lo hi).2 := by
  unfold State.touchDram
  rw [h.mast]
  exact ⟨(h.modMast m _).foldl _ fun y z p hy => hy.repairRow m p.1 p.2, rfl⟩

theorem Alike.fillRest (h : Alike s t) (m : Nat) (r : Reader) (off len : Nat) : Alike (s.fillRest m r off len) (t.fillRest m r off len) := by
  unfold State.fillRest
  rw [h.mast]
  exact h.foldl _ fun y z p hy => (hy.touchDram m r p (p + 1)).1

theorem Alike.mergeHalves (h : Alike s t) (m : Nat) (r : Reader) (off len : Nat) :
    Alike (s.mergeHalves m r off len).1 (t.mergeHalves m r off len).1 ∧ (t.mergeHalves m r off len).2 = (s.mergeHalves m r off len).2 := by
  refine Alike.foldl_fst (partialHalves off len) (x := (s, [])) (y := (t, [])) ⟨h, rfl⟩ fun x y p hxy => ?_
  obtain ⟨hstate, hmet⟩ := hxy.1.touchDram m r p (p + 1)
  exact ⟨hstate, by rw [hmet, hxy.2]⟩

theorem Alike.writeDram (h : Alike s t) (m : Nat) (r : Reader) (off : Nat) (b : Bytes) :
    Alike (s.writeDram m r off b).1 (t.writeDram m r off b).1 ∧ (t.writeDram m r off b).2 = (s.writeDram m r off b).2 := by
  obtain ⟨hstate, hlost⟩ := h.mergeHalves m r off b.length
  rw [writeDram_eq, writeDram_eq, hlost]
  exact ⟨(hstate.fillRest m r off b.length).modMast m _, rfl⟩

theorem Alike.readDram (h : Alike s t) (m : Nat) (r : Reader) (off len : Nat) :
    Alike (s.readDram m r off len).1 (t.readDram m r off len).1 ∧ (t.readDram m r off len).2 = (s.readDram m r off len).2 := by
  obtain ⟨hstate, hmet⟩ := h.touchDram m r (halfLo off) (halfHi off len)
  have hread := (hstate.fillRest m r off len).modMast m fun z => z.lookup r off len false
  unfold State.readDram
  dsimp only
  exact ⟨hread, by rw [hmet, hread.mast]⟩

theorem Alike.mastWrite (h : Alike s t) (c m off : Nat) (b : Bytes) : Alike (s.mastWrite c m off b) (t.mastWrite c m off b) := by
  obtain ⟨hstate, hlost⟩ := h.writeDram m (control c 0x18) off b
  unfold State.mastWrite
  rw [h.mastUp, h.pwr]
  refine h.ite ((h.modCtx c _).ite ?_)
  dsimp only
  rw [hlost]
  cases (s.writeDram m (control c 0x18) off b).2 with
  | none => exact hstate
  | some e => exact hstate.modCtx c _

theorem Alike.mastRead (h : Alike s t) (c m : Nat) (r : Reader) (l : List (Nat × Nat)) :
    Alike (s.mastRead c m r l).1 (t.mastRead c m r l).1 ∧ (t.mastRead c m r l).2 = (s.mastRead c m r l).2 := by
  induction l generalizing s t with
  | nil => exact ⟨h, rfl⟩
  | cons p l ih =>
    obtain ⟨off, n⟩ := p
    obtain ⟨hstate, hread⟩ := h.readDram m r off n
    unfold State.mastRead
    rw [h.mastUp, h.pwr]
    split
    · exact ⟨h, rfl⟩
    · dsimp only
      rw [hread]
      cases (s.readDram m r off n).2.2 with
      | some e => exact ⟨hstate.modCtx c _, rfl⟩
      | none =>
        obtain ⟨hrest, hbytes⟩ := ih hstate
        exact ⟨hrest, by rw [hbytes]⟩

theorem Alike.readShipments (h : Alike s t) (c : Nat) (l : List Shipment) :
    Alike (s.readShipments c l).1 (t.readShipments c l).1 ∧ (t.readShipments c l).2 = (s.readShipments c l).2 := by
  induction l generalizing s t with
  | nil => exact ⟨h, rfl⟩
  | cons p l ih =>
    obtain ⟨hstate, hread⟩ := h.mastRead c p.mast ((stream c 0x1A).cls' 2) (pageRegions p.kv p.unit p.fr)
    unfold State.readShipments
    dsimp only
    rw [hread]
    cases (s.mastRead c p.mast ((stream c 0x1A).cls' 2) (pageRegions p.kv p.unit p.fr)).2 with
    | none => exact ⟨hstate, rfl⟩
    | some b =>
      obtain ⟨hrest, hbytes⟩ := ih hstate
      exact ⟨hrest, by rw [hbytes]⟩

/-! ## Pages and sessions -/

theorem Alike.setPool (h : Alike s t) (c m : Nat) (p : Pool) : Alike (s.setPool c m p) (t.setPool c m p) := by
  unfold State.setPool
  rw [h.ctx?]
  cases s.ctx? c with
  | none => exact h
  | some x =>
    dsimp only
    cases tget x.kv m with
    | none => exact h
    | some k => exact (h.modCtx c _).foldl _ fun y z u hy => hy.ite (hy.mastWrite c m _ _)

theorem Alike.setPage (h : Alike s t) (i m p : Nat) (f : Option Nat) : Alike (s.setPage i m p f) (t.setPage i m p f) := by
  unfold State.setPage
  rw [h.session?]
  cases s.session? i with
  | none => exact h
  | some x =>
    dsimp only
    cases tget x.listPtr m with
    | none => exact h.modSession i _
    | some ptr => exact (h.modSession i _).mastWrite _ _ _ _

theorem Alike.sealAborted (h : Alike s t) (c m u : Nat) : Alike (s.sealAborted c m u) (t.sealAborted c m u) := (h.modMast m _).modMast m _

theorem Alike.dropRef (h : Alike s t) (c m u : Nat) : Alike (s.dropRef c m u) (t.dropRef c m u) := by
  unfold State.dropRef
  rw [h.ctx?]
  cases s.ctx? c with
  | none => exact h
  | some x =>
    dsimp only
    cases tget (x.pool m).frames u with
    | none => exact h
    | some f => exact (h.setPool c m _).ite ((h.setPool c m _).ite (((h.setPool c m _).sealAborted c m u).ite (h.setPool c m _)))

theorem Alike.releasePages (h : Alike s t) (i n : Nat) : Alike (s.releasePages i n) (t.releasePages i n) := by
  unfold State.releasePages
  rw [h.session?]
  cases s.session? i with
  | none => exact h
  | some x => exact h.foldl _ fun y z e hy => hy.foldl _ fun y z q hy => (hy.setPage i _ _ _).dropRef _ _ _

theorem Alike.closeSession (h : Alike s t) (i : Nat) : Alike (s.closeSession i) (t.closeSession i) := by
  have hpages := h.releasePages i 0
  unfold State.closeSession
  dsimp only
  rw [hpages.sess]
  exact hpages.withSess _

theorem Alike.noteSession (h : Alike s t) (c : Nat) (k : ServeCmd) : Alike (s.noteSession c k) (t.noteSession c k) := h.modCtx c _

/-- One page of a session is shared (R159): the page list of the target names its frame, which gains a reference. -/
def State.shareOne (s : State) (c j m : Nat) (q : Nat × Nat) : State :=
  let s := s.setPage j m q.1 (some q.2)
  match s.ctx? c with
  | none => s
  | some x => s.setPool c m { x.pool m with frames := tmod (x.pool m).frames q.2 fun f => { f with refs := f.refs + 1 } }

theorem Alike.shareOne (h : Alike s t) (c j m : Nat) (q : Nat × Nat) : Alike (s.shareOne c j m q) (t.shareOne c j m q) := by
  have hpage := h.setPage j m q.1 (some q.2)
  unfold State.shareOne
  dsimp only
  rw [hpage.ctx?]
  cases (s.setPage j m q.1 (some q.2)).ctx? c with
  | none => exact hpage
  | some x => exact hpage.setPool c m _

theorem sharePages_eq {x : Session} {i : Nat} (hx : s.session? i = some x) (j n : Nat) : s.sharePages i j n =
    (x.pages.foldl (fun (s : State) e => (e.2.filter fun q => decide (q.1 < n)).foldl (fun (s : State) q => s.shareOne x.ctx j e.1 q) s)
      s).modSession j fun y => { y with length := min (256 * n) x.length } := by
  unfold State.sharePages
  rw [hx]
  rfl

theorem Alike.sharePages (h : Alike s t) (i j n : Nat) : Alike (s.sharePages i j n) (t.sharePages i j n) := by
  cases hx : s.session? i with
  | none =>
    have hy : t.session? i = none := by rw [h.session?, hx]
    rw [State.sharePages, State.sharePages, hx, hy]
    exact h
  | some x =>
    rw [sharePages_eq hx, sharePages_eq (by rw [h.session?, hx])]
    exact (h.foldl x.pages fun y z e hy => hy.foldl (e.2.filter fun q => decide (q.1 < n)) fun y z q hy =>
      hy.shareOne x.ctx j e.1 q).modSession j _

theorem Alike.settleDraining (h : Alike s t) (c : Nat) : Alike (s.settleDraining c) (t.settleDraining c) := by
  unfold State.settleDraining
  rw [h.slotsOf]
  refine h.foldl _ fun y z i hy => ?_
  rw [hy.req?, hy.exporting]
  cases y.req? i with
  | none => exact hy
  | some r => exact ((((hy.modReq i _).closeSession _).noteSession c _).ite (hy.modReq i _)).ite hy

theorem Alike.unshipAll (h : Alike s t) (c : Nat) (l : List (Nat × Nat × Nat)) : Alike (s.unshipAll c l) (t.unshipAll c l) := by
  refine h.foldl _ fun y z f hy => ?_
  rw [hy.ctx?]
  cases y.ctx? c with
  | none => exact hy
  | some x => exact hy.setPool _ _ _

/-! ## Exports -/

theorem Alike.shipPage (h : Alike s t) (id p : Nat) : Alike (s.shipPage id p) (t.shipPage id p) := by
  unfold State.shipPage
  rw [h.exports, h.pageParts, h.canShip]
  cases tget s.exports id with
  | none => exact h
  | some e =>
    refine (h.modExport id _).ite ((h.modExport id _).ite (Alike.ite ?_ h))
    refine (h.foldl _ fun y z q hy => ?_).modExport id _
    rw [hy.ctx?]
    cases y.ctx? e.ctx with
    | none => exact hy
    | some x => exact hy.setPool _ _ _

theorem Alike.sendPage (h : Alike s t) (id p : Nat) : Alike (s.sendPage id p) (t.sendPage id p) := by
  unfold State.sendPage
  rw [h.exports, h.ctx?, h.pwr, h.resyncHeader, h.exportLength]
  cases tget s.exports id with
  | none => exact h
  | some e =>
    dsimp only
    cases s.ctx? e.ctx with
    | none => exact h
    | some x =>
      obtain ⟨hstate, hread⟩ := h.readShipments e.ctx (x.shipments e p)
      refine h.ite (((h.emitFab _ _).modExport id _).ite ?_)
      rw [hread]
      cases (s.readShipments e.ctx (x.shipments e p)).2 with
      | none => exact hstate
      | some l =>
        refine (hstate.foldl l fun y z q hy => ?_).modExport id _
        rw [hy.nlc, hy.exportLength]
        exact hy.emitFab _ _

theorem Alike.sendHeader (h : Alike s t) (id : Nat) : Alike (s.sendHeader id) (t.sendHeader id) := by
  unfold State.sendHeader
  rw [h.exports, h.unreleased, h.exportHeader]
  cases tget s.exports id with
  | none => exact h
  | some e =>
    refine h.ite ?_
    dsimp only
    cases s.exportHeader id e with
    | none => exact h.modExport id _
    | some d => exact (h.emitFab _ _).modExport id _

theorem Alike.finishExport (h : Alike s t) (id : Nat) : Alike (s.finishExport id) (t.finishExport id) := by
  unfold State.finishExport
  rw [h.exports]
  cases tget s.exports id with
  | none => exact h
  | some e =>
    exact h.ite ((((h.withExports _).modCtx _ _).ite (h.withExports _)).ite (((h.withExports _).complete _ _).settleDraining _))

theorem Alike.eachPage {f : State → Nat → State} (h : Alike s t) (id st : Nat) (hf : ∀ y z p, Alike y z → Alike (f y p) (f z p)) :
    Alike (s.eachPage id st f) (t.eachPage id st f) := by
  unfold State.eachPage
  rw [h.exports]
  cases tget s.exports id with
  | none => exact h
  | some e => exact h.foldl _ fun y z q hy => hf y z q.1 hy

theorem Alike.driveExport (h : Alike s t) (id : Nat) : Alike (s.driveExport id) (t.driveExport id) := by
  have hheaded := (h.eachPage id 4 (f := fun s p => s.shipPage id p) fun y z p hy => hy.shipPage id p).sendHeader id
  unfold State.driveExport
  dsimp only
  rw [hheaded.exports]
  exact ((hheaded.eachPage id 5 fun y z p hy => hy.sendPage id p).ite hheaded).finishExport id

theorem Alike.sendWaiting (h : Alike s t) (c : Nat) : Alike (s.sendWaiting c) (t.sendWaiting c) := by
  unfold State.sendWaiting
  rw [h.exports]
  exact h.foldl _ fun y z e hy => hy.driveExport e.1

theorem Alike.stopExport (h : Alike s t) (id : Nat) : Alike (s.stopExport id) (t.stopExport id) := by
  unfold State.stopExport
  rw [h.exports]
  cases tget s.exports id with
  | none => exact h
  | some e => exact ((h.unshipAll _ _).modExport id _).finishExport id

theorem Alike.startExport (h : Alike s t) (id : Nat) : Alike (s.startExport id) (t.startExport id) := by
  unfold State.startExport
  rw [h.exports, h.req?, h.session?]
  cases tget s.exports id with
  | none => exact h
  | some e =>
    dsimp only
    cases s.req? e.slot with
    | none => exact (h.withExports _).complete _ _
    | some r =>
      exact ((h.withExports _).complete _ _).ite (((h.withExports _).complete _ _).ite ((h.modExport id _).sendWaiting _))

/-! ## Bundles and mirrors -/

theorem Alike.releaseBundle (h : Alike s t) (c : Nat) (b : Bundle) (d : Bool) : Alike (s.releaseBundle c b d) (t.releaseBundle c b d) := by
  unfold State.releaseBundle
  rw [h.time]
  refine Alike.foldl _ (Alike.foldl _ (h.modCtx c _) fun y z v hy => ?_) fun y z e hy => ?_
  · exact hy.modReq _ _
  · exact hy.modReq _ _

theorem Alike.releaseBundles (h : Alike s t) (c fuel : Nat) : Alike (s.releaseBundles c fuel) (t.releaseBundles c fuel) := by
  induction fuel generalizing s t with
  | zero => exact h.settleDraining c
  | succ fuel ih =>
    unfold State.releaseBundles
    rw [h.ctx?, h.releasable]
    cases s.ctx? c with
    | none => exact h
    | some x =>
      dsimp only
      cases x.held with
      | nil => exact h.settleDraining c
      | cons b bs =>
        refine (h.settleDraining c).ite ?_
        cases s.releasable x b with
        | none => exact h.settleDraining c
        | some d => exact ih (((h.modCtx c _).releaseBundle c b d).sendWaiting c)

theorem Alike.syncCheck (h : Alike s t) (c : Nat) : Alike (s.syncCheck c) (t.syncCheck c) := by
  unfold State.syncCheck
  rw [h.ctx?, h.session?]
  cases s.ctx? c with
  | none => exact h
  | some x => exact ((h.setMirror c _ _).ite h).releaseBundles c _

theorem Alike.copySession (h : Alike s t) (c i : Nat) : Alike (s.copySession c i) (t.copySession c i) := by
  unfold State.copySession
  rw [h.ctx?, h.session?, h.nextExp]
  cases s.ctx? c with
  | none => exact h
  | some x =>
    cases s.session? i with
    | none => exact h
    | some y =>
      dsimp only
      have hnext := h.withNextExp (s.nextExp + 1)
      rw [hnext.resyncHeader]
      have hsent := Alike.ite (p := pagesFor y.length = 0) hnext (hnext.emitFab x.mirror.pkg
        (.exportHeader x.mirror.pkg (({ s with nextExp := s.nextExp + 1 } : State).resyncHeader c s.nextExp i y.length (pagesFor y.length))))
      rw [hsent.exports]
      exact (hsent.withExports _).sendWaiting c

theorem Alike.endCopies (h : Alike s t) (c : Nat) (p : Nat → Bool) : Alike (s.endCopies c p) (t.endCopies c p) := by
  unfold State.endCopies
  rw [h.exports]
  exact h.foldl _ fun y z i hy => hy.stopExport i

/-- The state in which a resync begins: no copy is under way, and the log begins anew (R204). -/
def State.resyncBegun (s : State) (c : Nat) (due : Option Bool) : State :=
  ((s.endCopies c fun _ => true).modCtx c fun x => { x.orphanAll due with
    mirror := { (x.orphanAll due).mirror with lost := false, resync := (s.sess.filter fun e => e.2.ctx == c).map (·.1), lines := 0,
                                              head := 0, applied := 0, backlog := [], sessCmds := [], logged := [],
                                              copyNo := x.mirror.copyNo + 1 } }).setMirror c mResync fun _ => true

/-- The partner is told that the copies begin. -/
def State.resyncTold (s : State) (c : Nat) : State :=
  match s.ctx? c with
  | some x => ({ s with nextExp := s.nextExp + 1 } : State).emitFab x.mirror.pkg
      (.exportHeader x.mirror.pkg (s.resyncHeader c s.nextExp 0x4000 0 0))
  | none => s

theorem startResync_eq (s : State) (c : Nat) (due : Option Bool) : s.startResync c due =
    (((s.sess.filter fun e => e.2.ctx == c).map (·.1)).foldl (fun (s : State) i => s.copySession c i)
      ((s.resyncBegun c due).resyncTold c)).syncCheck c := rfl

theorem Alike.resyncTold (h : Alike s t) (c : Nat) : Alike (s.resyncTold c) (t.resyncTold c) := by
  unfold State.resyncTold
  rw [h.ctx?, h.nextExp, h.resyncHeader]
  cases s.ctx? c with
  | none => exact h
  | some x => exact (h.withNextExp _).emitFab _ _

theorem Alike.startResync (h : Alike s t) (c : Nat) (due : Option Bool) : Alike (s.startResync c due) (t.startResync c due) := by
  have hbegun : Alike (s.resyncBegun c due) (t.resyncBegun c due) := by
    unfold State.resyncBegun
    rw [h.sess]
    exact ((h.endCopies c _).modCtx c _).setMirror c _ _
  rw [startResync_eq, startResync_eq, h.sess]
  exact ((hbegun.resyncTold c).foldl _ fun y z i hy => hy.copySession c i).syncCheck c

theorem Alike.setPartner (h : Alike s t) (c pkg pctx : Nat) (en policy : Bool) :
    Alike (s.setPartner c pkg pctx en policy) (t.setPartner c pkg pctx en policy) := by
  unfold State.setPartner
  rw [h.ctx?]
  cases s.ctx? c with
  | none => exact h
  | some x =>
    have hnamed := h.modCtx c fun x => { x with mirror := x.mirror.named pkg pctx en policy }
    exact (hnamed.startResync c _).ite ((((hnamed.endCopies c _).modCtx c _).setMirror c mNone _).ite hnamed)

/-! ## Recorded commands -/

theorem Alike.oweEntry (h : Alike s t) (c i status stop token : Nat) :
    Alike (s.oweEntry c i status stop token) (t.oweEntry c i status stop token) := by
  unfold State.oweEntry
  rw [h.req?]
  cases s.req? i with
  | none => exact h
  | some r => exact h.modCtx c _

theorem Alike.stopReq (h : Alike s t) (c i flag : Nat) : Alike (s.stopReq c i flag) (t.stopReq c i flag) := by
  unfold State.stopReq
  rw [h.req?]
  cases s.req? i with
  | none => exact h
  | some r => exact (h.modReq i _).oweEntry _ _ _ _ _

theorem Alike.flagOwed (h : Alike s t) (c i flag : Nat) : Alike (s.flagOwed c i flag) (t.flagOwed c i flag) := by
  unfold State.flagOwed
  rw [h.req?]
  exact h.modCtx c _

/-- A new session takes a free id (R179). -/
def State.sessionEnters (s : State) (c i cap : Nat) (ptrs : Tab Nat) : State :=
  let x := newSession c ptrs cap (match s.ctx? c with | some x => if x.mirror.en then mSynced else mNone | none => mNone)
  let s := ptrs.foldl (fun (s : State) e => s.mastWrite c e.1 (e.2 % 2 ^ 48 + 256) (List.replicate (4 * cap) 0xFF#8)) s
  ({ s with sess := tset s.sess i x }).noteSession c (.open_ i cap ptrs)

theorem Alike.sessionEnters (h : Alike s t) (c i cap : Nat) (ptrs : Tab Nat) :
    Alike (s.sessionEnters c i cap ptrs) (t.sessionEnters c i cap ptrs) := by
  have hlists : Alike
      (ptrs.foldl (fun (s : State) e => s.mastWrite c e.1 (e.2 % 2 ^ 48 + 256) (List.replicate (4 * cap) 0xFF#8)) s)
      (ptrs.foldl (fun (s : State) e => s.mastWrite c e.1 (e.2 % 2 ^ 48 + 256) (List.replicate (4 * cap) 0xFF#8)) t) :=
    h.foldl _ fun y z e hy => hy.mastWrite c _ _ _
  unfold State.sessionEnters
  dsimp only
  rw [h.ctx?, hlists.sess]
  exact (hlists.withSess _).noteSession c _

theorem openSession_eq (s : State) (c i cap : Nat) (ptrs : Tab Nat) : s.openSession c i cap ptrs =
    (match s.session? i with | some x => (s.closeSession i).noteSession x.ctx (.close i) | none => s).sessionEnters c i cap ptrs := rfl

theorem Alike.openSession (h : Alike s t) (c i cap : Nat) (ptrs : Tab Nat) : Alike (s.openSession c i cap ptrs) (t.openSession c i cap ptrs) := by
  rw [openSession_eq, openSession_eq, h.session?]
  cases s.session? i with
  | none => exact h.sessionEnters c i cap ptrs
  | some x => exact ((h.closeSession i).noteSession _ _).sessionEnters c i cap ptrs

theorem Alike.applyConfig (h : Alike s t) (c : Nat) (g : ServeConfig) : Alike (s.applyConfig c g) (t.applyConfig c g) := by
  unfold State.applyConfig
  exact (h.modCtx c _).setPartner c _ _ _ _

theorem Alike.submitReq (h : Alike s t) (i : Nat) (e : Request) : Alike (s.submitReq i e) (t.submitReq i e) := by
  unfold State.submitReq
  rw [h.req?, h.session?, h.reqs]
  exact h.withReqs _

/-- The global list of a session is written on every mast (R181). -/
def State.globalsWritten (s : State) (c : Nat) (ptrs : Tab Nat) (b : Bytes) : State :=
  ptrs.foldl (fun (s : State) (e : Nat × Nat) => s.mastWrite c e.1 (e.2 % 2 ^ 48) b) s

theorem Alike.globalsWritten (h : Alike s t) (c : Nat) (ptrs : Tab Nat) (b : Bytes) :
    Alike (s.globalsWritten c ptrs b) (t.globalsWritten c ptrs b) := h.foldl _ fun _ _ _ hy => hy.mastWrite c _ _ _

theorem Alike.applyCmd (h : Alike s t) (c : Nat) (k : ServeCmd) : Alike (s.applyCmd c k) (t.applyCmd c k) := by
  cases k with
  | submit i e => exact h.submitReq i e
  | cancel i =>
    unfold State.applyCmd
    rw [h.ownReq]
    dsimp only
    cases s.ownReq c i with
    | none => exact h
    | some r => exact (h.stopReq c i 3).ite (((h.modReq i _).flagOwed c i 3).ite h)
  | park i =>
    unfold State.applyCmd
    rw [h.ownReq]
    dsimp only
    cases s.ownReq c i with
    | none => exact h
    | some r => exact (h.modReq i _).ite h
  | resume i =>
    unfold State.applyCmd
    rw [h.ownReq, h.exporting]
    dsimp only
    cases s.ownReq c i with
    | none => exact h
    | some r => exact ((h.modReq i _).ite (h.modReq i _)).ite h
  | release i =>
    unfold State.applyCmd
    rw [h.ownReq, h.reqs]
    exact (h.withReqs _).ite h
  | open_ i cap ptrs => exact h.openSession c i cap ptrs
  | close i =>
    unfold State.applyCmd
    rw [h.ownSess]
    exact (((h.closeSession i).noteSession c _).sendWaiting c).ite h
  | share a b n =>
    unfold State.applyCmd
    rw [h.ownSess]
    exact ((h.sharePages a b n).noteSession c _).ite h
  | truncate i n =>
    unfold State.applyCmd
    rw [h.ownSess]
    exact h.ite ((((h.releasePages i _).modSession i _).noteSession c _).sendWaiting c)
  | globals i ps =>
    unfold State.applyCmd
    rw [h.ownSess]
    dsimp only
    cases s.ownSess c i with
    | none => exact h
    | some x =>
      have hlists := h.globalsWritten c x.listPtr (ps.flatMap fun p => natLe 4 p)
      exact (hlists.modSession i fun y => { y with globals := ps }).noteSession c (.globals i ps)
  | exportStart id => exact h.startExport id
  | mirrorSet pkg pctx policy => exact h.setPartner c pkg pctx true policy
  | config g => exact h.applyConfig c g

/-- The projected state is alike from states that are. -/
theorem Alike.projectedAll (h : Alike s t) : Alike s.projectedAll t.projectedAll := by
  unfold State.projectedAll
  rw [h.ctxs]
  exact (h.withCtxs _).foldl _ fun y z k hy => hy.applyCmd k.2.1 k.2.2

end

end Sys2Proof.Machine
end

section
/-! SESSION_QUERY, KV_EXPORT and MIRROR_PROMOTE (R181, R195, R205, R277). -/
namespace Sys2Proof.Machine

section
variable {c : Nat} {s : State} {x : Ctx} {r : Req}

/-- A request that is heard finds the projected state that stood before it. -/
theorem heard_alike (s : State) (r : Req) : Alike s (s.heard r) :=
  .of_agree ((heard_agree s r).mono (by decide)) (congrArg Faults.repair (heard_flt s r))

theorem noCtx_heard (r : Req) (s : State) : noCtx (s.heard r) r = noCtx s r :=
  heard_reads (f := fun s => noCtx s r) s r fun _ _ _ _ => rfl

theorem ctxStateCheck_heard (r : Req) (s : State) : ctxStateCheck (s.heard r) r = ctxStateCheck s r :=
  heard_reads (f := fun s => ctxStateCheck s r) s r fun _ _ _ _ => rfl

theorem ownSess_heard (r : Req) (s : State) : (s.heard r).ownSess = s.ownSess := (heard_alike s r).ownSess

theorem sessionQueryChecks_heard (r : Req) (s : State) : sessionQueryChecks r (s.heard r) = sessionQueryChecks r s := by
  have hprojected := (heard_alike s r).projectedAll.session?
  unfold sessionQueryChecks otherSession noSession
  rw [noCtx_heard, ctxStateCheck_heard, hprojected]

/-- Where a context has met no error, none is raised. -/
theorem raiseMet_none (hx : s.ctx? c = some x) (hmet : x.met = []) : s.raiseMet c = s.modCtx c fun x => { x with met := [] } := by
  unfold State.raiseMet
  rw [hx]
  dsimp only
  rw [hmet]
  rfl

/-- A context at no boundary leaves the exports as they are. -/
theorem idle_midStep_exports (hx : s.ctx? c = some x) (hmid : x.midStep) :
    (s.idle c).exports = s.exports ∧ (s.idle c).nextExp = s.nextExp := by
  obtain ⟨hmet, hstep⟩ := hmid
  have hrests : (runsState x.state && x.step.isNone) = false := by
    cases hruns : runsState x.state with
    | false => rfl
    | true => simpa using hstep hruns
  unfold State.idle
  rw [hx]
  dsimp only
  rw [hrests, if_neg Bool.false_ne_true]
  split
  · have hagree : Agree [.masts, .ctxs] s (s.reevalAll false) := State.reevalAll_agree (by decide) (Agree.refl _ s)
    have hthere : CtxGets c (fun y => y.met = []) s := ⟨x, hx, hmet⟩
    obtain ⟨y, hy, hnone⟩ := hthere.reevalAll (fun _ _ _ h => h) false
    rw [raiseMet_none hy hnone]
    exact ⟨hagree.part .exports (by decide), hagree.part .nextExp (by decide)⟩
  · rw [raiseMet_none hx hmet]
    exact ⟨rfl, rfl⟩

end

/-- Settles O10: the query answers what stands, exports are recorded, and a holder promotes. -/
theorem servingQueriesAndCopiesComplete : Obligations.ServingQueriesAndCopiesComplete := by
  refine ⟨fun r s x h hchecks hx => ?_, fun r s x h hchecks hx => ?_, fun r s h hrsv hctx hstate hholder => ?_⟩
  · have hact : sessionQueryCmd.act r (s.heard r) = (s.heard r, done1 x.shown.image) := by
      refine (guardAct_passes ((congrArg firstErr (sessionQueryChecks_heard r s)).trans hchecks)).trans ?_
      rw [ownSess_heard, hx]
    obtain ⟨t, ht, -, -, hanswered⟩ := h.acts (i := .sessionQuery r) rfl (fun _ => sessionQueryCmd_agree (by decide)) rfl hact
    exact ⟨t, ht, hanswered⟩
  · intro e u
    have hacts : ActsThen kvExportCmd (.kvExport r) r s
        ((u.owe 0x0520 r (.exported s.nextExp)).record r.ctx.toNat (.exportStart s.nextExp)) (ans stAccepted)
        (fun y => y.idle r.ctx.toNat) := by
      refine h.actsThen rfl (fun _ => kvExportCmd_agree (by decide)) rfl ((guardAct_passes hchecks).trans ?_)
      rw [(heard_alike s r).nextExp, (heard_alike s r).exports]
    refine ⟨hacts, fun hmid => hacts.runs fun y hsame _ _ => ?_⟩
    have hthere : y.ctx? r.ctx.toNat = some { x with recorded := recordAt (s.st.arrivals + 1) (.exportStart s.nextExp) x.recorded } := by
      have hcurrent : (u.owe 0x0520 r (.exported s.nextExp)).st.current = s.st.arrivals + 1 := heard_current s r
      have hctx : (u.owe 0x0520 r (.exported s.nextExp)).ctx? r.ctx.toNat = some x := (heard_ctx? s r _).trans hx
      rw [hsame.ctx? (by decide), State.record, modCtx_ctx?_self, hctx, hcurrent]
      rfl
    obtain ⟨hexports, hnext⟩ := idle_midStep_exports hthere hmid
    obtain ⟨z, hz, hrecorded, -⟩ := idle_midStep hthere hmid
    refine ⟨hnext.trans (hsame.part .nextExp (by decide)), ?_, z, hz, hrecorded⟩
    have hentered : (y.idle r.ctx.toNat).exports = tset s.exports s.nextExp e := hexports.trans (hsame.part .exports (by decide))
    exact (congrArg (tget · s.nextExp) hentered).trans (tget_tset_self _ _ _)
  · refine h.actsThen rfl (fun _ => mirrorPromoteCmd_agree (by decide)) rfl (guardAct_passes (firstErr_none ?_))
    simp [noCtx_heard, ctxStateCheck_heard, hrsv, hctx, hstate, hholder]

end Sys2Proof.Machine
end
